-- ==== Sys2Proof/Word.lean ====
section
/-! DEFINITION. Word types and the plain data shapes the whole model is written over: 64-bit words and bytes
(spec/00_scope.md R1), sparse maps in one canonical form, and the flit (spec/08_fabric.md R148). -/

namespace Sys2Proof

/-- A 64-bit word: an x register, a system register, an instruction word (R1, R120). -/
abbrev Word := BitVec 64

/-- A byte of memory. -/
abbrev Byte := BitVec 8

/-- A sparse map from numbers to values: strictly rising keys, a key that is not listed holds the default. -/
abbrev FMap (α : Type) := List (Nat × α)

/-- A flit: 128 bytes of payload and a 64-bit sideband (R148); and the GEN of the handle it was injected under, which
its target compares (R119, R390) and for which a MSG flit has no other place (log entry 12). -/
structure Flit where
  payload : BitVec 1024
  side : BitVec 64
  gen : BitVec 12 := 0
  xy : Bool := false
  deriving DecidableEq, Repr

/-- A signed number of n bits, read from a natural number's low bits (sext of R7). -/
def sextNat (v n : Nat) : Int := (BitVec.ofNat n v).toInt

/-- The first argument when the condition holds, and nothing otherwise. -/
def guardOpt (b : Bool) {α : Type} (a : α) : Option α := if b then some a else none

end Sys2Proof
end

