-- ==== Sys2Proof/Syntax.lean ====
section
/-! DEFINITION. The instructions and events of spec/opcode_table.json, one constructor per row. A core instruction
carries the common header of R271 and the fields its entry uses, already decoded into named codes; an event names the
unit it happens at and what comes from outside the device. -/

namespace Sys2Proof

/-- The common header of R271, beside the opcode: lookahead, guard register and guard negate. -/
structure Hdr where
  la : BitVec 4
  g : BitVec 3
  gn : Bool
  deriving DecidableEq, Repr

/-- The header of an instruction with no lookahead and no guard. -/
def Hdr.plain : Hdr := ⟨0, 0, false⟩

/-- A 6-bit register field (R273). -/
abbrev Reg := BitVec 6
/-- A vector register number 0 to 31. -/
abbrev VReg := BitVec 5
/-- A mask register number 0 to 7. -/
abbrev FReg := BitVec 3

/-- The conditions of CMP, CMPI, BRC and GBR (R280, R292). -/
inductive Cond where
  | eq | ne | lt | ge | ltu | geu
  deriving DecidableEq, Repr

/-- The type codes of R277, in code order. -/
inductive Ty where
  | i64 | i32 | i16 | i8 | n64 | n32 | n16 | n8 | f64 | f32 | f16 | bf16 | e4m3 | e5m2 | e2m1 | nb
  deriving DecidableEq, Repr

/-- The rounding codes of R180. -/
inductive RM where
  | rne | rtz | rup | rdn
  deriving DecidableEq, Repr

/-- The scope codes of R278. -/
inductive Scope where
  | lane | core | quad | field | wafer | pod
  deriving DecidableEq, Repr

/-- The plane codes of R278: two, four or eight planes. -/
inductive Planes where
  | p2 | p4 | p8
  deriving DecidableEq, Repr

/-- The access sizes of LD (R278), in code order. -/
inductive MemSize where
  | n8 | n16 | n32 | i64 | i8 | i16 | i32
  deriving DecidableEq, Repr

/-- The store sizes of ST, HST and HADD: codes 0 to 3 of R278. -/
inductive StSize where
  | b1 | b2 | b4 | b8
  deriving DecidableEq, Repr

/-- BRF: any, all or none of the lanes of a mask (R280). -/
inductive MaskTest where
  | any | all | none
  deriving DecidableEq, Repr

/-- SHI and VSHIFT functions (R280). -/
inductive ShiftOp where
  | shl | shr | sar | rotr
  deriving DecidableEq, Repr

/-- MOV forms by register files (R310). -/
inductive MovForm where
  | xx | fx | xf | ff | xlc | lcx
  deriving DecidableEq, Repr

/-- AMO functions (R280). -/
inductive AmoOp where
  | add | and | or | xor | swap | min | max | minu | maxu
  deriving DecidableEq, Repr

/-- FCMP functions (R280). -/
inductive FCmpOp where
  | eq | lt | le | un
  deriving DecidableEq, Repr

/-- VABSNEG functions (R280). -/
inductive AbsNegOp where
  | abs | neg | nabs
  deriving DecidableEq, Repr

/-- VLOGIC functions (R280). -/
inductive LogicOp where
  | and | or | xor | andn | not
  deriving DecidableEq, Repr

/-- VBITS functions (R280). -/
inductive BitsOp where
  | clz | ctz | popc | brev
  deriving DecidableEq, Repr

/-- VCMP functions (R280). -/
inductive VCmpOp where
  | eq | ne | lt | le | gt | ge | un
  deriving DecidableEq, Repr

/-- VRED functions (R280). -/
inductive RedOp where
  | add | min | max | and | or | xor
  deriving DecidableEq, Repr

/-- VSCAN functions (R280). -/
inductive ScanOp where
  | add | min | max
  deriving DecidableEq, Repr

/-- VMASK functions (R350). -/
inductive MaskOp where
  | and | or | xor | andn | not | popc | first
  deriving DecidableEq, Repr

/-- Group sizes of block conversion: 32, 64 or 128 elements (R357). -/
inductive GroupSize where
  | g32 | g64 | g128
  deriving DecidableEq, Repr

/-- RADD operations (R214). -/
inductive RaddOp where
  | addI32 | addI64 | addF32 | maxI32 | minI32 | addSum
  deriving DecidableEq, Repr

/-- RAMO operations (R214). -/
inductive RamoOp where
  | add | swap | cas
  deriving DecidableEq, Repr

/-- HMOV sources (R411). -/
inductive BurstCoord where
  | bix | bxc | byc | bcnt
  deriving DecidableEq, Repr

/-- Lane mask and zeroing bits of format A (R274). -/
structure Mask where
  k : FReg
  z : Bool
  deriving DecidableEq, Repr

/-- The address fields of format M (R272, R275). -/
structure MemOp where
  base : Reg
  index : Reg
  scale : BitVec 3
  disp : BitVec 24
  deriving DecidableEq, Repr

/-- The registers and class of an engine operation (format E, R398). -/
structure EngOp where
  xs : Reg
  xa : Reg
  xd : Reg
  xx : Reg
  cls : BitVec 5
  handle : Reg
  deriving DecidableEq, Repr

/-- The fate of a word that is no instruction (R281, orders 1 to 3). -/
inductive Fate where
  | illegal | reserved
  deriving DecidableEq, Repr

/-- The two host ports (R29). -/
inductive HostPort where
  | p0 | p1
  deriving DecidableEq, Repr

/-- Who reads a hardware semaphore in one cycle (R47). -/
inductive HsemReader where
  | one (p : HostPort) | both
  deriving DecidableEq, Repr

/-- Where a plain register write arrives: a host port's BAR0 or BAR2, its MSI-X masks, or the I3C management port (R43, R45,
R54, R69). -/
inductive RegSpace where
  | bar0 (p : HostPort) | bar2 (p : HostPort) | msix (p : HostPort) | i3c
  deriving DecidableEq, Repr

/-- The five ports of a router (R153). -/
inductive Dir where
  | n | e | s | w | l
  deriving DecidableEq, Repr

/-- Units attached at the edge (R151). -/
inductive Attach where
  | larder (n : Nat) | cmd | poluri (n : Nat)
  deriving DecidableEq, Repr

/-- The parts of a flit's hop: a grant of one output of a router, the crossing of a link from an output to the next
router or attachment, and the entry of an attachment's flit into the edge router (R151, R155, R157). -/
inductive Hop where
  | grant (prow pcol : Nat) (out : Dir)
  | link (prow pcol : Nat) (out : Dir) (cls : BitVec 5)
  | enter (a : Attach) (cls : BitVec 5)
  deriving DecidableEq, Repr

/-- The devices that enumeration finds at an attic port (R25): one single-logical-device Type 3 expander, or another kind. -/
inductive AtticDevice where
  | expander | type1 | type2 | switch | multiLogical
  deriving DecidableEq, Repr

/-- What enumeration finds at an attic port: the device, its capacity in bytes, whether the link trained to at least x8 at
32 GT/s, and the sectors whose reads come back poisoned (R25, R27). -/
structure AtticFind where
  port : Nat
  capacity : Nat
  device : AtticDevice := .expander
  linkOk : Bool := true
  poison : List Nat := []
  deriving DecidableEq, Repr

/-- What device reset finds outside the device: what is attached to the attic ports, the host links that are up, and the cores
and routers that fail self-test (R25, R49, R108). -/
structure BootEnv where
  expanders : List AtticFind
  up0 : Bool
  up1 : Bool
  failedCores : List (Nat × Nat)
  failedRouters : List (Nat × Nat)
  deriving DecidableEq, Repr

/-- A queue entry's key: the queue's index and the entry's sequence number (R65). -/
structure EntryKey where
  queue : Nat
  seq : Nat
  deriving DecidableEq, Repr

/-- The instructions and events of the part, one constructor per row of the opcode table. -/
inductive Instr where
  -- control (13)
  | nop
  | undefinedInstruction (w : Word) (f : Fate)
  | br (h : Hdr) (off : BitVec 32)
  | brc (h : Hdr) (cc : Cond) (a b : Reg) (off : BitVec 32)
  | brf (h : Hdr) (t : MaskTest) (f : FReg) (off : BitVec 32)
  | gbr (h : Hdr) (all : Bool) (cc : Cond) (a b : Reg) (off : BitVec 32)
  | call (h : Hdr) (off : BitVec 32)
  | jmp (h : Hdr) (a : Reg)
  | ret (h : Hdr)
  | loop (h : Hdr) (lc : Bool) (a : Reg) (off : BitVec 32)
  | trap (h : Hdr) (imm : BitVec 32)
  | brk (h : Hdr) (imm : BitVec 5)
  | tend (h : Hdr)
  | tyield (h : Hdr)
  | twait (h : Hdr)
  | gang (h : Hdr) (block : Bool)
  | split (h : Hdr)
  -- integer (13)
  | add (h : Hdr) (ty : Ty) (d a b : Reg)
  | sub (h : Hdr) (ty : Ty) (d a b : Reg)
  | mul (h : Hdr) (ty : Ty) (d a b : Reg)
  | mulh (h : Hdr) (ty : Ty) (d a b : Reg)
  | div (h : Hdr) (ty : Ty) (d a b : Reg)
  | rem (h : Hdr) (ty : Ty) (d a b : Reg)
  | and (h : Hdr) (d a b : Reg)
  | or (h : Hdr) (d a b : Reg)
  | xor (h : Hdr) (d a b : Reg)
  | andn (h : Hdr) (d a b : Reg)
  | shl (h : Hdr) (ty : Ty) (d a b : Reg)
  | shr (h : Hdr) (ty : Ty) (d a b : Reg)
  | sar (h : Hdr) (ty : Ty) (d a b : Reg)
  | rotr (h : Hdr) (ty : Ty) (d a b : Reg)
  | clz (h : Hdr) (ty : Ty) (d a : Reg)
  | ctz (h : Hdr) (ty : Ty) (d a : Reg)
  | popc (h : Hdr) (ty : Ty) (d a : Reg)
  | brev (h : Hdr) (ty : Ty) (d a : Reg)
  | bswap (h : Hdr) (ty : Ty) (d a : Reg)
  | min (h : Hdr) (d a b : Reg)
  | max (h : Hdr) (d a b : Reg)
  | minu (h : Hdr) (d a b : Reg)
  | maxu (h : Hdr) (d a b : Reg)
  | addi (h : Hdr) (d a : Reg) (imm : BitVec 32)
  | andi (h : Hdr) (d a : Reg) (imm : BitVec 32)
  | ori (h : Hdr) (d a : Reg) (imm : BitVec 32)
  | xori (h : Hdr) (d a : Reg) (imm : BitVec 32)
  | shi (h : Hdr) (op : ShiftOp) (d a : Reg) (n : BitVec 6)
  | cmpi (h : Hdr) (cc : Cond) (d a : Reg) (imm : BitVec 32)
  | li (h : Hdr) (d : Reg) (imm : BitVec 32)
  | liHi (h : Hdr) (d : Reg) (imm : BitVec 32)
  | cmp (h : Hdr) (cc : Cond) (toF : Bool) (d a b : Reg)
  | sel (h : Hdr) (d a b c : Reg)
  | mov (h : Hdr) (form : MovForm) (d a : Reg)
  | ext (h : Hdr) (signed : Bool) (d a : Reg) (pos len1 : BitVec 6)
  | ins (h : Hdr) (d a : Reg) (pos len1 : BitVec 6)
  -- scalar floating point (13)
  | fadd (h : Hdr) (ty : Ty) (d a b : Reg) (rm : RM)
  | fsub (h : Hdr) (ty : Ty) (d a b : Reg) (rm : RM)
  | fmul (h : Hdr) (ty : Ty) (d a b : Reg) (rm : RM)
  | fdiv (h : Hdr) (ty : Ty) (d a b : Reg) (rm : RM)
  | fsqrt (h : Hdr) (ty : Ty) (d a : Reg) (rm : RM)
  | fmin (h : Hdr) (ty : Ty) (d a b : Reg)
  | fmax (h : Hdr) (ty : Ty) (d a b : Reg)
  | ffma (h : Hdr) (ty : Ty) (d a b c : Reg) (rm : RM)
  | fcvt (h : Hdr) (dst src : Ty) (d a : Reg) (rm : RM) (sat : Bool)
  | fcmp (h : Hdr) (op : FCmpOp) (ty : Ty) (toF : Bool) (d a b : Reg)
  -- local memory, atomics, segments, system (13)
  | ld (h : Hdr) (sz : MemSize) (d : Reg) (m : MemOp)
  | st (h : Hdr) (sz : StSize) (d : Reg) (m : MemOp)
  | ldp (h : Hdr) (d : Reg) (m : MemOp)
  | stp (h : Hdr) (d : Reg) (m : MemOp)
  | amo (h : Hdr) (op : AmoOp) (ty : Ty) (d a b : Reg)
  | cas (h : Hdr) (ty : Ty) (d a e n : Reg)
  | seg (h : Hdr) (n : BitVec 3) (base : BitVec 7) (size : BitVec 8) (span : BitVec 3)
  | segOff (h : Hdr) (n : BitVec 3)
  | rdsys (h : Hdr) (d : Reg) (sys : BitVec 12)
  | wrsys (h : Hdr) (a : Reg) (sys : BitVec 12)
  | rett (h : Hdr)
  | sleep (h : Hdr) (a : Reg)
  | capnar (h : Hdr) (d a b : Reg)
  -- vector (14)
  | vadd (h : Hdr) (ty : Ty) (d a b : VReg) (rm : RM) (sat : Bool) (m : Mask)
  | vsub (h : Hdr) (ty : Ty) (d a b : VReg) (rm : RM) (sat : Bool) (m : Mask)
  | vmul (h : Hdr) (ty : Ty) (d a b : VReg) (rm : RM) (sat : Bool) (m : Mask)
  | vfma (h : Hdr) (ty : Ty) (d a b c : VReg) (rm : RM) (m : Mask)
  | vminmax (h : Hdr) (isMax : Bool) (ty : Ty) (d a b : VReg) (m : Mask)
  | vabsneg (h : Hdr) (op : AbsNegOp) (ty : Ty) (d a : VReg) (sat : Bool) (m : Mask)
  | vdiv (h : Hdr) (ty : Ty) (d a b : VReg) (rm : RM) (m : Mask)
  | vsqrt (h : Hdr) (ty : Ty) (d a : VReg) (rm : RM) (m : Mask)
  | vrcp (h : Hdr) (ty : Ty) (d a : VReg) (rm : RM) (m : Mask)
  | vexp2 (h : Hdr) (d a : VReg) (rm : RM) (m : Mask)
  | vlogic (h : Hdr) (op : LogicOp) (ty : Ty) (d a b : VReg) (m : Mask)
  | vshift (h : Hdr) (op : ShiftOp) (ty : Ty) (d a b : VReg) (m : Mask)
  | vbits (h : Hdr) (op : BitsOp) (ty : Ty) (d a : VReg) (m : Mask)
  | vclass (h : Hdr) (ty : Ty) (d a : VReg) (m : Mask)
  | vcmp (h : Hdr) (op : VCmpOp) (ty : Ty) (d : FReg) (a b : VReg) (m : Mask)
  | vsel (h : Hdr) (ty : Ty) (d a b : VReg) (c : FReg) (m : Mask)
  | vcvt (h : Hdr) (dst src : Ty) (d a : VReg) (slice : BitVec 4) (rm : RM) (sat : Bool) (m : Mask)
  | vred (h : Hdr) (op : RedOp) (ty : Ty) (d : Reg) (a : VReg) (rm : RM) (k : FReg)
  | vscan (h : Hdr) (op : ScanOp) (ty : Ty) (d a : VReg) (rm : RM) (m : Mask)
  | vld (h : Hdr) (d : VReg) (m : MemOp)
  | vst (h : Hdr) (d : VReg) (m : MemOp)
  | vlds (h : Hdr) (ty : Ty) (d : VReg) (base stride : Reg) (m : Mask)
  | vsts (h : Hdr) (ty : Ty) (d : VReg) (base stride : Reg) (m : Mask)
  | vgath (h : Hdr) (ty : Ty) (d : VReg) (base : Reg) (off : VReg) (scale : BitVec 2) (m : Mask)
  | vscat (h : Hdr) (ty : Ty) (d : VReg) (base : Reg) (off : VReg) (scale : BitVec 2) (m : Mask)
  | vbcast (h : Hdr) (ty : Ty) (d : VReg) (a : Reg) (m : Mask)
  | vextr (h : Hdr) (ty : Ty) (d : Reg) (a : VReg) (k : BitVec 5)
  | vinsr (h : Hdr) (ty : Ty) (d : VReg) (a : Reg) (k : BitVec 5)
  | vperm (h : Hdr) (ty : Ty) (d a b : VReg) (m : Mask)
  | vshuf (h : Hdr) (ty : Ty) (d a b c : VReg) (m : Mask)
  | vslide (h : Hdr) (ty : Ty) (d a b : VReg) (k : BitVec 5) (m : Mask)
  | vmov (h : Hdr) (ty : Ty) (d a : VReg) (m : Mask)
  | viota (h : Hdr) (ty : Ty) (d : VReg) (a b : Reg) (m : Mask)
  | vmask (h : Hdr) (op : MaskOp) (d : Reg) (a b : FReg)
  | vdot (h : Hdr) (e5 : Bool) (d a b : VReg) (m : Mask)
  | vdoti (h : Hdr) (uns sat : Bool) (d a b c : VReg) (m : Mask)
  | dmma (h : Hdr) (d a b c : VReg) (rm : RM)
  | vrng (h : Hdr) (d : VReg) (k : Reg) (c : VReg)
  -- block and tensor (15)
  | bcvt (h : Hdr) (src : Ty) (g : GroupSize) (tab : Bool) (d a : VReg) (x : Reg)
  | bexp (h : Hdr) (src : Ty) (g : GroupSize) (d : Reg) (a : VReg)
  | bunp (h : Hdr) (p : Planes) (d a : VReg)
  | bsat (h : Hdr) (p : Planes) (d a : VReg)
  | bstat (h : Hdr)
  | bnorm (h : Hdr) (d a : VReg) (x : Reg) (m : Mask)
  | balign (h : Hdr) (d a : VReg) (x : Reg)
  | bchk (h : Hdr) (a b : Reg)
  | tclm (h : Hdr) (t : BitVec 3)
  | trel (h : Hdr) (t : BitVec 3)
  | tld (h : Hdr) (t : BitVec 3) (p : Planes) (xa xb : Reg) (fmt : Ty) (tr tab chk : Bool)
  | tmma (h : Hdr) (a : BitVec 2) (ta tb : BitVec 3)
  | tmmi (h : Hdr) (sat : Bool) (a : BitVec 2) (ta tb : BitVec 3)
  | tzero (h : Hdr) (a : BitVec 2)
  | trdRaw (h : Hdr) (a : BitVec 2) (row : BitVec 4) (d : VReg) (x : Reg)
  | trdI32 (h : Hdr) (a : BitVec 2) (row : BitVec 4) (d : VReg)
  | twrRaw (h : Hdr) (a : BitVec 2) (row : BitVec 4) (d : VReg)
  | twrI32 (h : Hdr) (a : BitVec 2) (row : BitVec 4) (d : VReg)
  | twrExp (h : Hdr) (a : BitVec 2) (x : Reg)
  | tsh (h : Hdr) (a : BitVec 2) (n : BitVec 6)
  | tshTo (h : Hdr) (a : BitVec 2) (x : Reg)
  | tstatSlots (h : Hdr) (x : Reg)
  | tstatExp (h : Hdr) (a : BitVec 2) (x : Reg)
  | tstatRed (h : Hdr) (x : Reg) (q : BitVec 4)
  | tcvt (h : Hdr) (a : BitVec 2) (row : BitVec 4) (xt : Reg) (d : VReg) (rm : RM)
  | tsend (h : Hdr) (a : BitVec 2) (row q : BitVec 4)
  | tsendOpen (h : Hdr) (q : BitVec 4) (depth : BitVec 8)
  | trecv (h : Hdr) (d : VReg) (x : Reg) (q : BitVec 4)
  -- queues, tasks and routing (16)
  | qbindIn (h : Hdr) (q : BitVec 4) (cls : BitVec 5)
  | qbindOut (h : Hdr) (q : BitVec 4) (cls : BitVec 5) (a hd : Reg)
  | qbindPantry (h : Hdr) (q : BitVec 4) (p : BitVec 3)
  | qbindLarder (h : Hdr) (q : BitVec 4) (a : Reg)
  | qbindCap (h : Hdr) (q : BitVec 4) (a : Reg)
  | qfree (h : Hdr) (q : BitVec 4)
  | pop (h : Hdr) (d : Reg) (q : BitVec 4) (k : BitVec 4)
  | vpop (h : Hdr) (d : VReg) (q : BitVec 4)
  | qpeek (h : Hdr) (d : Reg) (q : BitVec 4) (k : BitVec 5)
  | push (h : Hdr) (q : BitVec 4) (a : Reg)
  | vpush (h : Hdr) (q : BitVec 4) (a : VReg)
  | mopen (h : Hdr) (q : BitVec 4) (n1 : BitVec 5)
  | mclose (h : Hdr) (q : BitVec 4)
  | qstat (h : Hdr) (d : Reg) (q : BitVec 4)
  | clset (h : Hdr) (cls : BitVec 5) (a : Reg)
  | clget (h : Hdr) (d : Reg) (cls : BitVec 5)
  | tbind (h : Hdr) (k : BitVec 5) (a : Reg)
  | tunb (h : Hdr) (k : BitVec 5)
  | cellar (h : Hdr) (m : BitVec 5) (a : Reg)
  -- engine operations (16, 11)
  | put (h : Hdr) (o : EngOp)
  | puts (h : Hdr) (o : EngOp) (inc : Reg)
  | get (h : Hdr) (o : EngOp)
  | radd (h : Hdr) (op : RaddOp) (o : EngOp)
  | ramo (h : Hdr) (op : RamoOp) (o : EngOp) (cmp : Reg)
  | dfadd (h : Hdr) (o : EngOp)
  | bread (h : Hdr) (xs xa xd xx : Reg) (ev : BitVec 5) (he : BitVec 16)
  | awrite (h : Hdr) (o : EngOp)
  | aread (h : Hdr) (o : EngOp)
  -- waits, fences, barriers and events (16)
  | waits (h : Hdr) (a b : Reg)
  | fence (h : Hdr) (sc : Scope)
  | bar (h : Hdr) (id : BitVec 3) (sc : Scope)
  | bara (h : Hdr) (id : BitVec 3) (sc : Scope)
  | barw (h : Hdr) (id : BitVec 3) (sc : Scope)
  | evset (h : Hdr) (k : BitVec 5)
  | evsetM (h : Hdr) (a : Reg)
  | evclr (h : Hdr) (k : BitVec 5)
  | evclrM (h : Hdr) (a : Reg)
  | evrd (h : Hdr) (d : Reg)
  -- handlers, pantries and larder control (16)
  | hend (h : Hdr)
  | hmov (h : Hdr) (d : Reg) (src : BurstCoord)
  | hst (h : Hdr) (sz : StSize) (m : MemOp)
  | hadd (h : Hdr) (sz : StSize) (fp : Bool) (d : VReg) (m : MemOp)
  | pwait (h : Hdr) (p : BitVec 3) (a : Reg)
  | prel (h : Hdr) (p : BitVec 3) (a : Reg)
  | pcur (h : Hdr) (d : Reg) (p : BitVec 3) (a : Reg)
  | pset (h : Hdr) (p : BitVec 3) (a : Reg)
  | lsub (h : Hdr) (xs xa : Reg) (q : BitVec 4)
  | lctlStart (h : Hdr) (a v : Reg)
  | lctlRing (h : Hdr) (a v : Reg)
  | lctlStop (h : Hdr) (a : Reg)
  | lctlCsig (h : Hdr) (a : Reg)
  -- boot, registers and the host (03, 04)
  | deviceReset (env : BootEnv)
  | patchwaitTimeout
  | bootgoWrite (p : HostPort) (v : Word)
  | registerWrite (sp : RegSpace) (off size : Nat) (v : Word)
  | eventWrite (p : HostPort) (v : Word)
  | evmaskWrite (p : HostPort) (v : Word)
  | hsemRead (who : HsemReader) (n : BitVec 4)
  | hsemWrite (p : HostPort) (n : BitVec 4) (v : Word)
  | notifyWrite (p : HostPort) (slot : BitVec 6) (v : Word)
  | qtbaseWrite (v : Word)
  | qtlenWrite (v : Word)
  | hostLinkDown (p : HostPort)
  | hostLinkUp (p : HostPort)
  | hostPortReset (p : HostPort)
  | wstopAssert
  | wstopRelease
  | wstatRead
  | idataRead
  | idataWrite (v : Word)
  | idataHalt
  | idataResume
  | faddrWrite (v : Word)
  | fdataRead
  | fdataWrite (v : Word)
  | fcmdErasecfg
  | fstatRead
  | flashBusyEnd
  | powerLimit
  | powerTrip
  -- queues, commands and launches (04, 05)
  | queueScan
  | queueIdleUnmap (slot : BitVec 6)
  | entryFetch (slot : BitVec 6)
  | queueEntryCompletion (k : EntryKey)
  | launch (k : EntryKey)
  | coll (k : EntryKey)
  | waitq (k : EntryKey)
  | waitqComplete (k : EntryKey)
  | signal (k : EntryKey)
  | acopy (k : EntryKey)
  | amapSetroot (k : EntryKey)
  | amapMap (k : EntryKey)
  | amapUnmap (k : EntryKey)
  | amapDrop (k : EntryKey)
  | lresume (k : EntryKey)
  | preempt (k : EntryKey)
  | queryCerts (k : EntryKey)
  | queryAttest (k : EntryKey)
  | querySavesize (k : EntryKey)
  | dump (k : EntryKey)
  | imageLoad (k : EntryKey)
  | imageDrop (k : EntryKey)
  | regionGrant (k : EntryKey)
  | launchLoadComplete (num : Nat)
  | quiescenceSweep (num : Nat)
  | saveComplete (num : Nat)
  | preemptBoundExpiry (num : Nat)
  | forecastUpdate
  -- failures (05, 06)
  | sramUe (prow pcol : Nat)
  | sramCorrected (prow pcol : Nat) (addr : BitVec 19)
  | routerFailure (prow pcol : Nat)
  | meshHopError (prow pcol : Nat) (out : Dir) (cls : BitVec 5)
  | retirementWave (prow pcol : Nat)
  -- Poluri links and edge merge units (02)
  | poluriEnable (n : BitVec 6)
  | poluriDisable (n : BitVec 6)
  | poluriFrameReceive (n : BitVec 6) (frame : BitVec 1280)
  | poluriFlitSend (n : BitVec 6) (cls : BitVec 5)
  | replayTimeout (n : BitVec 6)
  | poluriRetrain (n : BitVec 6)
  | trainTimeout (n : BitVec 6)
  | edgeMergeContribution (n : BitVec 6)
  | reduceLate (south : Bool)
  | atticPortDown (n : BitVec 6)
  -- fabric (08)
  | flitHop (hop : Hop)
  | mergeCombine (prow pcol : Nat) (cls : BitVec 5)
  | renormArrival (row col : Nat)
  | classStall (prow pcol : Nat) (cls : BitVec 5)
  | msgDelivery (row col : Nat) (cls : BitVec 5)
  | cellarToQueue (row col : Nat) (cls : BitVec 5)
  | writeMessage (row col : Nat) (cls : BitVec 5)
  | signalMessage (row col : Nat) (cls : BitVec 5)
  | rdreqMessage (row col : Nat) (cls : BitVec 5)
  | rdrspMessage (row col : Nat) (cls : BitVec 5)
  | raddMessage (row col : Nat) (cls : BitVec 5)
  | amoreqMessage (row col : Nat) (cls : BitVec 5)
  | amorspMessage (row col : Nat) (cls : BitVec 5)
  | dfaddBatchClose (row col : Nat) (addr : BitVec 19)
  | ackMessage (row col : Nat)
  | nackMessage (row col : Nat)
  | drainMarker (row col : Nat)
  | capRead (row col : Nat)
  | capWrite (row col : Nat)
  | capHalt (row col : Nat)
  | capResume (row col : Nat)
  | capWake (row col : Nat)
  | pantryPush (row col : Nat) (cls : BitVec 5)
  | heldDeliveryResume (row col : Nat) (cls : BitVec 5)
  | sramPush (row col : Nat) (cls : BitVec 5)
  | burstDelivery (row col : Nat)
  | statSink (a : Attach)
  -- the core's own events (07, 13)
  | taskDispatch (row col : Nat)
  | resultWriteback (row col : Nat)
  | stallRelease (row col : Nat)
  | breakpointMatch (row col : Nat)
  | barrierRelease (sc : Scope) (id : BitVec 3) (row col : Nat)
  | sleepWake (row col : Nat)
  | sleepTimeout (row col : Nat)
  -- larders (11)
  | startList (n : Nat)
  | startRing (n : Nat)
  | contextStop (n : Nat)
  | csig (n : Nat)
  | lsubAppend (n : Nat)
  | stream (n c : Nat)
  | gather (n c : Nat)
  | wback (n c : Nat)
  | bcast (n c : Nat)
  | larderSignal (n c : Nat)
  | larderEvent (n c : Nat)
  | waitw (n c : Nat)
  | waitc (n c : Nat)
  | larderFence (n c : Nat)
  | larderLoop (n c : Nat)
  | endl (n c : Nat)
  | jump (n c : Nat)
  | setv (n c : Nat)
  | addv (n c : Nat)
  | larderStop (n c : Nat)
  | larderWaitResume (n c : Nat)
  | larderSectorIssue (n c : Nat)
  | larderFaultEnter (n c : Nat)
  | atticReadResponse (n c : Nat)
  | atticWriteAccept (n c : Nat)
  | breadServiceStart (n : Nat)
  -- power loss and the source side of a core-space BREAD
  | powerLoss
  | breadSourceBurst (row col : Nat)
  deriving DecidableEq, Repr

end Sys2Proof
end

