-- ==== Sys2Proof/WellFormed.lean ====
section
/-! DEFINITION. Which terms of Instr are instructions a core can fetch: the types an entry accepts (the E_ILLEGAL
conditions of R281, order 2) and the operands it accepts (the E_RSV conditions of order 3). An event of the device has
no instruction word and is not judged here: its meaning says when it happens. -/

namespace Sys2Proof

/-- Floating-point type codes 8 to 14 (R277). -/
def Ty.isFloat : Ty → Bool
  | .f64 | .f32 | .f16 | .bf16 | .e4m3 | .e5m2 | .e2m1 => true
  | _ => false

/-- Integer type codes 0 to 7 (R277). -/
def Ty.isInt : Ty → Bool
  | .i64 | .i32 | .i16 | .i8 | .n64 | .n32 | .n16 | .n8 => true
  | _ => false

/-- The signed integer types. -/
def Ty.isSigned : Ty → Bool
  | .i64 | .i32 | .i16 | .i8 => true
  | _ => false

/-- The width of a value of the type, in bits; nb has no width of its own. -/
def Ty.width : Ty → Nat
  | .i64 | .n64 | .f64 => 64
  | .i32 | .n32 | .f32 => 32
  | .i16 | .n16 | .f16 | .bf16 => 16
  | .i8 | .n8 | .e4m3 | .e5m2 => 8
  | .e2m1 => 4
  | .nb => 8

/-- i64 and i32: the types of most integer instructions (R303). -/
def Ty.isI : Ty → Bool
  | .i64 | .i32 => true
  | _ => false

/-- i64, i32, n64 and n32 (R303, R304). -/
def Ty.isIN : Ty → Bool
  | .i64 | .i32 | .n64 | .n32 => true
  | _ => false

/-- f64 and f32 (R313). -/
def Ty.isF : Ty → Bool
  | .f64 | .f32 => true
  | _ => false

/-- The six lane types of the vector unit, also its width-only types (R331). -/
def Ty.isLane (t : Ty) : Bool := t.isIN || t.isF

/-- The types of FCVT (R315). -/
def Ty.isCvt : Ty → Bool
  | .i64 | .i32 | .n64 | .n32 | .f64 | .f32 | .f16 | .bf16 | .e4m3 | .e5m2 => true
  | _ => false

/-- The two types whose conversions saturate by choice (R184). -/
def Ty.isE8 : Ty → Bool
  | .e4m3 | .e5m2 => true
  | _ => false

/-- The source types of BCVT and BEXP (R357). -/
def Ty.isBlockSrc : Ty → Bool
  | .f32 | .f16 | .bf16 | .e4m3 | .e5m2 | .e2m1 => true
  | _ => false

/-- Lanes of a 512-bit register at the width of a lane type. -/
def Ty.lanes (t : Ty) : Nat := 512 / t.width

/-- Elements of a block conversion (R357). -/
def GroupSize.count : GroupSize → Nat
  | .g32 => 32
  | .g64 => 64
  | .g128 => 128

/-- Registers of the source group of a block conversion (R358). -/
def blockSrcRegs (src : Ty) (g : GroupSize) : Nat := max 1 (g.count * src.width / 512)

/-- Numbers that name a system register (R124). -/
def sysNamed (n : Nat) : Bool := n ≤ 0x15 || (0x18 ≤ n && n ≤ 0x2D)

/-- The header rules of R122 and R138: negate needs a guard, and only class L carries a lookahead. -/
def Hdr.ok (h : Hdr) (long : Bool) : Bool := (!h.gn || h.g != 0) && (long || h.la == 0)

/-- The header of an instruction of class S, B or E. -/
def Hdr.short (h : Hdr) : Bool := h.ok false

/-- The header of an instruction of class L. -/
def Hdr.long (h : Hdr) : Bool := h.ok true

/-- A base register of a group of n (R121). -/
def groupBase (n r : Nat) : Bool := r % n == 0

/-- Unmasked lanes: f0 and no zeroing. -/
def Mask.plain : Mask := ⟨0, false⟩

/-- Slices of VCVT: how many the narrower side holds (R341). -/
def cvtSlices (dst src : Ty) : Nat := max dst.width src.width / min dst.width src.width

/-- The verdict on a term: whether a core can fetch it at all, whether its types are accepted, and whether its operands
are. -/
structure Check where
  core : Bool
  types : Bool
  fields : Bool
  deriving DecidableEq, Repr

/-- The check of every instruction of a core; the rules are those of its entry (R290 to R415). -/
def Instr.check : Instr → Check
  | .nop => ⟨true, true, true⟩
  | .br h _ | .brc h _ _ _ _ | .brf h _ _ _ | .gbr h _ _ _ _ _ | .call h _ | .jmp h _ | .ret h | .trap h _ | .brk h _
  | .tend h | .tyield h | .twait h | .gang h _ | .split h => ⟨true, true, h.short⟩
  | .loop h _ _ off => ⟨true, true, h.short && decide (1 ≤ off.toInt)⟩
  | .add h ty _ _ _ | .sub h ty _ _ _ | .shl h ty _ _ _ | .shr h ty _ _ _ | .sar h ty _ _ _ | .rotr h ty _ _ _ =>
    ⟨true, ty.isI, h.short⟩
  | .mul h ty _ _ _ => ⟨true, ty.isI, h.long⟩
  | .mulh h ty _ _ _ => ⟨true, ty == .i64 || ty == .n64, h.long⟩
  | .div h ty _ _ _ | .rem h ty _ _ _ => ⟨true, ty.isIN, h.long⟩
  | .and h _ _ _ | .or h _ _ _ | .xor h _ _ _ | .andn h _ _ _ => ⟨true, true, h.short⟩
  | .clz h ty _ _ | .ctz h ty _ _ | .popc h ty _ _ | .brev h ty _ _ | .bswap h ty _ _ =>
    ⟨true, ty == .i64 || ty == .n32, h.short⟩
  | .min h _ _ _ | .max h _ _ _ | .minu h _ _ _ | .maxu h _ _ _ => ⟨true, true, h.short⟩
  | .addi h _ _ _ | .andi h _ _ _ | .ori h _ _ _ | .xori h _ _ _ | .shi h _ _ _ _ | .cmpi h _ _ _ _ | .li h _ _
  | .liHi h _ _ => ⟨true, true, h.short⟩
  | .cmp h _ toF d _ _ => ⟨true, true, h.short && (!toF || d.toNat < 8)⟩
  | .sel h _ _ _ _ => ⟨true, true, h.short⟩
  | .mov h form d a =>
    ⟨true, true, h.short && (match form with
      | .xx => true
      | .fx => d.toNat < 8
      | .xf => a.toNat < 8
      | .ff => d.toNat < 8 && a.toNat < 8
      | .xlc => a.toNat < 2
      | .lcx => d.toNat < 2)⟩
  | .ext h _ _ _ pos len1 => ⟨true, true, h.short && pos.toNat + len1.toNat + 1 ≤ 64⟩
  | .ins h _ _ pos len1 => ⟨true, true, h.short && pos.toNat + len1.toNat + 1 ≤ 64⟩
  | .fadd h ty _ _ _ _ | .fsub h ty _ _ _ _ | .fmul h ty _ _ _ _ | .fdiv h ty _ _ _ _ | .ffma h ty _ _ _ _ _ =>
    ⟨true, ty.isF, h.long⟩
  | .fsqrt h ty _ _ _ => ⟨true, ty.isF, h.long⟩
  | .fmin h ty _ _ _ | .fmax h ty _ _ _ => ⟨true, ty.isF, h.long⟩
  | .fcvt h dst src _ _ _ sat =>
    ⟨true, dst.isCvt && src.isCvt && (dst.isFloat || src.isFloat) && dst != src, h.long && (!sat || dst.isE8)⟩
  | .fcmp h _ ty toF d _ _ =>
    ⟨true, ty == .f64 || ty == .f32 || ty == .f16 || ty == .bf16, h.long && (!toF || d.toNat < 8)⟩
  | .ld h _ _ _ => ⟨true, true, h.long⟩
  | .st h _ _ _ => ⟨true, true, h.short⟩
  | .ldp h d _ => ⟨true, true, h.long && groupBase 2 d.toNat⟩
  | .stp h d _ => ⟨true, true, h.short && groupBase 2 d.toNat⟩
  | .amo h _ ty _ _ _ | .cas h ty _ _ _ _ => ⟨true, ty.isI, h.long⟩
  | .seg h _ _ _ span => ⟨true, true, h.short && span != 7⟩
  | .segOff h _ => ⟨true, true, h.short⟩
  | .rdsys h _ sys | .wrsys h _ sys => ⟨true, sysNamed sys.toNat, h.short⟩
  | .rett h | .sleep h _ | .capnar h _ _ _ => ⟨true, true, h.short⟩
  | .vadd h ty _ _ _ _ sat _ | .vsub h ty _ _ _ _ sat _ | .vmul h ty _ _ _ _ sat _ =>
    ⟨true, ty.isLane, h.long && (!sat || ty.isInt)⟩
  | .vfma h ty _ _ _ _ _ _ | .vdiv h ty _ _ _ _ _ | .vsqrt h ty _ _ _ _ | .vrcp h ty _ _ _ _ =>
    ⟨true, ty.isF, h.long⟩
  | .vminmax h _ ty _ _ _ _ => ⟨true, ty.isLane, h.long⟩
  | .vabsneg h _ ty _ _ sat _ => ⟨true, ty.isI || ty.isF, h.long && (!sat || ty.isInt)⟩
  | .vexp2 h _ _ _ _ => ⟨true, true, h.long⟩
  | .vlogic h op ty _ _ b _ => ⟨true, ty.isLane, h.long && (op != .not || b == 0)⟩
  | .vshift h _ ty _ _ _ _ | .vbits h _ ty _ _ _ => ⟨true, ty.isI, h.long⟩
  | .vclass h ty _ _ _ => ⟨true, ty.isF, h.long⟩
  | .vcmp h op ty _ _ _ _ => ⟨true, ty.isLane && (op != .un || ty.isFloat), h.long⟩
  | .vsel h ty _ _ _ _ _ => ⟨true, ty.isLane, h.long⟩
  | .vcvt h dst src _ _ s _ sat _ =>
    ⟨true, src != .nb && dst != .nb && dst != .e2m1 && (dst.isFloat || src.isFloat) && dst != src,
      h.long && (!sat || dst.isE8) && decide (s.toNat < cvtSlices dst src)⟩
  | .vred h op ty _ _ _ _ =>
    ⟨true, ty.isLane && (ty.isInt || op == .add || op == .min || op == .max), h.long⟩
  | .vscan h _ ty _ _ _ _ => ⟨true, ty.isLane, h.long⟩
  | .vld h _ _ => ⟨true, true, h.long⟩
  | .vst h _ _ => ⟨true, true, h.short⟩
  | .vlds h ty _ _ _ _ | .vgath h ty _ _ _ _ _ => ⟨true, ty.isLane, h.long⟩
  | .vsts h ty _ _ _ _ | .vscat h ty _ _ _ _ _ => ⟨true, ty.isLane, h.short⟩
  | .vbcast h ty _ _ _ | .vmov h ty _ _ _ => ⟨true, ty.isLane, h.long⟩
  | .vperm h ty _ _ _ _ | .vshuf h ty _ _ _ _ _ => ⟨true, ty.isLane, h.long⟩
  | .vextr h ty _ _ k | .vinsr h ty _ _ k => ⟨true, ty.isLane, h.long && decide (k.toNat < ty.lanes)⟩
  | .vslide h ty _ _ _ k _ => ⟨true, ty.isLane, h.long && decide (k.toNat ≤ ty.lanes)⟩
  | .viota h ty _ _ _ _ => ⟨true, ty.isIN, h.long⟩
  | .vmask h op d _ b =>
    ⟨true, true, h.long && (match op with
      | .and | .or | .xor | .andn => d.toNat < 8
      | .not => d.toNat < 8 && b == 0
      | .popc | .first => b == 0)⟩
  | .vdot h _ _ _ _ _ => ⟨true, true, h.long⟩
  | .vdoti h _ _ _ _ _ _ _ => ⟨true, true, h.long⟩
  | .dmma h d a b c _ =>
    ⟨true, true, h.long && groupBase 2 d.toNat && groupBase 2 a.toNat && groupBase 2 b.toNat && groupBase 2 c.toNat⟩
  | .vrng h _ _ _ => ⟨true, true, h.long⟩
  | .bcvt h src g tab d a _ =>
    ⟨true, src.isBlockSrc, h.long && groupBase (g.count / 32) d.toNat && groupBase (blockSrcRegs src g) a.toNat &&
      (src != .e2m1 || (g == .g32 && !tab))⟩
  | .bexp h src g _ a => ⟨true, src.isBlockSrc, h.long && groupBase (blockSrcRegs src g) a.toNat⟩
  | .bunp h _ d _ => ⟨true, true, h.long && groupBase 2 d.toNat⟩
  | .bsat h _ _ _ => ⟨true, true, h.long⟩
  | .bstat h => ⟨true, true, h.short⟩
  | .bnorm h _ a _ _ => ⟨true, true, h.long && groupBase 2 a.toNat⟩
  | .balign h _ _ _ => ⟨true, true, h.long⟩
  | .bchk h _ _ => ⟨true, true, h.short⟩
  | .tclm h _ | .trel h _ => ⟨true, true, h.short⟩
  | .tld h _ p _ _ fmt tr tab chk =>
    ⟨true, true, h.long && (!tr || (fmt != .e2m1 && fmt != .nb)) && (!tab || (fmt != .i8 && fmt != .e2m1 && fmt != .nb))
      && (!chk || fmt == .nb) && (fmt != .i8 || p == .p8)⟩
  | .tmma h _ _ _ | .tmmi h _ _ _ _ | .tzero h _ => ⟨true, true, h.long⟩
  | .trdRaw h _ _ d _ | .twrRaw h _ _ d => ⟨true, true, h.long && groupBase 2 d.toNat⟩
  | .trdI32 h _ _ _ | .twrI32 h _ _ _ | .twrExp h _ _ => ⟨true, true, h.long⟩
  | .tsh h _ n => ⟨true, true, h.long && decide (n.toNat ≤ 47)⟩
  | .tshTo h _ _ | .tstatSlots h _ | .tstatExp h _ _ | .tstatRed h _ _ => ⟨true, true, h.long⟩
  | .tcvt h _ _ _ _ _ => ⟨true, true, h.long⟩
  | .tsend h _ _ _ => ⟨true, true, h.short⟩
  | .tsendOpen h _ depth => ⟨true, true, h.short && depth != 0⟩
  | .trecv h d _ _ => ⟨true, true, h.short && groupBase 2 d.toNat⟩
  | .qbindIn h _ _ | .qbindOut h _ _ _ _ | .qbindPantry h _ _ | .qbindLarder h _ _ | .qbindCap h _ _ | .qfree h _
  | .pop h _ _ _ | .push h _ _ | .mopen h _ _ | .mclose h _ | .qstat h _ _ | .clset h _ _ | .clget h _ _
  | .tbind h _ _ | .tunb h _ => ⟨true, true, h.short⟩
  | .vpop h d _ => ⟨true, true, h.short && groupBase 2 d.toNat⟩
  | .qpeek h _ _ k => ⟨true, true, h.short && decide (k.toNat ≤ 16)⟩
  | .vpush h _ a => ⟨true, true, h.short && groupBase 2 a.toNat⟩
  | .cellar h m _ => ⟨true, true, h.short && decide (m.toNat ≤ 16)⟩
  | .put h o | .puts h o _ | .get h o | .radd h _ o => ⟨true, true, h.short && decide (o.cls.toNat < 24)⟩
  | .awrite h o | .aread h o => ⟨true, true, h.short && decide (o.cls.toNat < 24) && o.handle == 0⟩
  | .ramo h op o cm =>
    ⟨true, true, h.short && decide (o.cls.toNat < 24) && (o.xs == 0 || o.xs != o.xd) && (op == .cas || cm == 0)⟩
  | .dfadd h o => ⟨true, true, h.short && decide (o.cls.toNat < 24) && (o.xs == 0 || o.xs != o.xd)⟩
  | .bread h _ _ _ _ _ he => ⟨true, true, h.short && decide (he.toNat % 8 = 0)⟩
  | .waits h _ _ => ⟨true, true, h.short⟩
  | .fence h sc => ⟨true, true, h.short && sc != .lane⟩
  | .bar h id sc | .bara h id sc | .barw h id sc =>
    ⟨true, true, h.short && (match sc with
      | .lane | .core => false
      | .quad | .pod => decide (id.toNat < 4)
      | .field | .wafer => true)⟩
  | .evset h _ | .evsetM h _ | .evclr h _ | .evclrM h _ | .evrd h _ => ⟨true, true, h.short⟩
  | .hend h | .hmov h _ _ | .hst h _ _ => ⟨true, true, h.short⟩
  | .hadd h sz fp _ _ => ⟨true, true, h.short && (!fp || sz == .b4)⟩
  | .pwait h _ _ | .prel h _ _ | .pcur h _ _ _ | .pset h _ _ => ⟨true, true, h.short⟩
  | .lsub h _ _ _ | .lctlStart h _ _ | .lctlRing h _ _ | .lctlStop h _ | .lctlCsig h _ => ⟨true, true, h.short⟩
  | _ => ⟨false, true, true⟩

/-- A well-formed instruction of a core: it has a word, and that word passes every check of R281. -/
def Instr.wf (i : Instr) : Bool := i.check.core && i.check.types && i.check.fields

end Sys2Proof
end

