-- ==== Sys2Proof/Decode.lean ====
section
/-! DEFINITION. The instruction word: its formats (R271, R272), the code sets (R277, R278, R280), the opcode map (R279),
the encoder, and the decoder with the fates of R281. -/

namespace Sys2Proof

/-! ## Code sets -/

/-- The type of a code of R277. -/
def Ty.ofCode (c : BitVec 4) : Ty :=
  match c.toNat with
  | 0 => .i64 | 1 => .i32 | 2 => .i16 | 3 => .i8 | 4 => .n64 | 5 => .n32 | 6 => .n16 | 7 => .n8
  | 8 => .f64 | 9 => .f32 | 10 => .f16 | 11 => .bf16 | 12 => .e4m3 | 13 => .e5m2 | 14 => .e2m1 | _ => .nb

/-- The code of a type (R277). -/
def Ty.code : Ty → BitVec 4
  | .i64 => 0 | .i32 => 1 | .i16 => 2 | .i8 => 3 | .n64 => 4 | .n32 => 5 | .n16 => 6 | .n8 => 7
  | .f64 => 8 | .f32 => 9 | .f16 => 10 | .bf16 => 11 | .e4m3 => 12 | .e5m2 => 13 | .e2m1 => 14 | .nb => 15

/-- The rounding code of R180. -/
def RM.ofCode (c : BitVec 2) : RM :=
  match c.toNat with
  | 0 => .rne | 1 => .rtz | 2 => .rup | _ => .rdn

/-- The code of a rounding (R180). -/
def RM.code : RM → BitVec 2
  | .rne => 0 | .rtz => 1 | .rup => 2 | .rdn => 3

/-- A condition 0 to 5 (R280). -/
def Cond.ofCode (c : Nat) : Option Cond :=
  match c with
  | 0 => some .eq | 1 => some .ne | 2 => some .lt | 3 => some .ge | 4 => some .ltu | 5 => some .geu | _ => none

/-- The number of a condition (R280). -/
def Cond.code : Cond → BitVec 3
  | .eq => 0 | .ne => 1 | .lt => 2 | .ge => 3 | .ltu => 4 | .geu => 5

/-- The scope of a code (R278); the reserved codes 6 and 7 read as a scope whose code they are not. -/
def Scope.ofCode (c : BitVec 3) : Scope :=
  match c.toNat with
  | 0 => .lane | 1 => .core | 2 => .quad | 3 => .field | 4 => .wafer | 5 => .pod | _ => .lane

/-- The code of a scope (R278). -/
def Scope.code : Scope → BitVec 3
  | .lane => 0 | .core => 1 | .quad => 2 | .field => 3 | .wafer => 4 | .pod => 5

/-- The planes of a code (R278); code 3 reads as planes whose code it is not. -/
def Planes.ofCode (c : BitVec 2) : Planes :=
  match c.toNat with
  | 0 => .p2 | 1 => .p4 | _ => .p8

/-- The code of a plane count (R278). -/
def Planes.code : Planes → BitVec 2
  | .p2 => 0 | .p4 => 1 | .p8 => 2

/-- The group size of a code (R357). -/
def GroupSize.ofCode (c : BitVec 2) : GroupSize :=
  match c.toNat with
  | 0 => .g32 | 1 => .g64 | _ => .g128

/-- The code of a group size (R357). -/
def GroupSize.code : GroupSize → BitVec 2
  | .g32 => 0 | .g64 => 1 | .g128 => 2

/-- The access size of LD (R278). -/
def MemSize.ofCode (c : BitVec 3) : Option MemSize :=
  match c.toNat with
  | 0 => some .n8 | 1 => some .n16 | 2 => some .n32 | 3 => some .i64 | 4 => some .i8 | 5 => some .i16 | 6 => some .i32
  | _ => none

/-- The code of an access size (R278). -/
def MemSize.code : MemSize → BitVec 3
  | .n8 => 0 | .n16 => 1 | .n32 => 2 | .i64 => 3 | .i8 => 4 | .i16 => 5 | .i32 => 6

/-- The store size of codes 0 to 3 (R278). -/
def StSize.ofCode (c : BitVec 3) : Option StSize :=
  match c.toNat with
  | 0 => some .b1 | 1 => some .b2 | 2 => some .b4 | 3 => some .b8 | _ => none

/-- The code of a store size (R278). -/
def StSize.code : StSize → BitVec 3
  | .b1 => 0 | .b2 => 1 | .b4 => 2 | .b8 => 3

/-- SHI and VSHIFT functions (R280). -/
def ShiftOp.ofCode (c : Nat) : Option ShiftOp :=
  match c with
  | 0 => some .shl | 1 => some .shr | 2 => some .sar | 3 => some .rotr | _ => none

/-- The code of a shift function (R280). -/
def ShiftOp.code : ShiftOp → BitVec 8
  | .shl => 0 | .shr => 1 | .sar => 2 | .rotr => 3

/-- AMO functions (R280). -/
def AmoOp.ofCode (c : Nat) : Option AmoOp :=
  match c with
  | 0 => some .add | 1 => some .and | 2 => some .or | 3 => some .xor | 4 => some .swap | 5 => some .min | 6 => some .max
  | 7 => some .minu | 8 => some .maxu | _ => none

/-- The code of an AMO function (R280). -/
def AmoOp.code : AmoOp → BitVec 8
  | .add => 0 | .and => 1 | .or => 2 | .xor => 3 | .swap => 4 | .min => 5 | .max => 6 | .minu => 7 | .maxu => 8

/-- FCMP functions (R280). -/
def FCmpOp.ofCode (c : Nat) : Option FCmpOp :=
  match c with
  | 0 => some .eq | 1 => some .lt | 2 => some .le | 3 => some .un | _ => none

/-- The code of an FCMP function (R280). -/
def FCmpOp.code : FCmpOp → BitVec 8
  | .eq => 0 | .lt => 1 | .le => 2 | .un => 3

/-- VABSNEG functions (R280). -/
def AbsNegOp.ofCode (c : Nat) : Option AbsNegOp :=
  match c with
  | 0 => some .abs | 1 => some .neg | 2 => some .nabs | _ => none

/-- The code of a VABSNEG function (R280). -/
def AbsNegOp.code : AbsNegOp → BitVec 8
  | .abs => 0 | .neg => 1 | .nabs => 2

/-- VLOGIC functions (R280). -/
def LogicOp.ofCode (c : Nat) : Option LogicOp :=
  match c with
  | 0 => some .and | 1 => some .or | 2 => some .xor | 3 => some .andn | 4 => some .not | _ => none

/-- The code of a VLOGIC function (R280). -/
def LogicOp.code : LogicOp → BitVec 8
  | .and => 0 | .or => 1 | .xor => 2 | .andn => 3 | .not => 4

/-- VBITS functions (R280). -/
def BitsOp.ofCode (c : Nat) : Option BitsOp :=
  match c with
  | 0 => some .clz | 1 => some .ctz | 2 => some .popc | 3 => some .brev | _ => none

/-- The code of a VBITS function (R280). -/
def BitsOp.code : BitsOp → BitVec 8
  | .clz => 0 | .ctz => 1 | .popc => 2 | .brev => 3

/-- VCMP functions (R280). -/
def VCmpOp.ofCode (c : Nat) : Option VCmpOp :=
  match c with
  | 0 => some .eq | 1 => some .ne | 2 => some .lt | 3 => some .le | 4 => some .gt | 5 => some .ge | 6 => some .un
  | _ => none

/-- The code of a VCMP function (R280). -/
def VCmpOp.code : VCmpOp → BitVec 8
  | .eq => 0 | .ne => 1 | .lt => 2 | .le => 3 | .gt => 4 | .ge => 5 | .un => 6

/-- VRED functions (R280). -/
def RedOp.ofCode (c : Nat) : Option RedOp :=
  match c with
  | 0 => some .add | 1 => some .min | 2 => some .max | 3 => some .and | 4 => some .or | 5 => some .xor | _ => none

/-- The code of a VRED function (R280). -/
def RedOp.code : RedOp → BitVec 8
  | .add => 0 | .min => 1 | .max => 2 | .and => 3 | .or => 4 | .xor => 5

/-- VSCAN functions (R280). -/
def ScanOp.ofCode (c : Nat) : Option ScanOp :=
  match c with
  | 0 => some .add | 1 => some .min | 2 => some .max | _ => none

/-- The code of a VSCAN function (R280). -/
def ScanOp.code : ScanOp → BitVec 8
  | .add => 0 | .min => 1 | .max => 2

/-- VMASK functions (R350). -/
def MaskOp.ofCode (c : Nat) : Option MaskOp :=
  match c with
  | 0 => some .and | 1 => some .or | 2 => some .xor | 3 => some .andn | 4 => some .not | 5 => some .popc
  | 6 => some .first | _ => none

/-- The code of a VMASK function (R350). -/
def MaskOp.code : MaskOp → BitVec 8
  | .and => 0 | .or => 1 | .xor => 2 | .andn => 3 | .not => 4 | .popc => 5 | .first => 6

/-- The forms of MOV (R310). -/
def MovForm.ofCode (c : Nat) : Option MovForm :=
  match c with
  | 0 => some .xx | 1 => some .fx | 2 => some .xf | 3 => some .ff | 4 => some .xlc | 5 => some .lcx | _ => none

/-- The code of a form of MOV (R310). -/
def MovForm.code : MovForm → BitVec 8
  | .xx => 0 | .fx => 1 | .xf => 2 | .ff => 3 | .xlc => 4 | .lcx => 5

/-- BRF tests (R280). -/
def MaskTest.ofCode (c : Nat) : Option MaskTest :=
  match c with
  | 0 => some .any | 1 => some .all | 2 => some .none | _ => Option.none

/-- The code of a BRF test (R280). -/
def MaskTest.code : MaskTest → BitVec 4
  | .any => 0 | .all => 1 | .none => 2

/-- RADD operations 1 to 6 (R398); the reserved codes 0 and 7 read as an operation whose code they are not. -/
def RaddOp.ofCode (c : BitVec 3) : RaddOp :=
  match c.toNat with
  | 1 => .addI32 | 2 => .addI64 | 3 => .addF32 | 4 => .maxI32 | 5 => .minI32 | 6 => .addSum | _ => .addI32

/-- The code of a RADD operation (R398). -/
def RaddOp.code : RaddOp → BitVec 3
  | .addI32 => 1 | .addI64 => 2 | .addF32 => 3 | .maxI32 => 4 | .minI32 => 5 | .addSum => 6

/-- RAMO operations 1 to 3 (R398); other codes read as an operation whose code they are not. -/
def RamoOp.ofCode (c : BitVec 3) : RamoOp :=
  match c.toNat with
  | 1 => .add | 2 => .swap | 3 => .cas | _ => .add

/-- The code of a RAMO operation (R398). -/
def RamoOp.code : RamoOp → BitVec 3
  | .add => 1 | .swap => 2 | .cas => 3

/-- HMOV sources (R411). -/
def BurstCoord.ofCode (c : Nat) : Option BurstCoord :=
  match c with
  | 0 => some .bix | 1 => some .bxc | 2 => some .byc | 3 => some .bcnt | _ => none

/-- The code of an HMOV source (R411). -/
def BurstCoord.code : BurstCoord → BitVec 8
  | .bix => 0 | .bxc => 1 | .byc => 2 | .bcnt => 3

/-! ## Formats -/

/-- Format A (R272). -/
structure FmtA where
  d : BitVec 6 := 0
  s1 : BitVec 6 := 0
  s2 : BitVec 6 := 0
  s3 : BitVec 6 := 0
  fn : BitVec 8 := 0
  ty : BitVec 4 := 0
  mod : BitVec 12 := 0
  deriving DecidableEq, Repr

/-- Format I (R272). -/
structure FmtI where
  d : BitVec 6 := 0
  s1 : BitVec 6 := 0
  fn4 : BitVec 4 := 0
  imm : BitVec 32 := 0
  deriving DecidableEq, Repr

/-- Format M (R272). -/
structure FmtM where
  dr : BitVec 6 := 0
  base : BitVec 6 := 0
  index : BitVec 6 := 0
  scale : BitVec 3 := 0
  size : BitVec 3 := 0
  disp : BitVec 24 := 0
  deriving DecidableEq, Repr

/-- Format B (R272). -/
structure FmtB where
  s1 : BitVec 6 := 0
  s2 : BitVec 6 := 0
  cond : BitVec 4 := 0
  off : BitVec 32 := 0
  deriving DecidableEq, Repr

/-- Format Q (R272). -/
structure FmtQ where
  d : BitVec 6 := 0
  qr : BitVec 4 := 0
  s : BitVec 6 := 0
  cls : BitVec 8 := 0
  qop : BitVec 24 := 0
  deriving DecidableEq, Repr

/-- Format T (R272). -/
structure FmtT where
  acc : BitVec 2 := 0
  sa : BitVec 3 := 0
  sb : BitVec 3 := 0
  pa : BitVec 2 := 0
  pb : BitVec 2 := 0
  xa : BitVec 6 := 0
  xb : BitVec 6 := 0
  fn : BitVec 8 := 0
  tmode : BitVec 16 := 0
  deriving DecidableEq, Repr

/-- Format E (R272). -/
structure FmtE where
  xs : BitVec 6 := 0
  xa : BitVec 6 := 0
  xd : BitVec 6 := 0
  xx : BitVec 6 := 0
  ev : BitVec 8 := 0
  he : BitVec 16 := 0
  deriving DecidableEq, Repr

/-- Format S (R272), its reserved bits included. -/
structure FmtS where
  d : BitVec 6 := 0
  s1 : BitVec 6 := 0
  sys : BitVec 12 := 0
  s2 : BitVec 6 := 0
  rest : BitVec 18 := 0
  deriving DecidableEq, Repr

/-- The body of a word in its format. -/
inductive Body where
  | a (f : FmtA) | i (f : FmtI) | m (f : FmtM) | b (f : FmtB) | q (f : FmtQ) | t (f : FmtT) | e (f : FmtE) | s (f : FmtS)
  deriving DecidableEq, Repr

/-- The bits of a body, laid out by R272. -/
def Body.bits : Body → BitVec 48
  | .a f => f.d ++ f.s1 ++ f.s2 ++ f.s3 ++ f.fn ++ f.ty ++ f.mod
  | .i f => f.d ++ f.s1 ++ f.fn4 ++ f.imm
  | .m f => f.dr ++ f.base ++ f.index ++ f.scale ++ f.size ++ f.disp
  | .b f => f.s1 ++ f.s2 ++ f.cond ++ f.off
  | .q f => f.d ++ f.qr ++ f.s ++ f.cls ++ f.qop
  | .t f => f.acc ++ f.sa ++ f.sb ++ f.pa ++ f.pb ++ f.xa ++ f.xb ++ f.fn ++ f.tmode
  | .e f => f.xs ++ f.xa ++ f.xd ++ f.xx ++ f.ev ++ f.he
  | .s f => f.d ++ f.s1 ++ f.sys ++ f.s2 ++ f.rest

/-- The common header and the body of a word (R271). -/
def headerBits (op : BitVec 8) (h : Hdr) : BitVec 16 := op ++ h.la ++ h.g ++ BitVec.ofBool h.gn

/-- A word from its opcode, header and body (R271). -/
def packWord (op : BitVec 8) (h : Hdr) (b : Body) : Word := headerBits op h ++ b.bits

/-- The opcode field (R271). -/
def opOf (w : Word) : BitVec 8 := w.extractLsb' 56 8

/-- The header of a word (R271). -/
def hdrOf (w : Word) : Hdr := ⟨w.extractLsb' 52 4, w.extractLsb' 49 3, w.getLsbD 48⟩

/-- The fields of format A (R272). -/
def fmtA (w : Word) : FmtA :=
  ⟨w.extractLsb' 42 6, w.extractLsb' 36 6, w.extractLsb' 30 6, w.extractLsb' 24 6, w.extractLsb' 16 8, w.extractLsb' 12 4,
    w.extractLsb' 0 12⟩

/-- The fields of format I (R272). -/
def fmtI (w : Word) : FmtI :=
  ⟨w.extractLsb' 42 6, w.extractLsb' 36 6, w.extractLsb' 32 4, w.extractLsb' 0 32⟩

/-- The fields of format M (R272). -/
def fmtM (w : Word) : FmtM :=
  ⟨w.extractLsb' 42 6, w.extractLsb' 36 6, w.extractLsb' 30 6, w.extractLsb' 27 3, w.extractLsb' 24 3, w.extractLsb' 0 24⟩

/-- The fields of format B (R272). -/
def fmtB (w : Word) : FmtB :=
  ⟨w.extractLsb' 42 6, w.extractLsb' 36 6, w.extractLsb' 32 4, w.extractLsb' 0 32⟩

/-- The fields of format Q (R272). -/
def fmtQ (w : Word) : FmtQ :=
  ⟨w.extractLsb' 42 6, w.extractLsb' 38 4, w.extractLsb' 32 6, w.extractLsb' 24 8, w.extractLsb' 0 24⟩

/-- The fields of format T (R272). -/
def fmtT (w : Word) : FmtT :=
  ⟨w.extractLsb' 46 2, w.extractLsb' 43 3, w.extractLsb' 40 3, w.extractLsb' 38 2, w.extractLsb' 36 2, w.extractLsb' 30 6,
    w.extractLsb' 24 6, w.extractLsb' 16 8, w.extractLsb' 0 16⟩

/-- The fields of format E (R272). -/
def fmtE (w : Word) : FmtE :=
  ⟨w.extractLsb' 42 6, w.extractLsb' 36 6, w.extractLsb' 30 6, w.extractLsb' 24 6, w.extractLsb' 16 8, w.extractLsb' 0 16⟩

/-- The fields of format S (R272). -/
def fmtS (w : Word) : FmtS :=
  ⟨w.extractLsb' 42 6, w.extractLsb' 36 6, w.extractLsb' 24 12, w.extractLsb' 18 6, w.extractLsb' 0 18⟩

/-! ## MOD (R274) -/

/-- MOD from its subfields. -/
def modBits (imm5 : BitVec 5) (m : Mask) (sat : Bool) (rm : RM) : BitVec 12 :=
  imm5 ++ BitVec.ofBool m.z ++ m.k ++ BitVec.ofBool sat ++ rm.code

/-- The rounding of MOD. -/
def modRM (m : BitVec 12) : RM := RM.ofCode (m.extractLsb' 0 2)
/-- SAT of MOD. -/
def modSat (m : BitVec 12) : Bool := m.getLsbD 2
/-- MASK and ZERO of MOD. -/
def modMask (m : BitVec 12) : Mask := ⟨m.extractLsb' 3 3, m.getLsbD 6⟩
/-- IMM5 of MOD. -/
def modImm (m : BitVec 12) : BitVec 5 := m.extractLsb' 7 5
/-- MOD[7], the destination file of CMP and FCMP (R308). -/
def modF (m : BitVec 12) : Bool := m.getLsbD 7
/-- MOD with bit 7 alone (R308). -/
def modFBits (toF : Bool) (rm : RM) : BitVec 12 := modBits (0#4 ++ BitVec.ofBool toF) Mask.plain false rm

/-- The vector register of a 6-bit field. -/
def vreg (r : BitVec 6) : VReg := r.extractLsb' 0 5
/-- The mask register of a 6-bit field. -/
def freg (r : BitVec 6) : FReg := r.extractLsb' 0 3
/-- A 6-bit field from a vector register. -/
def ofV (v : VReg) : BitVec 6 := 0#1 ++ v
/-- A 6-bit field from a mask register. -/
def ofF (f : FReg) : BitVec 6 := 0#3 ++ f

/-- The address fields of format M. -/
def FmtM.mem (f : FmtM) : MemOp := ⟨f.base, f.index, f.scale, f.disp⟩
/-- Format M from its data field, size and address. -/
def memFmt (dr : BitVec 6) (size : BitVec 3) (m : MemOp) : FmtM := ⟨dr, m.base, m.index, m.scale, size, m.disp⟩
/-- The operands of an engine operation in format E (R398). -/
def FmtE.eng (f : FmtE) : EngOp := ⟨f.xs, f.xa, f.xd, f.xx, f.ev.extractLsb' 0 5, f.he.extractLsb' 0 6⟩
/-- The register of HE[11:6] (R398). -/
def FmtE.he2 (f : FmtE) : Reg := f.he.extractLsb' 6 6
/-- Format E from an engine operation, its operation code and the register of HE[11:6]. -/
def engFmt (o : EngOp) (op : BitVec 3) (second : Reg) : FmtE := ⟨o.xs, o.xa, o.xd, o.xx, op ++ o.cls, 0#4 ++ second ++ o.handle⟩

/-! ## The encoder -/

/-- A word's opcode, header and body, for an instruction of a core. -/
structure Enc where
  op : BitVec 8
  h : Hdr
  body : Body
  deriving DecidableEq, Repr

/-- A format A encoding. -/
def encA (op : BitVec 8) (h : Hdr) (f : FmtA) : Option Enc := some ⟨op, h, .a f⟩
/-- A format I encoding. -/
def encI (op : BitVec 8) (h : Hdr) (f : FmtI) : Option Enc := some ⟨op, h, .i f⟩
/-- A format M encoding. -/
def encM (op : BitVec 8) (h : Hdr) (f : FmtM) : Option Enc := some ⟨op, h, .m f⟩
/-- A format B encoding. -/
def encB (op : BitVec 8) (h : Hdr) (f : FmtB) : Option Enc := some ⟨op, h, .b f⟩
/-- A format Q encoding. -/
def encQ (op : BitVec 8) (h : Hdr) (f : FmtQ) : Option Enc := some ⟨op, h, .q f⟩
/-- A format T encoding. -/
def encT (op : BitVec 8) (h : Hdr) (f : FmtT) : Option Enc := some ⟨op, h, .t f⟩
/-- A format E encoding. -/
def encE (op : BitVec 8) (h : Hdr) (f : FmtE) : Option Enc := some ⟨op, h, .e f⟩
/-- A format S encoding. -/
def encS (op : BitVec 8) (h : Hdr) (f : FmtS) : Option Enc := some ⟨op, h, .s f⟩

/-- An integer register form of R303. -/
def encInt (op : BitVec 8) (h : Hdr) (fn : BitVec 8) (ty : Ty) (d a b : Reg) : Option Enc :=
  encA op h { d := d, s1 := a, s2 := b, fn := fn, ty := ty.code }

/-- A masked vector form with two sources (R335 to R349). -/
def encV (op : BitVec 8) (h : Hdr) (fn : BitVec 8) (ty : Ty) (d a b : BitVec 6) (mod : BitVec 12) : Option Enc :=
  encA op h { d := d, s1 := a, s2 := b, fn := fn, ty := ty.code, mod := mod }

/-- The immediate of SEG with V = 1 (R322). -/
def segImm (n : BitVec 3) (base : BitVec 7) (size : BitVec 8) (span : BitVec 3) : BitVec 32 :=
  0#10 ++ span ++ size ++ base ++ 1#1 ++ n

/-- The encoding of an instruction of a core (R271 to R280 and its entry); none for an event of the device. -/
def Instr.enc : Instr → Option Enc
  | .nop => encA 0x00 Hdr.plain {}
  | .br h off => encB 0x01 h { off := off }
  | .brc h cc a b off => encB 0x02 h { s1 := a, s2 := b, cond := 0#1 ++ cc.code, off := off }
  | .brf h t f off => encB 0x03 h { s1 := ofF f, cond := t.code, off := off }
  | .gbr h all cc a b off => encB 0x0D h { s1 := a, s2 := b, cond := BitVec.ofBool all ++ cc.code, off := off }
  | .call h off => encB 0x05 h { off := off }
  | .jmp h a => encA 0x04 h { s1 := a }
  | .ret h => encA 0x06 h {}
  | .loop h lc a off => encB 0x07 h { s1 := a, s2 := 0#5 ++ BitVec.ofBool lc, off := off }
  | .trap h imm => encI 0x0E h { imm := imm }
  | .brk h imm => encA 0x0F h { mod := modBits imm Mask.plain false .rne }
  | .tend h => encA 0x08 h {}
  | .tyield h => encA 0x09 h {}
  | .twait h => encA 0x0A h {}
  | .gang h block => encI 0x0B h { imm := 0#31 ++ BitVec.ofBool block }
  | .split h => encA 0x0C h {}
  | .add h ty d a b => encInt 0x10 h 0 ty d a b
  | .sub h ty d a b => encInt 0x11 h 0 ty d a b
  | .mul h ty d a b => encInt 0x12 h 0 ty d a b
  | .mulh h ty d a b => encInt 0x13 h 0 ty d a b
  | .div h ty d a b => encInt 0x14 h 0 ty d a b
  | .rem h ty d a b => encInt 0x15 h 0 ty d a b
  | .and h d a b => encInt 0x16 h 0 .i64 d a b
  | .or h d a b => encInt 0x17 h 0 .i64 d a b
  | .xor h d a b => encInt 0x18 h 0 .i64 d a b
  | .andn h d a b => encInt 0x19 h 0 .i64 d a b
  | .shl h ty d a b => encInt 0x1A h 0 ty d a b
  | .shr h ty d a b => encInt 0x1B h 0 ty d a b
  | .sar h ty d a b => encInt 0x1C h 0 ty d a b
  | .rotr h ty d a b => encInt 0x1D h 0 ty d a b
  | .clz h ty d a => encInt 0x1E h 0 ty d a 0
  | .ctz h ty d a => encInt 0x1E h 1 ty d a 0
  | .popc h ty d a => encInt 0x1E h 2 ty d a 0
  | .brev h ty d a => encInt 0x1E h 3 ty d a 0
  | .bswap h ty d a => encInt 0x1E h 4 ty d a 0
  | .min h d a b => encInt 0x1F h 0 .i64 d a b
  | .max h d a b => encInt 0x1F h 1 .i64 d a b
  | .minu h d a b => encInt 0x1F h 2 .i64 d a b
  | .maxu h d a b => encInt 0x1F h 3 .i64 d a b
  | .addi h d a imm => encI 0x20 h ⟨d, a, 0, imm⟩
  | .andi h d a imm => encI 0x21 h ⟨d, a, 0, imm⟩
  | .ori h d a imm => encI 0x22 h ⟨d, a, 0, imm⟩
  | .xori h d a imm => encI 0x23 h ⟨d, a, 0, imm⟩
  | .shi h op d a n => encI 0x24 h ⟨d, a, op.code.extractLsb' 0 4, 0#26 ++ n⟩
  | .li h d imm => encI 0x25 h ⟨d, 0, 0, imm⟩
  | .liHi h d imm => encI 0x25 h ⟨d, 0, 1, imm⟩
  | .cmp h cc toF d a b => encA 0x26 h { d := d, s1 := a, s2 := b, fn := 0#5 ++ cc.code, mod := modFBits toF .rne }
  | .cmpi h cc d a imm => encI 0x27 h ⟨d, a, 0#1 ++ cc.code, imm⟩
  | .sel h d a b c => encA 0x28 h { d := d, s1 := a, s2 := b, s3 := c }
  | .mov h form d a => encA 0x29 h { d := d, s1 := a, fn := form.code }
  | .ext h signed d a pos len1 =>
    encA 0x2A h { d := d, s1 := a, ty := if signed then 0 else 4, mod := len1 ++ pos }
  | .ins h d a pos len1 => encA 0x2B h { d := d, s1 := a, mod := len1 ++ pos }
  | .fadd h ty d a b rm => encV 0x2C h 0 ty d a b (modBits 0 Mask.plain false rm)
  | .fsub h ty d a b rm => encV 0x2C h 1 ty d a b (modBits 0 Mask.plain false rm)
  | .fmul h ty d a b rm => encV 0x2C h 2 ty d a b (modBits 0 Mask.plain false rm)
  | .fdiv h ty d a b rm => encV 0x2C h 3 ty d a b (modBits 0 Mask.plain false rm)
  | .fsqrt h ty d a rm => encV 0x2C h 4 ty d a 0 (modBits 0 Mask.plain false rm)
  | .fmin h ty d a b => encV 0x2C h 5 ty d a b 0
  | .fmax h ty d a b => encV 0x2C h 6 ty d a b 0
  | .ffma h ty d a b c rm =>
    encA 0x2D h { d := d, s1 := a, s2 := b, s3 := c, ty := ty.code, mod := modBits 0 Mask.plain false rm }
  | .fcvt h dst src d a rm sat => encV 0x2E h (0#4 ++ src.code) dst d a 0 (modBits 0 Mask.plain sat rm)
  | .fcmp h op ty toF d a b => encV 0x2F h op.code ty d a b (modFBits toF .rne)
  | .ld h sz d m => encM 0x30 h (memFmt d sz.code m)
  | .st h sz d m => encM 0x31 h (memFmt d sz.code m)
  | .ldp h d m => encM 0x32 h (memFmt d 3 m)
  | .stp h d m => encM 0x33 h (memFmt d 3 m)
  | .amo h op ty d a b => encInt 0x34 h op.code ty d a b
  | .cas h ty d a e n => encA 0x35 h { d := d, s1 := a, s2 := e, s3 := n, ty := ty.code }
  | .seg h n base size span => encI 0x36 h ⟨0, 0, 0, segImm n base size span⟩
  | .segOff h n => encI 0x36 h ⟨0, 0, 0, 0#29 ++ n⟩
  | .vadd h ty d a b rm sat m => encV 0x40 h 0 ty (ofV d) (ofV a) (ofV b) (modBits 0 m sat rm)
  | .vsub h ty d a b rm sat m => encV 0x41 h 0 ty (ofV d) (ofV a) (ofV b) (modBits 0 m sat rm)
  | .vmul h ty d a b rm sat m => encV 0x42 h 0 ty (ofV d) (ofV a) (ofV b) (modBits 0 m sat rm)
  | .vfma h ty d a b c rm m =>
    encA 0x43 h { d := ofV d, s1 := ofV a, s2 := ofV b, s3 := ofV c, ty := ty.code, mod := modBits 0 m false rm }
  | .vminmax h isMax ty d a b m =>
    encV 0x44 h (0#7 ++ BitVec.ofBool isMax) ty (ofV d) (ofV a) (ofV b) (modBits 0 m false .rne)
  | .vabsneg h op ty d a sat m => encV 0x45 h op.code ty (ofV d) (ofV a) 0 (modBits 0 m sat .rne)
  | .vlogic h op ty d a b m => encV 0x46 h op.code ty (ofV d) (ofV a) (ofV b) (modBits 0 m false .rne)
  | .vshift h op ty d a b m => encV 0x47 h op.code ty (ofV d) (ofV a) (ofV b) (modBits 0 m false .rne)
  | .vcmp h op ty d a b m => encV 0x48 h op.code ty (ofF d) (ofV a) (ofV b) (modBits 0 m false .rne)
  | .vsel h ty d a b c m =>
    encA 0x49 h { d := ofV d, s1 := ofV a, s2 := ofV b, s3 := ofF c, ty := ty.code, mod := modBits 0 m false .rne }
  | .vcvt h dst src d a s rm sat m =>
    encV 0x4A h (0#4 ++ src.code) dst (ofV d) (ofV a) 0 (modBits (0#1 ++ s) m sat rm)
  | .vdiv h ty d a b rm m => encV 0x4B h 0 ty (ofV d) (ofV a) (ofV b) (modBits 0 m false rm)
  | .vsqrt h ty d a rm m => encV 0x4C h 0 ty (ofV d) (ofV a) 0 (modBits 0 m false rm)
  | .vrcp h ty d a rm m => encV 0x4D h 0 ty (ofV d) (ofV a) 0 (modBits 0 m false rm)
  | .vexp2 h d a rm m => encV 0x4E h 0 .f32 (ofV d) (ofV a) 0 (modBits 0 m false rm)
  | .vred h op ty d a rm k => encV 0x4F h op.code ty d (ofV a) 0 (modBits 0 ⟨k, false⟩ false rm)
  | .vld h d m => encM 0x50 h (memFmt (ofV d) 3 m)
  | .vst h d m => encM 0x51 h (memFmt (ofV d) 3 m)
  | .vlds h ty d base stride m => encV 0x52 h 0 ty (ofV d) base stride (modBits 0 m false .rne)
  | .vsts h ty d base stride m => encV 0x53 h 0 ty (ofV d) base stride (modBits 0 m false .rne)
  | .vgath h ty d base off sc m => encV 0x54 h 0 ty (ofV d) base (ofV off) (modBits (0#3 ++ sc) m false .rne)
  | .vscat h ty d base off sc m => encV 0x55 h 0 ty (ofV d) base (ofV off) (modBits (0#3 ++ sc) m false .rne)
  | .vbcast h ty d a m => encV 0x56 h 0 ty (ofV d) a 0 (modBits 0 m false .rne)
  | .vextr h ty d a k => encV 0x57 h 0 ty d (ofV a) 0 (modBits k Mask.plain false .rne)
  | .vinsr h ty d a k => encV 0x58 h 0 ty (ofV d) a 0 (modBits k Mask.plain false .rne)
  | .vperm h ty d a b m => encV 0x59 h 0 ty (ofV d) (ofV a) (ofV b) (modBits 0 m false .rne)
  | .vshuf h ty d a b c m =>
    encA 0x5A h { d := ofV d, s1 := ofV a, s2 := ofV b, s3 := ofV c, ty := ty.code, mod := modBits 0 m false .rne }
  | .vslide h ty d a b k m => encV 0x5B h 0 ty (ofV d) (ofV a) (ofV b) (modBits k m false .rne)
  | .vmov h ty d a m => encV 0x5C h 0 ty (ofV d) (ofV a) 0 (modBits 0 m false .rne)
  | .viota h ty d a b m => encV 0x5D h 0 ty (ofV d) a b (modBits 0 m false .rne)
  | .vmask h op d a b => encA 0x5E h { d := d, s1 := ofF a, s2 := ofF b, fn := op.code }
  | .vscan h op ty d a rm m => encV 0x5F h op.code ty (ofV d) (ofV a) 0 (modBits 0 m false rm)
  | .vdot h e5 d a b m =>
    encV 0x60 h 0 (if e5 then .e5m2 else .e4m3) (ofV d) (ofV a) (ofV b) (modBits 0 m false .rne)
  | .vdoti h uns sat d a b c m =>
    encA 0x61 h { d := ofV d, s1 := ofV a, s2 := ofV b, s3 := ofV c, ty := if uns then 7 else 3,
                  mod := modBits 0 m sat .rne }
  | .dmma h d a b c rm =>
    encA 0x62 h { d := ofV d, s1 := ofV a, s2 := ofV b, s3 := ofV c, ty := 8, mod := modBits 0 Mask.plain false rm }
  | .vrng h d k c => encV 0x63 h 0 .n32 (ofV d) k (ofV c) 0
  | .vclass h ty d a m => encV 0x64 h 0 ty (ofV d) (ofV a) 0 (modBits 0 m false .rne)
  | .vbits h op ty d a m => encV 0x65 h op.code ty (ofV d) (ofV a) 0 (modBits 0 m false .rne)
  | .bcvt h src g tab d a x =>
    encV 0x70 h (0#4 ++ src.code) .nb (ofV d) (ofV a) x (modBits (0#2 ++ BitVec.ofBool tab ++ g.code) Mask.plain false .rne)
  | .bexp h src g d a =>
    encV 0x71 h (0#4 ++ src.code) .nb d (ofV a) 0 (modBits (0#3 ++ g.code) Mask.plain false .rne)
  | .bunp h p d a => encV 0x72 h 0 .f32 (ofV d) (ofV a) 0 (modBits (0#3 ++ p.code) Mask.plain false .rne)
  | .bsat h p d a => encV 0x73 h 0 .nb (ofV d) (ofV a) 0 (modBits (0#3 ++ p.code) Mask.plain false .rne)
  | .bstat h => encA 0x74 h {}
  | .bnorm h d a x m => encV 0x75 h 0 .f32 (ofV d) (ofV a) x (modBits 0 m false .rne)
  | .balign h d a x => encV 0x76 h 0 .nb (ofV d) (ofV a) x 0
  | .bchk h a b => encV 0x77 h 0 .nb 0 a b 0
  | .tclm h t => encT 0x80 h { sa := t }
  | .trel h t => encT 0x81 h { sa := t }
  | .tld h t p xa xb fmt tr tab chk =>
    encT 0x82 h { sa := t, pa := p.code, xa := xa, xb := xb,
                  tmode := 0#9 ++ BitVec.ofBool chk ++ BitVec.ofBool tab ++ BitVec.ofBool tr ++ fmt.code }
  | .tmma h a ta tb => encT 0x83 h { acc := a, sa := ta, sb := tb }
  | .tmmi h sat a ta tb => encT 0x84 h { acc := a, sa := ta, sb := tb, tmode := 0#15 ++ BitVec.ofBool sat }
  | .tzero h a => encT 0x85 h { acc := a }
  | .trdRaw h a row d x => encT 0x86 h { acc := a, xa := ofV d, xb := x, fn := 0, tmode := 0#12 ++ row }
  | .trdI32 h a row d => encT 0x86 h { acc := a, xa := ofV d, fn := 1, tmode := 0#12 ++ row }
  | .twrRaw h a row d => encT 0x87 h { acc := a, xa := ofV d, fn := 0, tmode := 0#12 ++ row }
  | .twrI32 h a row d => encT 0x87 h { acc := a, xa := ofV d, fn := 1, tmode := 0#12 ++ row }
  | .twrExp h a x => encT 0x87 h { acc := a, xb := x, fn := 2 }
  | .tcvt h a row xt d rm => encT 0x88 h { acc := a, xa := xt, xb := ofV d, tmode := 0#10 ++ rm.code ++ row }
  | .tsend h a row q => encT 0x89 h { acc := a, fn := 0, tmode := 0#8 ++ row ++ q }
  | .tsendOpen h q depth => encT 0x89 h { fn := 1, tmode := depth ++ 0#4 ++ q }
  | .trecv h d x q => encT 0x8A h { xa := ofV d, xb := x, tmode := 0#12 ++ q }
  | .tstatSlots h x => encT 0x8B h { xb := x, fn := 0 }
  | .tstatExp h a x => encT 0x8B h { acc := a, xb := x, fn := 1 }
  | .tstatRed h x q => encT 0x8B h { xb := x, fn := 2, tmode := 0#12 ++ q }
  | .tsh h a n => encT 0x8C h { acc := a, fn := 0, tmode := 0#10 ++ n }
  | .tshTo h a x => encT 0x8C h { acc := a, xb := x, fn := 1 }
  | .qbindIn h q cls => encQ 0x90 h { qr := q, cls := 0#3 ++ cls, qop := 0 }
  | .qbindOut h q cls a hd => encQ 0x90 h { d := hd, qr := q, s := a, cls := 0#3 ++ cls, qop := 1 }
  | .qbindPantry h q p => encQ 0x90 h { qr := q, qop := 0#17 ++ p ++ 0#1 ++ 2#3 }
  | .qbindLarder h q a => encQ 0x90 h { qr := q, s := a, qop := 3 }
  | .qbindCap h q a => encQ 0x90 h { qr := q, s := a, qop := 4 }
  | .qfree h q => encQ 0x91 h { qr := q }
  | .pop h d q k => encQ 0x92 h { d := d, qr := q, qop := 0#20 ++ k }
  | .push h q a => encQ 0x93 h { qr := q, s := a }
  | .vpop h d q => encQ 0x94 h { d := ofV d, qr := q }
  | .vpush h q a => encQ 0x95 h { qr := q, s := ofV a }
  | .mopen h q n1 => encQ 0x96 h { qr := q, qop := 0#19 ++ n1 }
  | .mclose h q => encQ 0x97 h { qr := q }
  | .qstat h d q => encQ 0x98 h { d := d, qr := q }
  | .qpeek h d q k => encQ 0x99 h { d := d, qr := q, qop := 0#19 ++ k }
  | .clset h cls a => encQ 0x9A h { s := a, cls := 0#3 ++ cls }
  | .clget h d cls => encQ 0x9B h { d := d, cls := 0#3 ++ cls }
  | .tbind h k a => encQ 0x9C h { s := a, qop := 0#19 ++ k }
  | .tunb h k => encQ 0x9D h { qop := 0#19 ++ k }
  | .cellar h m a => encQ 0x9E h { s := a, qop := 0#19 ++ m }
  | .put h o => encE 0xA0 h (engFmt o 0 0)
  | .puts h o inc => encE 0xA1 h (engFmt o 0 inc)
  | .get h o => encE 0xA2 h (engFmt o 0 0)
  | .radd h op o => encE 0xA3 h (engFmt o op.code 0)
  | .ramo h op o c => encE 0xA4 h (engFmt o op.code c)
  | .bread h xs xa xd xx ev he => encE 0xA5 h ⟨xs, xa, xd, xx, 0#3 ++ ev, he⟩
  | .awrite h o => encE 0xA6 h (engFmt o 0 0)
  | .aread h o => encE 0xA7 h (engFmt o 0 0)
  | .waits h a b => encA 0xA8 h { s1 := a, s2 := b }
  | .fence h sc => encA 0xA9 h { mod := modBits (0#2 ++ sc.code) Mask.plain false .rne }
  | .hend h => encA 0xB0 h {}
  | .hmov h d src => encA 0xB1 h { d := d, fn := src.code }
  | .hst h sz m => encM 0xB2 h (memFmt 0 sz.code m)
  | .hadd h sz fp d m => encM 0xB3 h (memFmt (BitVec.ofBool fp ++ d) sz.code m)
  | .pwait h p a => encA 0xB4 h { s1 := a, mod := modBits (0#2 ++ p) Mask.plain false .rne }
  | .prel h p a => encA 0xB5 h { s1 := a, mod := modBits (0#2 ++ p) Mask.plain false .rne }
  | .pcur h d p a => encA 0xB6 h { d := d, s1 := a, mod := modBits (0#2 ++ p) Mask.plain false .rne }
  | .lsub h xs xa q => encE 0xB7 h { xs := xs, xa := xa, he := 0#12 ++ q }
  | .lctlStart h a v => encA 0xB8 h { s1 := a, s2 := v, fn := 0 }
  | .lctlRing h a v => encA 0xB8 h { s1 := a, s2 := v, fn := 1 }
  | .lctlStop h a => encA 0xB8 h { s1 := a, fn := 2 }
  | .lctlCsig h a => encA 0xB8 h { s1 := a, fn := 3 }
  | .pset h p a => encA 0xB9 h { s1 := a, mod := modBits (0#2 ++ p) Mask.plain false .rne }
  | .bar h id sc => encA 0xC0 h { fn := 0#5 ++ id, mod := modBits (0#2 ++ sc.code) Mask.plain false .rne }
  | .bara h id sc => encA 0xC1 h { fn := 0#5 ++ id, mod := modBits (0#2 ++ sc.code) Mask.plain false .rne }
  | .barw h id sc => encA 0xC2 h { fn := 0#5 ++ id, mod := modBits (0#2 ++ sc.code) Mask.plain false .rne }
  | .evset h k => encA 0xC3 h { fn := 0, mod := modBits k Mask.plain false .rne }
  | .evsetM h a => encA 0xC3 h { s1 := a, fn := 1 }
  | .evclr h k => encA 0xC4 h { fn := 0, mod := modBits k Mask.plain false .rne }
  | .evclrM h a => encA 0xC4 h { s1 := a, fn := 1 }
  | .evrd h d => encA 0xC5 h { d := d }
  | .dfadd h o => encE 0xC6 h (engFmt o 0 0)
  | .rdsys h d sys => encS 0xD0 h { d := d, sys := sys }
  | .wrsys h a sys => encS 0xD1 h { s1 := a, sys := sys }
  | .rett h => encS 0xD2 h {}
  | .sleep h a => encS 0xD3 h { s1 := a }
  | .capnar h d a b => encS 0xD4 h { d := d, s1 := a, s2 := b }
  | _ => none

/-- The word of an instruction of a core; 0 for an event, which has none. -/
def encode (i : Instr) : Word :=
  match i.enc with
  | some e => packWord e.op e.h e.body
  | none => 0

/-! ## The decoder -/

/-- The function value 0, where an opcode assigns no other (R280). -/
def fn0 (f : FmtA) (i : Instr) : Option Instr := guardOpt (f.fn == 0) i

/-- No function and no type: an opcode that assigns neither takes 0 in both (R277, R280). -/
def plainA (f : FmtA) (i : Instr) : Option Instr := guardOpt (f.fn == 0 && f.ty == 0) i

/-- Type code 0 only. -/
def ty0 (f : FmtA) (i : Option Instr) : Option Instr := if f.ty == 0 then i else none

/-- Format A opcodes of control and scalar arithmetic: the instruction a word names, its unused fields ignored; none
where FN or TY is no value of the opcode. -/
def readScalar (op : Nat) (h : Hdr) (f : FmtA) : Option Instr :=
  let ty := Ty.ofCode f.ty
  let rm := modRM f.mod
  match op with
  | 0x04 => plainA f (.jmp h f.s1)
  | 0x06 => plainA f (.ret h)
  | 0x08 => plainA f (.tend h)
  | 0x09 => plainA f (.tyield h)
  | 0x0A => plainA f (.twait h)
  | 0x0C => plainA f (.split h)
  | 0x0F => plainA f (.brk h (modImm f.mod))
  | 0x10 => fn0 f (.add h ty f.d f.s1 f.s2)
  | 0x11 => fn0 f (.sub h ty f.d f.s1 f.s2)
  | 0x12 => fn0 f (.mul h ty f.d f.s1 f.s2)
  | 0x13 => fn0 f (.mulh h ty f.d f.s1 f.s2)
  | 0x14 => fn0 f (.div h ty f.d f.s1 f.s2)
  | 0x15 => fn0 f (.rem h ty f.d f.s1 f.s2)
  | 0x16 => plainA f (.and h f.d f.s1 f.s2)
  | 0x17 => plainA f (.or h f.d f.s1 f.s2)
  | 0x18 => plainA f (.xor h f.d f.s1 f.s2)
  | 0x19 => plainA f (.andn h f.d f.s1 f.s2)
  | 0x1A => fn0 f (.shl h ty f.d f.s1 f.s2)
  | 0x1B => fn0 f (.shr h ty f.d f.s1 f.s2)
  | 0x1C => fn0 f (.sar h ty f.d f.s1 f.s2)
  | 0x1D => fn0 f (.rotr h ty f.d f.s1 f.s2)
  | 0x1E =>
    match f.fn.toNat with
    | 0 => some (.clz h ty f.d f.s1)
    | 1 => some (.ctz h ty f.d f.s1)
    | 2 => some (.popc h ty f.d f.s1)
    | 3 => some (.brev h ty f.d f.s1)
    | 4 => some (.bswap h ty f.d f.s1)
    | _ => none
  | 0x1F =>
    ty0 f (match f.fn.toNat with
      | 0 => some (.min h f.d f.s1 f.s2)
      | 1 => some (.max h f.d f.s1 f.s2)
      | 2 => some (.minu h f.d f.s1 f.s2)
      | 3 => some (.maxu h f.d f.s1 f.s2)
      | _ => none)
  | 0x26 => ty0 f ((Cond.ofCode f.fn.toNat).map fun c => .cmp h c (modF f.mod) f.d f.s1 f.s2)
  | 0x28 => plainA f (.sel h f.d f.s1 f.s2 f.s3)
  | 0x29 => ty0 f ((MovForm.ofCode f.fn.toNat).map fun m => .mov h m f.d f.s1)
  | 0x2A =>
    guardOpt (f.fn == 0 && (f.ty == 0 || f.ty == 4))
      (.ext h (f.ty == 0) f.d f.s1 (f.mod.extractLsb' 0 6) (f.mod.extractLsb' 6 6))
  | 0x2B => plainA f (.ins h f.d f.s1 (f.mod.extractLsb' 0 6) (f.mod.extractLsb' 6 6))
  | 0x2C =>
    match f.fn.toNat with
    | 0 => some (.fadd h ty f.d f.s1 f.s2 rm)
    | 1 => some (.fsub h ty f.d f.s1 f.s2 rm)
    | 2 => some (.fmul h ty f.d f.s1 f.s2 rm)
    | 3 => some (.fdiv h ty f.d f.s1 f.s2 rm)
    | 4 => some (.fsqrt h ty f.d f.s1 rm)
    | 5 => some (.fmin h ty f.d f.s1 f.s2)
    | 6 => some (.fmax h ty f.d f.s1 f.s2)
    | _ => none
  | 0x2D => fn0 f (.ffma h ty f.d f.s1 f.s2 f.s3 rm)
  | 0x2E => guardOpt (decide (f.fn.toNat < 16)) (.fcvt h ty (Ty.ofCode (f.fn.extractLsb' 0 4)) f.d f.s1 rm (modSat f.mod))
  | 0x2F => (FCmpOp.ofCode f.fn.toNat).map fun o => .fcmp h o ty (modF f.mod) f.d f.s1 f.s2
  | 0x34 => (AmoOp.ofCode f.fn.toNat).map fun o => .amo h o ty f.d f.s1 f.s2
  | 0x35 => fn0 f (.cas h ty f.d f.s1 f.s2 f.s3)
  | _ => none

/-- Format A opcodes of the vector unit. -/
def readVector (op : Nat) (h : Hdr) (f : FmtA) : Option Instr :=
  let ty := Ty.ofCode f.ty
  let rm := modRM f.mod
  let m := modMask f.mod
  let sat := modSat f.mod
  let d := vreg f.d
  let a := vreg f.s1
  let b := vreg f.s2
  let c := vreg f.s3
  let imm := modImm f.mod
  match op with
  | 0x40 => fn0 f (.vadd h ty d a b rm sat m)
  | 0x41 => fn0 f (.vsub h ty d a b rm sat m)
  | 0x42 => fn0 f (.vmul h ty d a b rm sat m)
  | 0x43 => fn0 f (.vfma h ty d a b c rm m)
  | 0x44 => guardOpt (decide (f.fn.toNat < 2)) (.vminmax h (f.fn == 1) ty d a b m)
  | 0x45 => (AbsNegOp.ofCode f.fn.toNat).map fun o => .vabsneg h o ty d a sat m
  | 0x46 => (LogicOp.ofCode f.fn.toNat).map fun o => .vlogic h o ty d a b m
  | 0x47 => (ShiftOp.ofCode f.fn.toNat).map fun o => .vshift h o ty d a b m
  | 0x48 => (VCmpOp.ofCode f.fn.toNat).map fun o => .vcmp h o ty (freg f.d) a b m
  | 0x49 => fn0 f (.vsel h ty d a b (freg f.s3) m)
  | 0x4A =>
    guardOpt (decide (f.fn.toNat < 16))
      (.vcvt h ty (Ty.ofCode (f.fn.extractLsb' 0 4)) d a (imm.extractLsb' 0 4) rm sat m)
  | 0x4B => fn0 f (.vdiv h ty d a b rm m)
  | 0x4C => fn0 f (.vsqrt h ty d a rm m)
  | 0x4D => fn0 f (.vrcp h ty d a rm m)
  | 0x4E => guardOpt (f.fn == 0 && f.ty == 9) (.vexp2 h d a rm m)
  | 0x4F => (RedOp.ofCode f.fn.toNat).map fun o => .vred h o ty f.d a rm m.k
  | 0x52 => fn0 f (.vlds h ty d f.s1 f.s2 m)
  | 0x53 => fn0 f (.vsts h ty d f.s1 f.s2 m)
  | 0x54 => fn0 f (.vgath h ty d f.s1 b (imm.extractLsb' 0 2) m)
  | 0x55 => fn0 f (.vscat h ty d f.s1 b (imm.extractLsb' 0 2) m)
  | 0x56 => fn0 f (.vbcast h ty d f.s1 m)
  | 0x57 => fn0 f (.vextr h ty f.d a imm)
  | 0x58 => fn0 f (.vinsr h ty d f.s1 imm)
  | 0x59 => fn0 f (.vperm h ty d a b m)
  | 0x5A => fn0 f (.vshuf h ty d a b c m)
  | 0x5B => fn0 f (.vslide h ty d a b imm m)
  | 0x5C => fn0 f (.vmov h ty d a m)
  | 0x5D => fn0 f (.viota h ty d f.s1 f.s2 m)
  | 0x5E => ty0 f ((MaskOp.ofCode f.fn.toNat).map fun o => .vmask h o f.d (freg f.s1) (freg f.s2))
  | 0x5F => (ScanOp.ofCode f.fn.toNat).map fun o => .vscan h o ty d a rm m
  | 0x60 => guardOpt (f.fn == 0 && (f.ty == 12 || f.ty == 13)) (.vdot h (f.ty == 13) d a b m)
  | 0x61 => guardOpt (f.fn == 0 && (f.ty == 3 || f.ty == 7)) (.vdoti h (f.ty == 7) sat d a b c m)
  | 0x62 => guardOpt (f.fn == 0 && f.ty == 8) (.dmma h d a b c rm)
  | 0x63 => guardOpt (f.fn == 0 && f.ty == 5) (.vrng h d f.s1 b)
  | 0x64 => fn0 f (.vclass h ty d a m)
  | 0x65 => (BitsOp.ofCode f.fn.toNat).map fun o => .vbits h o ty d a m
  | 0x70 =>
    guardOpt (decide (f.fn.toNat < 16) && f.ty == 15)
      (.bcvt h (Ty.ofCode (f.fn.extractLsb' 0 4)) (GroupSize.ofCode (imm.extractLsb' 0 2)) (imm.getLsbD 2) d a f.s2)
  | 0x71 =>
    guardOpt (decide (f.fn.toNat < 16) && f.ty == 15)
      (.bexp h (Ty.ofCode (f.fn.extractLsb' 0 4)) (GroupSize.ofCode (imm.extractLsb' 0 2)) f.d a)
  | 0x72 => guardOpt (f.fn == 0 && f.ty == 9) (.bunp h (Planes.ofCode (imm.extractLsb' 0 2)) d a)
  | 0x73 => guardOpt (f.fn == 0 && f.ty == 15) (.bsat h (Planes.ofCode (imm.extractLsb' 0 2)) d a)
  | 0x74 => plainA f (.bstat h)
  | 0x75 => guardOpt (f.fn == 0 && f.ty == 9) (.bnorm h d a f.s2 m)
  | 0x76 => guardOpt (f.fn == 0 && f.ty == 15) (.balign h d a f.s2)
  | 0x77 => guardOpt (f.fn == 0 && f.ty == 15) (.bchk h f.s1 f.s2)
  | _ => none

/-- Format A opcodes of waits, handlers, pantries, larder control, barriers and events. -/
def readSync (op : Nat) (h : Hdr) (f : FmtA) : Option Instr :=
  let imm := modImm f.mod
  let p : BitVec 3 := imm.extractLsb' 0 3
  match op with
  | 0xA8 => plainA f (.waits h f.s1 f.s2)
  | 0xA9 => plainA f (.fence h (Scope.ofCode p))
  | 0xB0 => plainA f (.hend h)
  | 0xB1 => ty0 f ((BurstCoord.ofCode f.fn.toNat).map fun s => .hmov h f.d s)
  | 0xB4 => plainA f (.pwait h p f.s1)
  | 0xB5 => plainA f (.prel h p f.s1)
  | 0xB6 => plainA f (.pcur h f.d p f.s1)
  | 0xB8 =>
    ty0 f (match f.fn.toNat with
      | 0 => some (.lctlStart h f.s1 f.s2)
      | 1 => some (.lctlRing h f.s1 f.s2)
      | 2 => some (.lctlStop h f.s1)
      | 3 => some (.lctlCsig h f.s1)
      | _ => none)
  | 0xB9 => plainA f (.pset h p f.s1)
  | 0xC0 => guardOpt (decide (f.fn.toNat < 8) && f.ty == 0) (.bar h (f.fn.extractLsb' 0 3) (Scope.ofCode p))
  | 0xC1 => guardOpt (decide (f.fn.toNat < 8) && f.ty == 0) (.bara h (f.fn.extractLsb' 0 3) (Scope.ofCode p))
  | 0xC2 => guardOpt (decide (f.fn.toNat < 8) && f.ty == 0) (.barw h (f.fn.extractLsb' 0 3) (Scope.ofCode p))
  | 0xC3 =>
    ty0 f (match f.fn.toNat with
      | 0 => some (.evset h imm)
      | 1 => some (.evsetM h f.s1)
      | _ => none)
  | 0xC4 =>
    ty0 f (match f.fn.toNat with
      | 0 => some (.evclr h imm)
      | 1 => some (.evclrM h f.s1)
      | _ => none)
  | 0xC5 => plainA f (.evrd h f.d)
  | _ => none

/-- Format I opcodes. -/
def readImm (op : Nat) (h : Hdr) (f : FmtI) : Option Instr :=
  match op with
  | 0x0B => guardOpt (f.fn4 == 0) (.gang h (f.imm == 1))
  | 0x0E => guardOpt (f.fn4 == 0) (.trap h f.imm)
  | 0x20 => guardOpt (f.fn4 == 0) (.addi h f.d f.s1 f.imm)
  | 0x21 => guardOpt (f.fn4 == 0) (.andi h f.d f.s1 f.imm)
  | 0x22 => guardOpt (f.fn4 == 0) (.ori h f.d f.s1 f.imm)
  | 0x23 => guardOpt (f.fn4 == 0) (.xori h f.d f.s1 f.imm)
  | 0x24 => (ShiftOp.ofCode f.fn4.toNat).map fun o => .shi h o f.d f.s1 (f.imm.extractLsb' 0 6)
  | 0x25 =>
    match f.fn4.toNat with
    | 0 => some (.li h f.d f.imm)
    | 1 => some (.liHi h f.d f.imm)
    | _ => none
  | 0x27 => (Cond.ofCode f.fn4.toNat).map fun c => .cmpi h c f.d f.s1 f.imm
  | 0x36 =>
    guardOpt (f.fn4 == 0)
      (if f.imm.getLsbD 3 then
        .seg h (f.imm.extractLsb' 0 3) (f.imm.extractLsb' 4 7) (f.imm.extractLsb' 11 8) (f.imm.extractLsb' 19 3)
      else .segOff h (f.imm.extractLsb' 0 3))
  | _ => none

/-- Format M opcodes. -/
def readMem (op : Nat) (h : Hdr) (f : FmtM) : Option Instr :=
  match op with
  | 0x30 => (MemSize.ofCode f.size).map fun s => .ld h s f.dr f.mem
  | 0x31 => (StSize.ofCode f.size).map fun s => .st h s f.dr f.mem
  | 0x32 => guardOpt (f.size == 3) (.ldp h f.dr f.mem)
  | 0x33 => guardOpt (f.size == 3) (.stp h f.dr f.mem)
  | 0x50 => guardOpt (f.size == 3) (.vld h (vreg f.dr) f.mem)
  | 0x51 => guardOpt (f.size == 3) (.vst h (vreg f.dr) f.mem)
  | 0xB2 => (StSize.ofCode f.size).map fun s => .hst h s f.mem
  | 0xB3 => (StSize.ofCode f.size).map fun s => .hadd h s (f.dr.getLsbD 5) (vreg f.dr) f.mem
  | _ => none

/-- Format B opcodes. -/
def readBranch (op : Nat) (h : Hdr) (f : FmtB) : Option Instr :=
  match op with
  | 0x01 => guardOpt (f.cond == 0) (.br h f.off)
  | 0x02 => (Cond.ofCode f.cond.toNat).map fun c => .brc h c f.s1 f.s2 f.off
  | 0x03 => (MaskTest.ofCode f.cond.toNat).map fun t => .brf h t (freg f.s1) f.off
  | 0x05 => guardOpt (f.cond == 0) (.call h f.off)
  | 0x07 => guardOpt (f.cond == 0) (.loop h (f.s2 == 1) f.s1 f.off)
  | 0x0D => (Cond.ofCode (f.cond.toNat % 8)).map fun c => .gbr h (f.cond.getLsbD 3) c f.s1 f.s2 f.off
  | _ => none

/-- Format Q opcodes. A kind of QBIND that is reserved reads as one whose word it is not (R383). -/
def readQueue (op : Nat) (h : Hdr) (f : FmtQ) : Option Instr :=
  let cls : BitVec 5 := f.cls.extractLsb' 0 5
  let k : BitVec 5 := f.qop.extractLsb' 0 5
  match op with
  | 0x90 =>
    match (f.qop.extractLsb' 0 3).toNat with
    | 0 => some (.qbindIn h f.qr cls)
    | 1 => some (.qbindOut h f.qr cls f.s f.d)
    | 2 => some (.qbindPantry h f.qr (f.qop.extractLsb' 4 3))
    | 3 => some (.qbindLarder h f.qr f.s)
    | _ => some (.qbindCap h f.qr f.s)
  | 0x91 => some (.qfree h f.qr)
  | 0x92 => some (.pop h f.d f.qr (f.qop.extractLsb' 0 4))
  | 0x93 => some (.push h f.qr f.s)
  | 0x94 => some (.vpop h (vreg f.d) f.qr)
  | 0x95 => some (.vpush h f.qr (vreg f.s))
  | 0x96 => some (.mopen h f.qr k)
  | 0x97 => some (.mclose h f.qr)
  | 0x98 => some (.qstat h f.d f.qr)
  | 0x99 => some (.qpeek h f.d f.qr k)
  | 0x9A => some (.clset h cls f.s)
  | 0x9B => some (.clget h f.d cls)
  | 0x9C => some (.tbind h k f.s)
  | 0x9D => some (.tunb h k)
  | 0x9E => some (.cellar h k f.s)
  | _ => none

/-- Format T opcodes. PA takes the plane codes on TLD alone, and 0 elsewhere; PB takes 0 alone (R278, R281, R367). -/
def readTensor (op : Nat) (h : Hdr) (f : FmtT) : Option Instr :=
  let row : BitVec 4 := f.tmode.extractLsb' 0 4
  let i? : Option Instr :=
    match op, f.fn.toNat with
    | 0x80, 0 => some (.tclm h f.sa)
    | 0x81, 0 => some (.trel h f.sa)
    | 0x82, 0 =>
      some (.tld h f.sa (Planes.ofCode f.pa) f.xa f.xb (Ty.ofCode row) (f.tmode.getLsbD 4) (f.tmode.getLsbD 5)
        (f.tmode.getLsbD 6))
    | 0x83, 0 => some (.tmma h f.acc f.sa f.sb)
    | 0x84, 0 => some (.tmmi h (f.tmode.getLsbD 0) f.acc f.sa f.sb)
    | 0x85, 0 => some (.tzero h f.acc)
    | 0x86, 0 => some (.trdRaw h f.acc row (vreg f.xa) f.xb)
    | 0x86, 1 => some (.trdI32 h f.acc row (vreg f.xa))
    | 0x87, 0 => some (.twrRaw h f.acc row (vreg f.xa))
    | 0x87, 1 => some (.twrI32 h f.acc row (vreg f.xa))
    | 0x87, 2 => some (.twrExp h f.acc f.xb)
    | 0x88, 0 => some (.tcvt h f.acc row f.xa (vreg f.xb) (RM.ofCode (f.tmode.extractLsb' 4 2)))
    | 0x89, 0 => some (.tsend h f.acc (f.tmode.extractLsb' 4 4) row)
    | 0x89, 1 => some (.tsendOpen h row (f.tmode.extractLsb' 8 8))
    | 0x8A, 0 => some (.trecv h (vreg f.xa) f.xb row)
    | 0x8B, 0 => some (.tstatSlots h f.xb)
    | 0x8B, 1 => some (.tstatExp h f.acc f.xb)
    | 0x8B, 2 => some (.tstatRed h f.xb row)
    | 0x8C, 0 => some (.tsh h f.acc (f.tmode.extractLsb' 0 6))
    | 0x8C, 1 => some (.tshTo h f.acc f.xb)
    | _, _ => none
  if f.pb != 0 || f.pa == 3 || (f.pa != 0 && op != 0x82) then none else i?

/-- Format E opcodes. -/
def readEngine (op : Nat) (h : Hdr) (f : FmtE) : Option Instr :=
  match op with
  | 0xA0 => some (.put h f.eng)
  | 0xA1 => some (.puts h f.eng f.he2)
  | 0xA2 => some (.get h f.eng)
  | 0xA3 => some (.radd h (RaddOp.ofCode (f.ev.extractLsb' 5 3)) f.eng)
  | 0xA4 => some (.ramo h (RamoOp.ofCode (f.ev.extractLsb' 5 3)) f.eng f.he2)
  | 0xA5 => some (.bread h f.xs f.xa f.xd f.xx (f.ev.extractLsb' 0 5) f.he)
  | 0xA6 => some (.awrite h f.eng)
  | 0xA7 => some (.aread h f.eng)
  | 0xB7 => some (.lsub h f.xs f.xa (f.he.extractLsb' 0 4))
  | 0xC6 => some (.dfadd h f.eng)
  | _ => none

/-- Format S opcodes. -/
def readSystem (op : Nat) (h : Hdr) (f : FmtS) : Option Instr :=
  match op with
  | 0xD0 => some (.rdsys h f.d f.sys)
  | 0xD1 => some (.wrsys h f.s1 f.sys)
  | 0xD2 => some (.rett h)
  | 0xD3 => some (.sleep h f.s1)
  | 0xD4 => some (.capnar h f.d f.s1 f.s2)
  | _ => none

/-- The formats of R272. -/
inductive Format where
  | nop | scalar | vector | sync | imm | mem | branch | queue | tensor | engine | system
  deriving DecidableEq, Repr

/-- The format of an assigned opcode (R279); none for an unassigned one. Format A is listed by unit. -/
def formatOf (op : Nat) : Option Format :=
  if op = 0 then some .nop
  else if op = 0x0B || op = 0x0E then some .imm
  else if op = 0x01 || op = 0x02 || op = 0x03 || op = 0x05 || op = 0x07 || op = 0x0D then some .branch
  else if op < 0x20 then some .scalar
  else if op < 0x26 || op = 0x27 || op = 0x36 then some .imm
  else if op < 0x30 || op = 0x34 || op = 0x35 then some .scalar
  else if op < 0x34 then some .mem
  else if op < 0x40 then none
  else if op = 0x50 || op = 0x51 then some .mem
  else if op < 0x66 || (0x70 ≤ op && op < 0x78) then some .vector
  else if op < 0x80 then none
  else if op < 0x8D then some .tensor
  else if op < 0x90 then none
  else if op < 0x9F then some .queue
  else if op < 0xA0 then none
  else if op < 0xA8 || op = 0xB7 || op = 0xC6 then some .engine
  else if op = 0xB2 || op = 0xB3 then some .mem
  else if op < 0xAA || (0xB0 ≤ op && op < 0xBA) || (0xC0 ≤ op && op < 0xC6) then some .sync
  else if 0xD0 ≤ op && op < 0xD5 then some .system
  else none

/-- The instruction a word names when its unused fields, its header and its register numbers are not judged; none where
R281, order 1, or a function or type value the opcode does not have makes the word illegal. -/
def readWord (w : Word) : Option Instr :=
  let op := (opOf w).toNat
  let h := hdrOf w
  match formatOf op with
  | none => none
  | some .nop => some .nop
  | some .scalar => readScalar op h (fmtA w)
  | some .vector => readVector op h (fmtA w)
  | some .sync => readSync op h (fmtA w)
  | some .imm => readImm op h (fmtI w)
  | some .mem => readMem op h (fmtM w)
  | some .branch => readBranch op h (fmtB w)
  | some .queue => readQueue op h (fmtQ w)
  | some .tensor => readTensor op h (fmtT w)
  | some .engine => readEngine op h (fmtE w)
  | some .system => readSystem op h (fmtS w)

/-- The decoder (R281). Orders 1 and 2 make a word illegal: no opcode, function or type of the map. Order 3 makes it
reserved: an operand the entry forbids, or a bit set that the instruction's own encoding leaves 0. -/
def decode (w : Word) : Except Fate Instr :=
  match readWord w with
  | none => .error .illegal
  | some i =>
    if !i.check.types then .error .illegal
    else if i.check.fields && encode i == w then .ok i
    else .error .reserved

/-- The word that eight bytes hold, least significant byte first (R270). -/
def wordOfBytes (b : List Byte) : Word := b.foldr (fun x acc => acc <<< 8 ||| x.setWidth 64) 0

/-- The bytes of a word, least significant first (R270). -/
def bytesOfWord (w : Word) : List Byte := (List.range 8).map fun k => w.extractLsb' (8 * k) 8

/-- The decoder on bytes at an instruction's address: the first eight bytes and the rest (R270); none where fewer stand
there. -/
def decodeBytes (b : List Byte) : Option (Except Fate Instr × List Byte) :=
  if b.length < 8 then none else some (decode (wordOfBytes (b.take 8)), b.drop 8)

/-- The instruction read from a word given as its low bits; bits above them are 0. -/
def decodeTableWord (nbits w : Nat) : Option Instr :=
  match decode (BitVec.ofNat 64 (w % 2 ^ nbits)) with
  | .ok i => some i
  | .error _ => none

end Sys2Proof
end

