-- ==== Sys2Proof/Config.lean ====
section
/-! DEFINITION. The values the spec leaves open, each a constant with no body: nothing in Lean can evaluate one, so a
statement about the machine holds whatever they are. -/

namespace Sys2Proof.Config

/-- A free bit: the old or new value a read in a lookahead window sees with HAZMODE 0, and the like (R137). -/
opaque freeBit : Nat → Bool

/-- A byte of a memory whose content is undefined: the content's number and the address (R97). -/
opaque freeByte : Nat → Nat → BitVec 8

/-- A free 64-bit value. -/
opaque freeWord : Nat → BitVec 64

/-- The seal over bits [63:24] of a handle, under a boot's key (R116). -/
opaque sealOf : Nat → BitVec 40 → BitVec 24

/-- The key drawn at a device reset, from its number (R116). -/
opaque bootKey : Nat → Nat

/-- The trusted key pairs held in ROM, each as two SHA-384 hashes (R50, R60). -/
opaque romKeys : List (List (BitVec 8))

/-- The secret starts of the two primes of an RSA key pair, of the device (0), the Cartur intermediate (1) and the Cartur root (2)
(R61, R62). -/
opaque primeSeed : Nat → Bool → Nat
/-- The secrets of an SLH-DSA key pair of the same holders: SK.seed (0), SK.prf (1) and PK.seed (2) (R61, R62). -/
opaque slhSeed : Nat → Nat → List (BitVec 8)
/-- The salt of an RSASSA-PSS signature of a holder, by the number of the signature (R60). -/
opaque pssSalt : Nat → Nat → List (BitVec 8)
/-- The randomness of an SLH-DSA signature of a holder, by the number of the signature (R60). -/
opaque slhRandom : Nat → Nat → List (BitVec 8)

/-- ISSUED of the device certificate (true) and the intermediate's (false) (R62). -/
opaque certIssued : Bool → BitVec 64

/-- SERIAL, fixed for the part (R43). -/
opaque serial : BitVec 64

/-- The release number of the boot ROM (R43). -/
opaque romRelease : BitVec 32

/-- Whether the far end of a Poluri link agrees to a training exchange (R37). -/
opaque trainAgrees : Nat → Bool

/-- The payload of a CTRL frame, for the n-th one sent (R33). -/
opaque ctrlPayload : Nat → BitVec 1024

/-- The payload of a BARRIER frame: release or arrive, and the pod barrier id (R33). -/
opaque barrierPayload : Bool → Nat → BitVec 1024

/-- What a received BARRIER payload signals: release or arrive, and the pod barrier id (R33). -/
opaque barrierSignal : BitVec 1024 → Option (Bool × Nat)

/-- The port towards the root of the pod barrier tree; none at the root (R33). -/
opaque podParent : Option Nat

/-- The ports away from the root of the pod barrier tree (R33). -/
opaque podChildren : List Nat

/-- The attic context under which an edge merge unit writes to attic space: COLL names none (R77). -/
opaque collActx : Nat

end Sys2Proof.Config
end

