-- ==== Sys2Proof/Machine/State.lean ====
section
/-! DEFINITION. The state of the wafer engine as plain data: the cores of the logical grid, the routers of the physical
grid, the larders, the edge links, the command processor with its queues and launches, the host ports and the flash.
A map that lists no entry for a number holds that thing's reset value there. -/

namespace Sys2Proof.Machine

/-- What an unlisted address of a memory reads as: a fixed byte, or the free bytes of one undefined content (R97). -/
inductive Fill where
  | const (b : Byte)
  | free (n : Nat)
  deriving DecidableEq, Repr

/-- A byte memory: its unlisted content and its listed cells, strictly rising by address. -/
structure Memory where
  fill : Fill
  cells : List Host.Cell
  deriving DecidableEq, Repr

/-- What an address that nothing has written reads as: 0 in every store but the flash (log entry 3). -/
def Memory.unlisted : Byte := 0

/-- A memory nothing has written. -/
def Memory.empty : Memory := ⟨.const Memory.unlisted, []⟩

/-- Erased flash: every byte 0xFF (R54, R106). -/
def Memory.erased : Memory := ⟨.const 0xFF, []⟩

/-- The execution contexts of a core: the running task, or one of eight handler contexts (R130). -/
inductive Ctx where
  | main
  | handler (k : Nat)
  deriving DecidableEq, Repr

/-- A register named by an instruction: file and number (R120). -/
inductive RegRef where
  | x (n : Nat) | v (n : Nat) | f (n : Nat) | a (n : Nat) | t (n : Nat) | q (n : Nat) | lc (n : Nat)
  deriving DecidableEq, Repr

/-- A loop counter (R295). -/
structure LoopCtr where
  count : BitVec 32 := 0
  start : BitVec 16 := 0
  stop : BitVec 16 := 0
  deriving DecidableEq, Repr

/-- An operand slot (R366): rows of 40 bytes, row i at key i. -/
structure Slot where
  claimed : Bool := false
  i8 : Bool := false
  planes : Planes := .p2
  rows : FMap (BitVec 320) := []
  deriving DecidableEq, Repr

/-- An accumulator tile (R120): element (i, j) at key 16 i + j, and the tile exponent. -/
structure Tile where
  el : FMap (BitVec 48) := []
  exp : BitVec 10 := 0
  deriving DecidableEq, Repr

/-- A queue register's binding (R385). -/
inductive QBind where
  | unbound
  | inQ (cls : BitVec 5)
  | outQ (cls : BitVec 5) (drow dcol : Nat) (handle : Word)
  | pantry (p : Nat) (off : Nat)
  | larder (n c : Nat)
  | cap (handle : Word)
  deriving DecidableEq, Repr

/-- A message under assembly on an OUT binding (R388): its length in flits, the cursor and the bytes of the flit that
the cursor stands in. -/
structure OpenMsg where
  flits : Nat
  cursor : Nat
  part : BitVec 1024
  deriving DecidableEq, Repr

/-- A task entry (R127): readyAt is the cycle, by the core's stamp, in which it became ready, waits the switches counted
(R129). -/
structure Task where
  entry : BitVec 16
  pc : BitVec 16
  prio : BitVec 2
  onEvent : Bool
  k : BitVec 5
  again : Bool := false
  readyAt : Option Nat := none
  waits : Nat := 0
  deriving DecidableEq, Repr

/-- A burst of a bulk read as it is delivered (R252, R263). -/
structure Burst where
  tag : Nat
  bix : BitVec 32
  bxc : BitVec 32
  byc : BitVec 32
  bcnt : BitVec 16
  data : BitVec 1024
  deriving DecidableEq, Repr

/-- A handler context (R130). -/
structure Handler where
  busy : Bool := false
  y : FMap Word := []
  w : FMap (BitVec 512) := []
  bix : BitVec 32 := 0
  bxc : BitVec 32 := 0
  byc : BitVec 32 := 0
  bcnt : BitVec 16 := 0
  pc : BitVec 16 := 0
  tag : Nat := 0
  deriving DecidableEq, Repr

/-- A pantry descriptor and its counters (R258); sets counts the PSETs that wrote it, by which a delivery accepted before one
knows its descriptor (R261). -/
structure Pantry where
  base : BitVec 19 := 0
  logsz : Nat := 0
  valid : Bool := false
  outbound : Bool := false
  fill : BitVec 32 := 0
  cur : BitVec 32 := 0
  rel : BitVec 32 := 0
  sets : Nat := 0
  deriving DecidableEq, Repr

/-- A segment descriptor (R125, R147). -/
structure Segment where
  valid : Bool := false
  base : BitVec 7 := 0
  size : BitVec 8 := 0
  span : BitVec 3 := 0
  deriving DecidableEq, Repr

/-- The value a long-latency instruction has ready for one destination register (R136). -/
inductive DestVal where
  | x (n : Nat) (v : Word)
  | v (n : Nat) (v : BitVec 512)
  | f (n : Nat) (v : BitVec 16)
  | a (n : Nat) (t : Tile)
  | t (n : Nat) (s : Slot)
  deriving DecidableEq, Repr

/-- The trap of a long-latency instruction found after it issued (R141). -/
structure LateTrap where
  code : BitVec 8
  val : Word
  deriving DecidableEq, Repr

/-- A pending result (R136): who issued it, its destinations, the instructions left in its window (whole: the
instruction carried LA 0, so every later instruction of the context waits), its flags and counts, and its deferred
trap. -/
structure Pending where
  ctx : Ctx
  fpc : BitVec 16
  dests : List DestVal
  left : Nat
  whole : Bool
  array : Bool
  flags : BitVec 5
  sat : Nat
  nan : Nat
  ufl : Nat
  late : Option LateTrap
  deriving DecidableEq, Repr

/-- The trap of a handler held for the main context (R141). -/
structure HeldTrap where
  code : BitVec 8
  val : Word
  hctx : Nat
  fpc : BitVec 16
  deriving DecidableEq, Repr

/-- What a stalled task waits for at a blocking instruction (R128): the instruction stands at its PC; met says that a WAITS has read a
value that ends it, and barrier that the arrival of a BAR has been made (R90, R406). -/
inductive Wait where
  | run
  | instr
  | met
  | barrier (sc : Scope) (id : BitVec 3)
  | gang (block : Bool)
  deriving DecidableEq, Repr

/-- The kinds of engine operation (R398). -/
inductive EngKind where
  | put | puts | get | radd | ramo | dfadd | awrite | aread | lsub
  deriving DecidableEq, Repr

/-- A signal that a PUTS sends once its data is acknowledged (R401). -/
structure PutsSignal where
  addr : BitVec 19
  val : Word
  sent : Bool
  deriving DecidableEq, Repr

/-- An engine operation in flight (R398 to R400): its first tag and number of messages, the answers received
(message index, code, sectors), its target and the local range it holds; cutShort holds the messages of an AREAD whose data has
come, the sectors being fewer than asked for, and whose code is still to come (R405). -/
structure EngineOp where
  kind : EngKind
  xs : Nat
  xd : Nat
  tag : BitVec 16
  msgs : Nat
  answers : List (Nat × Nat × Nat)
  cls : BitVec 5
  drow : Nat
  dcol : Nat
  handle : Word
  lo : Nat
  len : Nat
  src : Bool
  signal : Option PutsSignal
  cutShort : List (Nat × Nat) := []
  deriving DecidableEq, Repr

/-- The descriptor of a bulk read (R262). -/
structure BreadDesc where
  width : Nat
  height : Nat
  stride : Int
  x0 : Nat
  x1 : Nat
  y0 : Nat
  y1 : Nat
  dest : Nat
  dpitch : Nat
  direct : Bool
  deriving DecidableEq, Repr

/-- A bulk read in flight at its requester (R262, R266). -/
structure Bread where
  xs : Nat
  ev : BitVec 5
  he : BitVec 16
  arg : Word
  src : Word
  desc : BreadDesc
  total : Nat
  delivered : Nat
  handled : Nat
  sectors : Nat
  code : Nat
  ended : Bool
  deriving DecidableEq, Repr

/-- A core-space bulk read being sent by its source core (R263). -/
structure BreadSource where
  rrow : Nat
  rcol : Nat
  tag : Nat
  off : Nat
  desc : BreadDesc
  next : Nat
  deriving DecidableEq, Repr

/-- One request of a DFADD batch (R236): requester, tag and increment. -/
structure DfReq where
  srow : Nat
  scol : Nat
  tag : BitVec 16
  inc : Word
  cls : BitVec 5
  deriving DecidableEq, Repr

/-- An open DFADD batch (R236). -/
structure DfBatch where
  addr : BitVec 19
  opened : Nat
  reqs : List DfReq
  deriving DecidableEq, Repr

/-- A renormalisation in force for a class (R200): the chunk it names and its exponent. -/
structure Renorm where
  chunk : BitVec 15
  exp : Int
  deriving DecidableEq, Repr

/-- SLEEP (R328): awake; executed and not yet gated; gated since a cycle with a timeout; or woken. -/
inductive SleepSt where
  | awake
  | gated (since : Nat) (timeout : Nat)
  deriving DecidableEq, Repr

/-- The gang a core belongs to (R133): leader, size, and the gang's north-west core. -/
structure GangSt where
  leader : Bool
  block : Bool
  row : Nat
  col : Nat
  deriving DecidableEq, Repr

/-- The registers that all tasks of a core share (R120). -/
structure Regs where
  x : FMap Word := []
  v : FMap (BitVec 512) := []
  f : FMap (BitVec 16) := []
  a : FMap Tile := []
  t : FMap Slot := []
  q : FMap QBind := []
  lc : FMap LoopCtr := []
  deriving DecidableEq, Repr

/-- The system registers of R124 that are storage of their own; idle is STATUS.IDLE and TASKID.NONE (R125, R129). -/
structure Sys where
  idle : Bool := false
  mode : Bool := true
  pmode : Bool := false
  vecen : Bool := false
  vec : BitVec 13 := 0
  evflags : BitVec 32 := 0
  cause : Word := 0
  trappc : BitVec 16 := 0
  trapval : Word := 0
  fpflags : BitVec 5 := 0
  precise : Bool := false
  det : Bool := false
  orgRow : BitVec 9 := 0
  orgCol : BitVec 9 := 0
  rows : BitVec 9 := 0
  cols : BitVec 9 := 0
  prio : BitVec 2 := 0
  capself : Word := 0
  satcnt : BitVec 32 := 0
  nancnt : BitVec 32 := 0
  uflcnt : BitVec 32 := 0
  ecccnt : BitVec 16 := 0
  scratch : FMap Word := []
  seg : FMap Segment := []
  dbgpc : FMap (BitVec 23) := []
  dbgwa : FMap (BitVec 25) := []
  deriving DecidableEq, Repr

/-- What has landed in a core in the cycle of stamp cycle: the event flags that others have set, and by context the flags
and counts of the results written, each in order (R127, R326, R330). -/
structure Landed where
  cycle : Nat := 0
  sets : BitVec 32 := 0
  results : List (Ctx × BitVec 5 × Nat × Nat × Nat) := []
  counts : BitVec 32 × BitVec 32 × BitVec 32 := (0, 0, 0)
  deriving DecidableEq, Repr

/-- A logical core (07, 08, 10, 11, 16). stamp counts the cycles that pass, for what coincides in one of them; own marks the
pantries that PSET has set for the core's present launch (R140). caps holds the tag and target of each capability request outstanding (R392);
verdicts, by class, the code with which the message at the head of rx was refused as its first flit arrived, if it was (R216);
resetting says that the core's region is between the steps 1 and 5 of R97. arrivals the bits of R409 and fencing, for an arrival whose fence is not satisfied yet, the tags it waits for (R233);
opens the messages under assembly (R388), behind what waits to be sent on a class until the message under assembly there has
left (R149, R157); accepted, for a pantry delivery whose first flit stands at the head of rx and that has not begun, the stamp at which
it came and the pantry that it is judged and performed against; pushed, for one that is held, the sectors performed and the
pantry as it then stood (R259, R261, R269). -/
structure Core where
  regs : Regs := {}
  sys : Sys := {}
  pc : BitVec 16 := 0
  running : Option Nat := none
  wait : Wait := .run
  halted : Bool := false
  gang : Option GangSt := none
  tasks : FMap Task := []
  stamp : Nat := 0
  landed : Landed := {}
  handlers : FMap Handler := []
  bursts : List Burst := []
  lastIssue : Nat := 0
  pending : List Pending := []
  held : Option HeldTrap := none
  watch : List Nat := []
  sram : Memory := Memory.empty
  istore : Memory := Memory.empty
  runsCode : Bool := false
  resident : List (Nat × Nat) := []
  queues : FMap (List Flit) := []
  cellar : Option (BitVec 19 × Nat) := none
  pantries : FMap Pantry := []
  own : BitVec 8 := 0
  opens : FMap OpenMsg := []
  caps : List (Nat × Nat) := []
  routes : FMap (BitVec 32) := []
  nodeFloor : FMap (List Renorm) := []
  sendFloor : FMap (List Renorm) := []
  depth : FMap Nat := []
  merged : FMap (BitVec 15) := []
  chunk : FMap (BitVec 15) := []
  egress : FMap (List Flit) := []
  behind : FMap (List Flit) := []
  rx : FMap (List Flit) := []
  verdicts : FMap (Option Nat) := []
  resetting : Bool := false
  accepted : FMap (Nat × Pantry) := []
  pushed : FMap (Nat × Pantry) := []
  nextTag : BitVec 16 := 4
  ops : List EngineOp := []
  breads : FMap Bread := []
  sources : List BreadSource := []
  batches : List DfBatch := []
  arrivals : BitVec 24 := 0
  fencing : FMap (List Nat) := []
  sleep : SleepSt := .awake
  frozen : Bool := false
  draining : Bool := false
  markers : List (Nat × Nat) := []
  injected : Nat := 0
  delivered : Nat := 0
  eccLast : Option (BitVec 19 × Nat) := none
  deriving DecidableEq, Repr

/-- A physical router. Input d holds class q at key 32 d + q for d from N to W (the local input is the core's egress);
for an input's head, entry is the routing entry that was in force when it became the head (R159) and served the outputs
that have their copy; path is where the rest of a message at an input goes, how many of its flits are still to come and its first flit.
Output o holds class q at key 32 o + q, filled when; lastCls and lastIn are the round-robin places, lock the input that
holds an output for a message and the flits of it still to come (R157); waiting is when the stall counter of a class
started (R170); retries the failed sends of a hop (R174). -/
structure Router where
  inp : FMap (List Flit) := []
  entry : FMap (BitVec 32) := []
  served : FMap (BitVec 5) := []
  path : FMap (BitVec 5 × Nat × Flit) := []
  out : FMap (List Flit) := []
  filled : FMap Nat := []
  lastCls : FMap Nat := []
  lastIn : FMap Nat := []
  lock : FMap (Nat × Nat) := []
  waiting : FMap Nat := []
  retries : FMap Nat := []
  deriving DecidableEq, Repr

/-- The states of a larder context (R240). -/
inductive LSt where
  | idle | run | wait | fault | stopped | ended
  deriving DecidableEq, Repr

/-- The fault kinds of R254. -/
inductive LKind where
  | none | xlate | poison | nomem | skew | badcmd | range
  deriving DecidableEq, Repr

/-- What a larder context has under way: sectors for a pantry, a burst of a bulk read, a sector on its way to the attic
from a pantry or from SRAM, or a SIGNAL. -/
inductive Transfer where
  | push (p : Nat)
  | burst (j : Nat)
  | wback (p : Option Nat)
  | signal
  deriving DecidableEq, Repr

/-- A transfer of a larder context that is not complete (R253): its attic sectors, the data once read, the class, the
cores it is still to be sent to and those that have not answered, whether the command it belongs to is the current one, and
the number under which an RDREQ asks for it (R249). -/
structure LRead where
  what : Transfer
  va : BitVec 48
  pas : List Nat
  data : Option (List Byte)
  cls : Nat
  cores : List Nat
  waits : List Nat
  mine : Bool
  id : Nat := 0
  deriving DecidableEq, Repr

/-- A larder command context: the fields of its record (R255), the command in progress with the sectors of it that have
been issued, the transfers not complete, a fault found and not yet taken, and a stop asked for. whole says that ELEM counts
a data command that has been issued whole, nextId numbers the transfers, and resumed keeps the KIND that an LRESUME has cleared
and the cycle in which it did (R269). -/
structure LCtx where
  st : LSt := .idle
  kind : LKind := .none
  ring : Bool := false
  csig : BitVec 16 := 0
  cp : BitVec 48 := 0
  fva : BitVec 48 := 0
  idx : BitVec 64 := 0
  dcore : BitVec 32 := 0
  elem : BitVec 32 := 0
  open0 : Bool := false
  open1 : Bool := false
  lc0 : BitVec 32 := 0
  lc1 : BitVec 32 := 0
  lstart0 : BitVec 48 := 0
  lstart1 : BitVec 48 := 0
  ringva : BitVec 48 := 0
  logn : Nat := 4
  head : BitVec 32 := 0
  tail : BitVec 32 := 0
  g : FMap Word := []
  cmd : Option (Word × Word) := none
  step : Nat := 0
  reads : List LRead := []
  found : Option (LKind × BitVec 48) := none
  stopAsked : Bool := false
  whole : Bool := true
  nextId : Nat := 0
  resumed : Option (Nat × LKind) := none
  deriving DecidableEq, Repr

/-- The bulk read held by a service context (R267). -/
structure Serving where
  launch : Nat
  tag : Nat
  ev : BitVec 5
  src : Word
  row : Nat
  col : Nat
  desc : BreadDesc
  arg : Word
  he : BitVec 16
  next : Nat
  sectors : Nat
  deriving DecidableEq, Repr

/-- A message of an AWRITE or AREAD at its home larder (R213, R405): its requester, its tag and class, the tag and number of
messages of its operation, and the sectors moved: for an AWRITE data holds all of them, for an AREAD those read so far. -/
structure AtticAccess where
  row : Nat
  col : Nat
  tag : BitVec 16
  cls : Nat
  op : Nat
  msgs : Nat
  write : Bool
  va : BitVec 48
  loc : Nat
  len : Nat
  done : Nat
  data : List (BitVec 256)
  deriving DecidableEq, Repr

/-- A larder: its 15 command contexts and service context (key 15 of ctx holds the service context's state, kind and
g0 to g2), the launch it is bound to, the bulk reads waiting, the attic accesses of cores, the operations (core and first tag)
that a fault of one of their sectors has stopped (R405), its fabric buffers, and whether it has sent its drain markers (R89). -/
structure Larder where
  launch : Option Nat := none
  ctx : FMap LCtx := []
  serving : Option Serving := none
  waiting : List Serving := []
  accesses : List AtticAccess := []
  stoppedOps : List (Nat × Nat) := []
  rx : FMap (List Flit) := []
  egress : FMap (List Flit) := []
  injected : Nat := 0
  delivered : Nat := 0
  marked : Bool := false
  deriving DecidableEq, Repr

/-- Poluri link states (R37). -/
inductive LinkSt where
  | down | train | active | retrain | failed
  deriving DecidableEq, Repr

/-- A Poluri port (R35 to R38): frames are 1,280 bits, beat 0 lowest. owed counts, by class, the credits of flits that have
left the receive buffer and that no frame has returned yet. -/
structure Link where
  st : LinkSt := .down
  sendSeq : BitVec 12 := 0
  expect : BitVec 12 := 0
  replay : List (BitVec 1280) := []
  nackSent : Bool := false
  replays : Nat := 0
  retrains : List Nat := []
  since : Nat := 0
  lastAck : Nat := 0
  sinceAck : Nat := 0
  credits : FMap Nat := []
  owed : FMap Nat := []
  rx : FMap (List Flit) := []
  tx : FMap (List Flit) := []
  barIn : List (BitVec 1024) := []
  wire : List (BitVec 1280) := []
  deriving DecidableEq, Repr

/-- A cross-wafer reduction step of an edge merge unit (R40 to R42): the flit index it has come to, and by port the
contributions that wait, each with the time it arrived. -/
structure MergeStep where
  key : EntryKey
  ports : BitVec 64
  op : Nat
  cls : BitVec 5
  nflits : Nat
  dest : Word
  status : Word
  retry : Bool
  k : Nat := 0
  bufs : FMap (List (Nat × Flit)) := []
  deriving DecidableEq, Repr

/-- Launch states (R85); aborted is that of a launch that a wafer-wide fault has completed, its region standing still until the
device reset (R98). -/
inductive LaunchSt where
  | queued | waitRegion | loading | running | draining | saving | aborted
  deriving DecidableEq, Repr

/-- The shape and needs of a program image (R55 to R57) as the image table keeps them. -/
structure Section where
  code : Bool
  target : Nat
  size : Nat
  off : Nat
  deriving DecidableEq, Repr

/-- A role entry (R56). -/
structure Role where
  code : Nat
  data : Option Nat
  row0 : Nat
  col0 : Nat
  nrows : Nat
  ncols : Nat
  deriving DecidableEq, Repr

/-- A loaded program image (R55, R77). -/
structure Image where
  mapgen : BitVec 16
  rows : Nat
  cols : Nat
  roles : List Role
  sections : List Section
  classMask : BitVec 32
  quadBar : BitVec 8
  fieldBar : BitVec 8
  waferBar : BitVec 8
  podBar : BitVec 8
  storePa : Nat
  len : Nat
  deriving DecidableEq, Repr

/-- A launch from the fetch of its entry to its completion (R76, R78, R85). drainCycle is the cycle of its PREEMPT and sweepWas
what the sweeps of the running launch had come to then (R95); img is the image as the entry found it. -/
structure Launch where
  key : EntryKey
  num : Nat
  st : LaunchSt
  image : Nat
  orgRow : Nat
  orgCol : Nat
  rows : Nat
  cols : Nat
  prio : BitVec 2
  lflags : BitVec 8
  argAddr : Word
  actx : Nat
  larders : BitVec 48
  stallLim : Nat
  preemptLim : Nat
  saveVa : Word
  classMask : BitVec 32
  quadBar : BitVec 8
  fieldBar : BitVec 8
  waferBar : BitVec 8
  podBar : BitVec 8
  stalls : List (Nat × Nat × Nat × Nat)
  dataFault : Bool
  sweep : Option (Nat × Nat)
  drainAt : Nat
  frozenAt : Nat
  preemptKey : Option EntryKey
  preemptSave : Word
  drainCycle : Nat := 0
  sweepWas : Option (Nat × Nat) := none
  img : Option Image := none
  deriving DecidableEq, Repr

/-- How far an entry in flight has come (R74, R75). -/
inductive EntrySt where
  | fetched
  | active
  | done (status detail : Nat) (result : Nat)
  deriving DecidableEq, Repr

/-- A queue entry in flight: its 64 bytes and its progress. -/
structure Entry where
  key : EntryKey
  bytes : List Byte
  st : EntrySt
  deriving DecidableEq, Repr

/-- A queue mapped to a slot (R67, R70): since is when it last had a new TAIL or a completion, mappedAt when it was mapped;
lost is LINKLOST of its STATE (R72), notified the cycle and port of the last notify accepted (R69, R71). -/
structure QSlot where
  queue : Nat
  ring : Word
  logsize : Nat
  msix : Nat
  head : BitVec 32
  tail : BitVec 32
  seq : Word
  since : Nat
  error : Bool
  cut : Bool
  lost : Bool := false
  mappedAt : Nat := 0
  notified : Option (Nat × HostPort) := none
  deriving DecidableEq, Repr

/-- The slot that a queue was last unmapped from, with the cycle, and its HEAD and LOGSIZE then (R71). -/
structure Unmapping where
  slot : Nat
  cycle : Nat
  head : BitVec 32
  logsize : Nat
  deriving DecidableEq, Repr

/-- What Unrid keeps of a queue outside its slot: its copy of ENABLE, the HEAD, SEQ and STATE of a queue cut off
(R66, R72), completions above SEQ, and its last unmapping (R71). -/
structure QKeep where
  enable : Bool := false
  cut : Option (BitVec 32 × Word × Byte) := none
  ahead : List Nat := []
  unmapping : Option Unmapping := none
  deriving DecidableEq, Repr

/-- An attic context (R77): its pool, the tables taken from it (level and VA prefix) and its leaves
(VA, page size code, PA). -/
structure AtticCtx where
  pool : Nat
  len : Nat
  tables : List (Nat × Nat)
  leaves : List (Nat × Nat × Nat)
  deriving DecidableEq, Repr

/-- The status of an attic port (R25): it serves addresses, it is disabled, or it is disabled for an unsupported device. -/
inductive AtticStatus where
  | enabled | disabled | unsupportedDevice
  deriving DecidableEq, Repr

/-- What is attached to an attic port: the device found, its capacity, the port's status, port up, and the poisoned sectors
(R25 to R28). -/
structure Expander where
  capacity : Nat
  up : Bool
  poison : List Nat
  device : AtticDevice := .expander
  status : AtticStatus := .enabled
  deriving DecidableEq, Repr

/-- The boot configuration in force (R52, R53). -/
structure BootCfg where
  reqsig : Bool := false
  dumpsram : Bool := false
  ucbase : Nat := 0
  ucsize : Nat := 0
  stallLim : Nat := 1900000
  preemptLim : Nat := 95000
  satThr : Nat := 0
  nanThr : Nat := 0
  uflThr : Nat := 0
  owners : List (List Byte) := []
  raw : List Byte := []
  deriving DecidableEq, Repr

/-- What has happened to a port's EVENT bits in one cycle: those that an event has occurred for and those that a write has
cleared (R45). -/
structure EventCycle where
  cycle : Nat := 0
  occurred : BitVec 9 := 0
  cleared : BitVec 9 := 0
  deriving DecidableEq, Repr

/-- The state of one host port (R43 to R45): the link, its copy of EVENT, its mask, its dump buffer, host memory read
and written through it, the MSI-X vectors sent, those masked singly or all together and those held back (R45), and the value the
last register read returned. -/
structure Port where
  up : Bool := false
  event : BitVec 9 := 0
  evmask : Word := 0
  dumpbuf : Word := 0
  dumplen : Word := 0
  mem : Memory := Memory.empty
  msix : List Nat := []
  msixMask : BitVec 64 := 0
  msixMaskAll : Bool := false
  msixPending : BitVec 64 := 0
  events : EventCycle := {}
  readData : Word := 0
  deriving DecidableEq, Repr

/-- DEVSTAT.STATE (R44). -/
inductive DevSt where
  | reset | selftest | patchwait | ready | fatal | dumping
  deriving DecidableEq, Repr

/-- A hardware semaphore: owner and tie history (R46, R47). -/
structure Hsem where
  owner : BitVec 2 := 0
  lastTieLost1 : Bool := false
  deriving DecidableEq, Repr

/-- A line of the physical grid: a row or a column, and its index (R106). -/
structure LineRec where
  row : Bool
  index : Nat
  deriving DecidableEq, Repr

/-- A shift-remap wave under way (R111): its line, the failed core, and the cycle it began in. -/
structure Wave where
  line : LineRec
  prow : Nat
  pcol : Nat
  since : Nat
  deriving DecidableEq, Repr

/-- A core found failed in service and to be retired (R109): its physical place, REASON, the cycle of detection, and whether it
was detected while a wave ran (R110, R112). -/
structure FailedCore where
  prow : Nat
  pcol : Nat
  reason : Nat
  cycle : Nat
  inWave : Bool
  deriving DecidableEq, Repr

/-- A fatal fault that has arisen and whose dump is not written yet (R96 to R99): the launch of a region fault, or none for a
wafer-wide one; its CAUSE, its physical place and its cycle. -/
structure FaultRec where
  launch : Option Nat
  cause : Nat
  prow : Nat
  pcol : Nat
  cycle : Nat
  deriving DecidableEq, Repr

/-- The registers and stores of the device outside the grid (03, 04, 05, 06). A line that has lost cores is kept in
retiredRows and retiredCols by band and field column; failing lists the cores to be retired in service (R109), faults the fatal faults not yet
acted on. stopAt is CYCLE at the wafer stop (R64). inWaves says that waves run under one stop (R112). stopHost says that the stop in force is one that only a release ends: WSTOP's, a
breakpoint's or a fault's, not a wave's own; releaseHeld that a release waits for the wave (R101). -/
structure Device where
  st : DevSt := .reset
  cfgdef : Bool := false
  patched : Bool := false
  patcherr : Bool := false
  patchLevel : BitVec 16 := 0
  patchAddr : Word := 0
  patchLen : Word := 0
  patchRam : Memory := Memory.empty
  patchBytes : List Byte := []
  unavailBands : BitVec 7 := 0
  unavailCols : BitVec 12 := 0
  hsem : FMap Hsem := []
  mapgen : BitVec 16 := 1
  retiredRows : FMap (List Nat) := []
  retiredCols : FMap (List Nat) := []
  sealKey : Nat := 0
  cfg : BootCfg := {}
  flash : Memory := Memory.erased
  faddr : BitVec 26 := 0
  fbusy : Bool := false
  ferr : Bool := false
  frefused : Bool := false
  ibi : List Nat := []
  i3cData : Word := 0
  stopped : Bool := false
  stopHost : Bool := false
  stopAt : Nat := 0
  inWaves : Bool := false
  faults : List FaultRec := []
  releaseHeld : Bool := false
  wave : Option Wave := none
  ierr : Bool := false
  stopCycles : BitVec 8 := 0
  icoord : Word := 0
  ispace : Word := 0
  wafer : BitVec 6 := 0
  forecast : FMap (BitVec 8) := []
  failing : List FailedCore := []
  deriving DecidableEq, Repr

/-- The command processor's queues, entries, launches, images and attic contexts (04), and the steps of the edge merge
units; stale counts, by port and class at key 32 port + class, the flits of an aborted step still to be discarded (R42), and
podSent holds the pod barrier ids whose arrival this wafer has sent on (R33, R409). -/
structure Unrid where
  qtbase : Word := 0
  qtlen : BitVec 11 := 0
  qtstop : Bool := false
  qscan : BitVec 32 := 38000
  lastMapped : Nat := 0
  slots : FMap QSlot := []
  keep : FMap QKeep := []
  notifies : List (HostPort × BitVec 6 × Word) := []
  entries : List Entry := []
  launches : List Launch := []
  lastNum : Nat := 0
  lastGrant : Nat := 0
  images : FMap Image := []
  ctxs : FMap AtticCtx := []
  steps : FMap MergeStep := []
  stale : FMap Nat := []
  podSent : BitVec 8 := 0
  rx : FMap (List Flit) := []
  egress : FMap (List Flit) := []
  deriving DecidableEq, Repr

/-- Who moves next: an event, a core issuing from its next context, or time passing with nothing else happening. -/
inductive Pick where
  | event (i : Instr)
  | issue (row col : Nat)
  | elapse (n : Nat)
  deriving DecidableEq, Repr

/-- The whole machine. Cores are keyed 512 row + column by logical coordinate, routers 512 row + column by physical
coordinate. cycle is CYCLE (R17); live counts the cycles in which the wafer was not stopped (R101). focus and ctx name
the core and context that the next core instruction runs on; agenda says who moves next; freeCtr numbers the free
values drawn (the model's own three fields). -/
structure State where
  cores : FMap Core := []
  routers : FMap Router := []
  larders : FMap Larder := []
  links : FMap Link := []
  attic : Memory := Memory.empty
  expanders : FMap Expander := []
  port0 : Port := {}
  port1 : Port := {}
  dev : Device := {}
  unrid : Unrid := {}
  cycle : Nat := 0
  live : Nat := 0
  focus : Nat := 0
  ctx : Ctx := .main
  agenda : List Pick := []
  freeCtr : Nat := 0
  deriving DecidableEq, Repr

/-- Reasons the machine stops with a fault. -/
inductive Fault where
  /-- Raised by step and the meanings when the focus names no core of the logical grid (R12); safe: no hardware run is
  in such a state. -/
  | noCore
  deriving DecidableEq, Repr

/-- Reasons the model gives no meaning. -/
inductive Refusal where
  /-- Raised by exec for an instruction whose meaning is not written yet; safe: nothing is claimed of it. -/
  | notModelled (mnemonic : String)
  deriving DecidableEq, Repr

/-- The machine right after reset: every field at the value of its register map, nothing launched (R43, R125). -/
def State.reset : State := {}

end Sys2Proof.Machine
end

