-- ==== Sys2Proof/Machine/Memory.lean ====
section
/-! DEFINITION. Sparse maps and byte memories: reading and writing one entry, and little-endian values over several
bytes. A memory keeps one canonical form: addresses strictly rising, no cell equal to what its address reads as
unlisted. -/

namespace Sys2Proof.Machine

/-- The entry of a map, if it lists one. -/
def ffind {α : Type} : FMap α → Nat → Option α
  | [], _ => none
  | (k', v) :: m, k => if k' = k then some v else ffind m k

/-- The value of a map at a key: the default where it lists none. -/
def fget {α : Type} (m : FMap α) (k : Nat) (d : α) : α := (ffind m k).getD d

/-- A map with one key set, in rising order. -/
def fset {α : Type} : FMap α → Nat → α → FMap α
  | [], k, v => [(k, v)]
  | (k', v') :: m, k, v =>
    if k' = k then (k, v) :: m else if k < k' then (k, v) :: (k', v') :: m else (k', v') :: fset m k v

/-- A map with one key removed. -/
def fdel {α : Type} (m : FMap α) (k : Nat) : FMap α := m.filter fun e => e.1 != k

/-- A map with the value at a key changed. -/
def fmod {α : Type} (m : FMap α) (k : Nat) (d : α) (f : α → α) : FMap α := fset m k (f (fget m k d))

/-- What an address that a fill does not list reads as. -/
def Fill.byte : Fill → Nat → Byte
  | .const b, _ => b
  | .free n, a => Config.freeByte n a

/-- The byte a list of cells gives an address, if it lists it. -/
def cellFind : List Host.Cell → Nat → Option Byte
  | [], _ => none
  | (a', b) :: cs, a => if a' = a then some b else cellFind cs a

/-- A byte of memory. -/
def Memory.read (m : Memory) (a : Nat) : Byte := (cellFind m.cells a).getD (m.fill.byte a)

/-- Cells with one address set. -/
def cellSet : List Host.Cell → Nat → Byte → List Host.Cell
  | [], a, b => [(a, b)]
  | (a', b') :: cs, a, b =>
    if a' = a then (a, b) :: cs else if a < a' then (a, b) :: (a', b') :: cs else (a', b') :: cellSet cs a b

/-- Cells with one address unlisted. -/
def cellDel : List Host.Cell → Nat → List Host.Cell
  | [], _ => []
  | (a', b') :: cs, a => if a' = a then cs else (a', b') :: cellDel cs a

/-- Whether writing a byte at an address unlists it: the byte is the fixed one that unlisted addresses read as. -/
def Fill.drops : Fill → Byte → Bool
  | .const c, b => c == b
  | .free _, _ => false

/-- Memory with one byte written, in canonical form. -/
def Memory.write (m : Memory) (a : Nat) (b : Byte) : Memory :=
  { m with cells := if m.fill.drops b then cellDel m.cells a else cellSet m.cells a b }

/-- Addresses strictly rise from a bound. -/
def cellsRise : Nat → List Host.Cell → Bool
  | _, [] => true
  | lo, (a, _) :: cs => decide (lo ≤ a) && cellsRise (a + 1) cs

/-- The canonical form of a memory. -/
def Memory.wf (m : Memory) : Bool := cellsRise 0 m.cells && m.cells.all fun c => !m.fill.drops c.2

/-- The bytes of an address range. -/
def Memory.readBytes (m : Memory) (a : Nat) : Nat → List Byte
  | 0 => []
  | n + 1 => m.read a :: m.readBytes (a + 1) n

/-- Memory with a byte string written from an address on. -/
def Memory.writeBytes (m : Memory) (a : Nat) : List Byte → Memory
  | [] => m
  | b :: bs => (m.write a b).writeBytes (a + 1) bs

/-- The value of bytes, least significant first (R1). -/
def leNat : List Byte → Nat
  | [] => 0
  | b :: bs => b.toNat + 256 * leNat bs

/-- The n bytes of a value, least significant first (R1). -/
def leBytes : Nat → Nat → List Byte
  | _, 0 => []
  | v, n + 1 => BitVec.ofNat 8 v :: leBytes (v / 256) n

/-- A little-endian value of n bytes. -/
def Memory.readLE (m : Memory) (a n : Nat) : Nat := leNat (m.readBytes a n)

/-- Memory with a little-endian value of n bytes written. -/
def Memory.writeLE (m : Memory) (a n v : Nat) : Memory := m.writeBytes a (leBytes v n)

/-- A 64-bit word of memory. -/
def Memory.word (m : Memory) (a : Nat) : Word := BitVec.ofNat 64 (m.readLE a 8)

/-- The bits of a byte string as a bit vector. -/
def bitsOfBytes (w : Nat) (b : List Byte) : BitVec w := BitVec.ofNat w (leNat b)

/-- The n bytes of a bit vector from byte k on. -/
def byteSlice {w : Nat} (v : BitVec w) (k n : Nat) : List Byte := leBytes (v.toNat >>> (8 * k)) n

/-- A field of a natural number: n bits from bit k. -/
def fieldN (v k n : Nat) : Nat := (v >>> k) % 2 ^ n

/-- A field of a word as a number. -/
def wfield (v : Word) (k n : Nat) : Nat := (v.toNat >>> k) % 2 ^ n

end Sys2Proof.Machine
end

