-- ==== Sys2Proof/Machine/Hash.lean ====
section
/-! DEFINITION. The hashes and signatures that the spec names by their standards (R60): SHA-2 of FIPS 180-4, RSASSA-PSS of
RFC 8017 with SHA-384 and MGF1, and the verification of pure SLH-DSA-SHA2-192s of FIPS 205. The spec gives the standards' names
alone: what is written here of them is PRESUMED (log entry 62). -/

namespace Sys2Proof.Machine

/-! ## Big-endian byte strings -/

/-- A number as n bytes, the highest first. -/
def beBytes (v n : Nat) : List Byte := (List.range n).map fun i => BitVec.ofNat 8 (v >>> (8 * (n - 1 - i)))

/-- The number that bytes stand for, the highest first. -/
def beNat (bs : List Byte) : Nat := bs.foldl (fun v b => 256 * v + b.toNat) 0

/-- A slice of a byte string. -/
def sliceOf (bs : List Byte) (o n : Nat) : List Byte := (bs.drop o).take n

/-- A little-endian field of a byte string. -/
def fieldOf (bs : List Byte) (o n : Nat) : Nat := leNat (sliceOf bs o n)

/-- Whether a slice of a byte string is all zero. -/
def zeroAt (bs : List Byte) (o n : Nat) : Bool := fieldOf bs o n == 0

/-- Bytes combined place by place by exclusive or. -/
def xorBytes (a b : List Byte) : List Byte := List.zipWith (· ^^^ ·) a b

/-! ## SHA-2 (FIPS 180-4) -/

/-- The round constants of SHA-512. -/
def sha512K : List (BitVec 64) :=
  [0x428A2F98D728AE22, 0x7137449123EF65CD, 0xB5C0FBCFEC4D3B2F, 0xE9B5DBA58189DBBC,
   0x3956C25BF348B538, 0x59F111F1B605D019, 0x923F82A4AF194F9B, 0xAB1C5ED5DA6D8118,
   0xD807AA98A3030242, 0x12835B0145706FBE, 0x243185BE4EE4B28C, 0x550C7DC3D5FFB4E2,
   0x72BE5D74F27B896F, 0x80DEB1FE3B1696B1, 0x9BDC06A725C71235, 0xC19BF174CF692694,
   0xE49B69C19EF14AD2, 0xEFBE4786384F25E3, 0x0FC19DC68B8CD5B5, 0x240CA1CC77AC9C65,
   0x2DE92C6F592B0275, 0x4A7484AA6EA6E483, 0x5CB0A9DCBD41FBD4, 0x76F988DA831153B5,
   0x983E5152EE66DFAB, 0xA831C66D2DB43210, 0xB00327C898FB213F, 0xBF597FC7BEEF0EE4,
   0xC6E00BF33DA88FC2, 0xD5A79147930AA725, 0x06CA6351E003826F, 0x142929670A0E6E70,
   0x27B70A8546D22FFC, 0x2E1B21385C26C926, 0x4D2C6DFC5AC42AED, 0x53380D139D95B3DF,
   0x650A73548BAF63DE, 0x766A0ABB3C77B2A8, 0x81C2C92E47EDAEE6, 0x92722C851482353B] ++
  [0xA2BFE8A14CF10364, 0xA81A664BBC423001, 0xC24B8B70D0F89791, 0xC76C51A30654BE30,
   0xD192E819D6EF5218, 0xD69906245565A910, 0xF40E35855771202A, 0x106AA07032BBD1B8,
   0x19A4C116B8D2D0C8, 0x1E376C085141AB53, 0x2748774CDF8EEB99, 0x34B0BCB5E19B48A8,
   0x391C0CB3C5C95A63, 0x4ED8AA4AE3418ACB, 0x5B9CCA4F7763E373, 0x682E6FF3D6B2B8A3,
   0x748F82EE5DEFB2FC, 0x78A5636F43172F60, 0x84C87814A1F0AB72, 0x8CC702081A6439EC,
   0x90BEFFFA23631E28, 0xA4506CEBDE82BDE9, 0xBEF9A3F7B2C67915, 0xC67178F2E372532B,
   0xCA273ECEEA26619C, 0xD186B8C721C0C207, 0xEADA7DD6CDE0EB1E, 0xF57D4F7FEE6ED178,
   0x06F067AA72176FBA, 0x0A637DC5A2C898A6, 0x113F9804BEF90DAE, 0x1B710B35131C471B,
   0x28DB77F523047D84, 0x32CAAB7B40C72493, 0x3C9EBE0A15C9BEBC, 0x431D67C49C100D4C,
   0x4CC5D4BECB3E42B6, 0x597F299CFC657E2A, 0x5FCB6FAB3AD6FAEC, 0x6C44198C4A475817]

/-- The round constants of SHA-256. -/
def sha256K : List (BitVec 32) :=
  [0x428A2F98, 0x71374491, 0xB5C0FBCF, 0xE9B5DBA5, 0x3956C25B, 0x59F111F1, 0x923F82A4, 0xAB1C5ED5,
   0xD807AA98, 0x12835B01, 0x243185BE, 0x550C7DC3, 0x72BE5D74, 0x80DEB1FE, 0x9BDC06A7, 0xC19BF174,
   0xE49B69C1, 0xEFBE4786, 0x0FC19DC6, 0x240CA1CC, 0x2DE92C6F, 0x4A7484AA, 0x5CB0A9DC, 0x76F988DA,
   0x983E5152, 0xA831C66D, 0xB00327C8, 0xBF597FC7, 0xC6E00BF3, 0xD5A79147, 0x06CA6351, 0x14292967,
   0x27B70A85, 0x2E1B2138, 0x4D2C6DFC, 0x53380D13, 0x650A7354, 0x766A0ABB, 0x81C2C92E, 0x92722C85,
   0xA2BFE8A1, 0xA81A664B, 0xC24B8B70, 0xC76C51A3, 0xD192E819, 0xD6990624, 0xF40E3585, 0x106AA070,
   0x19A4C116, 0x1E376C08, 0x2748774C, 0x34B0BCB5, 0x391C0CB3, 0x4ED8AA4A, 0x5B9CCA4F, 0x682E6FF3,
   0x748F82EE, 0x78A5636F, 0x84C87814, 0x8CC70208, 0x90BEFFFA, 0xA4506CEB, 0xBEF9A3F7, 0xC67178F2]

/-- The initial value of SHA-512. -/
def sha512Init : List (BitVec 64) :=
  [0x6A09E667F3BCC908, 0xBB67AE8584CAA73B, 0x3C6EF372FE94F82B, 0xA54FF53A5F1D36F1,
   0x510E527FADE682D1, 0x9B05688C2B3E6C1F, 0x1F83D9ABFB41BD6B, 0x5BE0CD19137E2179]

/-- The initial value of SHA-384. -/
def sha384Init : List (BitVec 64) :=
  [0xCBBB9D5DC1059ED8, 0x629A292A367CD507, 0x9159015A3070DD17, 0x152FECD8F70E5939,
   0x67332667FFC00B31, 0x8EB44A8768581511, 0xDB0C2E0D64F98FA7, 0x47B5481DBEFA4FA4]

/-- The initial value of SHA-256. -/
def sha256Init : List (BitVec 32) :=
  [0x6A09E667, 0xBB67AE85, 0x3C6EF372, 0xA54FF53A, 0x510E527F, 0x9B05688C, 0x1F83D9AB, 0x5BE0CD19]

/-- What sets SHA-512 apart from SHA-256: the bytes of a word, the rotations of its four functions (the last of the small ones
a shift) and its round constants. -/
structure Sha2 (w : Nat) where
  bytes : Nat
  big0 : Nat × Nat × Nat
  big1 : Nat × Nat × Nat
  small0 : Nat × Nat × Nat
  small1 : Nat × Nat × Nat
  k : List (BitVec w)

/-- SHA-512. -/
def sha512Params : Sha2 64 := ⟨8, (28, 34, 39), (14, 18, 41), (1, 8, 7), (19, 61, 6), sha512K⟩

/-- SHA-256. -/
def sha256Params : Sha2 32 := ⟨4, (2, 13, 22), (6, 11, 25), (7, 18, 3), (17, 19, 10), sha256K⟩

/-- Three rotations joined. -/
def bigSigma {w : Nat} (r : Nat × Nat × Nat) (x : BitVec w) : BitVec w := x.rotateRight r.1 ^^^ x.rotateRight r.2.1 ^^^ x.rotateRight r.2.2

/-- Two rotations and a shift joined. -/
def smallSigma {w : Nat} (r : Nat × Nat × Nat) (x : BitVec w) : BitVec w := x.rotateRight r.1 ^^^ x.rotateRight r.2.1 ^^^ x >>> r.2.2

/-- The message schedule, the latest word first, extended by n words. -/
def sha2Extend {w : Nat} (p : Sha2 w) : Nat → List (BitVec w) → List (BitVec w)
  | 0, ws => ws
  | n + 1, ws =>
    sha2Extend p n
      ((smallSigma p.small1 (ws.getD 1 0) + ws.getD 6 0 + smallSigma p.small0 (ws.getD 14 0) + ws.getD 15 0) :: ws)

/-- One round: the working variables a to h with a word of the schedule and its constant. -/
def sha2Round {w : Nat} (p : Sha2 w) (v : List (BitVec w)) (kw : BitVec w × BitVec w) : List (BitVec w) :=
  match v with
  | [a, b, c, d, e, f, g, h] =>
    let t1 := h + bigSigma p.big1 e + (e &&& f ^^^ ~~~e &&& g) + kw.1 + kw.2
    let t2 := bigSigma p.big0 a + (a &&& b ^^^ a &&& c ^^^ b &&& c)
    [t1 + t2, a, b, c, d + t1, e, f, g]
  | _ => v

/-- A block joined to the hash value. -/
def sha2Block {w : Nat} (p : Sha2 w) (h : List (BitVec w)) (block : List Byte) : List (BitVec w) :=
  let ws := (List.range 16).map fun i => BitVec.ofNat w (beNat (sliceOf block (p.bytes * i) p.bytes))
  let sched := (sha2Extend p (p.k.length - 16) ws.reverse).reverse
  List.zipWith (· + ·) h ((List.zip p.k sched).foldl (sha2Round p) h)

/-- A message padded to whole blocks: a one bit, zeros and its length in bits. -/
def sha2Pad (block : Nat) (m : List Byte) : List Byte :=
  let used := m.length + 1 + block / 8
  m ++ [0x80] ++ List.replicate ((block - used % block) % block) 0 ++ beBytes (8 * m.length) (block / 8)

/-- A hash of SHA-2: its initial value, cut to n bytes. -/
def sha2 {w : Nat} (p : Sha2 w) (init : List (BitVec w)) (n : Nat) (m : List Byte) : List Byte :=
  let b := 16 * p.bytes
  let padded := sha2Pad b m
  let h := (List.range (padded.length / b)).foldl (fun h i => sha2Block p h (sliceOf padded (b * i) b)) init
  (h.flatMap fun x => beBytes x.toNat p.bytes).take n

/-- SHA-384. -/
def sha384 (m : List Byte) : List Byte := sha2 sha512Params sha384Init 48 m
/-- SHA-512. -/
def sha512 (m : List Byte) : List Byte := sha2 sha512Params sha512Init 64 m
/-- SHA-256. -/
def sha256 (m : List Byte) : List Byte := sha2 sha256Params sha256Init 32 m

/-- The mask generation function MGF1 over a hash of hLen bytes. -/
def mgf1 (hash : List Byte → List Byte) (hLen : Nat) (seed : List Byte) (n : Nat) : List Byte :=
  ((List.range ((n + hLen - 1) / hLen)).flatMap fun i => hash (seed ++ beBytes i 4)).take n

/-! ## RSASSA-PSS with SHA-384 (RFC 8017): 3,072-bit modulus, 48-byte salt -/

/-- A power modulo n, the exponent given by its bits, the highest first. -/
def powMod (b n : Nat) (bits : List Bool) : Nat := bits.foldl (fun r e => let q := r * r % n; if e then q * b % n else q) (1 % n)

/-- The bits of a number below 2 ^ w, the highest first. -/
def bitsHigh (v w : Nat) : List Bool := (List.range w).map fun i => v.testBit (w - 1 - i)

/-- The hash of an encoded message: over eight zero bytes, the message's hash and the salt. -/
def pssHash (msg salt : List Byte) : List Byte := sha384 (List.replicate 8 0 ++ sha384 msg ++ salt)

/-- The data block with its leading bit, beyond the modulus's 3,071, cleared. -/
def pssClear (db : List Byte) : List Byte := match db with | b :: bs => (b &&& 0x7F) :: bs | [] => []

/-- The encoded message of a message and a salt (EMSA-PSS-ENCODE). -/
def pssEncode (msg salt : List Byte) : List Byte :=
  let h := pssHash msg salt
  let db := List.replicate 286 0 ++ [1] ++ salt
  pssClear (xorBytes db (mgf1 sha384 48 h 335)) ++ h ++ [0xBC]

/-- Whether an encoded message is one of a message (EMSA-PSS-VERIFY). -/
def pssMatches (msg em : List Byte) : Bool :=
  let h := sliceOf em 335 48
  let masked := sliceOf em 0 335
  let db := pssClear (xorBytes masked (mgf1 sha384 48 h 335))
  em.drop 383 == [0xBC] && pssClear masked == masked && sliceOf db 0 287 == List.replicate 286 0 ++ [1] && pssHash msg (db.drop 287) == h

/-- Whether an RSA signature verifies under a key of R59: a modulus of 3,072 bits with the exponent 65,537 (R59, R60). -/
def rsaVerifies (modulus msg sig : List Byte) : Bool :=
  let n := beNat modulus
  let v := beNat sig
  modulus.length == 384 && sig.length == 384 && n.testBit 3071 && decide (v < n) &&
    pssMatches msg (beBytes (powMod v n (bitsHigh 65537 17)) 384)

/-- The RSA signature of a message under a private exponent and a salt. -/
def rsaSign (modulus : List Byte) (d : Nat) (msg salt : List Byte) : List Byte :=
  beBytes (powMod (beNat (pssEncode msg salt)) (beNat modulus) (bitsHigh d 3072)) 384

/-! ## SLH-DSA-SHA2-192s (FIPS 205): n = 24, h = 63, d = 7, h' = 9, a = 14, k = 17, w = 16 -/

/-- An address of FIPS 205: layer, tree, type and its three words. -/
structure SlhAddr where
  layer : Nat := 0
  tree : Nat := 0
  type : Nat := 0
  w1 : Nat := 0
  w2 : Nat := 0
  w3 : Nat := 0
  deriving DecidableEq, Repr

/-- The compressed address of the SHA-2 parameter sets. -/
def slhAddrBytes (a : SlhAddr) : List Byte :=
  beBytes a.layer 1 ++ beBytes a.tree 8 ++ beBytes a.type 1 ++ beBytes a.w1 4 ++ beBytes a.w2 4 ++ beBytes a.w3 4

/-- The function F: 24 bytes of SHA-256. -/
def slhF (seed : List Byte) (a : SlhAddr) (m : List Byte) : List Byte :=
  (sha256 (seed ++ List.replicate 40 0 ++ slhAddrBytes a ++ m)).take 24

/-- The functions H and T: 24 bytes of SHA-512. -/
def slhH (seed : List Byte) (a : SlhAddr) (m : List Byte) : List Byte :=
  (sha512 (seed ++ List.replicate 104 0 ++ slhAddrBytes a ++ m)).take 24

/-- The first n groups of b bits of a byte string, the highest first. -/
def baseBits (bs : List Byte) (b n : Nat) : List Nat :=
  (List.range n).map fun i => beNat bs >>> (8 * bs.length - b * (i + 1)) % 2 ^ b

/-- The chaining function of WOTS+: n steps from step i. -/
def slhChain (seed : List Byte) (a : SlhAddr) : Nat → Nat → List Byte → List Byte
  | 0, _, x => x
  | n + 1, i, x => slhChain seed a n (i + 1) (slhF seed { a with w3 := i } x)

/-- The 51 digits that WOTS+ signs of 24 bytes: 48 of the message and 3 of their checksum. -/
def slhDigits (m : List Byte) : List Nat :=
  let ds := baseBits m 4 48
  ds ++ baseBits (beBytes ((ds.map fun d => 15 - d).sum * 16) 2) 4 3

/-- A WOTS+ public key from a signature of 51 chains. -/
def slhWotsKey (seed : List Byte) (a : SlhAddr) (sig m : List Byte) : List Byte :=
  let ends := (slhDigits m).zipIdx.flatMap fun d => slhChain seed { a with w2 := d.2 } (15 - d.1) d.1 (sliceOf sig (24 * d.2) 24)
  slhH seed { a with type := 1, w2 := 0, w3 := 0 } ends

/-- The root reached from a node by an authentication path: of the tree index idx at height 0, whose bits say on which side each
node lies. -/
def slhClimb (seed : List Byte) (a : SlhAddr) (auth : List Byte) (idx : Nat) : Nat → Nat → List Byte → List Byte
  | 0, _, node => node
  | n + 1, k, node =>
    let sib := sliceOf auth (24 * k) 24
    let both := if idx >>> k % 2 = 0 then node ++ sib else sib ++ node
    slhClimb seed a auth idx n (k + 1) (slhH seed { a with w2 := k + 1, w3 := idx >>> (k + 1) } both)

/-- The root of an XMSS tree from a signature of its leaf. -/
def slhXmssRoot (seed : List Byte) (layer tree leaf : Nat) (sig m : List Byte) : List Byte :=
  let node := slhWotsKey seed { layer := layer, tree := tree, w1 := leaf } (sig.take 1224) m
  slhClimb seed { layer := layer, tree := tree, type := 2 } (sig.drop 1224) leaf 9 0 node

/-- The root of the hypertree from layer j on: n layers. -/
def slhTreeRoot (seed : List Byte) : Nat → Nat → Nat → Nat → List Byte → List Byte → List Byte
  | 0, _, _, _, _, m => m
  | n + 1, j, tree, leaf, sig, m =>
    slhTreeRoot seed n (j + 1) (tree / 2 ^ 9) (tree % 2 ^ 9) (sig.drop 1440) (slhXmssRoot seed j tree leaf (sig.take 1440) m)

/-- The FORS public key from a signature of a message digest. -/
def slhForsKey (seed : List Byte) (tree leaf : Nat) (sig md : List Byte) : List Byte :=
  let a : SlhAddr := { tree := tree, type := 3, w1 := leaf }
  let roots := (baseBits md 14 17).zipIdx.flatMap fun d =>
    let part := sliceOf sig (360 * d.2) 360
    let idx := d.2 * 2 ^ 14 + d.1
    slhClimb seed a (part.drop 24) idx 14 0 (slhF seed { a with w3 := idx } (part.take 24))
  slhH seed { a with type := 4 } roots

/-- The digest of a message under a public key: 39 bytes, of which 30 are signed by FORS and the rest name its place. -/
def slhDigest (r seed root msg : List Byte) : List Byte :=
  mgf1 sha512 64 (r ++ seed ++ sha512 (r ++ seed ++ root ++ [0, 0] ++ msg)) 39

/-- The tree of a digest. -/
def slhTreeOf (digest : List Byte) : Nat := beNat (sliceOf digest 30 7) % 2 ^ 54
/-- The leaf of a digest. -/
def slhLeafOf (digest : List Byte) : Nat := beNat (sliceOf digest 37 2) % 2 ^ 9

/-- Whether a pure SLH-DSA-SHA2-192s signature with an empty context verifies under a key of 48 bytes (R60). -/
def slhVerifies (key msg sig : List Byte) : Bool :=
  let seed := key.take 24
  let root := key.drop 24
  let digest := slhDigest (sig.take 24) seed root msg
  let pk := slhForsKey seed (slhTreeOf digest) (slhLeafOf digest) (sliceOf sig 24 6120) (digest.take 30)
  key.length == 48 && sig.length == 16224 &&
    slhTreeRoot seed 7 0 (slhTreeOf digest) (slhLeafOf digest) (sig.drop 6144) pk == root

end Sys2Proof.Machine
end

