-- ==== Sys2Proof/Machine/Access.lean ====
section
/-! DEFINITION. The parts of the state by name: cores by logical coordinate, routers by physical coordinate, larders,
launches, host ports; and the registers of a context. Every reader and writer of a register goes through the accessors
here. -/

namespace Sys2Proof.Machine

/-! ## Coordinates (R12, R13) -/

/-- The key of a coordinate. -/
def keyOf (row col : Nat) : Nat := 512 * row + col
/-- The row of a key. -/
def rowOf (k : Nat) : Nat := k / 512
/-- The column of a key. -/
def colOf (k : Nat) : Nat := k % 512
/-- Whether a key names a core of the logical grid: 224 rows of 384 (R12). -/
def inGrid (k : Nat) : Bool := decide (rowOf k < 224) && decide (colOf k < 384)

/-! ## Logical and physical lines (R14, R114) -/

/-- The lines of a band or field column that are not retired, in ascending order. -/
def liveLines (retired : List Nat) : List Nat := (List.range 33).filter fun i => !retired.contains i
/-- The line that carries logical line k, where one does: every retired index is skipped. -/
def lineOf (lost : FMap (List Nat)) (k : Nat) : Option Nat :=
  (liveLines (fget lost (k / 32) []))[k % 32]?.map fun i => 33 * (k / 32) + i
/-- The logical line that a physical line carries, if it carries one. -/
def carried (lost : FMap (List Nat)) (p : Nat) : Option Nat :=
  (((liveLines (fget lost (p / 33) [])).take 32).findIdx? (· == p % 33)).map fun k => 32 * (p / 33) + k
/-- prow_of (R14). -/
def prowOf (d : Device) (row : Nat) : Option Nat := lineOf d.retiredRows row
/-- pcol_of (R14). -/
def pcolOf (d : Device) (col : Nat) : Option Nat := lineOf d.retiredCols col
/-- The physical router of a logical core. -/
def routerOf (d : Device) (row col : Nat) : Option Nat :=
  match prowOf d row, pcolOf d col with
  | some r, some c => some (keyOf r c)
  | _, _ => none
/-- The logical coordinate of a physical core, if it carries one (R15). -/
def logicalOf (d : Device) (prow pcol : Nat) : Option (Nat × Nat) :=
  match carried d.retiredRows prow, carried d.retiredCols pcol with
  | some r, some c => some (r, c)
  | _, _ => none
/-- Whether a key names a physical core: 231 rows of 396 (R10). -/
def inWafer (k : Nat) : Bool := decide (rowOf k < 231) && decide (colOf k < 396)

/-! ## Parts of the state -/

/-- A logical core. -/
def coreAt (s : State) (k : Nat) : Core := fget s.cores k {}
/-- The state with one core replaced. -/
def setCore (s : State) (k : Nat) (c : Core) : State := { s with cores := fset s.cores k c }
/-- The state with one core changed. -/
def modCore (s : State) (k : Nat) (f : Core → Core) : State := setCore s k (f (coreAt s k))
/-- A physical router. -/
def routerAt (s : State) (k : Nat) : Router := fget s.routers k {}
/-- The state with one router replaced. -/
def setRouter (s : State) (k : Nat) (r : Router) : State := { s with routers := fset s.routers k r }
/-- A larder. -/
def larderAt (s : State) (n : Nat) : Larder := fget s.larders n {}
/-- The state with one larder replaced. -/
def setLarder (s : State) (n : Nat) (l : Larder) : State := { s with larders := fset s.larders n l }
/-- A larder's context. -/
def lctxAt (l : Larder) (c : Nat) : LCtx := fget l.ctx c {}
/-- A larder with one context replaced. -/
def setLctx (l : Larder) (c : Nat) (x : LCtx) : Larder := { l with ctx := fset l.ctx c x }
/-- A Poluri port. -/
def linkAt (s : State) (n : Nat) : Link := fget s.links n {}
/-- The state with one Poluri port replaced. -/
def setLink (s : State) (n : Nat) (l : Link) : State := { s with links := fset s.links n l }
/-- A host port. -/
def portAt (s : State) : HostPort → Port
  | .p0 => s.port0
  | .p1 => s.port1
/-- The state with one host port replaced. -/
def setPort (s : State) (p : HostPort) (x : Port) : State :=
  match p with
  | .p0 => { s with port0 := x }
  | .p1 => { s with port1 := x }
/-- The state with the device registers changed. -/
def modDev (s : State) (f : Device → Device) : State := { s with dev := f s.dev }
/-- The state with the command processor changed. -/
def modUnrid (s : State) (f : Unrid → Unrid) : State := { s with unrid := f s.unrid }

/-! ## Regions (R81) -/

/-- Whether a launch holds a region whose cores carry its registers: from LOADING on, until it is completed (R78, R85, R98). -/
def launchHasRegion (l : Launch) : Bool :=
  match l.st with
  | .queued | .waitRegion | .aborted => false
  | _ => true

/-- Whether a coordinate lies in a launch's region. -/
def inRegion (l : Launch) (row col : Nat) : Bool :=
  decide (l.orgRow ≤ row) && decide (row < l.orgRow + l.rows) && decide (l.orgCol ≤ col) && decide (col < l.orgCol + l.cols)

/-- The launch whose region holds a core (R81). -/
def launchOf (s : State) (row col : Nat) : Option Launch :=
  s.unrid.launches.find? fun l => launchHasRegion l && inRegion l row col

/-- The state with one launch changed. -/
def modLaunch (s : State) (num : Nat) (f : Launch → Launch) : State :=
  modUnrid s fun u => { u with launches := u.launches.map fun l => if l.num = num then f l else l }

/-- The cores of a region, row-major. -/
def regionKeys (l : Launch) : List Nat :=
  (List.range l.rows).flatMap fun r => (List.range l.cols).map fun c => keyOf (l.orgRow + r) (l.orgCol + c)

/-- Whether a logical core is unavailable: its band of rows or its field column has lost its cores without a record, or
has a degraded shape that leaves the line out (R16, R114, R115). -/
def unavailable (d : Device) (row col : Nat) : Bool :=
  d.unavailBands.getLsbD (row / 32) || d.unavailCols.getLsbD (col / 32) || (prowOf d row).isNone || (pcolOf d col).isNone

/-! ## Registers of a context (R120, R130, R132) -/

/-- A handler context. -/
def handlerAt (c : Core) (k : Nat) : Handler := fget c.handlers k {}
/-- A core with one handler context replaced. -/
def setHandler (c : Core) (k : Nat) (h : Handler) : Core := { c with handlers := fset c.handlers k h }

/-- Scalar register n: x0 of a task reads 0 (R120, R290). -/
def readX (c : Core) : Ctx → Nat → Word
  | .main, n => if n = 0 then 0 else fget c.regs.x n 0
  | .handler k, n => fget (handlerAt c k).y n 0

/-- A write of scalar register n: x0 of a task ignores it. -/
def writeX (c : Core) (ctx : Ctx) (n : Nat) (v : Word) : Core :=
  match ctx with
  | .main => if n = 0 then c else { c with regs := { c.regs with x := fset c.regs.x n v } }
  | .handler k => let h := handlerAt c k; setHandler c k { h with y := fset h.y n v }

/-- Vector register n. -/
def readV (c : Core) : Ctx → Nat → BitVec 512
  | .main, n => fget c.regs.v n 0
  | .handler k, n => fget (handlerAt c k).w n 0

/-- A write of vector register n. -/
def writeV (c : Core) (ctx : Ctx) (n : Nat) (v : BitVec 512) : Core :=
  match ctx with
  | .main => { c with regs := { c.regs with v := fset c.regs.v n v } }
  | .handler k => let h := handlerAt c k; setHandler c k { h with w := fset h.w n v }

/-- Mask register n: f0 reads 0xFFFF (R120). -/
def readFm (c : Core) (n : Nat) : BitVec 16 := if n = 0 then 0xFFFF else fget c.regs.f n 0

/-- A write of mask register n: f0 ignores it. -/
def writeFm (c : Core) (n : Nat) (v : BitVec 16) : Core :=
  if n = 0 then c else { c with regs := { c.regs with f := fset c.regs.f n v } }

/-- Accumulator tile n. -/
def readAcc (c : Core) (n : Nat) : Tile := fget c.regs.a n {}
/-- A write of accumulator tile n. -/
def writeAcc (c : Core) (n : Nat) (t : Tile) : Core := { c with regs := { c.regs with a := fset c.regs.a n t } }
/-- Operand slot n. -/
def readSlot (c : Core) (n : Nat) : Slot := fget c.regs.t n {}
/-- A write of operand slot n. -/
def writeSlot (c : Core) (n : Nat) (t : Slot) : Core := { c with regs := { c.regs with t := fset c.regs.t n t } }
/-- The binding of queue register n. -/
def readQ (c : Core) (n : Nat) : QBind := fget c.regs.q n .unbound
/-- A core with queue register n bound. -/
def writeQ (c : Core) (n : Nat) (b : QBind) : Core := { c with regs := { c.regs with q := fset c.regs.q n b } }
/-- Loop counter n. -/
def readLc (c : Core) (n : Nat) : LoopCtr := fget c.regs.lc n {}
/-- A write of loop counter n. -/
def writeLc (c : Core) (n : Nat) (l : LoopCtr) : Core := { c with regs := { c.regs with lc := fset c.regs.lc n l } }

/-- The register a result goes to. -/
def DestVal.ref : DestVal → RegRef
  | .x n _ => .x n
  | .v n _ => .v n
  | .f n _ => .f n
  | .a n _ => .a n
  | .t n _ => .t n

/-- A core with one result written. -/
def applyDest (ctx : Ctx) (c : Core) : DestVal → Core
  | .x n v => writeX c ctx n v
  | .v n v => writeV c ctx n v
  | .f n v => writeFm c n v
  | .a n t => writeAcc c n t
  | .t n t => writeSlot c n t

/-- A core with results written in order. -/
def applyDests (ctx : Ctx) (c : Core) (ds : List DestVal) : Core := ds.foldl (applyDest ctx) c

/-- The value a register of a result holds now. -/
def currentDest (c : Core) (ctx : Ctx) : DestVal → DestVal
  | .x n _ => .x n (readX c ctx n)
  | .v n _ => .v n (readV c ctx n)
  | .f n _ => .f n (readFm c n)
  | .a n _ => .a n (readAcc c n)
  | .t n _ => .t n (readSlot c n)

/-! ## Program counters and loops (R295) -/

/-- The PC of a context. -/
def pcOf (c : Core) : Ctx → BitVec 16
  | .main => c.pc
  | .handler k => (handlerAt c k).pc

/-- A core with a context's PC set. -/
def setPc (c : Core) (ctx : Ctx) (p : BitVec 16) : Core :=
  match ctx with
  | .main => { c with pc := p }
  | .handler k => let h := handlerAt c k; setHandler c k { h with pc := p }

/-- One loop counter's part of next(A): where it loops back, or the counter it leaves (R295). -/
def loopStep (l : LoopCtr) (a : BitVec 16) : Option (LoopCtr × Option (BitVec 16)) :=
  if l.count ≠ 0 ∧ a = l.stop then
    if 1 < l.count.toNat then some ({ l with count := l.count - 1 }, some l.start) else some ({ l with count := 0 }, none)
  else none

/-- next(A) of R295 with the counters it leaves: lc1 before lc0; a handler never consults them. -/
def nextPc (c : Core) (ctx : Ctx) (a : BitVec 16) : Core × BitVec 16 :=
  match ctx with
  | .handler _ => (c, a + 8)
  | .main =>
    let one := fun (c : Core) (n : Nat) =>
      match loopStep (readLc c n) a with
      | none => (c, none)
      | some (l, t) => (writeLc c n l, t)
    match one c 1 with
    | (c1, some t) => (c1, t)
    | (c1, none) =>
      match one c1 0 with
      | (c0, some t) => (c0, t)
      | (c0, none) => (c0, a + 8)

/-- A core whose context has gone on to next(A). -/
def advance (c : Core) (ctx : Ctx) (a : BitVec 16) : Core :=
  let n := nextPc c ctx a
  setPc n.1 ctx n.2

/-! ## Counters (R125, R192) -/

/-- A 32-bit counter that holds at its maximum. -/
def bump32 (v : BitVec 32) (n : Nat) : BitVec 32 := BitVec.ofNat 32 (min (v.toNat + n) 0xFFFF_FFFF)

/-- A core with flags ORed into FPFLAGS and counts added to the conversion counters. -/
def addFlags (c : Core) (fl : BitVec 5) (sat nan ufl : Nat) : Core :=
  { c with sys := { c.sys with fpflags := c.sys.fpflags ||| fl, satcnt := bump32 c.sys.satcnt sat,
                               nancnt := bump32 c.sys.nancnt nan, uflcnt := bump32 c.sys.uflcnt ufl } }

/-! ## Instruction store -/

/-- The word of a core's instruction store at an address (R270). -/
def istoreWord (c : Core) (a : BitVec 16) : Word := c.istore.word a.toNat

end Sys2Proof.Machine
end

