-- ==== Sys2Proof/Machine/Flags.lean ====
section
/-! DEFINITION. Arithmetic and its flags: the helpers of R7, the floating-point formats with their rounding and exception
flags (R179 to R184), integer results at a width (R291, R336), and the block format with its conversions and tile sums
(R185 to R206). Everything is exact integer arithmetic, rounded once. -/

namespace Sys2Proof.Machine

/-! ## Helpers (R7) -/

/-- align(v, s): floor of v / 2^s, or v · 2^(-s) for a negative s. -/
def align (v s : Int) : Int := if 0 ≤ s then v >>> s.toNat else v * 2 ^ (-s).toNat

/-- sext(v, n). -/
def sext (v n : Nat) : Int := if n = 0 then 0 else if v % 2 ^ n < 2 ^ (n - 1) then (v % 2 ^ n : Nat) else (v % 2 ^ n : Nat) - 2 ^ n

/-- trunc(v, n) as a number. -/
def truncZ (v : Int) (n : Nat) : Nat := (v % 2 ^ n).toNat

/-- satcnt: the clamped value, and 1 when it clamps. -/
def satcnt (v lo hi : Int) : Int × Nat := if v < lo then (lo, 1) else if hi < v then (hi, 1) else (v, 0)

/-- rne of m · 2^e for a natural m. -/
def rneScaled (m : Nat) (e : Int) : Nat :=
  if 0 ≤ e then m <<< e.toNat
  else
    let sh := (-e).toNat
    let k := m >>> sh
    let r := m % 2 ^ sh
    let h := 2 ^ (sh - 1)
    if h < r || (r == h && k % 2 == 1) then k + 1 else k

/-- The integer square root, with as many steps as half the bits of the argument. -/
def isqrt : Nat → Nat → Nat
  | 0, _ => 0
  | f + 1, n =>
    let r := 2 * isqrt f (n / 4)
    if (r + 1) * (r + 1) ≤ n then r + 1 else r

/-! ## Formats (R179) -/

/-- Invalid (R125, R182). -/
def flagNV : BitVec 5 := 16
/-- Divide by zero. -/
def flagDZ : BitVec 5 := 8
/-- Overflow. -/
def flagOF : BitVec 5 := 4
/-- Underflow. -/
def flagUF : BitVec 5 := 2
/-- Inexact. -/
def flagNX : BitVec 5 := 1

/-- A floating-point format: fraction and exponent widths, bias, and whether the top exponent holds infinity and NaNs. -/
structure FloatFmt where
  frac : Nat
  ebits : Nat
  bias : Nat
  ieee : Bool
  maxCode : Nat
  nan : Nat
  deriving DecidableEq, Repr

/-- The format of a floating type (R179); other types have none and read as FP32. -/
def tyFmt : Ty → FloatFmt
  | .f64 => ⟨52, 11, 1023, true, 0x7FEF_FFFF_FFFF_FFFF, 0x7FF8_0000_0000_0000⟩
  | .f16 => ⟨10, 5, 15, true, 0x7BFF, 0x7E00⟩
  | .bf16 => ⟨7, 8, 127, true, 0x7F7F, 0x7FC0⟩
  | .e4m3 => ⟨3, 4, 7, false, 0x7E, 0x7F⟩
  | .e5m2 => ⟨2, 5, 15, true, 0x7B, 0x7E⟩
  | .e2m1 => ⟨1, 2, 1, false, 0x7, 0x7⟩
  | _ => ⟨23, 8, 127, true, 0x7F7F_FFFF, 0x7FC0_0000⟩

/-- A floating-point datum: a NaN, an infinity, or (−1)^neg · m · 2^e. -/
inductive FVal where
  | nan (signalling : Bool)
  | inf (neg : Bool)
  | fin (neg : Bool) (m : Nat) (e : Int)
  deriving DecidableEq, Repr

/-- The datum of a code (R179). -/
def readF (ty : Ty) (bits : Nat) : FVal :=
  let f := (tyFmt ty)
  let fr := bits % 2 ^ f.frac
  let ex := (bits >>> f.frac) % 2 ^ f.ebits
  let neg := (bits >>> (f.frac + f.ebits)) % 2 == 1
  if f.ieee && ex == 2 ^ f.ebits - 1 then
    if fr == 0 then .inf neg else .nan (decide (fr < 2 ^ (f.frac - 1)))
  else if ty == .e4m3 && ex == 15 && fr == 7 then .nan false
  else if ex == 0 then .fin neg fr (1 - (f.bias : Int) - f.frac)
  else .fin neg (fr + 2 ^ f.frac) ((ex : Int) - f.bias - f.frac)

/-- The sign bit of a format. -/
def FloatFmt.sign (f : FloatFmt) (neg : Bool) : Nat := if neg then 2 ^ (f.frac + f.ebits) else 0

/-- The infinity of a format, or its NaN where it has no infinity (R184). -/
def FloatFmt.infCode (f : FloatFmt) (neg : Bool) : Nat :=
  if f.ieee then f.maxCode + 1 + f.sign neg else f.nan

/-- A result with the flags it raises and the number of elements it clamped under satcnt. -/
structure FRes where
  bits : Nat
  flags : BitVec 5 := 0
  sat : Nat := 0
  deriving DecidableEq, Repr

/-- Rounding m · 2^e, with more below the last bit when sticky, to a multiple of 2^q: the multiple, and whether it
differs (R180). -/
def roundAt (rm : RM) (neg : Bool) (m : Nat) (e q : Int) (sticky : Bool) : Nat × Bool :=
  if q ≤ e then (m <<< (e - q).toNat, sticky)
  else
    let sh := (q - e).toNat
    let k := m >>> sh
    let r := m % 2 ^ sh
    let h := 2 ^ (sh - 1)
    let inexact := r != 0 || sticky
    let up :=
      match rm with
      | .rne => h < r || (r == h && (sticky || k % 2 == 1))
      | .rtz => false
      | .rup => inexact && !neg
      | .rdn => inexact && neg
    (if up then k + 1 else k, inexact)

/-- Whether overflow in a rounding mode gives infinity (R182). -/
def overflowsToInf (rm : RM) (neg : Bool) : Bool :=
  match rm with
  | .rne => true
  | .rtz => false
  | .rup => !neg
  | .rdn => neg

/-- The rounding of (−1)^neg · m · 2^e, with more below when sticky, to a format: IEEE overflow and tininess after
rounding (R180, R182), and the flush of R181 for BF16. -/
def roundF (ty : Ty) (rm : RM) (neg : Bool) (m : Nat) (e : Int) (sticky : Bool) : FRes :=
  let f := (tyFmt ty)
  if m = 0 && !sticky then ⟨f.sign neg, 0, 0⟩
  else
    let top : Int := e + Nat.log2 m
    let qn := top - f.frac
    let qmin : Int := 1 - (f.bias : Int) - f.frac
    let u := roundAt rm neg m e qn sticky
    let topU := if u.1 = 2 ^ (f.frac + 1) then top + 1 else top
    let tiny := decide (topU < 1 - (f.bias : Int)) || m = 0
    let q := max qn qmin
    let r := roundAt rm neg m e q sticky
    let code := (q - qmin).toNat * 2 ^ f.frac + r.1
    if f.maxCode < code then
      ⟨if overflowsToInf rm neg then f.infCode neg else f.maxCode + f.sign neg, flagOF ||| flagNX, 0⟩
    else if ty == .bf16 && tiny then ⟨f.sign neg, flagUF ||| flagNX, 0⟩
    else
      ⟨code + f.sign neg, (if r.2 then flagNX else 0) ||| (if tiny && r.2 then flagUF else 0), 0⟩

/-- The canonical NaN, with NV when asked (R182). -/
def nanRes (ty : Ty) (nv : Bool) : FRes := ⟨(tyFmt ty).nan, if nv then flagNV else 0, 0⟩

/-- Whether a datum is a signalling NaN. -/
def FVal.isSig : FVal → Bool
  | .nan true => true
  | _ => false

/-- Whether a datum is a NaN. -/
def FVal.isNan : FVal → Bool
  | .nan _ => true
  | _ => false

/-- The sign of a datum. -/
def FVal.neg : FVal → Bool
  | .nan _ => false
  | .inf n => n
  | .fin n _ _ => n

/-- A datum with its sign turned. -/
def FVal.flip : FVal → FVal
  | .nan s => .nan s
  | .inf n => .inf !n
  | .fin n m e => .fin (!n) m e

/-- A signed significand at a lower exponent. -/
def scaledTo (neg : Bool) (m : Nat) (e lo : Int) : Int :=
  let v : Int := (m : Int) * 2 ^ (e - lo).toNat
  if neg then -v else v

/-- An exact sum of two finite data, rounded once: an exact zero of operands with differing signs takes the sign the
mode gives (R180). -/
def addFin (ty : Ty) (rm : RM) (n1 : Bool) (m1 : Nat) (e1 : Int) (n2 : Bool) (m2 : Nat) (e2 : Int) : FRes :=
  let lo := min e1 e2
  let s := scaledTo n1 m1 e1 lo + scaledTo n2 m2 e2 lo
  if s = 0 then ⟨(tyFmt ty).sign (if n1 == n2 then n1 else rm == .rdn), 0, 0⟩
  else roundF ty rm (decide (s < 0)) s.natAbs lo false

/-- a + b (R313). -/
def addF (ty : Ty) (rm : RM) (a b : FVal) : FRes :=
  match a, b with
  | .nan x, .nan y => nanRes ty (x || y)
  | .nan x, _ => nanRes ty x
  | _, .nan y => nanRes ty y
  | .inf x, .inf y => if x == y then ⟨(tyFmt ty).infCode x, 0, 0⟩ else nanRes ty true
  | .inf x, _ => ⟨(tyFmt ty).infCode x, 0, 0⟩
  | _, .inf y => ⟨(tyFmt ty).infCode y, 0, 0⟩
  | .fin n1 m1 e1, .fin n2 m2 e2 => addFin ty rm n1 m1 e1 n2 m2 e2

/-- a · b (R313). -/
def mulF (ty : Ty) (rm : RM) (a b : FVal) : FRes :=
  match a, b with
  | .nan x, .nan y => nanRes ty (x || y)
  | .nan x, _ => nanRes ty x
  | _, .nan y => nanRes ty y
  | .inf x, .inf y => ⟨(tyFmt ty).infCode (x != y), 0, 0⟩
  | .inf x, .fin n m _ => if m = 0 then nanRes ty true else ⟨(tyFmt ty).infCode (x != n), 0, 0⟩
  | .fin n m _, .inf y => if m = 0 then nanRes ty true else ⟨(tyFmt ty).infCode (n != y), 0, 0⟩
  | .fin n1 m1 e1, .fin n2 m2 e2 => roundF ty rm (n1 != n2) (m1 * m2) (e1 + e2) false

/-- a · b + c with one rounding; infinity times zero is invalid whatever c is (R314, R337). -/
def fmaF (ty : Ty) (rm : RM) (a b c : FVal) : FRes :=
  let bad :=
    match a, b with
    | .inf _, .fin _ m _ => m == 0
    | .fin _ m _, .inf _ => m == 0
    | _, _ => false
  if bad then nanRes ty true
  else if a.isNan || b.isNan || c.isNan then nanRes ty (a.isSig || b.isSig || c.isSig)
  else
    match a, b, c with
    | .fin n1 m1 e1, .fin n2 m2 e2, .fin n3 m3 e3 => addFin ty rm (n1 != n2) (m1 * m2) (e1 + e2) n3 m3 e3
    | .fin .., .fin .., .inf z => ⟨(tyFmt ty).infCode z, 0, 0⟩
    | x, y, .inf z => if (x.neg != y.neg) == z then ⟨(tyFmt ty).infCode z, 0, 0⟩ else nanRes ty true
    | x, y, _ => ⟨(tyFmt ty).infCode (x.neg != y.neg), 0, 0⟩

/-- a / b (R313). -/
def divF (ty : Ty) (rm : RM) (a b : FVal) : FRes :=
  match a, b with
  | .nan x, .nan y => nanRes ty (x || y)
  | .nan x, _ => nanRes ty x
  | _, .nan y => nanRes ty y
  | .inf _, .inf _ => nanRes ty true
  | .inf x, .fin n _ _ => ⟨(tyFmt ty).infCode (x != n), 0, 0⟩
  | .fin n _ _, .inf y => ⟨(tyFmt ty).sign (n != y), 0, 0⟩
  | .fin n1 m1 e1, .fin n2 m2 e2 =>
    if m2 = 0 then if m1 = 0 then nanRes ty true else ⟨(tyFmt ty).infCode (n1 != n2), flagDZ, 0⟩
    else if m1 = 0 then ⟨(tyFmt ty).sign (n1 != n2), 0, 0⟩
    else
      let sh := 2 * (tyFmt ty).frac + 8
      let q := (m1 <<< sh) / m2
      roundF ty rm (n1 != n2) q (e1 - e2 - sh) ((m1 <<< sh) % m2 != 0)

/-- The square root (R313). -/
def sqrtF (ty : Ty) (rm : RM) (a : FVal) : FRes :=
  match a with
  | .nan x => nanRes ty x
  | .inf x => if x then nanRes ty true else ⟨(tyFmt ty).infCode false, 0, 0⟩
  | .fin n m e =>
    if m = 0 then ⟨(tyFmt ty).sign n, 0, 0⟩
    else if n then nanRes ty true
    else
      let sh := 2 * (tyFmt ty).frac + 8 + (e - 2 * (tyFmt ty).frac - 8).emod 2
      let v := m <<< sh.toNat
      let r := isqrt (v.log2 / 2 + 1) v
      roundF ty rm false r ((e - sh) / 2) (r * r != v)

/-- The order of two data that are no NaN: whether a < b, −0 equal to +0. -/
def ltF (a b : FVal) : Bool :=
  match a, b with
  | .inf x, .inf y => x && !y
  | .inf x, _ => x
  | _, .inf y => !y
  | .fin n1 m1 e1, .fin n2 m2 e2 => decide (scaledTo n1 m1 e1 (min e1 e2) < scaledTo n2 m2 e2 (min e1 e2))
  | _, _ => false

/-- Equality of two data that are no NaN, −0 equal to +0. -/
def eqF (a b : FVal) : Bool := !a.isNan && !b.isNan && !ltF a b && !ltF b a

/-- minimumNumber or maximumNumber of IEEE 754-2019, on codes (R183): −0 orders below +0, and a NaN gives way to a
number. -/
def minmaxF (ty : Ty) (isMax : Bool) (x y : Nat) : FRes :=
  let a := readF ty x
  let b := readF ty y
  let fl := if a.isSig || b.isSig then flagNV else 0
  match a.isNan, b.isNan with
  | true, true => ⟨(tyFmt ty).nan, fl, 0⟩
  | true, false => ⟨y, fl, 0⟩
  | false, true => ⟨x, fl, 0⟩
  | false, false =>
    let aLess := ltF a b || (eqF a b && a.neg && !b.neg)
    ⟨if aLess == isMax then y else x, fl, 0⟩

/-- A conversion between floating formats (R183, R184). -/
def cvtFF (dst : Ty) (rm : RM) (sat : Bool) (a : FVal) : FRes :=
  let f := (tyFmt dst)
  let clamp (neg : Bool) : FRes := ⟨f.maxCode + f.sign neg, flagNX, 1⟩
  match a with
  | .nan x => nanRes dst x
  | .inf n =>
    if dst.isE8 && sat then clamp n
    else if dst == .e4m3 then ⟨f.nan, flagNV, 0⟩
    else ⟨f.infCode n, 0, 0⟩
  | .fin n m e =>
    let r := roundF dst rm n m e false
    if dst.isE8 && sat && r.flags &&& flagOF != 0 then clamp n else r

/-- The bounds of an integer type. -/
def tyBounds (t : Ty) : Int × Int :=
  if t.isSigned then (-(2 ^ (t.width - 1)), 2 ^ (t.width - 1) - 1) else (0, 2 ^ t.width - 1)

/-- A conversion to an integer type, as the low bits of its width (R183). -/
def cvtFI (dst : Ty) (rm : RM) (a : FVal) : FRes :=
  let lo := (tyBounds dst).1
  let hi := (tyBounds dst).2
  let out (v : Int) (fl : BitVec 5) : FRes := ⟨truncZ v dst.width, fl, 0⟩
  match a with
  | .nan _ => out 0 flagNV
  | .inf n => out (if n then lo else hi) flagNV
  | .fin n m e =>
    let r := roundAt rm n m e 0 false
    let v : Int := if n then -(r.1 : Int) else r.1
    if v < lo then out lo flagNV else if hi < v then out hi flagNV else out v (if r.2 then flagNX else 0)

/-- A conversion from an integer (R183, R184). -/
def cvtIF (dst : Ty) (rm : RM) (sat : Bool) (v : Int) : FRes := cvtFF dst rm sat (.fin (decide (v < 0)) v.natAbs 0)

/-- The integer that a type reads from the low bits of a value (R291). -/
def tyReadInt (t : Ty) (bits : Nat) : Int := if t.isSigned then sext bits t.width else (bits % 2 ^ t.width : Nat)

/-- A conversion by types (R315, R341). -/
def convert (dst src : Ty) (rm : RM) (sat : Bool) (bits : Nat) : FRes :=
  if src.isInt then cvtIF dst rm sat (tyReadInt src bits)
  else if dst.isInt then cvtFI dst rm (readF src bits)
  else cvtFF dst rm sat (readF src bits)

/-! ## 2^a (R337) -/

/-- The natural logarithm of 2 in units of 2^-256, rounded down. -/
def ln2Fixed : Nat := 80260960185991308862233904206310070533990667611589946606122867505419956976171

/-- The sum of t^k / k! from k on, in units of 2^-256, each term rounded down. -/
def expTerms (t : Nat) : Nat → Nat → Nat → Nat
  | 0, _, _ => 0
  | f + 1, k, term => term + expTerms t f (k + 1) (term * t / ((k + 1) * 2 ^ 256))

/-- 2^f for a fraction f in units of 2^-256, in units of 2^-256. -/
def exp2Fixed (f : Nat) : Nat := expTerms (f * ln2Fixed / 2 ^ 256) 64 0 (2 ^ 256)

/-- 2^a, correctly rounded to FP32: exact for an integer a; otherwise irrational, so the fixed-point value with more
below it rounds as the true value does. -/
def exp2F (rm : RM) (a : FVal) : FRes :=
  match a with
  | .nan x => nanRes .f32 x
  | .inf n => if n then ⟨0, 0, 0⟩ else ⟨(tyFmt .f32).infCode false, 0, 0⟩
  | .fin n m e =>
    let v256 := scaledTo n m e (-256)
    let whole := v256 / 2 ^ 256
    let part := (v256 % 2 ^ 256).toNat
    if 200 < whole then roundF .f32 rm false 1 200 true
    else if whole < -300 then roundF .f32 rm false (2 ^ 30) (-400) true
    else if part = 0 then roundF .f32 rm false 1 whole false
    else roundF .f32 rm false (exp2Fixed part) (whole - 256) true

/-! ## Integers at a width (R291, R303 to R305) -/

/-- Extension of a w-bit result to 64 bits: signed types from their sign bit (R291). -/
def extendI (t : Ty) (v : Int) : Word :=
  if t.isSigned then BitVec.ofInt 64 (sext (truncZ v t.width) t.width) else BitVec.ofNat 64 (truncZ v t.width)

/-- The comparison of R292. -/
def condHolds (c : Cond) (a b : Word) : Bool :=
  match c with
  | .eq => a == b
  | .ne => a != b
  | .lt => a.slt b
  | .ge => !a.slt b
  | .ltu => a.ult b
  | .geu => !a.ult b

/-- DIV (R304): toward zero; all ones for a zero divisor; −2^(w−1) by −1 wraps. -/
def divI (t : Ty) (a b : Int) : Int := if b = 0 then (if t.isSigned then -1 else 2 ^ t.width - 1) else a.tdiv b

/-- REM (R304). -/
def remI (a b : Int) : Int := if b = 0 then a else a.tmod b

/-- A shift of a w-bit pattern by n modulo w (R303), as a w-bit pattern. -/
def shiftN (op : ShiftOp) (w a n : Nat) : Nat :=
  let a := a % 2 ^ w
  let s := n % w
  match op with
  | .shl => (a <<< s) % 2 ^ w
  | .shr => a >>> s
  | .sar => truncZ (sext a w >>> s) w
  | .rotr => (a >>> s ||| a <<< (w - s)) % 2 ^ w

/-- Leading zeros of a w-bit pattern. -/
def clzN (w a : Nat) : Nat := if a % 2 ^ w = 0 then w else w - 1 - Nat.log2 (a % 2 ^ w)

/-- The number of one bits among the low w. -/
def popcN : Nat → Nat → Nat
  | 0, _ => 0
  | w + 1, a => a % 2 + popcN w (a / 2)

/-- The low w bits in reverse order. -/
def brevN : Nat → Nat → Nat
  | 0, _ => 0
  | w + 1, a => (a % 2) * 2 ^ w + brevN w (a / 2)

/-- Trailing zeros of a w-bit pattern: the position of its lowest one bit, or w. -/
def ctzN : Nat → Nat → Nat
  | 0, _ => 0
  | w + 1, a => if a % 2 = 1 then 0 else 1 + ctzN w (a / 2)

/-- Bit functions of a w-bit pattern (R305, R338). -/
def bitsN (op : BitsOp) (w a : Nat) : Nat :=
  match op with
  | .clz => clzN w a
  | .ctz => ctzN w a
  | .popc => popcN w a
  | .brev => brevN w a

/-- The bytes of a value in reverse order (R305). -/
def bswapN : Nat → Nat → Nat
  | 0, _ => 0
  | k + 1, a => (a % 256) * 256 ^ k + bswapN k (a / 256)

/-! ## Blocks (R185 to R191, R356) -/

/-- A block as its 40 bytes: header in bits [63:0], plane p in bits [32 p + 95 : 32 p + 64]. -/
abbrev Block := BitVec 320

/-- The shared exponent E. -/
def Block.E (b : Block) : Nat := (b.extractLsb' 0 8).toNat
/-- The micro-exponent of element i's pair. -/
def Block.mu (b : Block) (i : Nat) : Nat := (b.extractLsb' (8 + i / 2) 1).toNat
/-- The serial. -/
def Block.serial (b : Block) : Nat := (b.extractLsb' 24 8).toNat
/-- The sign of element i. -/
def Block.sgn (b : Block) (i : Nat) : Bool := b.getLsbD (32 + i)
/-- The magnitude of element i: plane p holds its bit 7 − p (R187). -/
def Block.mag (b : Block) (i : Nat) : Nat :=
  (List.range 8).foldl (fun acc p => 2 * acc + (b.extractLsb' (64 + 32 * p + i) 1).toNat) 0

/-- A list of bits as a number, element 0 in bit 0. -/
def natOfBits : List Bool → Nat
  | [] => 0
  | b :: bs => (if b then 1 else 0) + 2 * natOfBits bs

/-- Plane p of a list of 32 magnitudes (R187). -/
def planeOf (mags : List Nat) (p : Nat) : Nat := natOfBits (mags.map fun m => m.testBit (7 - p))

/-- A block from its parts: micro-exponents by pair, signs and magnitudes by element. -/
def mkBlock (E serial : Nat) (mus signs : List Bool) (mags : List Nat) : Block :=
  BitVec.ofNat 320 (E % 256 + 2 ^ 8 * natOfBits mus + 2 ^ 24 * (serial % 256) + 2 ^ 32 * natOfBits signs +
    (List.range 8).foldl (fun acc p => acc + planeOf mags p * 2 ^ (64 + 32 * p)) 0)

/-- The planes of a plane code. -/
def planeCount : Planes → Nat
  | .p2 => 2
  | .p4 => 4
  | .p8 => 8

/-- A block with planes k to 7 cleared. -/
def Block.keep (b : Block) (k : Nat) : Block := b &&& BitVec.ofNat 320 (2 ^ (64 + 32 * k) - 1)

/-- The magnitudes, signs and micro-exponents of a block. -/
def Block.mags (b : Block) : List Nat := (List.range 32).map b.mag
/-- The signs of a block. -/
def Block.signs (b : Block) : List Bool := (List.range 32).map b.sgn
/-- The micro-exponents of a block, by pair. -/
def Block.mus (b : Block) : List Bool := (List.range 16).map fun j => b.getLsbD (8 + j)
/-- A block with other exponent and magnitudes; the rest kept. -/
def Block.withMags (b : Block) (E : Nat) (mags : List Nat) : Block := mkBlock E b.serial b.mus b.signs mags

/-- The value of element i of a block read at k planes (R188). -/
def Block.value (b : Block) (k i : Nat) : FVal :=
  if b.E = 0 then .fin false 0 0
  else .fin (b.sgn i) (b.mag i >>> (8 - k)) ((8 - k : Int) + (b.E : Int) - 134 - b.mu i)

/-- The counts a conversion adds to SATCNT, NANCNT and UFLCNT (R192). -/
structure Counts where
  sat : Nat := 0
  nan : Nat := 0
  ufl : Nat := 0
  deriving DecidableEq, Repr

/-- The sum of two counts. -/
def Counts.add (a b : Counts) : Counts := ⟨a.sat + b.sat, a.nan + b.nan, a.ufl + b.ufl⟩

/-- Whether m1 · 2^e1 < m2 · 2^e2. -/
def magLt (m1 : Nat) (e1 : Int) (m2 : Nat) (e2 : Int) : Bool :=
  decide (scaledTo false m1 e1 (min e1 e2) < scaledTo false m2 e2 (min e1 e2))

/-- The largest magnitude of the finite data of a list. -/
def amaxOf : List FVal → Nat × Int
  | [] => (0, 0)
  | .fin _ m e :: xs => let r := amaxOf xs; if magLt r.1 r.2 m e then (m, e) else r
  | _ :: xs => amaxOf xs

/-- The exponent that R190 chooses in dynamic mode. -/
def dynE (xs : List FVal) : Nat :=
  let a := amaxOf xs
  if a.1 = 0 then 0
  else ((List.range 254).map (· + 1)).find? (fun (e : Nat) => decide (rneScaled a.1 (a.2 + 134 - (e : Int)) ≤ 255)) |>.getD 254

/-- Whether an element asks its pair for micro-exponent 0 (R190). -/
def wantsCoarse (E : Nat) : FVal → Bool
  | .fin _ m e => decide (255 < rneScaled m (e + 135 - E))
  | _ => false

/-- One element under its pair's micro-exponent: magnitude, sign and counts (R190). -/
def quantise (E : Nat) (mp : Bool) : FVal → Nat × Bool × Counts
  | .nan _ => (0, false, ⟨0, 1, 0⟩)
  | .inf n => (255, n, ⟨1, 0, 0⟩)
  | .fin n m e =>
    let t := rneScaled m (e + 134 - E + if mp then 1 else 0)
    let c := satcnt t 0 255
    (c.1.toNat, n, ⟨c.2, 0, if m != 0 && t == 0 then 1 else 0⟩)

/-- One block of a group under its exponent (R190). -/
def blockOf (E serial : Nat) (xs : List FVal) : Block × Counts :=
  let coarse := (List.range 16).map fun j =>
    wantsCoarse E (xs.getD (2 * j) (.fin false 0 0)) || wantsCoarse E (xs.getD (2 * j + 1) (.fin false 0 0))
  let mus := coarse.map (!·)
  let qs := (List.range 32).map fun i => quantise E (mus.getD (i / 2) true) (xs.getD i (.fin false 0 0))
  (mkBlock E serial mus (qs.map (·.2.1)) (qs.map (·.1)), qs.foldl (fun c q => c.add q.2.2) {})

/-- The blocks of a group under its exponent (R190). -/
def blocksOf (E serial : Nat) : Nat → List FVal → List Block × Counts
  | 0, _ => ([], {})
  | n + 1, xs =>
    let b := blockOf E serial (xs.take 32)
    let r := blocksOf E serial n (xs.drop 32)
    (b.1 :: r.1, b.2.add r.2)

/-- The NB4 block of an MXFP4 block: codes of its elements and scale (R191). -/
def mxBlock (s serial : Nat) (codes : List Nat) : Block × Counts :=
  if s = 0xFF then (mkBlock 0 serial (List.replicate 16 false) (List.replicate 32 false) (List.replicate 32 0), ⟨0, 32, 0⟩)
  else
    let E := min (s + 2) 254
    let q := codes.map fun c =>
      match readF .e2m1 c with
      | .fin n m e => (n, satcnt (scaledTo false m (e + 1) 0 * 2 ^ (s + 2 - E)) 0 15)
      | _ => (false, (0, 0))
    (mkBlock E serial (List.replicate 16 false) (q.map (·.1)) (q.map fun x => x.2.1.toNat * 16),
      ⟨q.foldl (fun n x => n + x.2.2) 0, 0, 0⟩)

/-! ## Tile sums (R194 to R196) -/

/-- The contribution of two blocks to an element: integer, exponent and whether it counts (R194). -/
def contribution (a b : Block) (ka kb : Nat) : Int × Int × Bool :=
  let c := (List.range 32).foldl (fun (acc : Int) e =>
    let p : Int := ((a.mag e >>> (8 - ka)) * (b.mag e >>> (8 - kb)) : Nat) * 2 ^ (18 - ka - kb - a.mu e - b.mu e)
    if a.sgn e != b.sgn e then acc - p else acc + p) 0
  (c, (a.E : Int) + b.E - 270, a.E != 0 && b.E != 0)

/-- Whether a number fits int(48). -/
def fits48 (v : Int) : Bool := decide (-(2 ^ 47) ≤ v) && decide (v ≤ 2 ^ 47 - 1)

/-- The smallest shift s, up to a bound, under which every element of a list fits int(48). -/
def smallestShift (vs : Int → List Int) : Nat → Int → Int
  | 0, s => s
  | f + 1, s => if (vs s).all fits48 then s else smallestShift vs f (s + 1)

/-- The update of a whole tile by its contributions: the new elements, exponent and the elements clamped (R195). -/
def accumulate (acc : List Int) (X : Int) (cs : List (Int × Int × Bool)) : List Int × Int × Nat :=
  let live := cs.filter (·.2.2)
  match live with
  | [] => (acc, X, 0)
  | c0 :: rest =>
    let xn := rest.foldl (fun m c => max m c.2.1) c0.2.1
    let base := if acc.all (· == 0) then xn else max X xn
    let v := fun (s : Int) => (acc.zip cs).map fun p =>
      align p.1 (base - X + s) + if p.2.2.2 then align p.2.1 (base + s - p.2.2.1) else 0
    let s := smallestShift v 64 0
    if base + s ≤ 511 then (v s, base + s, 0)
    else
      let out := (acc.zip cs).map fun p =>
        let lo := min X p.2.2.1
        let sum := p.1 * 2 ^ (X - lo).toNat + if p.2.2.2 then p.2.1 * 2 ^ (p.2.2.1 - lo).toNat else 0
        satcnt (align sum (511 - lo)) (-(2 ^ 47)) (2 ^ 47 - 1)
      (out.map (·.1), 511, out.foldl (fun n x => n + x.2) 0)

/-! ## FP8 dot products (R204, R205) -/

/-- The unbiased exponent and significand of a finite 8-bit datum: significand in units of its last place. -/
def dotPart (ty : Ty) (bits : Nat) : Int :=
  let f := (tyFmt ty)
  let ex := (bits >>> f.frac) % 2 ^ f.ebits
  if ex = 0 then 1 - (f.bias : Int) else (ex : Int) - f.bias

/-- One dot product of 16 elements. -/
def dot16 (ty : Ty) (as bs : List Nat) : FRes :=
  let ps := as.zip bs
  let data := ps.map fun p => (readF ty p.1, readF ty p.2)
  let bad := fun (x : FVal × FVal) =>
    match x with
    | (.inf _, .fin _ m _) => m == 0
    | (.fin _ m _, .inf _) => m == 0
    | _ => false
  let isInf := fun (sgn : Bool) (x : FVal × FVal) =>
    match x with
    | (.inf a, y) => !y.isNan && !bad x && (a != y.neg) == sgn
    | (y, .inf b) => !y.isNan && !bad x && (y.neg != b) == sgn
    | _ => false
  let wild := data.any bad || (data.any (isInf true) && data.any (isInf false))
  if data.any fun x => x.1.isNan || x.2.isNan then nanRes .f32 (wild || data.any fun x => x.1.isSig || x.2.isSig)
  else if wild then nanRes .f32 true
  else if data.any (isInf false) then ⟨(tyFmt .f32).infCode false, 0, 0⟩
  else if data.any (isInf true) then ⟨(tyFmt .f32).infCode true, 0, 0⟩
  else
    let prod := ps.map fun p =>
      match readF ty p.1, readF ty p.2 with
      | .fin n1 m1 e1, .fin n2 m2 e2 =>
        (scaledTo (n1 != n2) (m1 * m2) 0 0, e1 + e2, dotPart ty p.1 + dotPart ty p.2)
      | _, _ => (0, 0, 0)
    match prod.filter (·.1 != 0) with
    | [] => ⟨0, 0, 0⟩
    | p0 :: rest =>
      let qm := rest.foldl (fun m p => max m p.2.2) p0.2.2
      let w := prod.foldl (fun (acc : Int) p => acc + align p.1 (qm - 18 - p.2.1)) 0
      let r := roundF .f32 .rne (decide (w < 0)) w.natAbs (qm - 18) false
      let lo := prod.foldl (fun m p => min m p.2.1) (qm - 18)
      let exact := prod.foldl (fun (acc : Int) p => acc + p.1 * 2 ^ (p.2.1 - lo).toNat) 0
      let same := !(r.flags &&& flagNX != 0) && decide (w * 2 ^ (qm - 18 - lo).toNat = exact)
      ⟨if w = 0 then 0 else r.bits, if same then 0 else flagNX, 0⟩

/-! ## Partial sums (R197 to R202) -/

/-- The carry-save adder on 32-bit words (R199). -/
def csa (p q r : BitVec 32) : BitVec 32 × BitVec 32 :=
  (p ^^^ q ^^^ r, ((p &&& q) ||| (p &&& r) ||| (q &&& r)) <<< 1)

/-- The number a lane's words stand for (R197). -/
def laneSum (s c : BitVec 32) : Int := (s + c).toInt

/-- The row of a tile as partial sums: the sum words and EXP under a floor, with the elements clamped (R198). -/
def rowSums (acc : List Int) (X floor : Int) : List Int × Int × Nat :=
  let s := smallestShiftSend acc 64 0
  let e := max (X + s) floor
  if 511 < e then
    let out := acc.map fun a => satcnt (align (a * 2 ^ (X + 1024).toNat) (511 + 1024)) (-(2 ^ 29 - 1)) (2 ^ 29 - 1)
    (out.map (·.1), 511, out.foldl (fun n x => n + x.2) 0)
  else (acc.map fun a => align a (e - X), e, 0)
where
  /-- The smallest shift under which every element's magnitude is below 2^29 (R198). -/
  smallestShiftSend (acc : List Int) : Nat → Int → Int
    | 0, s => s
    | f + 1, s => if acc.all (fun a => decide ((align a s).natAbs < 2 ^ 29)) then s else smallestShiftSend acc f (s + 1)

/-! ## Philox4x32-10 (R207) -/

/-- One round. -/
def philoxRound (c0 c1 c2 c3 k0 k1 : Nat) : Nat × Nat × Nat × Nat :=
  let p0 := 0xD2511F53 * c0
  let p1 := 0xCD9E8D57 * c2
  ((p1 >>> 32) ^^^ c1 ^^^ k0, p1 % 2 ^ 32, (p0 >>> 32) ^^^ c3 ^^^ k1, p0 % 2 ^ 32)

/-- The rounds that remain, the key stepped between them. -/
def philox : Nat → Nat → Nat → Nat → Nat → Nat → Nat → Nat × Nat × Nat × Nat
  | 0, c0, c1, c2, c3, _, _ => (c0, c1, c2, c3)
  | n + 1, c0, c1, c2, c3, k0, k1 =>
    let r := philoxRound c0 c1 c2 c3 k0 k1
    philox n r.1 r.2.1 r.2.2.1 r.2.2.2 ((k0 + 0x9E3779B9) % 2 ^ 32) ((k1 + 0xBB67AE85) % 2 ^ 32)

end Sys2Proof.Machine
end

