-- ==== Sys2Proof/Machine/Flits.lean ====
section
/-! DEFINITION. Flits and their sidebands, what a core sends, inbound queues with the cellar, the task table's ready states,
and the completion of bulk reads. -/

namespace Sys2Proof.Machine

/-! ## Flits (R148 to R150) -/

/-- The class of a flit. -/
def flitCls (f : Flit) : Nat := (f.side.extractLsb' 0 5).toNat
/-- The KIND of a flit. -/
def flitKind (f : Flit) : Nat := (f.side.extractLsb' 5 4).toNat
/-- FIDX. -/
def flitFidx (f : Flit) : Nat := (f.side.extractLsb' 9 5).toNat
/-- DROW. -/
def flitDrow (f : Flit) : Nat := (f.side.extractLsb' 14 9).toNat
/-- DCOL. -/
def flitDcol (f : Flit) : Nat := (f.side.extractLsb' 23 9).toNat
/-- DWAF. -/
def flitDwaf (f : Flit) : Nat := (f.side.extractLsb' 32 6).toNat
/-- FOREIGN. -/
def flitForeign (f : Flit) : Bool := f.side.getLsbD 38
/-- LEN of a first flit: flits of the message minus 1. -/
def flitLen (f : Flit) : Nat := (f.side.extractLsb' 39 5).toNat
/-- SROW of a first flit. -/
def flitSrow (f : Flit) : Nat := (f.side.extractLsb' 44 9).toNat
/-- SCOL of a first flit. -/
def flitScol (f : Flit) : Nat := (f.side.extractLsb' 53 9).toNat
/-- EXP of a PSUM flit. -/
def flitExp (f : Flit) : Int := (f.side.extractLsb' 39 10).toInt
/-- CHUNK of a PSUM flit. -/
def flitChunk (f : Flit) : BitVec 15 := f.side.extractLsb' 49 15
/-- Bytes k to k + n − 1 of the payload as a number. -/
def flitField (f : Flit) (k n : Nat) : Nat := (f.payload.toNat >>> (8 * k)) % 2 ^ (8 * n)

/-- The shared part of a sideband (R148). -/
def sideLow (cls kind fidx drow dcol dwaf : Nat) (foreign : Bool) : Nat :=
  cls % 32 + 2 ^ 5 * (kind % 16) + 2 ^ 9 * (fidx % 32) + 2 ^ 14 * (drow % 512) + 2 ^ 23 * (dcol % 512) +
    2 ^ 32 * (dwaf % 64) + if foreign then 2 ^ 38 else 0

/-- The sideband of a first flit (R149). -/
def sideFirst (cls kind drow dcol : Nat) (foreign : Bool) (len1 srow scol : Nat) : BitVec 64 :=
  BitVec.ofNat 64 (sideLow cls kind 0 drow dcol 0 foreign + 2 ^ 39 * (len1 % 32) + 2 ^ 44 * (srow % 512) +
    2 ^ 53 * (scol % 512))

/-- The sideband of a later flit (R149). -/
def sideLater (cls kind fidx drow dcol : Nat) (foreign : Bool) : BitVec 64 :=
  BitVec.ofNat 64 (sideLow cls kind fidx drow dcol 0 foreign)

/-- The sideband of a PSUM flit (R149). -/
def sidePsum (cls drow dcol : Nat) (foreign : Bool) (exp : Int) (chunk : Nat) : BitVec 64 :=
  BitVec.ofNat 64 (sideLow cls 10 0 drow dcol 0 foreign + 2 ^ 39 * truncZ exp 10 + 2 ^ 49 * (chunk % 2 ^ 15))

/-- The flits of a message from its payloads: the first carries LEN and the source (R149). -/
def messageFlits (cls kind drow dcol : Nat) (foreign : Bool) (srow scol : Nat) (ps : List (BitVec 1024)) : List Flit :=
  ps.zipIdx.map fun p =>
    { payload := p.1,
      side := if p.2 = 0 then sideFirst cls kind drow dcol foreign (ps.length - 1) srow scol
              else sideLater cls kind p.2 drow dcol foreign }

/-- The flits of a core waiting to enter its router on a class: the first two stand in the router's local input (R157). -/
def egressOf (c : Core) (cls : Nat) : List Flit := fget c.egress cls []
/-- Whether the router's local input has room for a class (R157). -/
def inputFree (c : Core) (cls : Nat) : Bool := decide ((egressOf c cls).length < 2)
/-- A core that n flits of a region's class have reached, taken or discarded. Flits from outside the region balance in it: they count
at once as injected into it (R86, R390; log entry 15). -/
def countReached (from_ : Bool) (n : Nat) (c : Core) : Core :=
  { c with delivered := c.delivered + n, injected := if from_ then c.injected + n else c.injected }

/-- A core that sends flits on a class: those of a program class count as injected, and those that leave the region at once as
delivered out of it (R86; log entry 15). -/
def countSent (c : Core) (cls : Nat) (fs : List Flit) : Core :=
  let away := (fs.filter flitForeign).length
  { c with injected := if cls < 24 then c.injected + fs.length else c.injected,
           delivered := if cls < 24 then c.delivered + away else c.delivered }

/-- A core with flits joined to those that enter its router next on a class. -/
def sendNow (c : Core) (cls : Nat) (fs : List Flit) : Core :=
  countSent { c with egress := fset c.egress cls (egressOf c cls ++ fs) } cls fs

/-- Whether a message under assembly on a class has begun to leave and has flits still to come (R388). -/
def midMessage (c : Core) (cls : Nat) : Bool :=
  c.opens.any fun o => decide (128 ≤ o.2.cursor) && decide (o.2.cursor < 128 * o.2.flits) &&
    match readQ c o.1 with | .outQ k .. => k.toNat == cls | _ => false

/-- What waits to be sent on a class behind a message under assembly. -/
def behindOf (c : Core) (cls : Nat) : List Flit := fget c.behind cls []

/-- A core with flits joined to what it sends on a class. No flit of another message comes between those of a message under assembly:
while it has begun to leave and is not complete, what else is sent waits behind it (R149, R157; log entry 77). -/
def send (c : Core) (cls : Nat) (fs : List Flit) : Core :=
  if midMessage c cls then countSent { c with behind := fset c.behind cls (behindOf c cls ++ fs) } cls fs else sendNow c cls fs

/-- A core some more of whose message under assembly on a class has left: once all of it has, what waits behind it follows. -/
def sendBehind (c : Core) (cls : Nat) : Core :=
  if midMessage c cls || (behindOf c cls).isEmpty then c
  else { c with egress := fset c.egress cls (egressOf c cls ++ behindOf c cls), behind := fdel c.behind cls }

/-- Whether TSEND may send on a class: its router's local input has room, and no two flits wait behind a message under assembly. -/
def sendFree (c : Core) (cls : Nat) : Bool := inputFree c cls && decide ((behindOf c cls).length < 2)

/-- Payloads of 128 bytes from a byte string, the last filled with zeros. -/
def payloads : Nat → List Byte → List (BitVec 1024)
  | 0, _ => []
  | n + 1, bs => bitsOfBytes 1024 (bs.take 128) :: payloads n (bs.drop 128)

/-- A payload from numbers at byte offsets: (offset, value). -/
def payloadOf (fs : List (Nat × Nat)) : BitVec 1024 := BitVec.ofNat 1024 (fs.foldl (fun v f => v + f.2 * 2 ^ (8 * f.1)) 0)

/-- The launch number of a STAT payload. -/
def statLaunch (f : Flit) : Nat := flitField f 16 2 % 4096

/-- Two STAT flits of one destination and launch joined: their counters summed, held at the maximum (R163). -/
def joinStat (a b : Flit) : Option Flit :=
  if flitKind a = 11 ∧ flitKind b = 11 ∧ flitDrow a = flitDrow b ∧ flitDcol a = flitDcol b ∧ statLaunch a = statLaunch b then
    let sum := fun k => min (flitField a k 4 + flitField b k 4) 0xFFFF_FFFF
    some { a with payload := payloadOf [(0, sum 0), (4, sum 4), (8, sum 8), (12, sum 12), (16, statLaunch a)] }
  else none

/-! ## Edge attachments (R151) -/

/-- The row of larder n's attachment. -/
def larderRow (n : Nat) : Nat := 9 * (n % 24) + 4
/-- The edge code of larder n's attachment. -/
def larderCol (n : Nat) : Nat := if n < 24 then 510 else 511
/-- The row of the command processor's attachment. -/
def cmdRow : Nat := 111
/-- The edge code of the command processor's attachment. -/
def cmdCol : Nat := 510

/-- The lowest number of a set given by bits. -/
def lowestBit {w : Nat} (v : BitVec w) : Option Nat := (List.range w).find? fun n => v.getLsbD n

/-- The home larder of a launch: the lowest it binds (R239). -/
def homeLarder (l : Launch) : Option Nat := lowestBit l.larders

/-- Whether a launch binds a larder. -/
def bindsLarder (l : Option Launch) (n : Nat) : Bool := match l with | some l => l.larders.getLsbD n | none => false

/-- The sink of a launch's statistics: its home larder, or the command processor (R268). -/
def statSinkAt (l : Option Launch) : Nat × Nat :=
  match l.bind homeLarder with
  | some n => (larderRow n, larderCol n)
  | none => (cmdRow, cmdCol)

/-! ## XY routes (R155) -/

/-- The row that a DROW is reached at. -/
def targetRow (drow : Nat) : Nat := if drow = 510 then 0 else if drow = 511 then 223 else drow
/-- The column that a DCOL is reached at. -/
def targetCol (dcol : Nat) : Nat := if dcol = 510 then 0 else if dcol = 511 then 383 else dcol

/-- The output at the core that a destination is reached at: across the edge for an edge code, else local. -/
def finalOut (drow dcol : Nat) : Nat :=
  if dcol = 510 then 3 else if dcol = 511 then 1 else if drow = 510 then 0 else if drow = 511 then 2 else 4

/-- The XY step: columns first. -/
def xyStep (row col drow dcol : Nat) : Nat :=
  if col < targetCol dcol then 1 else if targetCol dcol < col then 3
  else if row < targetRow drow then 2 else if targetRow drow < row then 0 else finalOut drow dcol

/-! ## Inbound queues and the cellar (R166 to R168) -/

/-- The inbound queue of a class. -/
def queueOf (c : Core) (cls : Nat) : List Flit := fget c.queues cls []
/-- A core with the inbound queue of a class replaced. -/
def setQueue (c : Core) (cls : Nat) (q : List Flit) : Core := { c with queues := fset c.queues cls q }

/-- The entries a cellar of 4096·m bytes holds (R168). -/
def cellarCount (size : Nat) : Nat := 28 * (size / 4096)

/-- The valid entries of the cellar: arrival number, index and flit. -/
def cellarEntries (c : Core) : List (Nat × Nat × Flit) :=
  match c.cellar with
  | none => []
  | some (b, size) =>
    let n := cellarCount size
    (List.range n).filterMap fun i =>
      let st := c.sram.word (b.toNat + 136 * n + 8 * i)
      if st.getLsbD 63 then
        some ((st.extractLsb' 0 32).toNat, i,
          { payload := BitVec.ofNat 1024 (c.sram.readLE (b.toNat + 128 * i) 128),
            side := c.sram.word (b.toNat + 128 * n + 8 * i) })
      else none

/-- The oldest of a list of entries: the one whose arrival number has gone furthest behind the next one. -/
def oldestEntry (next : Nat) : List (Nat × Nat × Flit) → Option (Nat × Nat × Flit)
  | [] => none
  | e :: es =>
    match oldestEntry next es with
    | none => some e
    | some f => if (next + 2 ^ 32 - e.1) % 2 ^ 32 ≥ (next + 2 ^ 32 - f.1) % 2 ^ 32 then some e else some f

/-- The next arrival number of the cellar. -/
def cellarNext (c : Core) : Nat :=
  match c.cellar with
  | none => 0
  | some (b, size) => c.sram.readLE (b.toNat + 144 * cellarCount size) 4

/-- The oldest flit of a class in the cellar, and the core once it has left it. -/
def takeSpilled (c : Core) (cls : Nat) : Option (Flit × Core) :=
  match c.cellar, oldestEntry (cellarNext c) ((cellarEntries c).filter fun e => flitCls e.2.2 == cls) with
  | some (b, size), some (_, i, f) =>
    let a := b.toNat + 136 * cellarCount size + 8 * i
    some (f, { c with sram := c.sram.writeLE a 8 ((c.sram.readLE a 8) % 2 ^ 63) })
  | _, _ => none

/-- Whether the cellar holds a flit of a class. -/
def spilled (c : Core) (cls : Nat) : Bool := (cellarEntries c).any fun e => flitCls e.2.2 == cls

/-- The core once a flit has entered a free entry of the cellar, if one is free (R168). -/
def spill (c : Core) (f : Flit) : Option Core :=
  match c.cellar with
  | none => none
  | some (b, size) =>
    let n := cellarCount size
    match (List.range n).find? fun i => !(c.sram.word (b.toNat + 136 * n + 8 * i)).getLsbD 63 with
    | none => none
    | some i =>
      let next := cellarNext c
      let m := c.sram.writeLE (b.toNat + 128 * i) 128 f.payload.toNat
      let m := m.writeLE (b.toNat + 128 * n + 8 * i) 8 f.side.toNat
      let m := m.writeLE (b.toNat + 136 * n + 8 * i) 8 (next + 2 ^ 63)
      some { c with sram := m.writeLE (b.toNat + 144 * n) 8 ((next + 1) % 2 ^ 32) }

/-- Whether a class has a flit for its receivers: in its queue or in the cellar (R127). -/
def classHolds (c : Core) (cls : Nat) : Bool := !(queueOf c cls).isEmpty || spilled c cls

/-- The head flit of a class and the core once it is popped; from the cellar when the queue is empty (R167, R380). -/
def popFlit (c : Core) (cls : Nat) : Option (Flit × Core) :=
  match queueOf c cls with
  | f :: fs => some (f, setQueue c cls fs)
  | [] => takeSpilled c cls

/-- A flit into the inbound queue of its class, or the cellar when the queue is full or the class has spilled; none while
neither takes it (R166, R167). -/
def enqueue (c : Core) (f : Flit) : Option Core :=
  if (queueOf c (flitCls f)).length < 4 && !spilled c (flitCls f) then some (setQueue c (flitCls f) (queueOf c (flitCls f) ++ [f])) else spill c f

/-! ## Pantry deliveries (R259, R261, R269) -/

/-- A pantry of a core. -/
def pantryAt (c : Core) (p : Nat) : Pantry := fget c.pantries p {}
/-- A core with a pantry replaced. -/
def setPantry (c : Core) (p : Nat) (x : Pantry) : Core := { c with pantries := fset c.pantries p x }

/-- The pantry that the message at the head of a class is for: a PUSH of FORM 0 (R252). -/
def pushPantry (c : Core) (cls : Nat) : Option Nat :=
  match (fget c.rx cls []).head? with
  | some f => if flitKind f = 15 ∧ flitField f 4 1 = 0 then some (flitField f 5 1) else none
  | none => none

/-- A core in which the delivery whose first flit has just come on a class, if it is one into a pantry, is accepted as that pantry
stands. -/
def acceptPush (c : Core) (cls : Nat) : Core :=
  match pushPantry c cls, ffind c.accepted cls, ffind c.pushed cls with
  | some p, none, none => { c with accepted := fset c.accepted cls (c.stamp, pantryAt c p) }
  | _, _, _ => c

/-- The pantry that deliveries into pantry p go by where they go by one of some number of PSETs, replaced. -/
def changeOld (c : Core) (p sets : Nat) (f : Pantry → Pantry) : Core :=
  let put := fun (e : Nat × Nat × Pantry) =>
    if pushPantry c e.1 = some p ∧ e.2.2.sets = sets then (e.1, e.2.1, f e.2.2) else e
  { c with accepted := c.accepted.map put, pushed := c.pushed.map put }

/-- A core whose pantry p a PSET sets anew: deliveries accepted go on by the pantry as it stood, but one whose first flit came in this
cycle is judged against the new one (R261, R269). -/
def resetPantry (c : Core) (p : Nat) (x : Pantry) : Core :=
  let old := pantryAt c p
  let c := changeOld c p old.sets fun _ => old
  setPantry { c with accepted := c.accepted.map fun e =>
                if pushPantry c e.1 = some p ∧ e.2.1 = c.stamp then (e.1, e.2.1, x) else e } p x

/-! ## Tasks (R127 to R129) -/

/-- Whether a task's binding holds (R127). -/
def bindingHolds (c : Core) (t : Task) : Bool :=
  if t.onEvent then c.sys.evflags.getLsbD t.k.toNat else classHolds c t.k.toNat

/-- A task table brought up to date: a task that is not running and whose binding holds, or that yielded, is ready from
this cycle on, and one that is not ready has no place in the order; the core is idle while no task runs (R127, R129). -/
def refreshReady (c : Core) : Core :=
  (List.range 32).foldl (fun c k =>
    match ffind c.tasks k with
    | none => c
    | some t =>
      let ready := c.running ≠ some k && (t.again || bindingHolds c t)
      if ready && t.readyAt.isNone then { c with tasks := fset c.tasks k { t with readyAt := some c.stamp, waits := 0 } }
      else if !ready && t.readyAt.isSome then { c with tasks := fset c.tasks k { t with readyAt := none, waits := 0 } }
      else c) { c with sys := { c.sys with idle := c.running.isNone } }

/-- What has landed in a core in the present cycle. -/
def landedNow (c : Core) : Landed := if c.landed.cycle = c.stamp then c.landed else { cycle := c.stamp }

/-- EVFLAGS with bits set by an event, which the cycle keeps note of, and the tasks they ready (R127, R410). -/
def setEvents (c : Core) (m : BitVec 32) : Core :=
  let l := landedNow c
  refreshReady { c with sys := { c.sys with evflags := c.sys.evflags ||| m }, landed := { l with sets := l.sets ||| m } }

/-- EVFLAGS replaced. -/
def putEvents (c : Core) (m : BitVec 32) : Core := refreshReady { c with sys := { c.sys with evflags := m } }

/-- Whether one ready task goes before another: aged first, then priority, then the earlier (R129). -/
def goesBefore (a b : Task) : Bool :=
  let agedA := decide (64 ≤ a.waits)
  let agedB := decide (64 ≤ b.waits)
  if agedA != agedB then agedA
  else if !agedA && a.prio != b.prio then decide (b.prio.toNat < a.prio.toNat)
  else decide (a.readyAt.getD 0 < b.readyAt.getD 0)

/-- The first of a list of ready tasks in the order of R129; of two that no rule puts first, the lower number. -/
def firstReady : List (Nat × Task) → Option (Nat × Task)
  | [] => none
  | t :: ts =>
    match firstReady ts with
    | none => some t
    | some u => if goesBefore u.2 t.2 then some u else some t

/-- The next task to run (R129). -/
def nextTask (c : Core) : Option (Nat × Task) :=
  firstReady (c.tasks.filter fun t => t.2.readyAt.isSome && c.running ≠ some t.1)

/-- Whether a set of an event-bound task's flag lands in the cycle in which the task, ready before, is dispatched: the set
wins (R127). -/
def setWins (c : Core) (t : Task) : Bool :=
  t.onEvent && (landedNow c).sets.getLsbD t.k.toNat && decide (t.readyAt.getD c.stamp < c.stamp)

/-- A task dispatched: it runs from its saved PC, an event-bound task's flag is cleared unless a set lands in this cycle, and
every other ready task has waited through one more switch (R127, R129). -/
def dispatchTask (c : Core) (k : Nat) (t : Task) : Core :=
  let tasks := c.tasks.map fun u => if u.2.readyAt.isSome then (u.1, { u.2 with waits := u.2.waits + 1 }) else u
  let flags := if t.onEvent && !setWins c t then c.sys.evflags &&& ~~~(1#32 <<< t.k.toNat) else c.sys.evflags
  refreshReady
    { c with running := some k, pc := t.pc, wait := .run, sys := { c.sys with evflags := flags },
             tasks := fset tasks k { t with again := false, readyAt := none, waits := 0 } }

/-- The running task gives up the core: its saved PC, and whether it is ready again at once (R128). -/
def giveUp (c : Core) (pc : BitVec 16) (again : Bool) : Core :=
  match c.running with
  | none => c
  | some k =>
    let tasks :=
      match ffind c.tasks k with
      | none => c.tasks
      | some t => fset c.tasks k { t with pc := pc, again := again }
    refreshReady { c with running := none, wait := .run, tasks := tasks }

/-! ## Bursts of a bulk read (R263) -/

/-- Bursts per row (R263). -/
def burstsPerRow (d : BreadDesc) : Nat := (d.width + 127) / 128

/-- The first and last-plus-one bytes of the part of burst k that is valid, and its row; none where it is skipped. -/
def burstSpan (d : BreadDesc) (k : Nat) : Option (Nat × Nat × Nat) :=
  let by_ := k / burstsPerRow d
  let bx := k % burstsPerRow d
  let lo := max (128 * bx) d.x0
  let hi := min (min (128 * bx + 128) d.width) d.x1
  if by_ < d.y0 || d.y1 ≤ by_ || d.height ≤ by_ || hi ≤ lo then none else some (by_, lo, hi)

/-- The columns of bursts in a row that are not skipped: the first and how many. -/
def burstCols (d : BreadDesc) : Nat × Nat :=
  let x1 := min d.x1 d.width
  if x1 ≤ d.x0 then (0, 0) else (d.x0 / 128, (x1 + 127) / 128 - d.x0 / 128)

/-- The rows of a bulk read that are not skipped. -/
def burstRows (d : BreadDesc) : Nat := min d.y1 d.height - d.y0

/-- The bursts of a bulk read that are not skipped. -/
def burstTotal (d : BreadDesc) : Nat := burstRows d * (burstCols d).2

/-- The index bix of the j-th burst that is not skipped (R263). -/
def burstIndex (d : BreadDesc) (j : Nat) : Nat :=
  let cols := burstCols d
  (d.y0 + j / cols.2) * burstsPerRow d + cols.1 + j % cols.2

/-! ## Status words and bulk reads (R266, R400) -/

/-- A status word: done, a code and a count of sectors. -/
def statusOf (code count : Nat) : Word := BitVec.ofNat 64 (2 ^ 63 + code * 2 ^ 56 + count % 2 ^ 32)

/-- Whether every burst of a bulk read that will come has been handled (R266). -/
def breadOver (b : Bread) : Bool := b.handled == b.delivered && (b.delivered == b.total || b.ended)

/-- A core whose bulk read completes once every burst is handled: its status word and event flag (R266). -/
def finishBread (c : Core) (tag : Nat) : Core :=
  match ffind c.breads tag with
  | none => c
  | some b =>
    if breadOver b then
      setEvents (writeX { c with breads := fdel c.breads tag } .main b.xs (statusOf b.code b.sectors)) (1#32 <<< b.ev.toNat)
    else c

/-- The bulk reads of a core that have come to their end complete as the cycle ends: with the wafer stopped they wait for its release
(R269). -/
def settleBreads (c : Core) : Core := c.breads.foldl (fun c b => finishBread c b.1) c

/-- A burst of a bulk read has been handled; abort records a handler's trap (R141, R266). -/
def burstHandled (c : Core) (tag : Nat) (abort : Bool) : Core :=
  match ffind c.breads tag with
  | none => c
  | some b =>
    { c with breads := fset c.breads tag
               { b with handled := b.handled + 1, code := if abort && b.code == 0 then 6 else b.code } }

end Sys2Proof.Machine
end

