-- ==== Sys2Proof/Machine/HostIo.lean ====
section
/-! DEFINITION. What lies outside the grid: host memory through the ports (R30, R65, R76), the events of the device (R45),
queue entries in flight (R74), and the attic with its translation (R26, R27, R77, R253). -/

namespace Sys2Proof.Machine

/-! ## Host memory -/

/-- The port that bit 0 of a host address names (R65, R76). -/
def portOf (v : Word) : HostPort := if v.getLsbD 0 then .p1 else .p0

/-- The byte address of a host address: bit 0 names the port. -/
def hostByte (v : Word) : Nat := (v &&& ~~~1#64).toNat

/-- The address of a table or ring: the low 12 bits cleared (R65). -/
def hostPage (v : Word) : Nat := (v &&& ~~~0xFFF#64).toNat

/-- Whether a host port's link is up. -/
def hostUp (s : State) (p : HostPort) : Bool := (portAt s p).up

/-- Bytes of host memory. -/
def hostRead (s : State) (p : HostPort) (a n : Nat) : List Byte := (portAt s p).mem.readBytes a n

/-- A little-endian number in host memory. -/
def hostLE (s : State) (p : HostPort) (a n : Nat) : Nat := (portAt s p).mem.readLE a n

/-- The state with one host port changed. -/
def modPort (s : State) (p : HostPort) (f : Port → Port) : State := setPort s p (f (portAt s p))

/-- Bytes written to host memory; a write towards a port whose link is down is discarded (R30). -/
def hostWrite (s : State) (p : HostPort) (a : Nat) (bs : List Byte) : State :=
  if hostUp s p then modPort s p fun x => { x with mem := x.mem.writeBytes a bs } else s

/-- A number written to host memory. -/
def hostPut (s : State) (p : HostPort) (a n v : Nat) : State := hostWrite s p a (leBytes v n)

/-- Whether a port's MSI-X vector is masked, singly or with all the others (R45). -/
def msixMasked (x : Port) (vec : Nat) : Bool := x.msixMaskAll || x.msixMask.getLsbD vec

/-- An MSI-X message on a vector of a port: discarded while its link is down, held pending while the vector is masked (R45,
R72). -/
def sendMsix (s : State) (p : HostPort) (vec : Nat) : State :=
  if !hostUp s p then s
  else
    modPort s p fun x =>
      if msixMasked x vec then { x with msixPending := x.msixPending ||| (1#64 <<< vec) } else { x with msix := x.msix ++ [vec] }

/-- The messages held pending whose vectors are no longer masked, sent. -/
def sendPending (s : State) (p : HostPort) : State :=
  (List.range 64).foldl (fun s v =>
    if (portAt s p).msixPending.getLsbD v && !msixMasked (portAt s p) v then
      sendMsix (modPort s p fun x => { x with msixPending := x.msixPending &&& ~~~(1#64 <<< v) }) p v
    else s) s

/-- A write to the MSI-X masks of a port: word v is the mask of vector v, word 64 that of all (log entry 63). -/
def writeMsixMask (s : State) (p : HostPort) (off : Nat) (b : Bool) : State :=
  sendPending (modPort s p fun x =>
    if off < 64 then { x with msixMask := if b then x.msixMask ||| (1#64 <<< off) else x.msixMask &&& ~~~(1#64 <<< off) }
    else if off = 64 then { x with msixMaskAll := b } else x) p

/-! ## Events (R45) -/

/-- What has happened to a port's EVENT bits in the present cycle. -/
def eventsNow (s : State) (x : Port) : EventCycle := if x.events.cycle = s.cycle then x.events else { cycle := s.cycle }

/-- An event at one port: its bit set, and a message on vector 0 as it goes from 0 to 1 while enabled. A bit that a write of the
same cycle has cleared stays set, and has not gone from 0 to 1. -/
def portEvent (s : State) (p : HostPort) (n : Nat) : State :=
  let x := portAt s p
  let e := eventsNow s x
  let s := modPort s p fun x =>
    { x with event := x.event ||| (1#9 <<< n), events := { e with occurred := e.occurred ||| (1#9 <<< n) } }
  if !x.event.getLsbD n && !e.cleared.getLsbD n && x.evmask.getLsbD n then sendMsix s p 0 else s

/-- An event of the device, at both ports. -/
def raiseEvent (s : State) (n : Nat) : State := portEvent (portEvent s .p0 n) .p1 n

/-- The numbers of the events. -/
def evPowerLimit : Nat := 0
/-- POWER_TRIP. -/
def evPowerTrip : Nat := 1
/-- FATAL. -/
def evFatal : Nat := 2
/-- LFAULT. -/
def evLfault : Nat := 3
/-- CALIB_ALARM. -/
def evCalib : Nat := 4
/-- DUMP_DONE. -/
def evDumpDone : Nat := 5
/-- PEER_DOWN. -/
def evPeerDown : Nat := 6
/-- BOOT_DONE. -/
def evBootDone : Nat := 7
/-- REGION_ABORT. -/
def evRegionAbort : Nat := 8

/-! ## Entries in flight (R74) -/

/-- The status codes of R74. -/
def csOk : Nat := 0
/-- BAD_ENTRY. -/
def csBadEntry : Nat := 1
/-- REFUSED. -/
def csRefused : Nat := 2
/-- ABORT. -/
def csAbort : Nat := 3
/-- REDUCE_LATE. -/
def csReduceLate : Nat := 4
/-- FAULT. -/
def csFault : Nat := 5
/-- PREEMPTED. -/
def csPreempted : Nat := 6

/-- An entry of a key. -/
def entryAt (s : State) (k : EntryKey) : Option Entry := s.unrid.entries.find? fun e => e.key = k

/-- The state with an entry's progress replaced. -/
def setEntry (s : State) (k : EntryKey) (st : EntrySt) : State :=
  modUnrid s fun u => { u with entries := u.entries.map fun e => if e.key = k then { e with st := st } else e }

/-- An entry that has come to its end: QUEUE_ENTRY_COMPLETION writes its completion. One that has ended stays as it is. -/
def endEntry (s : State) (k : EntryKey) (status detail result : Nat) : State :=
  match entryAt s k with
  | some e => match e.st with | .done .. => s | _ => setEntry s k (.done status detail result)
  | none => s

/-- A field of an entry: n bytes at an offset (R73). -/
def entryField (e : Entry) (o n : Nat) : Nat := leNat ((e.bytes.drop o).take n)

/-- A 64-bit field of an entry. -/
def entryWord (e : Entry) (o : Nat) : Word := BitVec.ofNat 64 (entryField e o 8)

/-- OPCODE of an entry. -/
def entryOp (e : Entry) : Nat := entryField e 0 1

/-! ## The attic (R26, R27, R77, R253) -/

/-- Whether an attic physical address names memory: an enabled port and an offset below its expander's capacity (R26). -/
def namesMemory (s : State) (pa : Nat) : Bool :=
  match ffind s.expanders (pa / 2 ^ 42) with
  | some e => decide (pa / 2 ^ 42 < 48) && e.up && decide (pa % 2 ^ 42 < e.capacity)
  | none => false

/-- Whether the sector of an attic physical address is poisoned (R27). -/
def poisoned (s : State) (pa : Nat) : Bool :=
  match ffind s.expanders (pa / 2 ^ 42) with
  | some e => e.poison.contains (pa % 2 ^ 42 / 32)
  | none => false

/-- The bytes of a page size: 4 KiB, 64 KiB, 2 MiB (R76). -/
def pageBytes (code : Nat) : Nat := if code = 0 then 4096 else if code = 1 then 65536 else 2097152

/-- An attic context. -/
def atticCtx (s : State) (n : Nat) : Option AtticCtx := ffind s.unrid.ctxs n

/-- The physical address of an attic virtual address under a context, if it has a leaf. -/
def translate (s : State) (actx va : Nat) : Option Nat :=
  match atticCtx s actx with
  | none => none
  | some x =>
    (x.leaves.find? fun l => decide (l.1 ≤ va) && decide (va < l.1 + pageBytes l.2.1)).map fun l => l.2.2 + (va - l.1)

/-- The expander of a port with the sectors that a write covers no longer poisoned (R27; log entry 18). -/
def clearPoison (x : Expander) (off n : Nat) : Expander :=
  { x with poison := x.poison.filter fun i => !(decide (off ≤ 32 * i) && decide (32 * i + 32 ≤ off + n)) }

/-- Bytes written into the attic. -/
def atticWrite (s : State) (pa : Nat) (bs : List Byte) : State :=
  { s with attic := s.attic.writeBytes pa bs,
           expanders := s.expanders.map fun e => if e.1 = pa / 2 ^ 42 then (e.1, clearPoison e.2 (pa % 2 ^ 42) bs.length) else e }

/-- The undercroft, if the boot configuration has one whose port is in service (R53, R63). -/
def undercroft (s : State) : Option (Nat × Nat) :=
  let c := s.dev.cfg
  if c.ucbase ≠ 0 ∧ c.ucsize ≠ 0 ∧ namesMemory s c.ucbase then some (c.ucbase, c.ucsize) else none

/-- Whether a range overlaps the undercroft (R53, R77). -/
def overUndercroft (s : State) (a n : Nat) : Bool :=
  let c := s.dev.cfg
  c.ucbase != 0 && c.ucsize != 0 && decide (a < c.ucbase + c.ucsize) && decide (c.ucbase < a + n)

end Sys2Proof.Machine
end

