-- ==== Sys2Proof/Machine/SysRegs.lean ====
section
/-! DEFINITION. The system registers as words (R102, R124, R125), the core record of a save (R93, R385) and the words that
inspection reads (R105). -/

namespace Sys2Proof.Machine

/-! ## System registers -/

/-- A bit as a number. -/
def bitN (b : Bool) : Nat := if b then 1 else 0

/-- STATUS (R125). IDLE is the scheduler's own bit: 0 at reset, as the table has it, and set once no task runs (R129). -/
def statusWord (c : Core) : Word :=
  BitVec.ofNat 64 (bitN c.sys.mode + 2 * bitN c.sys.pmode + 4 * bitN c.gang.isSome +
    8 * bitN (match c.gang with | some g => g.leader | none => false) +
    16 * bitN (match c.gang with | some g => g.block | none => false) + 32 * bitN c.sys.idle)

/-- SEGBASE_n (R125). -/
def segBaseWord (g : Segment) : Word := BitVec.ofNat 64 (bitN g.valid + 2 ^ 12 * g.base.toNat)
/-- SEGSIZE_n (R125). -/
def segSizeWord (g : Segment) : Word := BitVec.ofNat 64 (2 ^ 12 * g.size.toNat + 2 ^ 32 * g.span.toNat)

/-- The value of system register n of a core in a cycle (R124, R125). -/
def readSys (c : Core) (cycle : Nat) (n : Nat) : Word :=
  match n with
  | 0x000 => statusWord c
  | 0x001 => BitVec.ofNat 64 (bitN c.sys.vecen + 8 * c.sys.vec.toNat)
  | 0x002 => BitVec.ofNat 64 (c.running.getD 0 % 32 + 32 * bitN c.sys.idle)
  | 0x003 => c.sys.evflags.setWidth 64
  | 0x004 => c.sys.cause
  | 0x005 => c.sys.trappc.setWidth 64
  | 0x006 => c.sys.trapval
  | 0x007 => BitVec.ofNat 64 cycle
  | 0x008 => c.sys.fpflags.setWidth 64
  | 0x009 => BitVec.ofNat 64 (bitN c.sys.precise)
  | 0x00A => BitVec.ofNat 64 (bitN c.sys.det)
  | 0x00B => BitVec.ofNat 64 (c.sys.orgRow.toNat + 2 ^ 16 * c.sys.orgCol.toNat)
  | 0x00C =>
    BitVec.ofNat 64 (c.sys.rows.toNat + 2 ^ 16 * c.sys.cols.toNat + 2 ^ 32 * c.sys.prio.toNat + 2 ^ 34 * bitN c.sys.det)
  | 0x00D => c.sys.capself
  | 0x00E => c.sys.satcnt.setWidth 64
  | 0x00F => c.sys.nancnt.setWidth 64
  | 0x010 => c.sys.uflcnt.setWidth 64
  | 0x011 => c.sys.ecccnt.setWidth 64
  | 0x012 | 0x013 | 0x014 | 0x015 => fget c.sys.scratch (n - 0x012) 0
  | 0x018 | 0x019 | 0x01A | 0x01B | 0x01C | 0x01D | 0x01E | 0x01F => segBaseWord (fget c.sys.seg (n - 0x018) {})
  | 0x020 | 0x021 | 0x022 | 0x023 | 0x024 | 0x025 | 0x026 | 0x027 => segSizeWord (fget c.sys.seg (n - 0x020) {})
  | 0x028 | 0x029 | 0x02A | 0x02B => (fget c.sys.dbgpc (n - 0x028) 0).setWidth 64
  | 0x02C | 0x02D => (fget c.sys.dbgwa (n - 0x02C) 0).setWidth 64
  | _ => 0

/-- The defined bits of TRAPCAUSE (R125): reserved bits are ignored on a write and read 0. -/
def causeMask : Word := 0xFFFF1FFF

/-- The bits of DBGPCn that exist (R102). -/
def dbgpcOf (v : Word) : BitVec 23 := v.setWidth 23
/-- The bits of DBGWAn that exist (R102). -/
def dbgwaOf (v : Word) : BitVec 25 := v.setWidth 25

/-! ## Routing entries (R152, R153) -/

/-- The routing entry of a class in a core's own router. -/
def routeOf (c : Core) (cls : Nat) : BitVec 32 := fget c.routes cls 0

/-- The entry a router holds for a class: the system classes have theirs fixed, class 30 with the merge add.stat
(R152). -/
def routeEntry (c : Core) (cls : Nat) : BitVec 32 := if cls = 30 then 0x10 else if cls < 24 then routeOf c cls else 0

/-! ## The core record (R93) -/

/-- A field of a record: its byte offset, its size and its value. -/
abbrev RecField := Nat × Nat × Nat

/-- A memory with fields written from a base on. -/
def writeFields (m : Memory) (base : Nat) (fs : List RecField) : Memory :=
  fs.foldl (fun m f => m.writeLE (base + f.1) f.2.1 f.2.2) m

/-- Where the core state of a record begins: after the SRAM and the instruction store. -/
def stateBase : Nat := 0x90000

/-- The bytes of a core record. -/
def recordSize : Nat := 0xA0000

/-- A scope as a number (R278). -/
def scopeNum : Scope → Nat
  | .lane => 0
  | .core => 1
  | .quad => 2
  | .field => 3
  | .wafer => 4
  | .pod => 5

/-- The pending-wait word: the switch point at which a task stands (R90, R93; its layout is the model's, log entry 16). -/
def waitWord : Wait → Nat
  | .run => 0
  | .instr => 1
  | .met => 4
  | .barrier sc id => 2 + 8 * scopeNum sc + 64 * id.toNat
  | .gang b => 3 + 8 * bitN b

/-- The 16 bytes of a binding (R385). -/
def bindFields (b : QBind) : List RecField :=
  match b with
  | .unbound => []
  | .inQ cls => [(0, 1, 1), (1, 1, cls.toNat)]
  | .outQ cls drow dcol h => [(0, 1, 2), (1, 1, cls.toNat), (4, 2, drow), (6, 2, dcol), (8, 8, h.toNat)]
  | .pantry p o => [(0, 1, 3), (2, 1, p), (3, 1, o)]
  | .larder n c => [(0, 1, 4), (2, 1, n), (3, 1, c)]
  | .cap h => [(0, 1, 5), (8, 8, h.toNat)]

/-- The age of a ready task: how many others were ready before it (R129). -/
def taskAge (ts : FMap Task) (t : Task) : Nat :=
  match t.readyAt with
  | none => 0
  | some a => (ts.filter fun u => match u.2.readyAt with | some b => decide (b < a) | none => false).length

/-- The 16 bytes of a task entry (the layout is the model's, log entry 16). -/
def taskFields (running : Bool) (age : Nat) (t : Task) : List RecField :=
  [(0, 2, t.entry.toNat), (2, 2, t.pc.toNat), (4, 1, t.prio.toNat),
   (5, 1, 1 + 2 * bitN t.onEvent + 4 * bitN t.readyAt.isSome + 8 * bitN t.again + 16 * bitN running), (6, 1, t.k.toNat),
   (8, 4, t.waits), (12, 4, age)]

/-- The 8 state bytes of a slot (R366). -/
def slotState (t : Slot) : Nat :=
  bitN t.claimed + 2 * (match t.planes with | .p2 => 0 | .p4 => 1 | .p8 => 2) + 8 * bitN t.i8

/-- The 32 bytes of a pantry (R258). -/
def pantryFields (p : Pantry) : List RecField :=
  [(0, 4, p.base.toNat), (4, 1, p.logsz), (5, 1, bitN p.valid + 2 * bitN p.outbound), (8, 4, p.fill.toNat), (12, 4, p.cur.toNat),
   (16, 4, p.rel.toNat)]

/-- The 288 bytes of a handler context. -/
def handlerFields (h : Handler) : List RecField :=
  (List.range 16).map (fun n => (8 * n, 8, (fget h.y n 0).toNat)) ++
    [(128, 64, (fget h.w 0 0).toNat), (192, 64, (fget h.w 1 0).toNat), (256, 4, h.bix.toNat), (260, 4, h.bxc.toNat),
     (264, 4, h.byc.toNat), (268, 2, h.bcnt.toNat), (270, 2, h.pc.toNat), (272, 8, bitN h.busy + 256 * h.tag)]

/-- The 8,224 bytes of the accumulators. -/
def accFields (c : Core) : List RecField :=
  (List.range 4).flatMap fun n =>
    let t := readAcc c n
    (List.range 256).map (fun k => (2056 * n + 8 * k, 8, ((fget t.el k 0).signExtend 64).toNat)) ++
      [(2056 * n + 2048, 8, (t.exp.signExtend 64).toNat)]

/-- Fields moved by an offset. -/
def fieldsAt (o : Nat) (fs : List RecField) : List RecField := fs.map fun f => (o + f.1, f.2.1, f.2.2)

/-- The 64 KiB of core state of a record; cycle is the cycle it is taken in (R93). The cellar and the length of the
queue of class 0, for which R93 names no place, stand in the 16 reserved bytes beside the wait word (log entry 16); a flit of
another class is told from an empty place by its sideband. -/
def stateFields (c : Core) (cycle : Nat) : List RecField :=
  (List.range 64).map (fun n => (8 * n, 8, (fget c.regs.x n 0).toNat)) ++
    (List.range 32).map (fun n => (0x200 + 64 * n, 64, (fget c.regs.v n 0).toNat)) ++
    (List.range 8).map (fun n => (0xA00 + 2 * n, 2, (readFm c n).toNat)) ++
    (List.range 2).flatMap (fun n =>
      let l := readLc c n
      [(0xA10 + 8 * n, 4, l.count.toNat), (0xA14 + 8 * n, 2, l.start.toNat), (0xA16 + 8 * n, 2, l.stop.toNat)]) ++
    [(0xA20, 8, c.pc.toNat), (0xA28, 8, waitWord c.wait)] ++
    (match c.cellar with | some (b, n) => [(0xA30, 4, b.toNat), (0xA34, 4, n)] | none => []) ++
    [(0xA38, 1, (queueOf c 0).length)] ++
    fieldsAt 0xA40 (accFields c) ++
    (List.range 8).flatMap (fun n =>
      let t := readSlot c n
      (List.range 16).map (fun i => (0x2A60 + 648 * n + 40 * i, 40, (fget t.rows i 0).toNat)) ++
        [(0x2A60 + 648 * n + 640, 8, slotState t)]) ++
    (List.range 8).flatMap (fun n => fieldsAt (0x3EA0 + 288 * n) (handlerFields (handlerAt c n))) ++
    (c.bursts.zipIdx.flatMap fun b =>
      fieldsAt (0x47A0 + 160 * b.2)
        [(0, 128, b.1.data.toNat), (128, 4, b.1.bix.toNat), (132, 4, b.1.bxc.toNat), (136, 4, b.1.byc.toNat),
         (140, 2, b.1.bcnt.toNat), (142, 2, b.1.tag + 2 ^ 15)]) ++
    ((List.range 32).flatMap fun q =>
      ((queueOf c q).zipIdx.flatMap fun f =>
        [(0x4CA0 + 544 * q + 136 * f.2, 128, f.1.payload.toNat), (0x4CA0 + 544 * q + 136 * f.2 + 128, 8, f.1.side.toNat)])) ++
    (List.range 16).flatMap (fun n => fieldsAt (0x90A0 + 16 * n) (bindFields (readQ c n))) ++
    (c.tasks.flatMap fun t => fieldsAt (0x91A0 + 16 * t.1) (taskFields (decide (c.running = some t.1)) (taskAge c.tasks t.2) t.2)) ++
    (List.range 8).flatMap (fun n => fieldsAt (0x93A0 + 32 * n) (pantryFields (fget c.pantries n {}))) ++
    (List.range 32).map (fun n => (0x94A0 + 4 * n, 4, (routeEntry c n).toNat)) ++
    (List.range 128).map (fun n => (0x9520 + 8 * n, 8, (readSys c cycle n).toNat)) ++ [(0x9920, 8, c.arrivals.toNat)]

/-- A whole core record written at an address. -/
def writeRecord (m : Memory) (base : Nat) (c : Core) (cycle : Nat) : Memory :=
  let m := m.writeBytes base (c.sram.readBytes 0 0x80000)
  let m := m.writeBytes (base + 0x80000) (c.istore.readBytes 0 0x10000)
  let m := m.writeBytes (base + stateBase) (List.replicate 0x10000 0)
  writeFields m (base + stateBase) (stateFields c cycle)

/-! ## Inspection (R104, R105) -/

/-- The 8-byte words of an inspection space: x, v, system registers, SRAM, instruction store, accumulators, handler
contexts (R105). -/
def spaceWords (space : Nat) : Nat :=
  match space with
  | 0 => 64
  | 1 => 256
  | 2 => 128
  | 3 => 65536
  | 4 => 8192
  | 5 => 1028
  | 6 => 288
  | _ => 0

/-- A word of a list of fields. -/
def fieldWord (fs : List RecField) (w : Nat) : Word := (writeFields Memory.empty 0 fs).word (8 * w)

/-- A core once inspection has read a word of it: a read of ECCCNT clears it (R4, R102, R124). -/
def inspectTaken (c : Core) (space w : Nat) : Core :=
  if space = 2 ∧ w = 0x011 then { c with sys := { c.sys with ecccnt := 0 } } else c

/-- The register that a word of a space belongs to, with its context: none where the space holds no register (R105). -/
def spaceReg (space w : Nat) : Option (Ctx × RegRef) :=
  match space with
  | 0 => some (.main, .x w)
  | 1 => some (.main, .v (w / 8))
  | 5 => some (.main, .a (w / 257))
  | 6 =>
    if w % 36 < 16 then some (.handler (w / 36), .x (w % 36))
    else if w % 36 < 32 then some (.handler (w / 36), .v ((w % 36 - 16) / 8)) else none
  | _ => none

/-- Whether a word belongs to a register whose result is pending (R100). -/
def pendingWord (c : Core) (space w : Nat) : Bool :=
  match spaceReg space w with
  | some (ctx, r) => c.pending.any fun p => p.ctx == ctx && p.late.isNone && p.dests.any fun d => d.ref == r
  | none => false

/-- A word of a core as inspection reads it. A destination that is pending shows as such, until its result is written: the spec
gives the word no value, and it is the free one (R100; log entry 26). -/
def inspectRead (c : Core) (cycle space w : Nat) (free : Word) : Word :=
  if pendingWord c space w then free
  else
  match space with
  | 0 => readX c .main w
  | 1 => BitVec.ofNat 64 ((readV c .main (w / 8)).toNat >>> (64 * (w % 8)))
  | 2 => readSys c cycle w
  | 3 => c.sram.word (8 * w)
  | 4 => c.istore.word (8 * w)
  | 5 => fieldWord (accFields c) w
  | 6 => fieldWord ((List.range 8).flatMap fun n => fieldsAt (288 * n) (handlerFields (handlerAt c n))) w
  | _ => 0

end Sys2Proof.Machine
end

