-- ==== Sys2Proof/Machine/Walk.lean ====
section
/-! DEFINITION. The command words of larders, the walks of their data commands, and the place of a walk that a record shows
(R244 to R249, R253 to R255). -/

namespace Sys2Proof.Machine

/-- The launch of a number. -/
def launchNum (s : State) (num : Nat) : Option Launch := s.unrid.launches.find? fun l => l.num = num

/-- The launch that a larder is bound to. -/
def launchBound (s : State) (n : Nat) : Option Launch := (larderAt s n).launch.bind (launchNum s)

/-! ## Translation (R253, R254) -/

/-- A sector's physical address, or the fault that its address meets. -/
def lookup (s : State) (l : Launch) (va : Nat) : Except LKind Nat :=
  match translate s l.actx (va % 2 ^ 48) with
  | none => .error .xlate
  | some pa => if namesMemory s pa then .ok pa else .error .nomem

/-- Bytes read at a virtual address within one sector, or the fault met. -/
def readVa (s : State) (l : Launch) (va n : Nat) : Except LKind (List Byte) :=
  match lookup s l va with
  | .error k => .error k
  | .ok pa => if poisoned s pa then .error .poison else .ok (s.attic.readBytes pa n)

/-! ## Commands (R244, R245) -/

/-- A command with its fields. -/
inductive LCmd where
  | stream (hsplit serchk : Bool) (p cls serial dchunk pstr pb npl pp : Nat)
  | gather (p cls dchunk count ilen : Nat)
  | wback (sram : Bool) (p cls len : Nat)
  | bcast (p cls len : Nat)
  | signal (cls addr : Nat) (value : Word)
  | event (add : Bool) (vec : Nat) (value : Word)
  | waitw (p n : Nat)
  | loop (level : Bool) (count : Nat)
  | endl (level : Bool)
  | jump (va : Nat)
  | setv (g : Nat) (value : Word)
  | addv (g : Nat) (value : Word)
  | waitc (consume : Bool) (thresh : Nat)
  | fence
  | stop
  deriving DecidableEq, Repr

/-- Whether a word has no bit outside some fields, each a position and a width. -/
def onlyFields (w : Word) (fs : List (Nat × Nat)) : Bool :=
  fs.foldl (fun v f => v + wfield w f.1 f.2 * 2 ^ f.1) 0 == w.toNat

/-- A command if a condition on its words holds. -/
def cmdIf (ok : Bool) (c : LCmd) : Option LCmd := if ok then some c else none

/-- The fields of word 0 of STREAM that its flags give a use. -/
def streamFields (hsplit serchk : Bool) : List (Nat × Nat) :=
  [(0, 10), (16, 3), (20, 5), (40, 8)] ++ (if serchk then [(32, 8)] else []) ++ if hsplit then [(48, 16)] else []

/-- A command's words decoded; none where its OP is not listed, a reserved bit is set or a field is outside its limits. -/
def cmdOf (w v : Word) : Option LCmd :=
  let f := wfield w
  let g := wfield v
  let p := f 16 3
  let cls := f 20 5
  match f 0 8 with
  | 1 =>
    let h := w.getLsbD 8
    let k := w.getLsbD 9
    cmdIf (onlyFields w (streamFields h k) && onlyFields v (if h then [(0, 53)] else []) && f 40 8 != 0 && (h || !k) &&
        (!h || (f 48 16 != 0 && g 0 5 == 0 && g 48 2 != 0)))
      (.stream h k p cls (f 32 8) (f 40 8) (f 48 16) (g 0 48) (g 48 2) (g 50 3))
  | 2 =>
    cmdIf (onlyFields w [(0, 8), (16, 3), (20, 5), (40, 8)] && onlyFields v [(0, 48)] && f 40 8 != 0 && g 0 32 != 0 && g 32 16 != 0)
      (.gather p cls (f 40 8) (g 0 32) (g 32 16))
  | 3 => cmdIf (onlyFields w [(0, 9), (16, 3), (20, 5)] && onlyFields v [(0, 32)] && g 0 32 != 0) (.wback (w.getLsbD 8) p cls (g 0 32))
  | 4 => cmdIf (onlyFields w [(0, 8), (16, 3), (20, 5)] && onlyFields v [(0, 32)] && g 0 32 != 0) (.bcast p cls (g 0 32))
  | 5 => cmdIf (onlyFields w [(0, 8), (20, 5), (40, 19)] && f 40 3 == 0) (.signal cls (f 40 19) v)
  | 6 => cmdIf (onlyFields w [(0, 9), (24, 6)]) (.event (w.getLsbD 8) (f 24 6) v)
  | 7 => cmdIf (onlyFields w [(0, 8), (16, 3)] && onlyFields v [(0, 32)] && g 0 32 != 0 && decide (g 0 32 ≤ 8192)) (.waitw p (g 0 32))
  | 8 => cmdIf (onlyFields w [(0, 9)] && onlyFields v [(0, 32)]) (.loop (w.getLsbD 8) (g 0 32))
  | 9 => cmdIf (onlyFields w [(0, 9)] && v == 0) (.endl (w.getLsbD 8))
  | 10 => cmdIf (onlyFields w [(0, 8)] && onlyFields v [(0, 48)] && g 0 4 == 0) (.jump (g 0 48))
  | 11 => cmdIf (onlyFields w [(0, 8), (16, 3)] && decide (p ≤ 5)) (.setv p v)
  | 12 => cmdIf (onlyFields w [(0, 8), (16, 3)] && decide (p ≤ 5)) (.addv p v)
  | 13 => cmdIf (onlyFields w [(0, 9)] && onlyFields v [(0, 16)]) (.waitc (w.getLsbD 8) (g 0 16))
  | 14 => cmdIf (onlyFields w [(0, 8)] && v == 0) .fence
  | 15 => cmdIf (onlyFields w [(0, 8)] && v == 0) .stop
  | _ => none

/-- The class that a command sends on. -/
def cmdClass : LCmd → Option Nat
  | .stream _ _ _ cls .. => some cls
  | .gather _ cls .. => some cls
  | .wback _ _ cls _ => some cls
  | .bcast _ cls _ => some cls
  | .signal cls .. => some cls
  | _ => none

/-- Whether a command's class is a program class of the launch. -/
def classOk (l : Launch) (c : LCmd) : Bool :=
  match cmdClass c with
  | some cls => decide (cls < 24) && l.classMask.getLsbD cls
  | none => true

/-! ## Targets and walks (R246 to R249, R255) -/

/-- Larder register i. -/
def gOf (x : LCtx) (i : Nat) : Word := fget x.g i 0

/-- The target set of g5: its cores in row-major order, or none where it leaves the region or is empty; one is the form
of the commands that use the core at (ROW0, COL0) alone. -/
def targets (l : Launch) (x : LCtx) (one : Bool) : Option (List Nat) :=
  let f := wfield (gOf x 5)
  let nr := if one then 1 else f 32 9
  let nc := if one then 1 else f 48 9
  if nr = 0 ∨ nc = 0 ∨ l.rows < f 0 9 + nr ∨ l.cols < f 16 9 + nc then none
  else
    some ((List.range nr).flatMap fun r =>
      (List.range nc).map fun c => keyOf (l.orgRow + f 0 9 + r) (l.orgCol + f 16 9 + c))

/-- The core at (ROW0, COL0). -/
def oneTarget (l : Launch) (x : LCtx) : Option Nat := (targets l x true).bind List.head?

/-- The planes of NPL. -/
def planesOf (npl : Nat) : Nat := 2 ^ npl

/-- The sectors of a step of STREAM: one, or two of headers and one for each plane (R248). -/
def stepSectors (h : Bool) (npl : Nat) : Nat := if h then 2 + planesOf npl else 1

/-- The extents of g0. -/
def extents (x : LCtx) : Nat × Nat × Nat × Nat := let f := wfield (gOf x 0); (f 0 16, f 16 16, f 32 16, f 48 16)

/-- The sectors of a data command. -/
def cmdTotal (x : LCtx) : LCmd → Nat
  | .stream h _ _ _ _ _ _ _ npl _ => let e := extents x; e.1 * e.2.1 * e.2.2.1 * e.2.2.2 * stepSectors h npl
  | .gather _ _ _ count ilen => count * ilen
  | .wback _ _ _ len => len
  | .bcast _ _ len => len
  | _ => 0

/-- The walk indices of a step of STREAM: i0 to i3. -/
def walkIndex (x : LCtx) (t : Nat) : Nat × Nat × Nat × Nat :=
  let e := extents x
  (t % e.1, t / e.1 % e.2.1, t / (e.1 * e.2.1) % e.2.2.1, t / (e.1 * e.2.1 * e.2.2.1))

/-- IDX0 to IDX3 of the record for sector m of a command (R255). -/
def idxOf (x : LCtx) (c : LCmd) (m : Nat) : Nat :=
  match c with
  | .stream h _ _ _ _ _ _ _ npl _ =>
    let i := walkIndex x (m / stepSectors h npl)
    i.1 + 2 ^ 16 * i.2.1 + 2 ^ 32 * i.2.2.1 + 2 ^ 48 * i.2.2.2
  | .gather _ _ _ _ ilen => m % ilen + 2 ^ 16 * (m / ilen)
  | .wback .. => m
  | .bcast .. => m
  | _ => 0

/-- The sector of a command at which a record stands: IDX gives its step, and in a step of STREAM with HSPLIT ELEM gives
the sector (R255, R257). -/
def sectorOf (x : LCtx) (c : LCmd) : Nat :=
  let f := wfield x.idx
  match c with
  | .stream h _ _ _ _ _ _ _ npl _ =>
    let e := extents x
    let u := stepSectors h npl
    (f 0 16 + e.1 * (f 16 16 + e.2.1 * (f 32 16 + e.2.2.1 * f 48 16))) * u + x.elem.toNat % u
  | .gather _ _ _ _ ilen => f 0 16 + ilen * f 16 32
  | .wback .. => f 0 32
  | .bcast .. => f 0 32
  | _ => 0

/-- The place of the target core of sector m in the target set. -/
def dealtTo (c : LCmd) (m size : Nat) : Nat :=
  match c with
  | .stream h _ _ _ _ dchunk _ _ npl _ => m / stepSectors h npl / dchunk % size
  | .gather _ _ dchunk _ ilen => m / ilen / dchunk % size
  | _ => 0

/-- The byte offset of a step of STREAM from g4. -/
def stepOffset (x : LCtx) (h : Bool) (t : Nat) : Int :=
  let i := walkIndex x t
  i.2.2.2 * (gOf x 3).toInt + i.2.2.1 * (gOf x 2).toInt + i.2.1 * (gOf x 1).toInt + (if h then 64 else 32) * i.1

/-- The VA and pantry of sector m of STREAM (R247, R248). -/
def streamSector (x : LCtx) (h : Bool) (p pstr pb npl pp m : Nat) : Nat × Nat :=
  let u := stepSectors h npl
  let o := stepOffset x h (m / u)
  if m % u < 2 ∨ !h then (truncZ ((gOf x 4).toNat + o + 32 * (m % u)) 48, p)
  else (truncZ ((pb : Int) + 32 * pstr * (m % u - 2 : Nat) + o / 2) 48, pp)

/-! ## The place of a record (R255) -/

/-- The command in progress. -/
def currentCmd (x : LCtx) : Option LCmd := x.cmd.bind fun c => cmdOf c.1 c.2

/-- The VA of sector m of the command in progress: of GATHER, where the index of its item cannot be read, that of the index's sector,
which comes first (R247 to R249, R255). -/
def sectorVa (s : State) (l : Launch) (x : LCtx) (c : LCmd) (m : Nat) : Option Nat :=
  match c with
  | .stream h _ p _ _ _ pstr pb npl pp => some (streamSector x h p pstr pb npl pp m).1
  | .gather _ _ _ _ ilen =>
    let ia := (gOf x 4).toNat + 4 * (m / ilen)
    match readVa s l ia 4 with
    | .ok bs => some (((gOf x 0).toNat + 32 * ilen * leNat bs + 32 * (m % ilen)) % 2 ^ 48)
    | .error _ => some (ia / 32 * 32 % 2 ^ 48)
  | .wback .. => some (((gOf x 4).toNat + 32 * m) % 2 ^ 48)
  | .bcast .. => some (((gOf x 4).toNat + 32 * m) % 2 ^ 48)
  | _ => none

/-- The place of the record: FVA, IDX and DCORE of the first sector not issued of a data command in progress (R255). -/
def markPlace (s : State) (l : Launch) (x : LCtx) : LCtx :=
  match currentCmd x with
  | none => x
  | some c =>
    match sectorVa s l x c x.step with
    | none => x
    | some va =>
      let size := match targets l x false with | some ts => ts.length | none => 1
      { x with fva := BitVec.ofNat 48 va, idx := BitVec.ofNat 64 (idxOf x c x.step), dcore := BitVec.ofNat 32 (dealtTo c x.step size) }

end Sys2Proof.Machine
end

