-- ==== Sys2Proof/Machine/Dump.lean ====
section
/-! DEFINITION. Larder records (R255, R267) and dumps (R63, R64). -/

namespace Sys2Proof.Machine

/-! ## Larder records -/

/-- STATE of a record. -/
def lstCode : LSt → Nat
  | .idle => 0
  | .run => 1
  | .wait => 2
  | .fault => 3
  | .stopped => 4
  | .ended => 5

/-- KIND of a record (R254). -/
def lkindCode : LKind → Nat
  | .none => 0
  | .xlate => 1
  | .poison => 2
  | .nomem => 3
  | .skew => 4
  | .badcmd => 5
  | .range => 6

/-- ACTX and the launch number of a larder's records. -/
def boundFields (s : State) (l : Larder) : List RecField :=
  match l.launch.bind (launchNum s) with
  | some x => [(3, 1, x.actx), (4, 2, x.num)]
  | none => []

/-- The record of a command context (R255). -/
def commandFields (x : LCtx) : List RecField :=
  [(0, 1, lstCode x.st), (1, 1, lkindCode x.kind), (2, 1, bitN x.ring + 2 * bitN x.open0 + 4 * bitN x.open1), (6, 2, x.csig.toNat),
   (8, 8, x.cp.toNat), (0x10, 8, x.fva.toNat), (0x18, 8, x.idx.toNat), (0x20, 4, x.dcore.toNat), (0x24, 4, x.elem.toNat),
   (0x28, 4, x.lc0.toNat), (0x2C, 4, x.lc1.toNat), (0x30, 8, x.lstart0.toNat), (0x38, 8, x.lstart1.toNat),
   (0x40, 8, x.ringva.toNat + 2 ^ 48 * (x.logn - 4)), (0x48, 4, x.head.toNat), (0x4C, 4, x.tail.toNat)] ++
    (List.range 6).map fun g => (0x50 + 8 * g, 8, (fget x.g g 0).toNat)

/-- The fields of the bulk read that a service context holds (R267). -/
def servingFields (s : State) (v : Serving) : List RecField :=
  let d := v.desc
  let k := burstIndex d v.next
  let by_ := k / burstsPerRow d
  let bx := k % burstsPerRow d
  let lo := max (128 * bx) d.x0
  let fva := (((v.src.toNat % 2 ^ 48 : Nat) : Int) + by_ * d.stride + lo) % 2 ^ 48
  let org := match launchNum s v.launch with | some l => (l.orgRow, l.orgCol) | none => (0, 0)
  [(2, 1, 1 + 2 * bitN d.direct), (6, 1, v.tag), (7, 1, v.ev.toNat), (8, 8, v.src.toNat), (0x10, 8, fva.toNat), (0x18, 4, bx),
   (0x1C, 4, by_), (0x20, 4, (v.row - org.1) * 2 ^ 16 + (v.col - org.2)), (0x24, 4, v.sectors), (0x28, 4, d.width),
   (0x2C, 4, d.height), (0x30, 8, truncZ d.stride 64), (0x38, 4, d.x0), (0x3C, 4, d.x1), (0x40, 4, d.y0), (0x44, 4, d.y1),
   (0x48, 4, if d.direct then d.dest else 0), (0x4C, 4, if d.direct then d.dpitch else 0), (0x50, 8, v.arg.toNat),
   (0x58, 2, v.he.toNat)]

/-- The record of context c of a larder, a walk under way at its place: the command record, or for context 15 that of the service context. -/
def larderFields (s : State) (l : Larder) (c : Nat) : List RecField :=
  let x := lctxAt l c
  if c ≠ 15 then
    commandFields (match l.launch.bind (launchNum s) with | some b => markPlace s b x | none => x) ++ boundFields s l
  else
    [(0, 1, lstCode x.st), (1, 1, lkindCode x.kind)] ++
      (match l.serving with | some v => servingFields s v ++ boundFields s l | none => []) ++
      (List.range 3).map fun g => (0x60 + 8 * g, 8, (fget x.g g 0).toNat)

/-- A record of 128 bytes. -/
def recordBytes (fs : List RecField) : List Byte := (writeFields Memory.empty 0 fs).readBytes 0 128

/-! ## Dumps (R63, R64) -/

/-- The causes of R64. -/
def causeSram : Nat := 1
/-- ROUTER_FAIL. -/
def causeRouter : Nat := 2
/-- LINK_EXHAUST. -/
def causeLink : Nat := 3
/-- PREEMPT_OVERRUN. -/
def causePreempt : Nat := 4
/-- TRAP_NO_VECTOR. -/
def causeTrap : Nat := 5
/-- POWER_TRIP. -/
def causePower : Nat := 6
/-- HOST_DUMP. -/
def causeHost : Nat := 7
/-- NO_RECORD. -/
def causeNoRecord : Nat := 8

/-- Where a dump goes: the undercroft, or a port's dump buffer (R63). -/
inductive DumpDest where
  | attic (base space : Nat)
  | host (p : HostPort) (base space : Nat)
  deriving DecidableEq, Repr

/-- The fault notice table's bytes (R256). -/
def noticeBytes : Nat := 98304

/-- A port's dump buffer as a destination, if it is available (R63). -/
def hostDest (s : State) (p : HostPort) : Option DumpDest :=
  let x := portAt s p
  if x.dumpbuf ≠ 0 ∧ x.up ∧ noticeBytes + 256 ≤ x.dumplen.toNat then
    some (.host p (hostPage x.dumpbuf) (x.dumplen.toNat - noticeBytes))
  else none

/-- The first destination available (R63). -/
def dumpDest (s : State) : Option DumpDest :=
  match undercroft s with
  | some (b, n) => some (.attic b n)
  | none => match hostDest s .p0 with | some d => some d | none => hostDest s .p1

/-- The offsets of the sections: each is written if it fits in what is left, packed (R63). -/
def placeSections (space : Nat) : Nat → List (Option Nat) → List Nat
  | _, [] => []
  | pos, none :: ss => 0 :: placeSections space pos ss
  | pos, some n :: ss => if pos + n ≤ space then pos :: placeSections space (pos + n) ss else 0 :: placeSections space pos ss

/-- The core record of a dump: TASKID as the register reads (R125). -/
def dumpCore (c : Core) : List RecField :=
  [(0, 8, (statusWord c).toNat), (8, 2, c.pc.toNat), (10, 1, c.running.getD 0 % 32 + 32 * bitN c.sys.idle),
   (11, 1, c.sys.cause.toNat % 256), (16, 8, c.sys.trapval.toNat)]

/-- The flits that stand in place k of a class of a router (R64). -/
def placeFlit (s : State) (k cls : Nat) (place : Nat) : Option Flit :=
  let r := routerAt s k
  if place < 8 then (fget r.inp (32 * (place / 2) + cls) [])[place % 2]?
  else if place < 10 then
    (logicalOf s.dev (rowOf k) (colOf k)).bind fun p => (egressOf (coreAt s (keyOf p.1 p.2)) cls)[place - 8]?
  else (fget r.out (32 * (place - 10) + cls) [])[0]?

/-- The router record of a dump. The spec gives no layout within the router state, which is written as 0, nor within the
two coordinates, which hold the row below the column. -/
def dumpRouter (s : State) (k : Nat) : List RecField :=
  let lg := logicalOf s.dev (rowOf k) (colOf k)
  let entries :=
    match lg with
    | some (r, c) => (List.range 32).map fun q => (4 * q, 4, if q = 30 then 0x10 else (fget (coreAt s (keyOf r c)).routes q 0).toNat)
    | none => [(120, 4, 0x10)]
  let places := (List.range 32).flatMap fun q =>
    (List.range 15).map fun p => (128 + 120 * q + 8 * p, 8, match placeFlit s k q p with | some f => f.side.toNat | none => 0)
  let occ := (List.range 32).map fun q =>
    (3968 + 2 * q, 2, (List.range 15).foldl (fun n p => n + if (placeFlit s k q p).isSome then 2 ^ p else 0) 0)
  entries ++ places ++ occ ++
    [(4040, 4, rowOf k + 2 ^ 16 * colOf k), (4044, 4, match lg with | some (r, c) => r + 2 ^ 16 * c | none => 0xFFFF_FFFF)]

/-- The logical cores, row-major. -/
def gridKeys : List Nat := (List.range 224).flatMap fun r => (List.range 384).map fun c => keyOf r c
/-- The physical cores, row-major. -/
def waferKeys : List Nat := (List.range 231).flatMap fun r => (List.range 396).map fun c => keyOf r c

/-- The sections of a dump: cores, routers, larders, SRAM (R64). -/
def dumpSections (sram : Bool) : List (Option Nat) :=
  [some 2752512, some 374685696, some 98304, if sram then some (86016 * 524288) else none]

/-- A memory with a section of records of one size, each cleared and then filled. -/
def writeRecords (m : Memory) (base size : Nat) (rs : List (List RecField)) : Memory :=
  rs.zipIdx.foldl (fun m r =>
    writeFields (m.writeBytes (base + size * r.2) (List.replicate size 0)) (base + size * r.2) r.1) m

/-- A dump written at a base, in a space: CYCLE is that of the wafer stop (R63, R64). -/
def dumpInto (s : State) (m : Memory) (base space : Nat) (sram : Bool) (cause prow pcol : Nat) : Memory :=
  let offs := placeSections space 256 (dumpSections sram)
  let o := fun n => offs.getD n 0
  let m := if o 0 = 0 then m else writeRecords m (base + o 0) 32 (gridKeys.map fun k => dumpCore (coreAt s k))
  let m := if o 1 = 0 then m else writeRecords m (base + o 1) 4096 (waferKeys.map (dumpRouter s))
  let m :=
    if o 2 = 0 then m
    else writeRecords m (base + o 2) 128
      ((List.range 48).flatMap fun n => (List.range 16).map fun c => larderFields s (larderAt s n) c)
  let m :=
    if o 3 = 0 then m
    else gridKeys.zipIdx.foldl (fun (m : Memory) k =>
      m.writeBytes (base + o 3 + 524288 * k.2) ((coreAt s k.1).sram.readBytes 0 524288)) m
  let flags := (List.range 4).foldl (fun f n => f + if o n = 0 then 0 else 2 ^ n) 0
  writeFields (m.writeBytes base (List.replicate 256 0)) base
    [(0, 4, 0x504D4458), (4, 4, 1), (8, 4, cause), (12, 4, flags), (16, 8, s.dev.stopAt), (24, 8, Config.serial.toNat), (32, 4, 9140),
     (36, 2, s.dev.mapgen.toNat), (38, 2, prow), (40, 2, pcol), (48, 8, o 0), (56, 8, o 1), (64, 8, o 2), (72, 8, o 3), (255, 1, 0xA5)]

/-- A dump written to the first destination available; DUMP_DONE sets once it is committed, and nothing is written where
none is (R63). -/
def writeDump (s : State) (sram : Bool) (cause prow pcol : Nat) : State :=
  let sram := sram || s.dev.cfg.dumpsram
  match dumpDest s with
  | none => s
  | some (.attic b n) => raiseEvent { s with attic := dumpInto s s.attic b n sram cause prow pcol } evDumpDone
  | some (.host p b n) =>
    raiseEvent (modPort s p fun x => { x with mem := dumpInto s x.mem b n sram cause prow pcol }) evDumpDone

end Sys2Proof.Machine
end

