-- ==== Sys2Proof/Machine/Aborts.lean ====
section
/-! DEFINITION. The ends of a region and of the wafer's running: the wafer stop (R100), the end of a launch (R83, R86),
fatal faults as they arise, and what comes of them: region faults (R97), wafer-wide faults (R98) and the choice among several
(R99). -/

namespace Sys2Proof.Machine

/-! ## The wafer stop (R100) -/

/-- The cycles that a stop took: the spec gives only their bound, 80. -/
def stopTime (s : State) : BitVec 8 := BitVec.ofNat 8 ((Config.freeWord (2 ^ 40 + s.cycle)).toNat % 81)

/-- A core whose wait at GANG the wafer stop abandons: GANG executes again in full after the release (R300). -/
def abandonGang (c : Core) : Core := match c.wait with | .gang _ => { c with wait := .run } | _ => c

/-- The stall wire asserted (R100). -/
def stopWafer (s : State) : State :=
  if s.dev.stopped then s
  else
    modDev { s with cores := s.cores.map fun e => (e.1, abandonGang e.2) } fun d =>
      { d with stopped := true, stopAt := s.cycle, stopCycles := stopTime s }

/-- The wafer stop asserted by the host, a breakpoint or a fault: it stays past the end of a wave (R100, R101). -/
def assertStop (s : State) : State := modDev (stopWafer s) fun d => { d with stopHost := true, releaseHeld := false }

/-- Whether waves run: one is under way, or another is to follow under the same stop (R111, R112). -/
def inWaves (d : Device) : Bool := d.inWaves || d.wave.isSome

/-- The wafer stop released; held while waves run, and refused after a wafer-wide fault (R98, R101). -/
def releaseStop (s : State) : State :=
  if s.dev.st = .fatal then s
  else if inWaves s.dev then modDev s fun d => { d with releaseHeld := true }
  else modDev s fun d => { d with stopped := false, stopHost := false }

/-! ## The end of a launch (R83, R86) -/

/-- A core that has left its region: no task, nothing issuing, the region's registers 0 and the routing entries of the
launch's classes at reset; SRAM, instruction store and residency stay (R81, R83, R86, R117). -/
def leaveRegion (mask : BitVec 32) (c : Core) : Core :=
  { c with
    running := none, wait := .run, gang := none, tasks := [], handlers := [], bursts := [], pending := [], held := none,
    watch := [], halted := false, resetting := false, frozen := false, draining := false, markers := [], sleep := .awake, runsCode := false,
    arrivals := 0, fencing := [], injected := 0, delivered := 0,
    routes := c.routes.filter (fun e => !mask.getLsbD e.1), nodeFloor := [], sendFloor := [], depth := [], merged := [],
    sys := { c.sys with idle := true, orgRow := 0, orgCol := 0, rows := 0, cols := 0, prio := 0, det := false, capself := 0 } }

/-- A larder unbound: its contexts IDLE (R240). -/
def unbindLarder (l : Larder) : Larder :=
  { l with launch := none, ctx := [], serving := none, waiting := [], accesses := [], stoppedOps := [], injected := 0, delivered := 0, marked := false }

/-- The state without a launch: its larders unbound, its cores out of the region. -/
def dropLaunch (s : State) (l : Launch) : State :=
  let s := { s with larders := s.larders.map fun x => if x.2.launch = some l.num then (x.1, unbindLarder x.2) else x }
  let s := (regionKeys l).foldl (fun s k => modCore s k (leaveRegion l.classMask)) s
  modUnrid s fun u => { u with launches := u.launches.filter fun x => x.num ≠ l.num, podSent := u.podSent &&& ~~~l.podBar }

/-- A launch that ends: its entry and a PREEMPT of it come to their ends, and it is gone. -/
def endLaunch (s : State) (l : Launch) (status detail result : Nat) (pre : Nat × Nat) : State :=
  let s := endEntry s l.key status detail result
  let s := match l.preemptKey with | some k => endEntry s k pre.1 pre.2 0 | none => s
  dropLaunch s l

/-! ## Fatal faults as they arise (R96, R99)

A fault is noted in the step that finds it and acted on as the cycle ends, so that the faults of one cycle are weighed together
(R99). From the note on, the cores of a region at fault issue nothing and refuse what is aimed at them (R97). -/

/-- A fault joined to those noted: of one launch's, the earliest stays, and within one cycle the lowest CAUSE (R99). -/
def joinFault (fs : List FaultRec) (f : FaultRec) : List FaultRec :=
  match fs.find? fun g => g.launch = f.launch with
  | none => fs ++ [f]
  | some g => if f.cycle = g.cycle ∧ f.cause < g.cause then fs.map fun h => if h.launch = f.launch then f else h else fs

/-- A region fault: the cores of the region stop, until the abort is done; prow and pcol are the physical place of the fault.
After a wafer-wide fault nothing more comes of one (R97, R98). -/
def regionFault (s : State) (num cause prow pcol : Nat) : State :=
  match launchNum s num with
  | none => s
  | some l =>
    if s.dev.st = .fatal then s
    else
      let s := (regionKeys l).foldl (fun s k => modCore s k fun c => { c with resetting := true }) s
      modDev s fun d => { d with faults := joinFault d.faults ⟨some num, cause, prow, pcol, s.cycle⟩ }

/-- A wafer-wide fault: the stop is asserted at once; a further one changes nothing, the wafer being stopped until reset
(R98). -/
def waferFault (s : State) (cause prow pcol : Nat) : State :=
  if s.dev.st = .fatal then s
  else
    let s := assertStop s
    modDev s fun d => { d with faults := joinFault d.faults ⟨none, cause, prow, pcol, s.cycle⟩ }

/-- Whether a launch is at fault and its abort still to come. -/
def faulted (s : State) (num : Nat) : Bool := s.dev.faults.any fun f => f.launch = some num

/-! ## Region faults (R97) -/

/-- The code NACK_RESET (R216). -/
def codeReset : Nat := 2

/-- The larder whose attachment a destination names, if it is one. -/
def larderAtEdge (drow dcol : Nat) : Option Nat := (List.range 48).find? fun n => larderRow n == drow && larderCol n == dcol

/-- Whether a destination is a region's own: a core of it, or a larder bound to its launch; of other attachments, for a flit that stands
in the region, those that no other launch binds. A core of another region that a reply is bound for is that region's. -/
def boundFor (s : State) (l : Launch) (here : Bool) (drow dcol : Nat) : Bool :=
  if drow < 510 ∧ dcol < 510 then inRegion l drow dcol
  else
    match larderAtEdge drow dcol with
    | some n => l.larders.getLsbD n || (here && (larderAt s n).launch.isNone)
    | none => here

/-- Whether a flit belongs to a region's classes (R97): not FOREIGN, and bound for the region or its larders, or a drain marker of its
launch (DEDUCED, log entry 82). -/
def regionFlit (s : State) (l : Launch) (here : Bool) (cls : Nat) (f : Flit) : Bool :=
  l.classMask.getLsbD cls && !flitForeign f &&
    if flitKind f = 13 then flitField f 2 2 == l.num % 4096 else boundFor s l here (flitDrow f) (flitDcol f)

/-- A buffer map without a region's flits. -/
def purgeFlits (s : State) (l : Launch) (here : Bool) (m : FMap (List Flit)) : FMap (List Flit) :=
  m.map fun e => (e.1, e.2.filter fun f => !regionFlit s l here (e.1 % 32) f)

/-- Whether the rest of a message never comes, by its first flit: a flit of the region's, or FOREIGN, of a message that a core of the
region has under assembly. -/
def cutOff (s : State) (l : Launch) (here : Bool) (cls : Nat) (f : Flit) : Bool :=
  regionFlit s l here cls f ||
    (flitForeign f && inRegion l (flitSrow f) (flitScol f) && midMessage (coreAt s (keyOf (flitSrow f) (flitScol f))) cls)

/-- Whether the message at an input of a router is cut off: the one whose path the input holds, or the one at its head. -/
def cutAt (s : State) (l : Launch) (lg : Option (Nat × Nat)) (here : Bool) (r : Router) (i : Nat) : Bool :=
  let head :=
    if i < 128 then (fget r.inp i []).head?
    else lg.bind fun p => (egressOf (coreAt s (keyOf p.1 p.2)) (i % 32)).head?
  match ffind r.path i, head with
  | some (_, _, f), _ => cutOff s l here (i % 32) f
  | none, some f => cutOff s l here (i % 32) f
  | none, none => false

/-- A router without the flits of a region's classes, and without the paths and the message locks that messages cut off held. -/
def purgeRouter (s : State) (l : Launch) (k : Nat) (r : Router) : Router :=
  let lg := logicalOf s.dev (rowOf k) (colOf k)
  let here := match lg with | some (a, b) => inRegion l a b | none => false
  let cut := cutAt s l lg here r
  { r with
    inp := purgeFlits s l here r.inp, out := purgeFlits s l here r.out, served := r.served.filter fun e => !cut e.1,
    path := r.path.filter fun e => !cut e.1, lock := r.lock.filter fun e => !cut (32 * e.2.1 + e.1 % 32),
    entry := r.entry.filter fun e => !cut e.1 }

/-- What a core of an aborted region still sends: no flit of the region's classes. What waited behind a message under assembly follows
at once, that message being gone. -/
def keptEgress (s : State) (l : Launch) (c : Core) : FMap (List Flit) :=
  purgeFlits s l true (c.behind.foldl (fun m e => fset m e.1 (fget m e.1 [] ++ e.2)) c.egress)

/-- A core of an aborted region: cleared of tasks, handler contexts, accumulators, slot claims, queues, pending status
words and residency, with its SRAM undefined (R97). The region's flits go, on the program classes. Of what stands before it
from other regions, a message whose first flit has been judged keeps its verdict, so that one accepted is performed in full; one that
comes to be judged now is refused (R216). The open DFADD batches stay, to be answered (R236). -/
def clearAborted (s : State) (l : Launch) (n : Nat) (c : Core) : Core :=
  { c with
    regs := { c.regs with a := [], t := [], q := [] }, queues := [], cellar := none, ops := [], breads := [], caps := [],
    sources := [], opens := [], behind := [], egress := keptEgress s l c,
    rx := c.rx.map fun e => (e.1, if e.1 < 24 then e.2.filter flitForeign else e.2),
    verdicts := c.rx.filterMap fun e =>
      match e.2.head?.filter (fun f => decide (24 ≤ e.1) || flitForeign f) with
      | some _ => (ffind c.verdicts e.1).map fun v => (e.1, v)
      | none => if (e.2.filter flitForeign).isEmpty then none else some (e.1, some codeReset),
    accepted := [], pushed := [], resident := [], sram := ⟨.free n, []⟩ }

/-- A core held in reset: nothing of it stays but what its SRAM and instruction store hold. Its router stays in service: the flits that
stand before it, to leave or to be taken, what has been answered of them and the open DFADD batches stay (R16, R97, R236). -/
def holdCore (c : Core) : Core :=
  { stamp := c.stamp, sram := c.sram, istore := c.istore, egress := c.egress, rx := c.rx, verdicts := c.verdicts,
    batches := c.batches }

/-- Attic writes that a context has issued, its data being read, are completed (R97). -/
def flushWrites (s : State) (x : LCtx) : State :=
  x.reads.foldl (fun s r =>
    match r.what, r.pas, r.data with
    | .wback _, pa :: _, some bs => atticWrite s pa bs
    | _, _, _ => s) s

/-- The attic writes that a launch's larders have issued are completed. -/
def flushLarders (s : State) (l : Launch) : State :=
  s.larders.foldl (fun s x => if x.2.launch = some l.num then x.2.ctx.foldl (fun s c => flushWrites s c.2) s else s) s

/-- A larder of an aborted launch without the flits of the region's classes (R97). -/
def purgeLarder (l : Launch) (x : Larder) : Larder :=
  let purge := fun (m : FMap (List Flit)) =>
    m.map fun e => (e.1, if l.classMask.getLsbD e.1 then e.2.filter fun f => !flitForeign f else e.2)
  { x with rx := purge x.rx, egress := purge x.egress }

/-- A region aborted: its flits and larder contexts discarded, its cores cleared, and the launch ended with the cause in detail
(R97). Cores held in reset stay so (R16). -/
def abortRegion (s : State) (f : FaultRec) : State :=
  match f.launch.bind (launchNum s) with
  | none => s
  | some l =>
    let s := flushLarders (raiseEvent s evRegionAbort) l
    let s := { s with routers := s.routers.map fun r => (r.1, purgeRouter s l r.1 r.2),
                      larders := s.larders.map fun x => if x.2.launch = some l.num then (x.1, purgeLarder l x.2) else x }
    let s := (regionKeys l).foldl (fun s k => modCore s k (clearAborted s l (2 ^ 20 * s.cycle + k))) s
    let s := endLaunch s l csAbort f.cause 0 (csAbort, f.cause)
    (regionKeys l).foldl (fun s k => if unavailable s.dev (rowOf k) (colOf k) then modCore s k holdCore else s) s

/-- The physical place of a logical core, as a dump names it. -/
def physicalPlace (d : Device) (k : Nat) : Nat × Nat :=
  match routerOf d (rowOf k) (colOf k) with
  | some p => (rowOf p, colOf p)
  | none => (0xFFFF, 0xFFFF)

/-- The region fault of the region that holds a core; a core of no region only stops issuing (R83, R97). -/
def coreRegionFault (s : State) (k cause : Nat) : State :=
  match launchOf s (rowOf k) (colOf k) with
  | some l => let p := physicalPlace s.dev k; regionFault s l.num cause p.1 p.2
  | none => modCore s k fun c => { c with running := none, sys := { c.sys with idle := true } }

/-! ## Wafer-wide faults (R98) -/

/-- Whether an entry in progress is of a kind that ABORT ends under a wafer-wide fault: LAUNCH, COLL, ACOPY, LRESUME,
PREEMPT (R98). -/
def needsWafer (e : Entry) : Bool := [1, 2, 5, 7, 8].contains (entryOp e)

/-- FATAL: every entry under way that needs the wafer is aborted with the cause, and no launch runs any more; the larders stand bound as
they were (R98). -/
def fatalStop (s : State) (cause : Nat) : State :=
  let s := modDev s fun d => { d with st := .fatal, releaseHeld := false, wave := none, inWaves := false }
  let s := modUnrid (raiseEvent s evFatal) fun u =>
    { u with steps := [], launches := u.launches.map fun l => { l with st := .aborted } }
  (s.unrid.entries.filter fun e => needsWafer e && decide (e.st = .active)).foldl (fun s e => endEntry s e.key csAbort cause 0) s

/-! ## The choice among faults, and what comes of them (R99) -/

/-- Whether one fault is recorded rather than another: a wafer-wide one, then the earlier, then the lower CAUSE (R99). -/
def outranks (f g : FaultRec) : Bool :=
  if f.launch.isNone != g.launch.isNone then f.launch.isNone
  else if f.cycle != g.cycle then decide (f.cycle < g.cycle)
  else decide (f.cause < g.cause)

/-- The fault that the dump header records; of two that no rule puts first, the one noted first. -/
def headerFault : List FaultRec → Option FaultRec
  | [] => none
  | f :: fs =>
    match headerFault fs with
    | none => some f
    | some g => if outranks g f then some g else some f

/-- A dump under the wafer stop, of which it releases only its own: what runs under the stop is body (R97, R101). -/
def underStop (s : State) (body : State → State) : State :=
  let was := s.dev.stopped
  modDev (body (stopWafer s)) fun d => { d with stopped := was }

/-- Region faults acted on: one dump, whose header names the fault chosen, and every region is aborted with its own cause (R97, R99). -/
def abortNoted (s : State) (fs : List FaultRec) : State :=
  match headerFault fs with
  | none => s
  | some f =>
    let s := underStop s fun s =>
      modDev (writeDump s false f.cause f.prow f.pcol) fun d => { d with faults := d.faults.filter fun g => !fs.contains g }
    fs.foldl abortRegion s

/-- The faults noted are acted on: one dump, whose header names the fault chosen; every region at fault is aborted with its own
cause; and a wafer-wide fault leaves FATAL (R97 to R99). Region faults wait for waves to complete (R113). -/
def settleFaults (s : State) : State :=
  match headerFault s.dev.faults with
  | none => s
  | some f =>
    let fs := s.dev.faults
    if f.launch.isNone then
      let s := modDev (writeDump (assertStop s) false f.cause f.prow f.pcol) fun d => { d with faults := [] }
      fatalStop (fs.foldl abortRegion s) f.cause
    else if inWaves s.dev then s
    else abortNoted s fs

end Sys2Proof.Machine
end

