-- ==== Sys2Proof/Machine/Ops.lean ====
section
/-! DEFINITION. The shared operations of instruction issue: taking an exception and returning from one (R141, R142), the
local access checks (R147, R318), lookahead (R136, R137), gangs (R133), and the issue of one instruction on the core and
context in focus, in the order of precedence of R142. -/

namespace Sys2Proof.Machine

/-! ## Trap codes (R143) -/

/-- Opcode or function not defined. -/
def eIllegal : BitVec 8 := 0x01
/-- Reserved field nonzero. -/
def eRsv : BitVec 8 := 0x02
/-- Not allowed in this mode. -/
def ePriv : BitVec 8 := 0x03
/-- Misaligned access or length. -/
def eAlign : BitVec 8 := 0x04
/-- Address beyond SRAM, outside any segment, or a segment rule broken. -/
def eBound : BitVec 8 := 0x05
/-- Lookahead violation. -/
def eHazard : BitVec 8 := 0x06
/-- Register groups overlap in part. -/
def eOverlap : BitVec 8 := 0x07
/-- Queue register misuse. -/
def eQueue : BitVec 8 := 0x08
/-- Store into a locked source range. -/
def eLock : BitVec 8 := 0x09
/-- Capability refused. -/
def eSeal : BitVec 8 := 0x0A
/-- Block exponent or format code invalid. -/
def eFormat : BitVec 8 := 0x0B
/-- Block serial mismatch. -/
def eSkew : BitVec 8 := 0x0C
/-- Refused in a deterministic region. -/
def eDet : BitVec 8 := 0x0D
/-- Handler context violation. -/
def eHandler : BitVec 8 := 0x0E
/-- Gang misuse. -/
def eGang : BitVec 8 := 0x0F
/-- Slot misuse. -/
def eSlot : BitVec 8 := 0x10
/-- TRAP. -/
def eTrap : BitVec 8 := 0x11
/-- BRK, breakpoint or watchpoint. -/
def eBreak : BitVec 8 := 0x12

/-! ## Trap entry and return (R140 to R142) -/

/-- A trap about to be taken by a main context: code, value, the PC of its cause, where RETT resumes, and the handler
context it arose in, if any. -/
structure TrapInfo where
  code : BitVec 8
  val : Word
  fpc : BitVec 16
  ret : BitVec 16
  hctx : Option Nat := none
  deferred : Bool := false
  deriving DecidableEq, Repr

/-- TRAPCAUSE of a trap (R125, R142). -/
def trapCause (t : TrapInfo) : Word :=
  (0#32 ++ t.fpc) ++ (0#3 ++ BitVec.ofBool t.deferred ++ BitVec.ofNat 3 (t.hctx.getD 0) ++ BitVec.ofBool t.hctx.isSome ++ t.code)

/-- The core's side of trap entry (R142). -/
def enterVector (c : Core) (t : TrapInfo) : Core :=
  { c with
    sys := { c.sys with cause := trapCause t, trappc := t.ret, trapval := t.val, pmode := false, mode := true }
    pc := c.sys.vec ++ 0#3
    wait := .run }

/-- Trap entry at a core: fatal to the region in system mode or with no vector, else into the vector (R142). -/
def trapEntry (s : State) (k : Nat) (t : TrapInfo) : State :=
  let c := coreAt s k
  if c.sys.mode || !c.sys.vecen then coreRegionFault s k 5 else setCore s k (enterVector c t)

/-- RETT's effect: the mode that was saved, and the saved PC (R142, R327). -/
def trapReturn (c : Core) : Core := { c with sys := { c.sys with mode := c.sys.pmode }, pc := c.sys.trappc }

/-! ## Lookahead (R136, R137) -/

/-- A core with one pending result written: its destinations, flags and counts (R136). -/
def writeback (c : Core) (p : Pending) : Core := addFlags (applyDests p.ctx c p.dests) p.flags p.sat p.nan p.ufl

/-- The pending results of a context. -/
def pendingOf (c : Core) (ctx : Ctx) : List Pending := c.pending.filter fun p => p.ctx = ctx

/-- The counts of a core's first n pending results added to the counters, in issue order: the increments of an instruction
reach them before those of any later one (R192). -/
def landCounts (c : Core) (n : Nat) : Core :=
  let c' := (c.pending.take n).foldl (fun c p => addFlags c 0 p.sat p.nan p.ufl) c
  { c' with pending := (c.pending.take n).map (fun p => { p with sat := 0, nan := 0, ufl := 0 }) ++ c.pending.drop n }

/-- Every pending count of a core added, as an instruction issued after them all adds its own (R192). -/
def landAll (c : Core) : Core := landCounts c c.pending.length

/-- The first pending result of a context that can be written, and the core once it is. A deferred trap is no result. -/
def writeOldest (c : Core) (sel : Pending → Bool) : Option Core :=
  match c.pending.findIdx? fun p => sel p && p.late.isNone with
  | none => none
  | some i => c.pending[i]?.map fun p => let c := landCounts c i; writeback { c with pending := c.pending.eraseIdx i } p

/-- Every pending result of a context written, in issue order, and its deferred traps dropped: the one that is taken, and of several
found in windows that overlap also the younger ones, of which R141 says nothing (DESIGN CHOICE, log entry 81). -/
def flushPending (c : Core) (ctx : Ctx) : Core :=
  let c := landAll c
  ((pendingOf c ctx).filter (·.late.isNone)).foldl writeback { c with pending := c.pending.filter fun p => p.ctx ≠ ctx }

/-- Every pending result of a core written, whatever its context; deferred traps stay. -/
def settleAll (c : Core) : Core :=
  let c := landAll c
  (c.pending.filter (·.late.isNone)).foldl writeback { c with pending := c.pending.filter (·.late.isSome) }

/-- The instructions of a context's open windows have one fewer to come. -/
def countIssue (c : Core) (ctx : Ctx) : Core :=
  { c with pending := c.pending.map fun p => if p.ctx = ctx then { p with left := p.left - 1 } else p }

/-- Whether a pending result goes to one of some registers. -/
def Pending.touches (p : Pending) (refs : List RegRef) : Bool := p.dests.any fun d => refs.contains d.ref

/-- Whether a result can be pending on a register of a context: x0 and f0 ignore writes, so that none is (R120, R136; DEDUCED, log
entry 79). -/
def canPend (ctx : Ctx) : RegRef → Bool
  | .x n => n != 0 || ctx != .main
  | .f n => n != 0
  | _ => true

/-- Whether the status or result register of an engine operation in flight is one of some registers (R138). -/
def engineHolds (c : Core) (refs : List RegRef) : Bool :=
  c.ops.any (fun o => (o.xs != 0 && refs.contains (.x o.xs)) || (o.xd != 0 && refs.contains (.x o.xd))) ||
    c.breads.any (fun b => b.2.xs != 0 && refs.contains (.x b.2.xs))

/-- The file and number of a register in TRAPVAL of E_HAZARD (R143). -/
def hazardVal : RegRef → Word
  | .x n => BitVec.ofNat 64 n
  | .v n => BitVec.ofNat 64 (0x100 + n)
  | .f n => BitVec.ofNat 64 (0x200 + n)
  | .a n => BitVec.ofNat 64 (0x300 + n)
  | .t n => BitVec.ofNat 64 (0x400 + n)
  | .q n => BitVec.ofNat 64 n
  | .lc n => BitVec.ofNat 64 n

/-! ## What an instruction does -/

/-- Effects of an instruction outside its core. -/
inductive Post where
  /-- A bulk read for a larder's service context (R267). -/
  | serve (n : Nat) (x : Serving)
  /-- A core-space bulk read for its source core (R263). -/
  | source (key : Nat) (x : BreadSource)
  deriving DecidableEq, Repr

/-- The effect of an instruction that executes: the core after its immediate effects (PC not moved), the results it
writes, the flags and counts that come with them, a deferred trap, a taken branch, and effects outside the core. -/
structure Effect where
  core : Core
  dests : List DestVal := []
  flags : BitVec 5 := 0
  counts : Counts := {}
  late : Option LateTrap := none
  jump : Option (BitVec 16) := none
  posts : List Post := []
  stays : Bool := false
  deriving DecidableEq, Repr

/-- What comes of an instruction at issue: it executes; it traps with no effect; it asks for a trap after itself (TRAP,
BRK); it stalls; it waits with its task (R128); its access matches a watchpoint (R103); or it waits until the context's pending
results, or one of them, are written. -/
inductive Out where
  | ok (e : Effect)
  | trap (code : BitVec 8) (val : Word)
  | request (code : BitVec 8) (val : Word)
  | stall
  | wait (c : Core) (w : Wait)
  | watch (n : Nat) (act : BitVec 2)
  | drain
  | await (p : Pending)
  deriving DecidableEq, Repr

/-- What an instruction can see beside its core: where it is and which context it runs in, its word and PC, the launch,
the device, the clock, the gang's cores and leader, whether the router's class-30 output takes a flit, and the free bits of
this step. -/
structure Env where
  key : Nat
  ctx : Ctx
  a : BitVec 16
  word : Word
  cycle : Nat
  launch : Option Launch
  dev : Device
  members : List Core
  lead : Option Core
  statFree : Bool
  free : Nat → Bool
  freeW : Nat → Word

/-- The row of the issuing core. -/
def Env.row (env : Env) : Nat := rowOf env.key
/-- The column of the issuing core. -/
def Env.col (env : Env) : Nat := colOf env.key
/-- Whether the instruction runs in a handler context. -/
def Env.isHandler (env : Env) : Bool := match env.ctx with | .main => false | .handler _ => true
/-- Scalar register n of the issuing context. -/
def Env.x (env : Env) (c : Core) (n : Reg) : Word := readX c env.ctx n.toNat
/-- Vector register n of the issuing context. -/
def Env.v (env : Env) (c : Core) (n : VReg) : BitVec 512 := readV c env.ctx n.toNat

/-- LA classes (R138): L carries its place among the array's instructions where it is one (R373). -/
inductive LaClass where
  | s | l | b | e
  | array (acc : Nat)
  deriving DecidableEq, Repr

/-- An instruction at issue: its header and word, its class, the registers it reads and writes, its register groups, the
conditions its entry ranks above a hazard with the registers that its dynamic E_RSV reads, and its body. -/
structure Op where
  h : Hdr
  word : Word
  cls : LaClass := .s
  reads : List RegRef := []
  writes : List RegRef := []
  groups : List (List RegRef) := []
  staticPriv : Env → Core → Bool := fun _ _ => false
  dynRsv : Env → Core → Bool := fun _ _ => false
  rsvReads : List RegRef := []
  dynPriv : Env → Core → Bool := fun _ _ => false
  noHandler : Bool := false
  noMain : Bool := false
  gangBad : Env → Core → Bool := fun _ _ => false
  detBad : Env → Core → Bool := fun _ _ => false
  body : Env → Core → Out

/-! ## Handler contexts (R132) -/

/-- Whether a handler context may not name a register. -/
def handlerForbids : RegRef → Bool
  | .x n => decide (16 ≤ n)
  | .v n => decide (2 ≤ n)
  | .f n => n != 0
  | .a _ | .t _ | .q _ | .lc _ => true

/-! ## Judging one core (R142) -/

/-- Two register groups share a register and differ (R121). -/
def groupsClash (a b : List RegRef) : Bool := a.any b.contains && !(a.all b.contains && b.all a.contains)

/-- Some two of an instruction's groups overlap in part. -/
def anyClash : List (List RegRef) → Bool
  | [] => false
  | g :: gs => gs.any (groupsClash g) || anyClash gs

/-- The lookahead state of an instruction's registers: pending results whose window is over, and those still in their
window, oldest first. For the array's own accumulator, pending results of the array are neither (R373). -/
structure Hazards where
  due : List Pending
  inside : List Pending

/-- The pending results that an instruction's registers meet. -/
def hazardsOf (c : Core) (ctx : Ctx) (cls : LaClass) (refs : List RegRef) : Hazards :=
  let ps := pendingOf c ctx
  let refs :=
    match cls with
    | .array n =>
      if (ps.filter fun p => p.touches [.a n]).all (·.array) then refs.filter (· ≠ .a n) else refs
    | _ => refs
  let hit := ps.filter fun p => p.touches refs
  ⟨hit.filter fun p => p.whole || p.left == 0, hit.filter fun p => !p.whole && p.left != 0⟩

/-- The register of an E_HAZARD: the first pending destination the instruction names. -/
def hazardReg (inside : List Pending) (refs : List RegRef) : Word :=
  match (inside.flatMap (·.dests)).find? fun d => refs.contains d.ref with
  | some d => hazardVal d.ref
  | none => 0

/-- The results inside their window that a read with HAZMODE 0 sees new, by a free bit each (R137). -/
def seenNew (free : Nat → Bool) (inside : List Pending) (reads : List RegRef) : List DestVal :=
  let ds := (inside.flatMap (·.dests)).filter fun d => reads.contains d.ref
  (ds.zipIdx.filter fun d => free d.2).map (·.1)

/-- The writes into pending destinations that give way to the pending result, by a free bit each (R137). -/
def giveWay (free : Nat → Bool) (inside : List Pending) (writes : List RegRef) : List RegRef :=
  ((writes.filter fun r => inside.any fun p => p.touches [r]).zipIdx.filter fun r => free (64 + r.2)).map (·.1)

/-- An instruction's effect joined to its core: the results written now or pending, the flags, the window, the PC. -/
def settle (op : Op) (env : Env) (inside : List Pending) (old : List DestVal) (e : Effect) : Core :=
  let lost := giveWay env.free inside op.writes
  let dests := e.dests.filter fun d => !lost.contains d.ref
  let replaced := op.writes.filter fun r => !lost.contains r
  let c : Core := applyDests env.ctx e.core (old.filter fun d => !op.writes.contains d.ref)
  let c : Core := { c with pending := c.pending.map fun p =>
               if inside.contains p then { p with dests := p.dests.filter fun d => !replaced.contains d.ref } else p }
  let c : Core := countIssue c env.ctx
  let c : Core :=
    match op.cls with
    | .l =>
      { c with pending := c.pending ++ [⟨env.ctx, env.a, dests, op.h.la.toNat, op.h.la == 0, false, e.flags, e.counts.sat,
                                         e.counts.nan, e.counts.ufl, e.late⟩] }
    | .array _ =>
      { c with pending := c.pending ++ [⟨env.ctx, env.a, dests, op.h.la.toNat, op.h.la == 0, true, e.flags, e.counts.sat,
                                         e.counts.nan, e.counts.ufl, e.late⟩] }
    | _ =>
      let c := if e.counts = {} then c else landAll c
      addFlags (applyDests env.ctx c dests) e.flags e.counts.sat e.counts.nan e.counts.ufl
  let c : Core := { c with wait := if env.ctx = .main then .run else c.wait }
  match e.jump with
  | some t => setPc c env.ctx t
  | none => if e.stays then c else advance c env.ctx env.a

/-- The verdict on one core: it executes and this is the core after, with what goes out; or it traps, asks for a trap,
meets a watchpoint, waits, stalls, or stalls until one of its pending results is written. -/
inductive Verdict where
  | done (c : Core) (posts : List Post)
  | trap (code : BitVec 8) (val : Word)
  | request (code : BitVec 8) (val : Word)
  | watch (n : Nat) (act : BitVec 2)
  | wait (c : Core) (w : Wait)
  | stall
  | drain (refs : List RegRef)
  | flush
  | await (p : Pending)
  deriving DecidableEq, Repr

/-- An instruction whose guard does not hold: it goes on with no effect, counted in the windows (R122, R136). -/
def passOver (env : Env) (c : Core) : Verdict :=
  .done (advance (countIssue { c with wait := if env.ctx = .main then .run else c.wait } env.ctx) env.ctx env.a) []

/-- The trap of an instruction with an LA of 0, found after it issued, that stands in the window of a long-latency instruction which has
trapped too: it is an instruction of that window that traps, and has no effect (R141). -/
def windowTrap (op : Op) (env : Env) (c : Core) (e : Effect) : Option LateTrap :=
  if op.h.la == 0 && (pendingOf c env.ctx).any (·.late.isSome) then e.late else none

/-- The issue of an instruction on one core once its guard holds (R137, R142). Every condition and the effect see one value
of a register that is pending inside its window. -/
def judgeBody (op : Op) (env : Env) (c : Core) : Verdict :=
  let refs := op.reads ++ op.writes
  let named := refs.filter (canPend env.ctx)
  let hz := hazardsOf c env.ctx op.cls named
  let new := seenNew env.free hz.inside op.reads
  let seen := applyDests env.ctx c new
  if !hz.due.isEmpty then .drain named
  else if env.ctx = .main && engineHolds c refs then .stall
  else if op.dynRsv env seen then .trap eRsv op.word
  else if op.dynPriv env seen then .trap ePriv op.word
  else if (env.isHandler && (op.noHandler || op.h.g != 0 || refs.any handlerForbids)) || (!env.isHandler && op.noMain) then
    .trap eHandler op.word
  else if op.gangBad env seen then .trap eGang op.word
  else if op.detBad env seen then .trap eDet op.word
  else if anyClash op.groups then .trap eOverlap op.word
  else if c.sys.precise && !hz.inside.isEmpty then .trap eHazard (hazardReg hz.inside named)
  else
    let old := new.map (currentDest c env.ctx)
    match op.body env seen with
    | .ok e =>
      match windowTrap op env c e with
      | some l => .trap l.code l.val
      | none => .done (settle op env hz.inside old e) e.posts
    | .trap code v => .trap code v
    | .request code v => .request code v
    | .stall => .stall
    | .wait c w => .wait (applyDests env.ctx c old) w
    | .watch n act => .watch n act
    | .drain => .flush
    | .await p => .await p

/-- The guard of an instruction, seen old or new inside a window (R122, R137). -/
def guardHolds (op : Op) (env : Env) (c : Core) (inside : List Pending) : Bool :=
  let c := applyDests env.ctx c (seenNew (fun n => env.free (128 + n)) inside [.f op.h.g.toNat])
  (readFm c op.h.g.toNat).getLsbD 0 != op.h.gn

/-- E_PRIV by the word and the mode alone, or E_RSV before it where the guard holds and a register's value breaks a rule of
the entry; the guard and that register are first settled, or seen old or new inside their window (R122, R137, R142). -/
def judgePriv (op : Op) (env : Env) (c : Core) : Verdict :=
  let guard := hazardsOf c env.ctx .s [.f op.h.g.toNat]
  let hz := hazardsOf c env.ctx .s op.rsvReads
  let plain := op.h.g == 0 || env.isHandler
  if op.rsvReads.isEmpty then .trap ePriv op.word
  else if !plain && !guard.due.isEmpty then .drain [.f op.h.g.toNat]
  else if !plain && !guardHolds op env c guard.inside then .trap ePriv op.word
  else if !hz.due.isEmpty then .drain op.rsvReads
  else if env.ctx = .main && engineHolds c op.rsvReads then .stall
  else
    .trap (if op.dynRsv env (applyDests env.ctx c (seenNew env.free hz.inside op.rsvReads)) then eRsv else ePriv) op.word

/-- The issue of an instruction on one core. With HAZMODE 1 a guard register pending inside its window takes E_HAZARD before the
conditions that hold only where the guard does, for it cannot be read yet (R122, R142; DESIGN CHOICE, log entry 81). -/
def judge (op : Op) (env : Env) (c : Core) : Verdict :=
  if op.staticPriv env c then judgePriv op env c
  else if op.h.g == 0 || env.isHandler then judgeBody op env c
  else
    let hz := hazardsOf c env.ctx .s [.f op.h.g.toNat]
    if !hz.due.isEmpty then .drain [.f op.h.g.toNat]
    else if c.sys.precise && !hz.inside.isEmpty then .trap eHazard (hazardReg hz.inside [.f op.h.g.toNat])
    else if guardHolds op env c hz.inside then judgeBody op env c
    else passOver env c

/-! ## Boundaries: what a context takes before it issues (R103, R141) -/

/-- What stands before the next issue of a context: a trap, a halt, a wafer stop, a result to be written first, or
nothing. -/
inductive Boundary where
  | trap (t : TrapInfo)
  | halt
  | stop
  | drain
  | clear
  deriving DecidableEq, Repr

/-- Whether a boundary is a trap. -/
def Boundary.isTrap : Boundary → Bool
  | .trap _ => true
  | _ => false

/-- The action of a matched breakpoint or watchpoint (R103). -/
def breakAction (act : BitVec 2) (num : Nat) (a : BitVec 16) : Boundary :=
  if act = 2 then .halt
  else if act = 3 then .stop
  else .trap ⟨eBreak, BitVec.ofNat 64 (2 ^ 63 + num), a, a, none, false⟩

/-- The fields of DBGPCn (R102). In a handler thread HND alone decides: TASK and TASKEN restrict the match to a task there is none of
(DESIGN CHOICE, log entry 27). -/
def bpMatches (d : BitVec 23) (a : BitVec 16) (task : Option Nat) (hnd : Bool) : Bool :=
  d.getLsbD 0 && d.extractLsb' 3 13 == a.extractLsb' 3 13 &&
    (if hnd then d.getLsbD 22 else !d.getLsbD 21 || task == some (d.extractLsb' 16 5).toNat)

/-- The first breakpoint that matches an address (R103). -/
def breakpointAt (c : Core) (ctx : Ctx) (a : BitVec 16) : Option (Nat × BitVec 2) :=
  ((List.range 4).find? fun n => bpMatches (fget c.sys.dbgpc n 0) a c.running (decide (ctx ≠ .main))).map
    fun n => (n, (fget c.sys.dbgpc n 0).extractLsb' 1 2)

/-- What is held for a context at its boundary, at an address: the main context takes a trap of a handler, and the first context of
the core to come to a boundary the action of a watchpoint that a remote write matched (R103, R141). -/
def heldBoundary (c : Core) (ctx : Ctx) (a : BitVec 16) : Boundary :=
  match if ctx = .main then c.held else none, c.watch with
  | some h, _ => .trap ⟨h.code, h.val, h.fpc, a, some h.hctx, false⟩
  | none, n :: _ => breakAction ((fget c.sys.dbgwa n 0).extractLsb' 1 2) (0x10 + n) a
  | none, [] => .clear

/-- The boundary before a context issues: a deferred trap whose window is over, a result that an LA of 0 waits for, a breakpoint,
which comes before every other trap of the instruction about to issue, and what is held for the context (R103, R136, R141, R142). -/
def boundary (c : Core) (ctx : Ctx) : Boundary :=
  let a := pcOf c ctx
  let ps := pendingOf c ctx
  match ps.find? fun p => p.late.isSome && (p.whole || p.left == 0) with
  | some p =>
    match p.late with
    | some l => .trap ⟨l.code, l.val, p.fpc, a, none, true⟩
    | none => .clear
  | none =>
    if ps.any fun p => p.whole && p.late.isNone then .drain
    else
      match breakpointAt c ctx a with
      | some (n, act) => breakAction act n a
      | none => heldBoundary c ctx a

/-- A core whose boundary takes the first watchpoint that a remote write matched: the match is consumed by its action, and
stays while another trap stands before it (R103, R141). -/
def dropWatch (c : Core) (ctx : Ctx) : Core :=
  if (ctx = .main && c.held.isSome) || (breakpointAt c ctx (pcOf c ctx)).isSome ||
      (pendingOf c ctx).any fun p => p.whole || (p.late.isSome && (p.left == 0 || (heldBoundary c ctx (pcOf c ctx)).isTrap)) then c
  else { c with watch := c.watch.tail }

/-! ## Traps of a context -/

/-- The trap that a main context takes when one of its instructions traps: a deferred trap of an earlier long-latency
instruction still in its window comes first, with the trapping instruction as its resume point (R141). -/
def firstTrap (c : Core) (t : TrapInfo) (a : BitVec 16) : TrapInfo :=
  match (pendingOf c .main).find? fun p => p.late.isSome with
  | some p =>
    match p.late with
    | some l => ⟨l.code, l.val, p.fpc, a, none, true⟩
    | none => t
  | none => t

/-- A gang member's core out of its gang (R134). -/
def leaveGang (c : Core) : Core := { c with gang := none }

/-- The keys of a gang's cores, its leader first (R133, R300). -/
def gangKeys (g : GangSt) : List Nat :=
  let n := if g.block then 4 else 2
  (List.range n).flatMap fun r => (List.range n).map fun c => keyOf (g.row + r) (g.col + c)

/-- A main context takes a trap: its pending results are written first (R141). A trap of a handler held for it that meets a deferred trap
in its window stays held: the deferred one is taken first, and the held one at the vector's first issue (DESIGN CHOICE, log entry 81). -/
def takeTrap (s : State) (k : Nat) (t : TrapInfo) (a : BitVec 16) : State :=
  let c := coreAt s k
  let t := firstTrap c t a
  let c := flushPending c .main
  let c := { c with held := if t.hctx.isSome then none else c.held }
  trapEntry (setCore s k c) k t

/-- The handler context a burst starts in (R264). -/
def startHandler (b : Burst) (entry : BitVec 16) (arg : Word) : Handler :=
  { busy := true, y := [(0, arg)], w := [(0, b.data.extractLsb' 0 512), (1, b.data.extractLsb' 512 512)], bix := b.bix,
    bxc := b.bxc, byc := b.byc, bcnt := b.bcnt, pc := entry, tag := b.tag }

/-- A core with its free handler contexts filled from the burst buffer, lowest context and oldest burst first (R130). -/
def placeBursts (c : Core) : Nat → Core
  | 0 => c
  | n + 1 =>
    match c.bursts, (List.range 8).find? fun k => !(handlerAt c k).busy with
    | b :: bs, some k =>
      let br := fget c.breads b.tag ⟨0, 0, 0, 0, 0, ⟨0, 0, 0, 0, 0, 0, 0, 0, 0, false⟩, 0, 0, 0, 0, 0, false⟩
      placeBursts (setHandler { c with bursts := bs } k (startHandler b br.he br.arg)) n
    | _, _ => c

/-- A handler context ends as HEND ends it: freed, its burst counted, the oldest buffered burst placed (R130). -/
def endHandler (c : Core) (k : Nat) (abort : Bool) : Core :=
  let c := flushPending c (.handler k)
  let h := handlerAt c k
  placeBursts (burstHandled (setHandler c k { h with busy := false }) h.tag abort) 8

/-- A trap in a handler context: the context ends, and the trap is held for the main context unless one is (R141). -/
def handlerTrap (c : Core) (k : Nat) (code : BitVec 8) (val : Word) : Core :=
  let fpc := (handlerAt c k).pc
  let c := endHandler c k true
  { c with held := if c.held.isSome then c.held else some ⟨code, val, k, fpc⟩ }

/-- A trap of the context in focus at one core: into the vector, or held (R141). A trap in a gang member dissolves the
gang, and every other member takes E_GANG with TRAPVAL 0 at the same instruction (R134). -/
def contextTrap (s : State) (k : Nat) (ctx : Ctx) (t : TrapInfo) (a : BitVec 16) : State :=
  match ctx with
  | .handler n => modCore s k fun c => handlerTrap c n t.code t.val
  | .main =>
    match (coreAt s k).gang with
    | none => takeTrap s k t a
    | some g =>
      let ks := gangKeys g
      let s := ks.foldl (fun s k' => modCore s k' leaveGang) s
      ks.foldl (fun s k' => if k' = k then takeTrap s k t a else takeTrap s k' ⟨eGang, 0, a, a, none, false⟩ a) s

/-- A core stops issuing at the boundary (R103). -/
def haltCore (c : Core) : Core := { c with halted := true }

/-! ## Issue -/

/-- Whether the class-30 output of a core's router towards the sink of its launch can accept a STAT flit: it holds nothing, or a
STAT of the same destination and launch, which the two are merged into (R157, R163, R268, R364). -/
def statRoom (s : State) (k : Nat) : Bool :=
  match routerOf s.dev (rowOf k) (colOf k) with
  | some p =>
    let l := launchOf s (rowOf k) (colOf k)
    let dst := statSinkAt l
    match fget (routerAt s p).out (32 * xyStep (rowOf k) (colOf k) dst.1 dst.2 + 30) [] with
    | [] => true
    | [g] =>
      decide (flitKind g = 11) && decide (flitDrow g = dst.1) && decide (flitDcol g = dst.2) &&
        decide (statLaunch g = match l with | some l => l.num % 4096 | none => 0)
    | _ => false
  | none => false

/-- The environment of a core. -/
def envOf (s : State) (k : Nat) (ctx : Ctx) (word : Word) (base : Nat) : Env :=
  let c := coreAt s k
  let ms :=
    match c.gang with
    | some g => (gangKeys g).map (coreAt s)
    | none => [c]
  let lead :=
    match c.gang with
    | some g => some (coreAt s (keyOf g.row g.col))
    | none => none
  { key := k, ctx := ctx, a := pcOf c ctx, word := word, cycle := s.cycle, launch := launchOf s (rowOf k) (colOf k),
    dev := s.dev, members := if ctx = .main then ms else [c], lead := if ctx = .main then lead else none,
    statFree := statRoom s k,
    free := fun n => Config.freeBit (65536 * s.freeCtr + 256 * base + n),
    freeW := fun n => Config.freeWord (65536 * s.freeCtr + 256 * base + n) }

/-- An effect outside the issuing core. -/
def applyPost (s : State) : Post → State
  | .serve n x => let l := larderAt s n; setLarder s n { l with waiting := l.waiting ++ [x] }
  | .source k x => modCore s k fun c => { c with sources := c.sources ++ [x] }

/-- One pending result that an instruction waits for is written: the oldest that a set of registers names. -/
def drainOne (c : Core) (ctx : Ctx) (refs : List RegRef) : Core :=
  (writeOldest c fun p => decide (p.ctx = ctx) && p.touches refs).getD c

/-- One pending result of a context is written: the oldest. -/
def drainAny (c : Core) (ctx : Ctx) : Core := (writeOldest c fun p => decide (p.ctx = ctx)).getD c

/-- What a verdict other than execution makes of the state. -/
def applyVerdict (s : State) (k : Nat) (ctx : Ctx) (a : BitVec 16) : Verdict → State
  | .done c posts => posts.foldl applyPost (setCore s k c)
  | .trap code val => contextTrap s k ctx ⟨code, val, a, a, none, false⟩ a
  | .request code val =>
    match ctx with
    | .handler n => modCore s k fun c => handlerTrap c n code val
    | .main =>
      let c := coreAt s k
      if (pendingOf c .main).any fun p => p.late.isSome then contextTrap s k ctx ⟨code, val, a, a, none, false⟩ a
      else
        let n := nextPc c .main a
        contextTrap (setCore s k (countIssue n.1 .main)) k ctx ⟨code, val, a, n.2, none, false⟩ a
  | .watch n act =>
    match breakAction act (0x10 + n) a with
    | .halt => modCore s k haltCore
    | .stop => assertStop s
    | .trap t => contextTrap s k ctx t a
    | _ => s
  | .wait c w => setCore s k { c with wait := w }
  | .stall => s
  | .drain refs => modCore s k fun c => drainOne c ctx refs
  | .flush => modCore s k fun c => drainAny c ctx
  | .await p => modCore s k fun c => (writeOldest c fun q => decide (q = p)).getD c

/-- What a boundary makes of the state. -/
def applyBoundary (s : State) (k : Nat) (ctx : Ctx) : Boundary → State
  | .trap t =>
    match ctx with
    | .main => contextTrap s k .main t (pcOf (coreAt s k) .main)
    | .handler n => modCore s k fun c => handlerTrap c n t.code t.val
  | .halt => modCore s k haltCore
  | .stop => assertStop s
  | .drain => modCore s k fun c => drainAny c ctx
  | .clear => s

/-- A verdict on which a gang goes on. -/
def Verdict.isDone : Verdict → Bool
  | .done .. => true
  | _ => false

/-- Whether the action of a breakpoint or watchpoint is a trap (R103). -/
def actTraps (act : BitVec 2) : Bool := act.toNat < 2

/-- A verdict that traps, or asks for a trap. -/
def Verdict.isTrap : Verdict → Bool
  | .trap .. | .request .. => true
  | .watch _ act => actTraps act
  | _ => false

/-- Issue on a formed gang: the leader's instruction in every member, each on its own registers; a trap in any member
dissolves the gang; anything short of execution in any member stalls all of them (R133, R134, R301). -/
def issueGang (op : Op) (s : State) (g : GangSt) : State :=
  let ks := gangKeys g
  let a := (coreAt s (keyOf g.row g.col)).pc
  let s := ks.foldl (fun s k => modCore s k fun c => { c with pc := a, lastIssue := 0 }) s
  let vs := ks.zipIdx.map fun p => (p.1, judge op (envOf s p.1 .main op.word p.2) (coreAt s p.1))
  if vs.all fun v => v.2.isDone then
    let s := vs.foldl (fun s v => applyVerdict s v.1 .main a v.2) s
    let p := (coreAt s (keyOf g.row g.col)).pc
    ks.foldl (fun s k => modCore s k fun c => { c with pc := p }) s
  else if vs.any fun v => v.2.isTrap then
    let s := ks.foldl (fun s k => modCore s k leaveGang) s
    vs.foldl (fun s v =>
      if v.2.isTrap then applyVerdict s v.1 .main a v.2
      else takeTrap s v.1 ⟨eGang, 0, a, a, none, false⟩ a) s
  else vs.foldl (fun s v => if v.2.isDone then s else applyVerdict s v.1 .main a v.2) s

/-- A boundary taken at one core. -/
def takeBoundary (s : State) (k : Nat) (ctx : Ctx) (b : Boundary) : State :=
  applyBoundary (modCore s k fun c => dropWatch c ctx) k ctx b

/-- What stands at the boundaries of a gang's members: a trap in any of them dissolves the gang, each member with a trap
takes its own and every other one E_GANG; else the first member's boundary is taken (R134). -/
def gangBoundary (s : State) (ks : List Nat) : State :=
  let bs := ks.map fun k => (k, boundary (coreAt s k) .main)
  if bs.any fun b => b.2.isTrap then
    let s := ks.foldl (fun s k => modCore s k leaveGang) s
    bs.foldl (fun s b =>
      let a := (coreAt s b.1).pc
      if b.2.isTrap then takeBoundary s b.1 .main b.2 else takeTrap s b.1 ⟨eGang, 0, a, a, none, false⟩ a) s
  else
    match bs.find? fun b => decide (b.2 ≠ .clear) with
    | some b => takeBoundary s b.1 .main b.2
    | none => s

/-- The issue of an instruction on the core and context in focus: the boundary first, then the instruction. -/
def issue (op : Op) (s : State) : Host.Outcome State Fault Refusal :=
  if !inGrid s.focus then .fault .noCore
  else
    let c := coreAt s s.focus
    let s' := { s with freeCtr := s.freeCtr + 1 }
    match c.gang, s.ctx with
    | some g, .main =>
      if (gangKeys g).all fun k => decide (boundary (coreAt s k) .main = .clear) then .next (issueGang op s' g)
      else .next (gangBoundary s' (gangKeys g))
    | _, _ =>
      match boundary c s.ctx with
      | .clear => .next (applyVerdict s' s.focus s.ctx (pcOf c s.ctx) (judge op (envOf s s.focus s.ctx op.word 0) c))
      | b => .next (takeBoundary s' s.focus s.ctx b)

/-! ## Local accesses (R147, R168, R224, R225, R318) -/

/-- Whether two ranges share a byte. -/
def rangesMeet (a n b m : Nat) : Bool := decide (a < b + m) && decide (b < a + n) && n != 0 && m != 0

/-- The cellar overlaps a range (R208). -/
def inCellar (c : Core) (a n : Nat) : Bool :=
  match c.cellar with
  | some (b, sz) => rangesMeet a n b.toNat sz
  | none => false

/-- The valid segments as base and end in bytes (R147). -/
def validSegments (c : Core) : List (Nat × Nat) :=
  (List.range 8).filterMap fun n =>
    let g := fget c.sys.seg n {}
    if g.valid then some (4096 * g.base.toNat, 4096 * (g.base.toNat + g.size.toNat)) else none

/-- Whether an access lies within SRAM, within one valid segment where any is valid, and off the cellar (R147, R168). -/
def boundOk (c : Core) (a n : Nat) : Bool :=
  decide (a + n ≤ 0x80000) &&
    ((validSegments c).isEmpty || (validSegments c).any fun g => decide (g.1 ≤ a) && decide (a + n ≤ g.2)) && !inCellar c a n

/-- The range of a watchpoint (R102). -/
def watchRange (d : BitVec 25) : Nat × Nat :=
  let sz := 8 * 2 ^ min (d.extractLsb' 19 4).toNat 13
  let a := 8 * (d.extractLsb' 3 16).toNat
  (a / sz * sz, sz)

/-- The first watchpoint an access matches (R103). -/
def watchHit (c : Core) (load store : Bool) (a n : Nat) : Option (Nat × BitVec 2) :=
  ((List.range 2).find? fun i =>
      let d := fget c.sys.dbgwa i 0
      d.getLsbD 0 && ((load && d.getLsbD 23) || (store && d.getLsbD 24)) && rangesMeet a n (watchRange d).1 (watchRange d).2).map
    fun i => (i, (fget c.sys.dbgwa i 0).extractLsb' 1 2)

/-- The extent of a direct bulk read in its requester's SRAM, from DEST on (R265). -/
def directRange (d : BreadDesc) : Nat × Nat :=
  let y1 := min d.y1 d.height
  let x1 := min d.x1 d.width
  if y1 ≤ d.y0 || x1 ≤ d.x0 then (d.dest, 0) else (d.dest, (y1 - d.y0 - 1) * d.dpitch + (x1 - d.x0))

/-- The destination ranges of operations in flight (R224). -/
def destRanges (c : Core) : List (Nat × Nat) :=
  (c.ops.filter fun o => !o.src && o.len != 0).map (fun o => (o.lo, o.len)) ++
    (c.breads.filter fun b => b.2.desc.direct).map fun b => directRange b.2.desc

/-- The source ranges of operations in flight (R225). -/
def sourceRanges (c : Core) : List (Nat × Nat) := (c.ops.filter fun o => o.src && o.len != 0).map fun o => (o.lo, o.len)

/-- A kind of local access. -/
structure AccessKind where
  load : Bool
  store : Bool
  deriving DecidableEq, Repr

/-- A load. -/
def loads : AccessKind := ⟨true, false⟩
/-- A store. -/
def stores : AccessKind := ⟨false, true⟩
/-- An atomic update. -/
def updates : AccessKind := ⟨true, true⟩

/-- The checks of R318 over one or several accesses of a size and an alignment, step by step over all of them (R347):
alignment, bound, watchpoint, lock, scoreboard. -/
def checkAccess (c : Core) (kind : AccessKind) (al n : Nat) (as : List Nat) : Option Out :=
  match as.find? fun a => a % al != 0 with
  | some a => some (.trap eAlign (BitVec.ofNat 64 a))
  | none =>
    match as.find? fun a => !boundOk c a n with
    | some a => some (.trap eBound (BitVec.ofNat 64 a))
    | none =>
      match as.findSome? fun a => watchHit c kind.load kind.store a n with
      | some (i, act) => some (.watch i act)
      | none =>
        match if kind.store then as.find? fun a => (sourceRanges c).any fun r => rangesMeet a n r.1 r.2 else none with
        | some a => some (.trap eLock (BitVec.ofNat 64 a))
        | none => if as.any fun a => (destRanges c).any fun r => rangesMeet a n r.1 r.2 then some .stall else none

/-- The address of a format M instruction: x[BASE] + x[INDEX] · 2^SCALE + DISP24; an INDEX of 0 adds nothing (R275, R290). -/
def effAddr (env : Env) (c : Core) (m : MemOp) : Word :=
  env.x c m.base + (if m.index = 0 then 0 else env.x c m.index <<< m.scale.toNat) + m.disp.signExtend 64

/-- The registers an address reads. -/
def memRefs (m : MemOp) : List RegRef := .x m.base.toNat :: if m.index = 0 then [] else [.x m.index.toNat]

/-- What a body does once every pending result of its context is written; a deferred trap among them is taken first
(R128, R141, R326). -/
def whenSettled (env : Env) (c : Core) (k : Out) : Out :=
  let ps := pendingOf c env.ctx
  if ps.any fun p => p.late.isNone then .drain else if ps.isEmpty then k else .trap 0 0

/-- An instruction with its encoding (R143: traps hold the word). -/
def mkOp (i : Instr) (h : Hdr) (cls : LaClass) (reads writes : List RegRef) (body : Env → Core → Out) : Op :=
  { h := h, word := encode i, cls := cls, reads := reads, writes := writes, body := body }

/-- A store of bytes into SRAM. -/
def storeBytes (c : Core) (a : Nat) (bs : List Byte) : Core := { c with sram := c.sram.writeBytes a bs }

end Sys2Proof.Machine
end

