-- ==== Sys2Proof/Machine/Operands.lean ====
section
/-! DEFINITION. Operand forms shared by the instruction families: integer and floating-point operands of x registers, and
lanes of v registers with their masks. -/

namespace Sys2Proof.Machine

/-! ## Scalar operands -/

/-- The registers x[n] of a list of fields. -/
def xs (rs : List Reg) : List RegRef := rs.map fun r => .x r.toNat
/-- The registers v[n] of a list of fields. -/
def vs (rs : List VReg) : List RegRef := rs.map fun r => .v r.toNat
/-- A group of n v registers from a base (R121). -/
def vgroup (n : Nat) (r : VReg) : List RegRef := (List.range n).map fun k => .v (r.toNat + k)
/-- A group of two x registers. -/
def xpair (r : Reg) : List RegRef := [.x r.toNat, .x (r.toNat + 1)]

/-- An effect that writes one x register. -/
def wx (c : Core) (d : Reg) (v : Word) : Out := .ok { core := c, dests := [.x d.toNat v] }
/-- An effect that writes one x register with flags and clamps. -/
def wxF (c : Core) (d : Reg) (r : FRes) : Out :=
  .ok { core := c, dests := [.x d.toNat (BitVec.ofNat 64 r.bits)], flags := r.flags, counts := ⟨r.sat, 0, 0⟩ }
/-- An effect on the core alone. -/
def done (c : Core) : Out := .ok { core := c }

/-! ## Lanes and masks (R331, R332) -/

/-- Lane i of width w of a 512-bit register. -/
def lane (w : Nat) (v : BitVec 512) (i : Nat) : Nat := (v.toNat >>> (w * i)) % 2 ^ w
/-- The lanes of a register, lane 0 first. -/
def lanesOf (w : Nat) (v : BitVec 512) : List Nat := (List.range (512 / w)).map (lane w v)
/-- The number whose digits of w bits are a list, lowest first. -/
def packNat (w : Nat) : List Nat → Nat
  | [] => 0
  | x :: xs => x % 2 ^ w + 2 ^ w * packNat w xs
/-- A register from its lanes. -/
def packV (w : Nat) (xs : List Nat) : BitVec 512 := BitVec.ofNat 512 (packNat w xs)

/-- The lane mask of an instruction: all lanes for f0 (R332). -/
def maskBits (c : Core) (m : Mask) : BitVec 16 := readFm c m.k.toNat
/-- The registers a mask reads: fk, and the destination where it keeps masked-off lanes (R332). -/
def maskRefs (m : Mask) (dest : RegRef) : List RegRef :=
  if m.k = 0 then [] else if m.z then [.f m.k.toNat] else [.f m.k.toNat, dest]

/-- One lane of a masked result: its value where active; else kept, or 0 with ZERO (R332). -/
def maskLane (bit z : Bool) (old new : Nat) : Nat := if bit then new else if z then 0 else old

/-- A masked result from the destination's old lanes and a result for each lane: flags and clamps of active lanes only. -/
def maskResult (w : Nat) (mask : BitVec 16) (z : Bool) (old : BitVec 512) (rs : List FRes) :
    BitVec 512 × BitVec 5 × Nat :=
  let n := 512 / w
  let act := fun i => mask.getLsbD i
  let lanes := (List.range n).map fun i => maskLane (act i) z (lane w old i) (rs.getD i ⟨0, 0, 0⟩).bits
  let live := (List.range n).filter act
  (packV w lanes, live.foldl (fun f i => f ||| (rs.getD i ⟨0, 0, 0⟩).flags) 0,
    live.foldl (fun f i => f + (rs.getD i ⟨0, 0, 0⟩).sat) 0)

/-- The effect of a masked instruction that writes v[D]. -/
def wvMasked (c : Core) (w : Nat) (mask : BitVec 16) (z : Bool) (old : BitVec 512) (d : VReg) (rs : List FRes) : Out :=
  let r := maskResult w mask z old rs
  .ok { core := c, dests := [.v d.toNat r.1], flags := r.2.1, counts := ⟨r.2.2, 0, 0⟩ }

/-- A plain lane result. -/
def laneVal (n : Nat) : FRes := ⟨n, 0, 0⟩

end Sys2Proof.Machine
end

