-- ==== Sys2Proof/Machine/Local.lean ====
section
/-! DEFINITION. Local loads, stores, atomics and segments (R317 to R322). -/

namespace Sys2Proof.Machine

/-- The bytes of a load size. -/
def memBytes : MemSize → Nat
  | .n8 | .i8 => 1
  | .n16 | .i16 => 2
  | .n32 | .i32 => 4
  | .i64 => 8

/-- Whether a load sign-extends. -/
def memSigned : MemSize → Bool
  | .i8 | .i16 | .i32 => true
  | _ => false

/-- The bytes of a store size. -/
def stBytes : StSize → Nat
  | .b1 => 1
  | .b2 => 2
  | .b4 => 4
  | .b8 => 8

/-- The value a load gives its register (R317). -/
def loadValue (c : Core) (sz : MemSize) (a : Nat) : Word :=
  let n := memBytes sz
  let v := c.sram.readLE a n
  if memSigned sz then BitVec.ofInt 64 (sext v (8 * n)) else BitVec.ofNat 64 v

/-- A body that runs once a local access passes its checks (R318). -/
def withAccess (c : Core) (kind : AccessKind) (al n : Nat) (as : List Nat) (k : Out) : Out :=
  match checkAccess c kind al n as with
  | some o => o
  | none => k

/-- LD (R317). -/
def execLd (h : Hdr) (sz : MemSize) (d : Reg) (m : MemOp) (s : State) : Host.Outcome State Fault Refusal :=
  issue (mkOp (.ld h sz d m) h .l (memRefs m) (xs [d]) fun env c =>
    let a := (effAddr env c m).toNat
    withAccess c loads (memBytes sz) (memBytes sz) [a] (wx c d (loadValue c sz a))) s

/-- ST (R317). -/
def execSt (h : Hdr) (sz : StSize) (d : Reg) (m : MemOp) (s : State) : Host.Outcome State Fault Refusal :=
  issue (mkOp (.st h sz d m) h .s (.x d.toNat :: memRefs m) [] fun env c =>
    let a := (effAddr env c m).toNat
    withAccess c stores (stBytes sz) (stBytes sz) [a] (done (storeBytes c a (byteSlice (env.x c d) 0 (stBytes sz))))) s

/-- The groups of a pair access: the pair, and each address register by itself (R121). -/
def pairGroups (d : Reg) (m : MemOp) : List (List RegRef) := xpair d :: (memRefs m).map fun r => [r]

/-- LDP (R317). -/
def execLdp (h : Hdr) (d : Reg) (m : MemOp) (s : State) : Host.Outcome State Fault Refusal :=
  issue { mkOp (.ldp h d m) h .l (memRefs m) (xpair d) (fun env c =>
            let a := (effAddr env c m).toNat
            withAccess c loads 16 16 [a]
              (.ok { core := c, dests := [.x d.toNat (c.sram.word a), .x (d.toNat + 1) (c.sram.word (a + 8))] })) with
          groups := pairGroups d m } s

/-- STP (R317). -/
def execStp (h : Hdr) (d : Reg) (m : MemOp) (s : State) : Host.Outcome State Fault Refusal :=
  issue { mkOp (.stp h d m) h .s (xpair d ++ memRefs m) [] (fun env c =>
            let a := (effAddr env c m).toNat
            withAccess c stores 16 16 [a]
              (done (storeBytes c a (byteSlice (env.x c d) 0 8 ++ byteSlice (readX c env.ctx (d.toNat + 1)) 0 8)))) with
          groups := pairGroups d m } s

/-- The new value of an atomic at its type (R319). -/
def amoNew (op : AmoOp) (ty : Ty) (old v : Nat) : Nat :=
  let w := ty.width
  match op with
  | .add => (old + v) % 2 ^ w
  | .and => old &&& v
  | .or => old ||| v
  | .xor => old ^^^ v
  | .swap => v
  | .min => if sext v w < sext old w then v else old
  | .max => if sext old w < sext v w then v else old
  | .minu => min old v
  | .maxu => max old v

/-- AMO: an atomic update of a local word (R319). -/
def execAmo (h : Hdr) (op : AmoOp) (ty : Ty) (d a b : Reg) (s : State) : Host.Outcome State Fault Refusal :=
  issue (mkOp (.amo h op ty d a b) h .l (xs [a, b]) (xs [d]) fun env c =>
    let n := ty.width / 8
    let ea := (env.x c a).toNat
    withAccess c updates n n [ea] (
      let old := c.sram.readLE ea n
      let new := amoNew op ty old ((env.x c b).toNat % 2 ^ ty.width)
      wx { c with sram := c.sram.writeLE ea n new } d (extendI ty (old : Nat)))) s

/-- CAS: a store whatever the comparison gives, for the lock (R320). -/
def execCas (h : Hdr) (ty : Ty) (d a e n : Reg) (s : State) : Host.Outcome State Fault Refusal :=
  issue (mkOp (.cas h ty d a e n) h .l (xs [a, e, n]) (xs [d]) fun env c =>
    let k := ty.width / 8
    let ea := (env.x c a).toNat
    withAccess c updates k k [ea] (
      let old := c.sram.readLE ea k
      let m := if old = (env.x c e).toNat % 2 ^ ty.width then c.sram.writeLE ea k ((env.x c n).toNat % 2 ^ ty.width) else c.sram
      wx { c with sram := m } d (extendI ty (old : Nat)))) s

/-! ## Segments (R126, R147, R322) -/

/-- Whether a descriptor may be valid: its size and end in bounds, no other valid descriptor in its range (R147). -/
def segmentOk (c : Core) (n : Nat) (g : Segment) : Bool :=
  decide (1 ≤ g.size.toNat) && decide (g.size.toNat ≤ 128) && decide (g.base.toNat + g.size.toNat ≤ 128) &&
    (List.range 8).all fun i =>
      let o := fget c.sys.seg i {}
      i == n || !o.valid || !rangesMeet g.base.toNat g.size.toNat o.base.toNat o.size.toNat

/-- A core with descriptor n written. -/
def setSegment (c : Core) (n : Nat) (g : Segment) : Core := { c with sys := { c.sys with seg := fset c.sys.seg n g } }

/-- SEG: one descriptor, valid (R322). -/
def execSeg (h : Hdr) (n : BitVec 3) (base : BitVec 7) (size : BitVec 8) (span : BitVec 3) (s : State) :
    Host.Outcome State Fault Refusal :=
  issue (mkOp (.seg h n base size span) h .s [] [] fun _ c =>
    let g : Segment := ⟨true, base, size, span⟩
    if segmentOk c n.toNat g then done (setSegment c n.toNat g) else .trap eBound (BitVec.ofNat 64 (4096 * base.toNat))) s

/-- SEG.off: both registers of a descriptor cleared (R322). -/
def execSegOff (h : Hdr) (n : BitVec 3) (s : State) : Host.Outcome State Fault Refusal :=
  issue (mkOp (.segOff h n) h .s [] [] fun _ c => done (setSegment c n.toNat {})) s

end Sys2Proof.Machine
end

