-- ==== Sys2Proof/Machine/ScalarFp.lean ====
section
/-! DEFINITION. Scalar floating point on x registers (R312 to R316). -/

namespace Sys2Proof.Machine

/-- The datum in the low bits of an x register (R312). -/
def fpX (env : Env) (c : Core) (ty : Ty) (r : Reg) : FVal := readF ty ((env.x c r).toNat % 2 ^ ty.width)

/-- A floating-point instruction with two operands. -/
def fpOp (i : Instr) (h : Hdr) (ty : Ty) (d a b : Reg) (f : FVal → FVal → FRes) : Op :=
  mkOp i h .l (xs [a, b]) (xs [d]) fun env c => wxF c d (f (fpX env c ty a) (fpX env c ty b))

/-- FADD. -/
def execFadd (h : Hdr) (ty : Ty) (d a b : Reg) (rm : RM) (s : State) : Host.Outcome State Fault Refusal :=
  issue (fpOp (.fadd h ty d a b rm) h ty d a b (addF ty rm)) s

/-- FSUB. -/
def execFsub (h : Hdr) (ty : Ty) (d a b : Reg) (rm : RM) (s : State) : Host.Outcome State Fault Refusal :=
  issue (fpOp (.fsub h ty d a b rm) h ty d a b fun x y => addF ty rm x y.flip) s

/-- FMUL. -/
def execFmul (h : Hdr) (ty : Ty) (d a b : Reg) (rm : RM) (s : State) : Host.Outcome State Fault Refusal :=
  issue (fpOp (.fmul h ty d a b rm) h ty d a b (mulF ty rm)) s

/-- FDIV. -/
def execFdiv (h : Hdr) (ty : Ty) (d a b : Reg) (rm : RM) (s : State) : Host.Outcome State Fault Refusal :=
  issue (fpOp (.fdiv h ty d a b rm) h ty d a b (divF ty rm)) s

/-- FSQRT. -/
def execFsqrt (h : Hdr) (ty : Ty) (d a : Reg) (rm : RM) (s : State) : Host.Outcome State Fault Refusal :=
  issue (mkOp (.fsqrt h ty d a rm) h .l (xs [a]) (xs [d]) fun env c => wxF c d (sqrtF ty rm (fpX env c ty a))) s

/-- A minimum or maximum on codes (R183). -/
def fpMinMax (i : Instr) (h : Hdr) (isMax : Bool) (ty : Ty) (d a b : Reg) : Op :=
  mkOp i h .l (xs [a, b]) (xs [d]) fun env c =>
    wxF c d (minmaxF ty isMax ((env.x c a).toNat % 2 ^ ty.width) ((env.x c b).toNat % 2 ^ ty.width))

/-- FMIN. -/
def execFmin (h : Hdr) (ty : Ty) (d a b : Reg) (s : State) : Host.Outcome State Fault Refusal :=
  issue (fpMinMax (.fmin h ty d a b) h false ty d a b) s

/-- FMAX. -/
def execFmax (h : Hdr) (ty : Ty) (d a b : Reg) (s : State) : Host.Outcome State Fault Refusal :=
  issue (fpMinMax (.fmax h ty d a b) h true ty d a b) s

/-- FFMA: one rounding (R314). -/
def execFfma (h : Hdr) (ty : Ty) (d a b cr : Reg) (rm : RM) (s : State) : Host.Outcome State Fault Refusal :=
  issue (mkOp (.ffma h ty d a b cr rm) h .l (xs [a, b, cr]) (xs [d]) fun env c =>
    wxF c d (fmaF ty rm (fpX env c ty a) (fpX env c ty b) (fpX env c ty cr))) s

/-- A converted result in an x register: integers extended by their type, floats zero-extended (R315). -/
def cvtBits (dst : Ty) (r : FRes) : FRes := if dst.isInt then { r with bits := (extendI dst (r.bits : Nat)).toNat } else r

/-- FCVT (R315). -/
def execFcvt (h : Hdr) (dst src : Ty) (d a : Reg) (rm : RM) (sat : Bool) (s : State) : Host.Outcome State Fault Refusal :=
  issue (mkOp (.fcvt h dst src d a rm sat) h .l (xs [a]) (xs [d]) fun env c =>
    wxF c d (cvtBits dst (convert dst src rm sat ((env.x c a).toNat % 2 ^ src.width)))) s

/-- A scalar comparison and whether it raises NV (R316). -/
def fcmpRes (op : FCmpOp) (x y : FVal) : Bool × Bool :=
  let anyNan := x.isNan || y.isNan
  let anySig := x.isSig || y.isSig
  match op with
  | .eq => (eqF x y, anySig)
  | .un => (anyNan, anySig)
  | .lt => (!anyNan && ltF x y, anyNan)
  | .le => (!anyNan && !ltF y x, anyNan)

/-- FCMP: into an x register as 1 or 0, or into an f register as all ones or zeros (R316). -/
def execFcmp (h : Hdr) (op : FCmpOp) (ty : Ty) (toF : Bool) (d a b : Reg) (s : State) : Host.Outcome State Fault Refusal :=
  issue (mkOp (.fcmp h op ty toF d a b) h .l (xs [a, b]) (if toF then [.f d.toNat] else xs [d]) fun env c =>
    let r := fcmpRes op (fpX env c ty a) (fpX env c ty b)
    let fl := if r.2 then flagNV else 0
    if toF then .ok { core := c, dests := [.f d.toNat (if r.1 then 0xFFFF else 0)], flags := fl }
    else .ok { core := c, dests := [.x d.toNat (if r.1 then 1 else 0)], flags := fl }) s

end Sys2Proof.Machine
end

