-- ==== Sys2Proof/Machine/Vector.lean ====
section
/-! DEFINITION. Vector instructions: lane arithmetic, bit operations, comparison, conversion, reductions, loads and stores,
permutes, dot products, the FP64 matrix step and the Philox generator (R331 to R354). -/

namespace Sys2Proof.Machine

/-- A masked instruction that computes each lane of v[D] from the core's registers (R332). -/
def laneOp (i : Instr) (h : Hdr) (w : Nat) (d : VReg) (m : Mask) (reads : List RegRef) (f : Env → Core → Nat → FRes) : Op :=
  mkOp i h .l (reads ++ maskRefs m (.v d.toNat)) (vs [d]) fun env c =>
    wvMasked c w (maskBits c m) m.z (env.v c d) d ((List.range (512 / w)).map (f env c))

/-- A lane operation on two sources' codes. -/
def laneOp2 (i : Instr) (h : Hdr) (ty : Ty) (d a b : VReg) (m : Mask) (f : Nat → Nat → FRes) : Op :=
  laneOp i h ty.width d m (vs [a, b]) fun env c k => f (lane ty.width (env.v c a) k) (lane ty.width (env.v c b) k)

/-- A lane operation on one source's codes. -/
def laneOp1 (i : Instr) (h : Hdr) (ty : Ty) (d a : VReg) (m : Mask) (f : Nat → FRes) : Op :=
  laneOp i h ty.width d m (vs [a]) fun env c k => f (lane ty.width (env.v c a) k)

/-- An exact integer result at a type: wrapped, or clamped and counted (R336). -/
def intLane (ty : Ty) (sat : Bool) (r : Int) : FRes :=
  if sat then
    let q := satcnt r (tyBounds ty).1 (tyBounds ty).2
    ⟨truncZ q.1 ty.width, 0, q.2⟩
  else laneVal (truncZ r ty.width)

/-- Arithmetic of integer or floating lanes. -/
def arithLane (ty : Ty) (sat : Bool) (fi : Int → Int → Int) (ff : FVal → FVal → FRes) (x y : Nat) : FRes :=
  if ty.isInt then intLane ty sat (fi (tyReadInt ty x) (tyReadInt ty y)) else ff (readF ty x) (readF ty y)

/-- VADD (R335). -/
def execVadd (h : Hdr) (ty : Ty) (d a b : VReg) (rm : RM) (sat : Bool) (m : Mask) (s : State) :
    Host.Outcome State Fault Refusal :=
  issue (laneOp2 (.vadd h ty d a b rm sat m) h ty d a b m (arithLane ty sat (· + ·) (addF ty rm))) s

/-- VSUB (R335). -/
def execVsub (h : Hdr) (ty : Ty) (d a b : VReg) (rm : RM) (sat : Bool) (m : Mask) (s : State) :
    Host.Outcome State Fault Refusal :=
  issue (laneOp2 (.vsub h ty d a b rm sat m) h ty d a b m (arithLane ty sat (· - ·) fun x y => addF ty rm x y.flip)) s

/-- VMUL (R335). -/
def execVmul (h : Hdr) (ty : Ty) (d a b : VReg) (rm : RM) (sat : Bool) (m : Mask) (s : State) :
    Host.Outcome State Fault Refusal :=
  issue (laneOp2 (.vmul h ty d a b rm sat m) h ty d a b m (arithLane ty sat (· * ·) (mulF ty rm))) s

/-- VFMA: one rounding (R337). -/
def execVfma (h : Hdr) (ty : Ty) (d a b cr : VReg) (rm : RM) (m : Mask) (s : State) : Host.Outcome State Fault Refusal :=
  issue (laneOp (.vfma h ty d a b cr rm m) h ty.width d m (vs [a, b, cr]) fun env c k =>
    let f := fun r => readF ty (lane ty.width (env.v c r) k)
    fmaF ty rm (f a) (f b) (f cr)) s

/-- VMINMAX: signed for i types, unsigned for n types, R183 for floats. -/
def execVminmax (h : Hdr) (isMax : Bool) (ty : Ty) (d a b : VReg) (m : Mask) (s : State) :
    Host.Outcome State Fault Refusal :=
  issue (laneOp2 (.vminmax h isMax ty d a b m) h ty d a b m fun x y =>
    if ty.isInt then
      let less := decide (tyReadInt ty x < tyReadInt ty y)
      laneVal (if less == isMax then y else x)
    else minmaxF ty isMax x y) s

/-- Absolute value, negation or negated absolute value of a lane (R336, R337). -/
def absnegLane (op : AbsNegOp) (ty : Ty) (sat : Bool) (x : Nat) : FRes :=
  if ty.isInt then
    let v := tyReadInt ty x
    intLane ty sat (match op with | .abs => (v.natAbs : Int) | .neg => -v | .nabs => -(v.natAbs : Int))
  else if (readF ty x).isNan then nanRes ty (readF ty x).isSig
  else
    let sb := 2 ^ (ty.width - 1)
    let mag := x % sb
    laneVal (match op with | .abs => mag | .neg => if x < sb then x + sb else mag | .nabs => mag + sb)

/-- VABSNEG (R335). -/
def execVabsneg (h : Hdr) (op : AbsNegOp) (ty : Ty) (d a : VReg) (sat : Bool) (m : Mask) (s : State) :
    Host.Outcome State Fault Refusal :=
  issue (laneOp1 (.vabsneg h op ty d a sat m) h ty d a m (absnegLane op ty sat)) s

/-- VDIV (R335). -/
def execVdiv (h : Hdr) (ty : Ty) (d a b : VReg) (rm : RM) (m : Mask) (s : State) : Host.Outcome State Fault Refusal :=
  issue (laneOp2 (.vdiv h ty d a b rm m) h ty d a b m fun x y => divF ty rm (readF ty x) (readF ty y)) s

/-- VSQRT (R335). -/
def execVsqrt (h : Hdr) (ty : Ty) (d a : VReg) (rm : RM) (m : Mask) (s : State) : Host.Outcome State Fault Refusal :=
  issue (laneOp1 (.vsqrt h ty d a rm m) h ty d a m fun x => sqrtF ty rm (readF ty x)) s

/-- VRCP: the rounded reciprocal (R337). -/
def execVrcp (h : Hdr) (ty : Ty) (d a : VReg) (rm : RM) (m : Mask) (s : State) : Host.Outcome State Fault Refusal :=
  issue (laneOp1 (.vrcp h ty d a rm m) h ty d a m fun x => divF ty rm (.fin false 1 0) (readF ty x)) s

/-- VEXP2: the rounded value of 2^a (R337). -/
def execVexp2 (h : Hdr) (d a : VReg) (rm : RM) (m : Mask) (s : State) : Host.Outcome State Fault Refusal :=
  issue (laneOp1 (.vexp2 h d a rm m) h .f32 d a m fun x => exp2F rm (readF .f32 x)) s

/-- A bitwise function of w-bit patterns (R338). -/
def logicN (op : LogicOp) (w a b : Nat) : Nat :=
  match op with
  | .and => a &&& b
  | .or => a ||| b
  | .xor => a ^^^ b
  | .andn => a &&& (b ^^^ (2 ^ w - 1))
  | .not => a ^^^ (2 ^ w - 1)

/-- VLOGIC (R338). -/
def execVlogic (h : Hdr) (op : LogicOp) (ty : Ty) (d a b : VReg) (m : Mask) (s : State) :
    Host.Outcome State Fault Refusal :=
  if op = .not then issue (laneOp1 (.vlogic h op ty d a b m) h ty d a m fun x => laneVal (logicN op ty.width x 0)) s
  else issue (laneOp2 (.vlogic h op ty d a b m) h ty d a b m fun x y => laneVal (logicN op ty.width x y)) s

/-- VSHIFT (R338). -/
def execVshift (h : Hdr) (op : ShiftOp) (ty : Ty) (d a b : VReg) (m : Mask) (s : State) :
    Host.Outcome State Fault Refusal :=
  issue (laneOp2 (.vshift h op ty d a b m) h ty d a b m fun x y => laneVal (shiftN op ty.width x y)) s

/-- VBITS (R338). -/
def execVbits (h : Hdr) (op : BitsOp) (ty : Ty) (d a : VReg) (m : Mask) (s : State) : Host.Outcome State Fault Refusal :=
  issue (laneOp1 (.vbits h op ty d a m) h ty d a m fun x => laneVal (bitsN op ty.width x)) s

/-- The class bits of a datum (R338). -/
def classBits (ty : Ty) (x : Nat) : Nat :=
  match readF ty x with
  | .nan true => 1
  | .nan false => 2
  | .inf true => 4
  | .inf false => 2 ^ 9
  | .fin neg mag _ =>
    if mag = 0 then if neg then 2 ^ 5 else 2 ^ 6
    else if mag < 2 ^ (tyFmt ty).frac then if neg then 2 ^ 4 else 2 ^ 7
    else if neg then 2 ^ 3 else 2 ^ 8

/-- VCLASS (R338). -/
def execVclass (h : Hdr) (ty : Ty) (d a : VReg) (m : Mask) (s : State) : Host.Outcome State Fault Refusal :=
  issue (laneOp1 (.vclass h ty d a m) h ty d a m fun x => laneVal (classBits ty x)) s

/-- A lane comparison and whether it raises NV (R339). -/
def vcmpLane (op : VCmpOp) (ty : Ty) (x y : Nat) : Bool × Bool :=
  if ty.isInt then
    let a := tyReadInt ty x
    let b := tyReadInt ty y
    (match op with
      | .eq => a == b
      | .ne => a != b
      | .lt => decide (a < b)
      | .le => decide (a ≤ b)
      | .gt => decide (b < a)
      | .ge => decide (b ≤ a)
      | .un => false, false)
  else
    let a := readF ty x
    let b := readF ty y
    let n := a.isNan || b.isNan
    let sg := a.isSig || b.isSig
    match op with
    | .eq => (!n && eqF a b, sg)
    | .ne => (n || !eqF a b, sg)
    | .un => (n, sg)
    | .lt => (!n && ltF a b, n)
    | .le => (!n && !ltF b a, n)
    | .gt => (!n && ltF b a, n)
    | .ge => (!n && !ltF a b, n)

/-- VCMP: a mask register, bit by lane (R339). -/
def execVcmp (h : Hdr) (op : VCmpOp) (ty : Ty) (d : FReg) (a b : VReg) (m : Mask) (s : State) :
    Host.Outcome State Fault Refusal :=
  issue (mkOp (.vcmp h op ty d a b m) h .l (vs [a, b] ++ maskRefs m (.f d.toNat)) [.f d.toNat] fun env c =>
    let n := 512 / ty.width
    let mask := maskBits c m
    let old := readFm c d.toNat
    let r := fun k => vcmpLane op ty (lane ty.width (env.v c a) k) (lane ty.width (env.v c b) k)
    let bits := (List.range 16).map fun k =>
      decide (k < n) && (if mask.getLsbD k then (r k).1 else !m.z && old.getLsbD k)
    let nv := (List.range n).any fun k => mask.getLsbD k && (r k).2
    .ok { core := c, dests := [.f d.toNat (BitVec.ofNat 16 (natOfBits bits))], flags := if nv then flagNV else 0 }) s

/-- VSEL: by the bits of f[S3] (R340). -/
def execVsel (h : Hdr) (ty : Ty) (d a b : VReg) (cr : FReg) (m : Mask) (s : State) : Host.Outcome State Fault Refusal :=
  issue (laneOp (.vsel h ty d a b cr m) h ty.width d m (vs [a, b] ++ [.f cr.toNat]) fun env c k =>
    laneVal (if (readFm c cr.toNat).getLsbD k then lane ty.width (env.v c a) k else lane ty.width (env.v c b) k)) s

/-- VCVT: n elements between slices of the narrower side and the wider (R341). -/
def execVcvt (h : Hdr) (dst src : Ty) (d a : VReg) (slice : BitVec 4) (rm : RM) (sat : Bool) (m : Mask) (s : State) :
    Host.Outcome State Fault Refusal :=
  let n := 512 / max src.width dst.width
  let whole := src.width ≤ dst.width
  issue (mkOp (.vcvt h dst src d a slice rm sat m) h .l
      (vs [a] ++ (if whole then maskRefs m (.v d.toNat) else .v d.toNat :: maskRefs m (.v d.toNat))) (vs [d]) fun env c =>
    let mask := maskBits c m
    let act := fun j => mask.getLsbD (if n ≤ 16 then j else 16 * j / n)
    let sIdx := fun j => if dst.width ≤ src.width then j else slice.toNat * n + j
    let dIdx := fun j => if src.width ≤ dst.width then j else slice.toNat * n + j
    let old := env.v c d
    let r := fun j => convert dst src rm sat (lane src.width (env.v c a) (sIdx j))
    let out := (List.range (512 / dst.width)).map fun k =>
      let lo := dIdx 0
      if lo ≤ k ∧ k < lo + n then maskLane (act (k - lo)) m.z (lane dst.width old k) (r (k - lo)).bits
      else lane dst.width old k
    let live := (List.range n).filter act
    .ok { core := c, dests := [.v d.toNat (packV dst.width out)], flags := live.foldl (fun f j => f ||| (r j).flags) 0,
          counts := ⟨live.foldl (fun f j => f + (r j).sat) 0, 0, 0⟩ }) s

/-! ## Reductions and scans (R342, R343) -/

/-- The code an inactive lane stands for in a reduction (R342). -/
def redIdentity (op : RedOp) (ty : Ty) : Nat :=
  match op with
  | .add => if ty.isInt then 0 else 2 ^ (ty.width - 1)
  | .min => if ty.isInt then truncZ (tyBounds ty).2 ty.width else (tyFmt ty).infCode false
  | .max => if ty.isInt then truncZ (tyBounds ty).1 ty.width else (tyFmt ty).infCode true
  | .and => 2 ^ ty.width - 1
  | .or | .xor => 0

/-- One combination of two codes (R342). -/
def redStep (op : RedOp) (ty : Ty) (rm : RM) (x y : Nat) : FRes :=
  let a := tyReadInt ty x
  let b := tyReadInt ty y
  match op with
  | .add => if ty.isInt then laneVal (truncZ (a + b) ty.width) else addF ty rm (readF ty x) (readF ty y)
  | .min => if ty.isInt then laneVal (if b < a then y else x) else minmaxF ty false x y
  | .max => if ty.isInt then laneVal (if a < b then y else x) else minmaxF ty true x y
  | .and => laneVal (x &&& y)
  | .or => laneVal (x ||| y)
  | .xor => laneVal (x ^^^ y)

/-- The fixed tree: halves combined lane by lane until one is left (R342). -/
def redTree (op : RedOp) (ty : Ty) (rm : RM) : Nat → List Nat → BitVec 5 → FRes
  | 0, t, fl => ⟨t.getD 0 0, fl, 0⟩
  | f + 1, t, fl =>
    let n := t.length / 2
    if n = 0 then ⟨t.getD 0 0, fl, 0⟩
    else
      let rs := (List.range n).map fun i => redStep op ty rm (t.getD i 0) (t.getD (i + n) 0)
      redTree op ty rm f (rs.map (·.bits)) (rs.foldl (fun a r => a ||| r.flags) fl)

/-- VRED: the active lanes of v[S1] into x[D] (R342). -/
def execVred (h : Hdr) (op : RedOp) (ty : Ty) (d : Reg) (a : VReg) (rm : RM) (k : FReg) (s : State) :
    Host.Outcome State Fault Refusal :=
  issue (mkOp (.vred h op ty d a rm k) h .l (vs [a] ++ maskRefs ⟨k, true⟩ (.x d.toNat)) (xs [d]) fun env c =>
    let mask := readFm c k.toNat
    let t := (List.range (512 / ty.width)).map fun i =>
      if mask.getLsbD i then lane ty.width (env.v c a) i else redIdentity op ty
    wxF c d (cvtBits ty (redTree op ty rm 5 t 0))) s

/-- The reduction a scan repeats. -/
def scanRed : ScanOp → RedOp
  | .add => .add
  | .min => .min
  | .max => .max

/-- The inclusive prefixes of the active lanes, in ascending order: each lane's value and the flags so far (R343). -/
def scanLanes (op : RedOp) (ty : Ty) (rm : RM) (mask : BitVec 16) : List Nat → Nat → Nat → List FRes
  | [], _, _ => []
  | x :: xs, i, acc =>
    if mask.getLsbD i then
      let r := redStep op ty rm acc x
      r :: scanLanes op ty rm mask xs (i + 1) r.bits
    else laneVal 0 :: scanLanes op ty rm mask xs (i + 1) acc

/-- VSCAN (R343). -/
def execVscan (h : Hdr) (op : ScanOp) (ty : Ty) (d a : VReg) (rm : RM) (m : Mask) (s : State) :
    Host.Outcome State Fault Refusal :=
  issue (mkOp (.vscan h op ty d a rm m) h .l (vs [a] ++ maskRefs m (.v d.toNat)) (vs [d]) fun env c =>
    let mask := maskBits c m
    let rs := scanLanes (scanRed op) ty rm mask (lanesOf ty.width (env.v c a)) 0 (redIdentity (scanRed op) ty)
    wvMasked c ty.width mask m.z (env.v c d) d rs) s

/-! ## Loads and stores (R344 to R347) -/

/-- VLD: 64 bytes (R344). -/
def execVld (h : Hdr) (d : VReg) (m : MemOp) (s : State) : Host.Outcome State Fault Refusal :=
  issue (mkOp (.vld h d m) h .l (memRefs m) (vs [d]) fun env c =>
    let a := (effAddr env c m).toNat
    withAccess c loads 64 64 [a] (.ok { core := c, dests := [.v d.toNat (BitVec.ofNat 512 (c.sram.readLE a 64))] })) s

/-- VST: 64 bytes (R344). -/
def execVst (h : Hdr) (d : VReg) (m : MemOp) (s : State) : Host.Outcome State Fault Refusal :=
  issue (mkOp (.vst h d m) h .s (vs [d] ++ memRefs m) [] fun env c =>
    let a := (effAddr env c m).toNat
    withAccess c stores 64 64 [a] (done (storeBytes c a (byteSlice (env.v c d) 0 64)))) s

/-- A load of one lane per address, active lanes only; all of them checked first (R347). -/
def gatherLanes (c : Core) (ty : Ty) (m : Mask) (old : BitVec 512) (d : VReg) (ea : Nat → Nat) : Out :=
  let n := 512 / ty.width
  let k := ty.width / 8
  let mask := maskBits c m
  let as := ((List.range n).filter fun i => mask.getLsbD i).map ea
  withAccess c loads k k as
    (wvMasked c ty.width mask m.z old d ((List.range n).map fun i =>
      laneVal (if mask.getLsbD i then c.sram.readLE (ea i) k else 0)))

/-- A store of one lane per address, active lanes in ascending order; all of them checked first (R347). -/
def scatterLanes (c : Core) (ty : Ty) (m : Mask) (v : BitVec 512) (ea : Nat → Nat) : Out :=
  let n := 512 / ty.width
  let k := ty.width / 8
  let mask := maskBits c m
  let live := (List.range n).filter fun i => mask.getLsbD i
  withAccess c stores k k (live.map ea)
    (done { c with sram := live.foldl (fun mem i => mem.writeLE (ea i) k (lane ty.width v i)) c.sram })

/-- The address of lane i of a strided access (R345). -/
def stridedAddr (base stride : Word) (i : Nat) : Nat := (base + BitVec.ofNat 64 i * stride).toNat

/-- The address of lane i of a gathered access (R346). -/
def gatherAddr (ty : Ty) (base : Word) (off : BitVec 512) (scale : BitVec 2) (i : Nat) : Nat :=
  (base.toNat + lane ty.width off i * 2 ^ scale.toNat) % 2 ^ 64

/-- The mask register of a store. -/
def storeMaskRefs (m : Mask) : List RegRef := if m.k = 0 then [] else [.f m.k.toNat]

/-- VLDS (R345). -/
def execVlds (h : Hdr) (ty : Ty) (d : VReg) (base stride : Reg) (m : Mask) (s : State) :
    Host.Outcome State Fault Refusal :=
  issue (mkOp (.vlds h ty d base stride m) h .l (xs [base, stride] ++ maskRefs m (.v d.toNat)) (vs [d]) fun env c =>
    gatherLanes c ty m (env.v c d) d (stridedAddr (env.x c base) (env.x c stride))) s

/-- VSTS (R345). -/
def execVsts (h : Hdr) (ty : Ty) (d : VReg) (base stride : Reg) (m : Mask) (s : State) :
    Host.Outcome State Fault Refusal :=
  issue (mkOp (.vsts h ty d base stride m) h .s (xs [base, stride] ++ vs [d] ++ storeMaskRefs m) [] fun env c =>
    scatterLanes c ty m (env.v c d) (stridedAddr (env.x c base) (env.x c stride))) s

/-- VGATH (R346). -/
def execVgath (h : Hdr) (ty : Ty) (d : VReg) (base : Reg) (off : VReg) (scale : BitVec 2) (m : Mask) (s : State) :
    Host.Outcome State Fault Refusal :=
  issue (mkOp (.vgath h ty d base off scale m) h .l (xs [base] ++ vs [off] ++ maskRefs m (.v d.toNat)) (vs [d])
    fun env c => gatherLanes c ty m (env.v c d) d (gatherAddr ty (env.x c base) (env.v c off) scale)) s

/-- VSCAT (R346). -/
def execVscat (h : Hdr) (ty : Ty) (d : VReg) (base : Reg) (off : VReg) (scale : BitVec 2) (m : Mask) (s : State) :
    Host.Outcome State Fault Refusal :=
  issue (mkOp (.vscat h ty d base off scale m) h .s (xs [base] ++ vs [off, d] ++ storeMaskRefs m) []
    fun env c => scatterLanes c ty m (env.v c d) (gatherAddr ty (env.x c base) (env.v c off) scale)) s

/-! ## Moves and permutes (R349, R350) -/

/-- VBCAST (R349). -/
def execVbcast (h : Hdr) (ty : Ty) (d : VReg) (a : Reg) (m : Mask) (s : State) : Host.Outcome State Fault Refusal :=
  issue (laneOp (.vbcast h ty d a m) h ty.width d m (xs [a]) fun env c _ =>
    laneVal ((env.x c a).toNat % 2 ^ ty.width)) s

/-- VEXTR: one lane into x[D] (R349). -/
def execVextr (h : Hdr) (ty : Ty) (d : Reg) (a : VReg) (k : BitVec 5) (s : State) : Host.Outcome State Fault Refusal :=
  issue (mkOp (.vextr h ty d a k) h .l (vs [a]) (xs [d]) fun env c =>
    wxF c d (cvtBits ty (laneVal (lane ty.width (env.v c a) k.toNat)))) s

/-- VINSR: one lane from x[S1], the others kept (R349). -/
def execVinsr (h : Hdr) (ty : Ty) (d : VReg) (a : Reg) (k : BitVec 5) (s : State) : Host.Outcome State Fault Refusal :=
  issue (mkOp (.vinsr h ty d a k) h .l (xs [a] ++ vs [d]) (vs [d]) fun env c =>
    let old := env.v c d
    .ok { core := c, dests := [.v d.toNat (packV ty.width ((List.range (512 / ty.width)).map fun i =>
            if i = k.toNat then (env.x c a).toNat % 2 ^ ty.width else lane ty.width old i))] }) s

/-- VPERM (R349). -/
def execVperm (h : Hdr) (ty : Ty) (d a b : VReg) (m : Mask) (s : State) : Host.Outcome State Fault Refusal :=
  issue (laneOp (.vperm h ty d a b m) h ty.width d m (vs [a, b]) fun env c i =>
    laneVal (lane ty.width (env.v c a) (lane ty.width (env.v c b) i % (512 / ty.width)))) s

/-- Lane j of two registers, one after the other (R349). -/
def pairLane (w : Nat) (a b : BitVec 512) (j : Nat) : Nat := if j < 512 / w then lane w a j else lane w b (j - 512 / w)

/-- VSHUF (R349). -/
def execVshuf (h : Hdr) (ty : Ty) (d a b cr : VReg) (m : Mask) (s : State) : Host.Outcome State Fault Refusal :=
  issue (laneOp (.vshuf h ty d a b cr m) h ty.width d m (vs [a, b, cr]) fun env c i =>
    laneVal (pairLane ty.width (env.v c a) (env.v c b) (lane ty.width (env.v c cr) i % (2 * (512 / ty.width))))) s

/-- VSLIDE (R349). -/
def execVslide (h : Hdr) (ty : Ty) (d a b : VReg) (k : BitVec 5) (m : Mask) (s : State) :
    Host.Outcome State Fault Refusal :=
  issue (laneOp (.vslide h ty d a b k m) h ty.width d m (vs [a, b]) fun env c i =>
    laneVal (pairLane ty.width (env.v c a) (env.v c b) (i + k.toNat))) s

/-- VMOV (R349). -/
def execVmov (h : Hdr) (ty : Ty) (d a : VReg) (m : Mask) (s : State) : Host.Outcome State Fault Refusal :=
  issue (laneOp1 (.vmov h ty d a m) h ty d a m laneVal) s

/-- VIOTA (R349). -/
def execViota (h : Hdr) (ty : Ty) (d : VReg) (a b : Reg) (m : Mask) (s : State) : Host.Outcome State Fault Refusal :=
  issue (laneOp (.viota h ty d a b m) h ty.width d m (xs [a, b]) fun env c i =>
    laneVal (((env.x c a).toNat + i * (env.x c b).toNat) % 2 ^ ty.width)) s

/-- VMASK: functions of mask registers (R350). -/
def execVmask (h : Hdr) (op : MaskOp) (d : Reg) (a b : FReg) (s : State) : Host.Outcome State Fault Refusal :=
  let toX := op == .popc || op == .first
  let two := op == .and || op == .or || op == .xor || op == .andn
  issue (mkOp (.vmask h op d a b) h .l (.f a.toNat :: if two then [.f b.toNat] else [])
      (if toX then xs [d] else [.f d.toNat]) fun _ c =>
    let x := readFm c a.toNat
    let y := readFm c b.toNat
    let out := fun v => Out.ok { core := c, dests := [.f d.toNat v] }
    match op with
    | .and => out (x &&& y)
    | .or => out (x ||| y)
    | .xor => out (x ^^^ y)
    | .andn => out (x &&& ~~~y)
    | .not => out (~~~x)
    | .popc => wx c d (BitVec.ofNat 64 (popcN 16 x.toNat))
    | .first => wx c d (BitVec.ofNat 64 (ctzN 16 x.toNat))) s

/-! ## Dot products, matrix step, random numbers (R351 to R354) -/

/-- VDOT: four dot products of FP8 elements; lanes 4 to 15 are 0 (R351). -/
def execVdot (h : Hdr) (e5 : Bool) (d a b : VReg) (m : Mask) (s : State) : Host.Outcome State Fault Refusal :=
  let ty : Ty := if e5 then .e5m2 else .e4m3
  issue (mkOp (.vdot h e5 d a b m) h .l (vs [a, b] ++ maskRefs m (.v d.toNat)) (vs [d]) fun env c =>
    let mask := maskBits c m
    let r := fun k =>
      dot16 ty ((List.range 16).map fun e => lane 8 (env.v c a) (16 * k + e))
        ((List.range 16).map fun e => lane 8 (env.v c b) (16 * k + e))
    let old := env.v c d
    let out := (List.range 16).map fun k => if k < 4 then maskLane (mask.getLsbD k) m.z (lane 32 old k) (r k).bits else 0
    let live := (List.range 4).filter fun k => mask.getLsbD k
    .ok { core := c, dests := [.v d.toNat (packV 32 out)], flags := live.foldl (fun f k => f ||| (r k).flags) 0 }) s

/-- VDOTI: a group sum of four bytes into each 32-bit lane (R352). -/
def execVdoti (h : Hdr) (uns sat : Bool) (d a b cr : VReg) (m : Mask) (s : State) : Host.Outcome State Fault Refusal :=
  let ty : Ty := if uns then .n32 else .i32
  let ety : Ty := if uns then .n8 else .i8
  issue (laneOp (.vdoti h uns sat d a b cr m) h 32 d m (vs [a, b, cr]) fun env c i =>
    let g := (List.range 4).foldl (fun (acc : Int) k =>
      acc + tyReadInt ety (lane 8 (env.v c a) (4 * i + k)) * tyReadInt ety (lane 8 (env.v c b) (4 * i + k))) 0
    intLane ty sat (tyReadInt ty (lane 32 (env.v c cr) i) + g)) s

/-- Element (i, j) of a 4 × 4 FP64 matrix in two registers (R353). -/
def matEl (env : Env) (c : Core) (r : VReg) (i j : Nat) : Nat :=
  lane 64 (readV c env.ctx (r.toNat + i / 2)) (4 * (i % 2) + j)

/-- The chain of four fused steps of one element (R206). -/
def fmaChain (rm : RM) : List (Nat × Nat) → FRes → FRes
  | [], acc => acc
  | (x, y) :: ps, acc =>
    let r := fmaF .f64 rm (readF .f64 x) (readF .f64 y) (readF .f64 acc.bits)
    fmaChain rm ps ⟨r.bits, acc.flags ||| r.flags, 0⟩

/-- DMMA: D := A · B + C on 4 × 4 FP64 matrices (R353). -/
def execDmma (h : Hdr) (d a b cr : VReg) (rm : RM) (s : State) : Host.Outcome State Fault Refusal :=
  issue { mkOp (.dmma h d a b cr rm) h .l (vgroup 2 a ++ vgroup 2 b ++ vgroup 2 cr) (vgroup 2 d) (fun env c =>
            let el := fun (i j : Nat) =>
              fmaChain rm ((List.range 4).map fun k => (matEl env c a i k, matEl env c b k j)) ⟨matEl env c cr i j, 0, 0⟩
            let row := fun (q : Nat) => (List.range 8).map fun l => el (2 * q + l / 4) (l % 4)
            let fl := (row 0 ++ row 1).foldl (fun f r => f ||| r.flags) 0
            .ok { core := c, flags := fl,
                  dests := [.v d.toNat (packV 64 ((row 0).map (·.bits))), .v (d.toNat + 1) (packV 64 ((row 1).map (·.bits)))] }) with
          groups := [vgroup 2 d, vgroup 2 a, vgroup 2 b, vgroup 2 cr] } s

/-- VRNG: Philox4x32-10 over each lane-quad (R354). -/
def execVrng (h : Hdr) (d : VReg) (k : Reg) (cr : VReg) (s : State) : Host.Outcome State Fault Refusal :=
  issue (mkOp (.vrng h d k cr) h .l (xs [k] ++ vs [cr]) (vs [d]) fun env c =>
    let key := (env.x c k).toNat
    let v := env.v c cr
    let quad := fun (j : Nat) =>
      let r := philox 10 (lane 32 v (4 * j)) (lane 32 v (4 * j + 1)) (lane 32 v (4 * j + 2)) (lane 32 v (4 * j + 3))
        (key % 2 ^ 32) (key >>> 32)
      [r.1, r.2.1, r.2.2.1, r.2.2.2]
    .ok { core := c, dests := [.v d.toNat (packV 32 ((List.range 4).flatMap quad))] }) s

end Sys2Proof.Machine
end

