-- ==== Sys2Proof/Machine/Block.lean ====
section
/-! DEFINITION. Block instructions: conversion into the nested block format, inspection, unpacking, rounding, realignment,
serial checks, statistics and the resolving of partial sums (R356 to R365). -/

namespace Sys2Proof.Machine

/-- The block in a vector register (R356). -/
def blockIn (v : BitVec 512) : Block := v.extractLsb' 0 320
/-- A vector register that holds a block: its upper bytes 0 (R356). -/
def blockReg (b : Block) : BitVec 512 := b.setWidth 512

/-- A format code of R143 with bit 63 set. -/
def codeVal (n : Nat) : Word := BitVec.ofNat 64 (2 ^ 63 + n)

/-- A body that reads a block from a register: E = 255 traps (R189, R356). -/
def withBlock (v : BitVec 512) (k : Block → Out) : Out :=
  let b := blockIn v
  if b.E = 255 then .trap eFormat (codeVal 15) else k b

/-- The concatenation of n vector registers from a base. -/
def groupBits (env : Env) (c : Core) (r : VReg) (n : Nat) : Nat :=
  (List.range n).foldl (fun acc k => acc + (readV c env.ctx (r.toNat + k)).toNat * 2 ^ (512 * k)) 0

/-- The data of a source group: element e at bits ws·e and on (R358). -/
def groupData (src : Ty) (bits n : Nat) : List FVal :=
  (List.range n).map fun e => readF src (fieldN bits (src.width * e) src.width)

/-- The codes of a source group. -/
def groupCodes (src : Ty) (bits n : Nat) : List Nat := (List.range n).map fun e => fieldN bits (src.width * e) src.width

/-- BCVT (R190, R191, R358). -/
def execBcvt (h : Hdr) (src : Ty) (g : GroupSize) (tab : Bool) (d a : VReg) (x : Reg) (s : State) :
    Host.Outcome State Fault Refusal :=
  let n := blockSrcRegs src g
  issue (mkOp (.bcvt h src g tab d a x) h .l (vgroup n a ++ xs [x]) (vgroup (g.count / 32) d) fun env c =>
    let w := env.x c x
    let etab := wfield w 8 8
    let bits := groupBits env c a n
    if tab && (etab == 0 || etab == 255) then .trap eFormat (codeVal etab)
    else
      let data := groupData src bits g.count
      let r :=
        if src = .e2m1 then
          let m := mxBlock (wfield w 16 8) (wfield w 0 8) (groupCodes src bits 32)
          ([m.1], m.2)
        else blocksOf (if tab then etab else dynE data) (wfield w 0 8) (g.count / 32) data
      .ok { core := c, dests := r.1.zipIdx.map fun b => .v (d.toNat + b.2) (blockReg b.1), counts := r.2 }) s

/-- BEXP: the exponent that dynamic mode would choose (R359). -/
def execBexp (h : Hdr) (src : Ty) (g : GroupSize) (d : Reg) (a : VReg) (s : State) : Host.Outcome State Fault Refusal :=
  let n := blockSrcRegs src g
  issue (mkOp (.bexp h src g d a) h .l (vgroup n a) (xs [d]) fun env c =>
    wx c d (BitVec.ofNat 64 (dynE (groupData src (groupBits env c a n) g.count)))) s

/-- The FP32 code of a block's element, exact (R188); a zero block gives +0. -/
def unpackElem (b : Block) (k i : Nat) : Nat :=
  match b.value k i with
  | .fin n m e => (roundF .f32 .rne n m e false).bits
  | _ => 0

/-- BUNP (R360). -/
def execBunp (h : Hdr) (p : Planes) (d a : VReg) (s : State) : Host.Outcome State Fault Refusal :=
  issue { mkOp (.bunp h p d a) h .l (vs [a]) (vgroup 2 d) (fun env c =>
            withBlock (env.v c a) fun b =>
              let elems := (List.range 32).map (unpackElem b (planeCount p))
              .ok { core := c, dests := [.v d.toNat (packV 32 (elems.take 16)), .v (d.toNat + 1) (packV 32 (elems.drop 16))] }) with
          groups := [vs [a], vgroup 2 d] } s

/-- A block's magnitude rounded to k planes, and whether it clamps (R361). -/
def roundMag (k m : Nat) : Int × Nat :=
  let r := satcnt (rneScaled m ((k : Int) - 8)) 0 (2 ^ k - 1)
  (r.1 * 2 ^ (8 - k), r.2)

/-- BSAT (R361). -/
def execBsat (h : Hdr) (p : Planes) (d a : VReg) (s : State) : Host.Outcome State Fault Refusal :=
  issue (mkOp (.bsat h p d a) h .l (vs [a]) (vs [d]) fun env c =>
    withBlock (env.v c a) fun b =>
      if b.E = 0 then .ok { core := c, dests := [.v d.toNat (blockReg b)] }
      else
        let ms := b.mags.map (roundMag (planeCount p))
        .ok { core := c, dests := [.v d.toNat (blockReg (b.withMags b.E (ms.map fun m => m.1.toNat)))],
              counts := ⟨ms.foldl (fun n m => n + m.2) 0, 0, 0⟩ }) s

/-- BALIGN (R362). -/
def execBalign (h : Hdr) (d a : VReg) (x : Reg) (s : State) : Host.Outcome State Fault Refusal :=
  issue (mkOp (.balign h d a x) h .l (vs [a] ++ xs [x]) (vs [d]) fun env c =>
    let e' := wfield (env.x c x) 0 8
    if e' = 0 || e' = 255 then .trap eFormat (codeVal e')
    else
      withBlock (env.v c a) fun b =>
        if b.E = 0 then .ok { core := c, dests := [.v d.toNat (blockReg b)] }
        else
          let ms := b.mags.map fun (m : Nat) =>
            if b.E ≤ e' then (align (m : Int) (e' - b.E : Nat), 0) else satcnt ((m : Int) * 2 ^ (b.E - e')) 0 255
          let ufl := ((b.mags.zip ms).filter fun p => p.1 != 0 && p.2.1 == 0).length
          .ok { core := c, dests := [.v d.toNat (blockReg (b.withMags e' (ms.map fun m => m.1.toNat)))],
                counts := ⟨ms.foldl (fun n m => n + m.2) 0, 0, ufl⟩ }) s

/-- BCHK (R363). -/
def execBchk (h : Hdr) (a b : Reg) (s : State) : Host.Outcome State Fault Refusal :=
  issue (mkOp (.bchk h a b) h .s (xs [a, b]) [] fun env c =>
    let hd := env.x c a
    let found := wfield hd 24 8
    let want := wfield (env.x c b) 0 8
    if wfield hd 0 8 = 255 then .trap eFormat (codeVal 15)
    else if found ≠ want then .trap eSkew (BitVec.ofNat 64 (found + 256 * want))
    else done c) s

/-- The counters of a core before the results written in the present cycle (R193, R382). -/
def countsBefore (c : Core) : BitVec 32 × BitVec 32 × BitVec 32 :=
  if (landedNow c).results.isEmpty then (c.sys.satcnt, c.sys.nancnt, c.sys.uflcnt) else (landedNow c).counts

/-- What the results written in the present cycle, of any context, add to a counter. -/
def addedNow (c : Core) (f : Nat × Nat × Nat → Nat) : Nat := (landedNow c).results.foldl (fun n r => n + f r.2.2) 0

/-- The system registers of a core whose counters are cleared: what lands in this cycle is applied after it (R193, R382). -/
def clearCounts (c : Core) : Sys :=
  { c.sys with satcnt := bump32 0 (addedNow c (·.1)), nancnt := bump32 0 (addedNow c (·.2.1)),
               uflcnt := bump32 0 (addedNow c (·.2.2)) }

/-- The STAT flit of a core's counters (R163). -/
def statFlit (env : Env) (c : Core) : List Flit :=
  let dst := statSinkAt env.launch
  messageFlits 30 11 dst.1 dst.2 false env.row env.col
    [payloadOf [(0, (countsBefore c).1.toNat), (4, (countsBefore c).2.1.toNat), (8, (countsBefore c).2.2.toNat), (12, 1),
                (16, match env.launch with | some l => l.num % 4096 | none => 0)]]

/-- BSTAT: the counters are sent and cleared, and what results written in its cycle add to them is applied after the clear; it
stalls while the class-30 output of its router towards the sink cannot accept a flit (R193, R364, R382). -/
def execBstat (h : Hdr) (s : State) : Host.Outcome State Fault Refusal :=
  issue (mkOp (.bstat h) h .s [] [] fun env c =>
    if env.statFree then
      done { send c 30 (statFlit env c) with sys := clearCounts c }
    else .stall) s

/-- The FP32 value of a partial-sum lane under an exponent (R202). -/
def resolveLane (s c : Nat) (e : Int) : FRes :=
  let v := laneSum (BitVec.ofNat 32 s) (BitVec.ofNat 32 c)
  roundF .f32 .rne (decide (v < 0)) v.natAbs e false

/-- BNORM (R202, R365). -/
def execBnorm (h : Hdr) (d a : VReg) (x : Reg) (m : Mask) (s : State) : Host.Outcome State Fault Refusal :=
  issue { mkOp (.bnorm h d a x m) h .l (vgroup 2 a ++ xs [x] ++ maskRefs m (.v d.toNat)) (vs [d]) (fun env c =>
            let bits := groupBits env c a 2
            let e := sext (wfield (env.x c x) 0 10) 10
            wvMasked c 32 (maskBits c m) m.z (env.v c d) d
              ((List.range 16).map fun l => resolveLane (fieldN bits (64 * l) 32) (fieldN bits (64 * l + 32) 32) e)) with
          groups := [vgroup 2 a, vs [d]] } s

end Sys2Proof.Machine
end

