-- ==== Sys2Proof/Machine/Control.lean ====
section
/-! DEFINITION. Control flow: branches, jumps, hardware loops, traps on request, tasks and gangs (R292 to R302), and the
fate of a word that is no instruction (R281). -/

namespace Sys2Proof.Machine

/-- NOP (R281): no effect. -/
def execNop (s : State) : Host.Outcome State Fault Refusal :=
  issue { h := Hdr.plain, word := 0, body := fun _ c => done c } s

/-- A word that is no instruction traps with its fate and the word (R281, R143). -/
def execUndefinedInstruction (w : Word) (f : Fate) (s : State) : Host.Outcome State Fault Refusal :=
  let code := match f with | .illegal => eIllegal | .reserved => eRsv
  issue { h := Hdr.plain, word := w, body := fun _ _ => .trap code w } s

/-! ## Branches and jumps (R292 to R294) -/

/-- The target of a format B branch (R276). -/
def branchTarget (a : BitVec 16) (off : BitVec 32) : BitVec 16 := a + (off <<< 3).setWidth 16

/-- A branch that is taken or not. -/
def branchIf (c : Core) (taken : Bool) (t : BitVec 16) : Out := if taken then .ok { core := c, jump := some t } else done c

/-- The core that decides a branch: a gang's leader, or the core itself (R301). -/
def decider (env : Env) (c : Core) : Core := env.lead.getD c

/-- BR: always taken. -/
def execBr (h : Hdr) (off : BitVec 32) (s : State) : Host.Outcome State Fault Refusal :=
  issue (mkOp (.br h off) h .s [] [] fun env c => branchIf c true (branchTarget env.a off)) s

/-- BRC: taken when the condition holds of x[S1] and x[S2]. -/
def execBrc (h : Hdr) (cc : Cond) (a b : Reg) (off : BitVec 32) (s : State) : Host.Outcome State Fault Refusal :=
  issue (mkOp (.brc h cc a b off) h .s (xs [a, b]) [] fun env c =>
    let d := decider env c
    branchIf c (condHolds cc (env.x d a) (env.x d b)) (branchTarget env.a off)) s

/-- BRF: taken on any, all or none of the lanes of a mask. -/
def execBrf (h : Hdr) (t : MaskTest) (f : FReg) (off : BitVec 32) (s : State) : Host.Outcome State Fault Refusal :=
  issue (mkOp (.brf h t f off) h .s [.f f.toNat] [] fun env c =>
    let v := readFm (decider env c) f.toNat
    let taken := match t with | .any => v != 0 | .all => v == 0xFFFF | .none => v == 0
    branchIf c taken (branchTarget env.a off)) s

/-- GBR: the condition over every core of the gang (R301). -/
def execGbr (h : Hdr) (all : Bool) (cc : Cond) (a b : Reg) (off : BitVec 32) (s : State) : Host.Outcome State Fault Refusal :=
  issue (mkOp (.gbr h all cc a b off) h .s (xs [a, b]) [] fun env c =>
    let holds := fun m => condHolds cc (env.x m a) (env.x m b)
    let ms := if env.members.length ≤ 1 then [c] else env.members
    branchIf c (if all then ms.all holds else ms.any holds) (branchTarget env.a off)) s

/-- CALL: always taken; x62 holds the next address (R293). -/
def execCall (h : Hdr) (off : BitVec 32) (s : State) : Host.Outcome State Fault Refusal :=
  issue (mkOp (.call h off) h .s [] [.x 62] fun env c =>
    .ok { core := c, dests := [.x 62 ((env.a + 8).setWidth 64)], jump := some (branchTarget env.a off) }) s

/-- A jump to a register value (R294). -/
def jumpTo (c : Core) (t : Word) : Out :=
  if t.toNat % 8 ≠ 0 then .trap eAlign t
  else if 0x10000 ≤ t.toNat then .trap eBound t
  else .ok { core := c, jump := some (t.setWidth 16) }

/-- JMP: to x[S1]. -/
def execJmp (h : Hdr) (a : Reg) (s : State) : Host.Outcome State Fault Refusal :=
  issue (mkOp (.jmp h a) h .s (xs [a]) [] fun env c => jumpTo c (env.x (decider env c) a)) s

/-- RET: to x62. -/
def execRet (h : Hdr) (s : State) : Host.Outcome State Fault Refusal :=
  issue (mkOp (.ret h) h .s [.x 62] [] fun env c => jumpTo c (env.x (decider env c) 62)) s

/-- LOOP: arms a counter, or skips the body for a count of 0 (R296). -/
def execLoop (h : Hdr) (lc : Bool) (a : Reg) (off : BitVec 32) (s : State) : Host.Outcome State Fault Refusal :=
  let n := if lc then 1 else 0
  issue (mkOp (.loop h lc a off) h .s (xs [a]) [.lc n] fun env c =>
    let cnt := (env.x c a).setWidth 32
    let e := branchTarget env.a off
    if cnt = 0 then .ok { core := writeLc c n { readLc c n with count := 0 }, jump := some (e + 8) }
    else .ok { core := writeLc c n ⟨cnt, env.a + 8, e⟩, jump := some (env.a + 8) }) s

/-- TRAP: E_TRAP with the immediate, after the instruction (R297). -/
def execTrap (h : Hdr) (imm : BitVec 32) (s : State) : Host.Outcome State Fault Refusal :=
  issue (mkOp (.trap h imm) h .s [] [] fun _ _ => .request eTrap (imm.setWidth 64)) s

/-- BRK: E_BREAK with the immediate, after the instruction (R297). -/
def execBrk (h : Hdr) (imm : BitVec 5) (s : State) : Host.Outcome State Fault Refusal :=
  issue (mkOp (.brk h imm) h .s [] [] fun _ _ => .request eBreak (imm.setWidth 64)) s

/-! ## Tasks (R128, R298) -/

/-- The lowest queue register with a message open (R389). -/
def lowestOpen (c : Core) : Option Nat := (c.opens.head?).map (·.1)

/-- A body that R389 forbids while a message is open. -/
def unlessOpen (c : Core) (k : Out) : Out :=
  match lowestOpen c with
  | some q => .trap eQueue (BitVec.ofNat 64 q)
  | none => k

/-- A task instruction: E_PRIV in system mode, E_GANG in a gang member, E_HANDLER in a handler (R298, R299). -/
def taskOp (i : Instr) (h : Hdr) (body : Env → Core → Out) : Op :=
  { mkOp i h .b [] [] (fun env c => unlessOpen c (whenSettled env c (body env c))) with
    staticPriv := fun _ c => c.sys.mode, noHandler := true, gangBad := fun _ c => c.gang.isSome }

/-- TEND: the task gives up the core and starts again at its entry point (R128). -/
def execTend (h : Hdr) (s : State) : Host.Outcome State Fault Refusal :=
  issue (taskOp (.tend h) h fun _ c =>
    let entry := match c.running.bind (ffind c.tasks) with | some t => t.entry | none => 0
    .ok { core := giveUp c entry false, stays := true }) s

/-- TYIELD: the task gives up the core and is ready at once (R128). -/
def execTyield (h : Hdr) (s : State) : Host.Outcome State Fault Refusal :=
  issue (taskOp (.tyield h) h fun env c =>
    let n := nextPc c .main env.a
    .ok { core := giveUp n.1 n.2 true, stays := true }) s

/-- TWAIT: the task gives up the core until its binding holds (R128). -/
def execTwait (h : Hdr) (s : State) : Host.Outcome State Fault Refusal :=
  issue (taskOp (.twait h) h fun env c =>
    let n := nextPc c .main env.a
    .ok { core := giveUp n.1 n.2 false, stays := true }) s

/-- TASK_DISPATCH: a core with no running task runs the next ready one, unless it is halted, frozen, asleep, stopped by a fault of
its region or a gang member (R97, R129, R133, R328). -/
def execTaskDispatch (row col : Nat) (s : State) : Host.Outcome State Fault Refusal :=
  let k := keyOf row col
  let c := refreshReady (coreAt s k)
  if c.running.isSome || c.halted || c.resetting || c.frozen || c.draining || c.gang.isSome || c.sleep ≠ .awake || s.dev.stopped then .next s
  else
    match nextTask c with
    | none => .next s
    | some (n, t) => .next (setCore s k (dispatchTask c n t))

/-! ## Gangs (R300, R302) -/

/-- The aligned group a core belongs to (R300). -/
def groupOf (k : Nat) (block : Bool) : GangSt :=
  let n := if block then 4 else 2
  ⟨false, block, rowOf k / n * n, colOf k / n * n⟩

/-- Whether a core waits at a GANG of some size. -/
def atGang (c : Core) : Bool := match c.wait with | .gang _ => true | _ => false

/-- Whether a core waits at a GANG of the other size. -/
def atOther (block : Bool) (c : Core) : Bool := match c.wait with | .gang b => b != block | _ => false

/-- One member of a gang as it forms: every pending result written, past its GANG, at the leader's PC. -/
def joinGang (g : GangSt) (k : Nat) (pc : BitVec 16) (c : Core) : Core :=
  let c := settleAll c
  { advance { c with wait := .run, gang := some { g with leader := decide (k = keyOf g.row g.col) } } .main c.pc with pc := pc }

/-- E_GANG in cores that executed GANG, with the word each stands at, or 0 where it is another member's trap that keeps the gang from
forming; a core with a trap held for it, of a handler or of a watchpoint, takes that (R103, R134, R143, R330). -/
def refuseGang (s : State) (ks : List Nat) (word : Bool) : State :=
  ks.foldl (fun s k =>
    let c := coreAt s k
    if (heldBoundary c .main c.pc).isTrap then takeBoundary s k .main (heldBoundary c .main c.pc)
    else takeTrap s k ⟨eGang, if word then istoreWord c c.pc else 0, c.pc, c.pc, none, false⟩ c.pc) s

/-- What becomes of the cores that wait at GANG once a core has executed it: E_GANG for all of them when sizes differ, or
when a member lies outside the region, or when a trap meets a member as the last one executes it; a gang once every
member waits; else they go on waiting (R134, R300, R330). -/
def formGang (s : State) (k : Nat) (block : Bool) : State :=
  let g := groupOf k block
  let ks := gangKeys g
  let num := fun k => (launchOf s (rowOf k) (colOf k)).map (·.num)
  let near := (gangKeys (groupOf k true)).filter fun k' => atGang (coreAt s k')
  if near.any fun k' => atOther block (coreAt s k') then refuseGang s near true
  else if ks.any fun k' => num k' ≠ num k then refuseGang s (ks.filter fun k' => atGang (coreAt s k')) true
  else if ks.all fun k' => (coreAt s k').wait = .gang block then
    if ks.any fun k' => (heldBoundary (coreAt s k') .main (coreAt s k').pc).isTrap then refuseGang s ks false
    else
      let lead := coreAt s (keyOf g.row g.col)
      let pc := (nextPc lead .main lead.pc).2
      ks.foldl (fun s k' => modCore s k' (joinGang g k' pc)) s
  else s

/-- GANG: the core waits until every member of its group has executed GANG of the same size (R300). -/
def execGang (h : Hdr) (block : Bool) (s : State) : Host.Outcome State Fault Refusal :=
  let op : Op := { mkOp (.gang h block) h .b [] [] (fun env c => whenSettled env c (.wait c (.gang block))) with
                   noHandler := true, gangBad := fun _ c => c.gang.isSome }
  match issue op s with
  | .next t => .next (if (coreAt t t.focus).wait = .gang block && t.ctx = .main then formGang t t.focus block else t)
  | o => o

/-- SPLIT: once every pending result of every member is written, those of their handler contexts too, it dissolves the gang,
and every member goes on by itself (R302). -/
def execSplit (h : Hdr) (s : State) : Host.Outcome State Fault Refusal :=
  issue { mkOp (.split h) h .b [] [] (fun env c => whenSettled env c (.ok { core := leaveGang (settleAll c) })) with
          noHandler := true, gangBad := fun _ c => c.gang.isNone } s

end Sys2Proof.Machine
end

