-- ==== Sys2Proof/Machine/Checks.lean ====
section
/-! DEFINITION. The descriptor of a message and the checks that its target makes of it as its first flit arrives
(R115, R214, R216). -/

namespace Sys2Proof.Machine

/-! ## Descriptors and checks (R214 to R217) -/

/-- TOFF. -/
def dToff (f : Flit) : Nat := flitField f 0 4
/-- LEN. -/
def dLen (f : Flit) : Nat := flitField f 8 4
/-- TAG. -/
def dTag (f : Flit) : Nat := flitField f 12 2
/-- OP. -/
def dOp (f : Flit) : Nat := flitField f 14 1

/-- The fields of a descriptor by kind: byte offset and size (R214, R252). -/
def descFields (kind : Nat) : List (Nat × Nat) :=
  match kind with
  | 1 => [(0, 4), (8, 4), (12, 2), (32, 2)]
  | 2 => [(0, 4), (12, 2), (16, 8), (32, 2)]
  | 3 => [(0, 4), (4, 4), (8, 4), (12, 2), (32, 2)]
  | 4 => [(0, 4), (8, 4), (12, 2), (32, 2)]
  | 5 => [(0, 4), (8, 4), (12, 2), (14, 1), (32, 2), (34, 2)]
  | 6 => [(0, 4), (12, 2), (14, 1), (16, 8), (24, 8), (32, 2)]
  | 7 => [(12, 2), (16, 8)]
  | _ => [(0, 4), (4, 1), (5, 1), (6, 2), (8, 4), (12, 2), (16, 4), (20, 4), (24, 4), (28, 2)]

/-- Whether every byte outside the fields of its kind is 0. -/
def descClean (f : Flit) : Bool :=
  payloadOf ((descFields (flitKind f)).map fun p => (p.1, flitField f p.1 p.2)) == f.payload

/-- The launch number of a core's region (R117). -/
def ownGen (c : Core) : Nat := (c.sys.capself.extractLsb' 24 12).toNat

/-- Whether a core is power-gated (R328). -/
def isGated (c : Core) : Bool := c.sleep != .awake

/-- Whether a core's region is in SAVING. -/
def isSaving (s : State) (row col : Nat) : Bool :=
  match launchOf s row col with | some l => decide (l.st = .saving) | none => false

/-- The bytes that a message of kinds 1 to 7 reaches from TOFF on (R216). -/
def reachOf (f : Flit) : Nat :=
  match flitKind f with
  | 2 | 6 => 8
  | 7 => 0
  | _ => dLen f

/-- The code with which a target refuses a message as its first flit arrives, if it does: stale GEN, between the steps of a region
fault, frozen, asleep, out of range (R216). A core that has become unavailable since takes nothing (R115). -/
def refusal (s : State) (row col : Nat) (c : Core) (f : Flit) : Option Nat :=
  if flitForeign f && flitField f 32 2 != ownGen c then some 4
  else if c.resetting then some codeReset
  else if flitForeign f && (c.frozen || isSaving s row col) then some 3
  else if isGated c then some 1
  else if unavailable s.dev row col || decide (0x80000 < dToff f + reachOf f) || !descClean f then some 5
  else none

/-- A core with the verdict on the message whose first flit has arrived on a class, or the pantry that it is accepted for (R216, R261). -/
def noteVerdict (s : State) (row col cls : Nat) (c : Core) : Core :=
  match (fget c.rx cls []).head? with
  | some f =>
    if 1 ≤ flitKind f ∧ flitKind f ≤ 7 ∧ (ffind c.verdicts cls).isNone then
      { c with verdicts := fset c.verdicts cls (refusal s row col c f) }
    else acceptPush c cls
  | none => c

/-- The verdict on the message at the head of a class: the one noted as its first flit arrived. -/
def verdictOn (s : State) (row col cls : Nat) (c : Core) (f : Flit) : Option Nat :=
  (ffind c.verdicts cls).getD (refusal s row col c f)

end Sys2Proof.Machine
end

