-- ==== Sys2Proof/Machine/Frames.lean ====
section
/-! DEFINITION. Check codes (R34, R52, R57, R106) and the frames of a Poluri link (R32 to R34). -/

namespace Sys2Proof.Machine

/-! ## Check codes -/

/-- One bit of a reflected CRC. -/
def crcBit (poly c : BitVec 32) : BitVec 32 := if c.getLsbD 0 then (c >>> 1) ^^^ poly else c >>> 1

/-- One byte of a reflected CRC. -/
def crcByte (poly : BitVec 32) (c : BitVec 32) (b : Byte) : BitVec 32 :=
  (List.range 8).foldl (fun c _ => crcBit poly c) (c ^^^ b.setWidth 32)

/-- A reflected CRC with initial value and final XOR of all ones. -/
def crcOf (poly : BitVec 32) (bs : List Byte) : BitVec 32 := ~~~(bs.foldl (crcByte poly) 0xFFFF_FFFF)

/-- CRC-32C. -/
def crc32c (bs : List Byte) : BitVec 32 := crcOf 0x82F6_3B78 bs

/-- CRC-32 of IEEE 802.3 (R34). -/
def crc32 (bs : List Byte) : BitVec 32 := crcOf 0xEDB8_8320 bs

/-! ## Frames (R32 to R34) -/

/-- A frame: five beats of 256 bits, beat 0 lowest. -/
abbrev Frame := BitVec 1280

/-- The fields of a frame header (R33). -/
structure FrameHead where
  type : Nat
  seq : BitVec 12
  ackSeq : BitVec 12
  ackKind : Nat
  crCls : Nat
  crCnt : Nat
  deriving DecidableEq, Repr

/-- The header of a frame. -/
def frameHead (f : Frame) : FrameHead :=
  { type := (f.extractLsb' 0 4).toNat, seq := f.extractLsb' 4 12, ackSeq := f.extractLsb' 16 12,
    ackKind := (f.extractLsb' 28 2).toNat, crCls := (f.extractLsb' 30 5).toNat, crCnt := (f.extractLsb' 35 4).toNat }

/-- The flit sideband of a frame. -/
def frameSide (f : Frame) : BitVec 64 := f.extractLsb' 64 64

/-- The payload of a frame. -/
def framePayload (f : Frame) : BitVec 1024 := f.extractLsb' 128 1024

/-- The CRC-32 that a frame should carry: over its first 156 bytes (R34). -/
def frameCrc (f : Frame) : BitVec 32 := crc32 (byteSlice f 0 156)

/-- Whether a frame's CRC is right, its TYPE and ACKKIND not reserved (R33, R34). -/
def frameGood (f : Frame) : Bool :=
  let h := frameHead f
  f.extractLsb' 1248 32 == frameCrc f && decide (h.type < 4) && decide (h.ackKind < 3)

/-- A frame of a header, sideband and payload, with its CRC. -/
def makeFrame (h : FrameHead) (side : BitVec 64) (payload : BitVec 1024) : Frame :=
  let v := h.type + 2 ^ 4 * h.seq.toNat + 2 ^ 16 * h.ackSeq.toNat + 2 ^ 28 * h.ackKind + 2 ^ 30 * h.crCls + 2 ^ 35 * h.crCnt +
    2 ^ 64 * side.toNat + 2 ^ 128 * payload.toNat
  BitVec.ofNat 1280 (v + 2 ^ 1248 * (frameCrc (BitVec.ofNat 1280 v)).toNat)

end Sys2Proof.Machine
end

