-- ==== Sys2Proof/Machine/System.lean ====
section
/-! DEFINITION. System registers (R124 to R126), RDSYS, WRSYS, RETT, SLEEP and the narrowing of handles (R323 to R329). -/

namespace Sys2Proof.Machine

/-! ## System registers -/

/-- What a write of a system register comes to: the core after it, or a trap. -/
inductive SysWrite where
  | ok (c : Core)
  | trap (code : BitVec 8) (val : Word)
  deriving DecidableEq, Repr

/-- A write of descriptor n, checked where it leaves the descriptor valid (R126). -/
def writeSegment (c : Core) (n : Nat) (g : Segment) : SysWrite :=
  if g.valid && !segmentOk c n g then .trap eBound (BitVec.ofNat 64 (4096 * g.base.toNat)) else .ok (setSegment c n g)

/-- The flags of the results of other contexts that land in this cycle: they are applied after a write of FPFLAGS (R326). -/
def landedFlags (c : Core) : BitVec 5 :=
  (landedNow c).results.foldl (fun f r => if r.1 = .main then f else f ||| r.2.1) 0

/-- The counts of the results of other contexts that land in this cycle: they are applied after a write of a counter
(R326). -/
def landedCount (c : Core) (f : Nat × Nat × Nat → Nat) : Nat :=
  (landedNow c).results.foldl (fun n r => if r.1 = .main then n else n + f r.2.2) 0

/-- A write of system register n (R124 to R126, R325): reserved bits are ignored, registers written by hardware alone
ignore the write. What lands in its cycle from elsewhere, an event flag set or another context's flags and counts, is
applied after it (R326, R330). word is the instruction's word, for TRAPVAL. -/
def writeSys (c : Core) (n : Nat) (v word : Word) : SysWrite :=
  let sys := c.sys
  match n with
  | 0x000 => .ok { c with sys := { sys with pmode := v.getLsbD 1 } }
  | 0x001 => .ok { c with sys := { sys with vecen := v.getLsbD 0, vec := v.extractLsb' 3 13 } }
  | 0x003 => .ok (putEvents c (v.setWidth 32 ||| (landedNow c).sets))
  | 0x004 => .ok { c with sys := { sys with cause := v &&& causeMask } }
  | 0x005 => .ok { c with sys := { sys with trappc := v.extractLsb' 3 13 ++ 0#3 } }
  | 0x006 => .ok { c with sys := { sys with trapval := v } }
  | 0x008 => .ok { c with sys := { sys with fpflags := v.setWidth 5 ||| landedFlags c } }
  | 0x009 =>
    if sys.det && !v.getLsbD 0 then .trap eDet word else .ok { c with sys := { sys with precise := v.getLsbD 0 } }
  | 0x00E => .ok { c with sys := { sys with satcnt := bump32 (v.setWidth 32) (landedCount c (·.1)) } }
  | 0x00F => .ok { c with sys := { sys with nancnt := bump32 (v.setWidth 32) (landedCount c (·.2.1)) } }
  | 0x010 => .ok { c with sys := { sys with uflcnt := bump32 (v.setWidth 32) (landedCount c (·.2.2)) } }
  | 0x012 | 0x013 | 0x014 | 0x015 => .ok { c with sys := { sys with scratch := fset sys.scratch (n - 0x012) v } }
  | 0x018 | 0x019 | 0x01A | 0x01B | 0x01C | 0x01D | 0x01E | 0x01F =>
    writeSegment c (n - 0x018) { fget sys.seg (n - 0x018) {} with valid := v.getLsbD 0, base := v.extractLsb' 12 7 }
  | 0x020 | 0x021 | 0x022 | 0x023 | 0x024 | 0x025 | 0x026 | 0x027 =>
    if v.extractLsb' 32 3 = 7 then .trap eRsv word
    else
      writeSegment c (n - 0x020)
        { fget sys.seg (n - 0x020) {} with size := v.extractLsb' 12 8, span := v.extractLsb' 32 3 }
  | 0x028 | 0x029 | 0x02A | 0x02B => .ok { c with sys := { sys with dbgpc := fset sys.dbgpc (n - 0x028) (dbgpcOf v) } }
  | 0x02C | 0x02D => .ok { c with sys := { sys with dbgwa := fset sys.dbgwa (n - 0x02C) (dbgwaOf v) } }
  | _ => .ok c

/-- Registers that RDSYS may not read in user mode: SSCRATCH0 to SSCRATCH3 (R124). -/
def readPrivileged (n : Nat) : Bool := decide (0x012 ≤ n) && decide (n ≤ 0x015)
/-- Registers that WRSYS may write in user mode: FPFLAGS, HAZMODE and the three counters (R124). -/
def writeOpen (n : Nat) : Bool := n == 0x008 || n == 0x009 || (decide (0x00E ≤ n) && decide (n ≤ 0x010))
/-- Registers whose access waits for earlier results: FPFLAGS and the three counters (R326). -/
def waitsForResults (n : Nat) : Bool := n == 0x008 || (decide (0x00E ≤ n) && decide (n ≤ 0x010))

/-- Whether a long-latency instruction can raise a floating-point flag (R182, R184, R337). -/
def canFlag : Instr → Bool
  | .fadd .. | .fsub .. | .fmul .. | .fdiv .. | .fsqrt .. | .fmin .. | .fmax .. | .ffma .. | .fcvt .. | .fcmp .. => true
  | .vadd _ ty _ _ _ _ _ _ | .vsub _ ty _ _ _ _ _ _ | .vmul _ ty _ _ _ _ _ _ | .vminmax _ _ ty _ _ _ _ | .vcmp _ _ ty _ _ _ _
  | .vred _ _ ty _ _ _ _ | .vscan _ _ ty _ _ _ _ | .vabsneg _ _ ty _ _ _ _ => ty.isFloat
  | .vfma .. | .vdiv .. | .vsqrt .. | .vrcp .. | .vexp2 .. | .vcvt .. | .vdot .. | .dmma .. | .tcvt .. | .bnorm .. => true
  | _ => false

/-- Whether a tile load converts what it reads: a load of blocks or of INT8 rows counts nothing (R370, R371). -/
def tldConverts (fmt : Ty) : Bool := fmt != .nb && fmt != .i8

/-- Whether a long-latency instruction can add to SATCNT (R184, R190 to R192). -/
def canSat : Instr → Bool
  | .vadd _ _ _ _ _ _ sat _ | .vsub _ _ _ _ _ _ sat _ | .vmul _ _ _ _ _ _ sat _ | .vabsneg _ _ _ _ _ sat _
  | .fcvt _ _ _ _ _ _ sat | .vcvt _ _ _ _ _ _ _ sat _ | .vdoti _ _ sat _ _ _ _ _ | .tmmi _ sat _ _ _ => sat
  | .bcvt .. | .bsat .. | .balign .. | .tmma .. => true
  | .tld _ _ _ _ _ fmt _ _ _ => tldConverts fmt
  | _ => false

/-- Whether a long-latency instruction can add to NANCNT (R190, R191). -/
def canNan : Instr → Bool
  | .bcvt .. => true
  | .tld _ _ _ _ _ fmt _ _ _ => tldConverts fmt
  | _ => false

/-- Whether a long-latency instruction can add to UFLCNT (R190, R361). -/
def canUfl : Instr → Bool
  | .bcvt _ src .. => src != .e2m1
  | .balign .. => true
  | .tld _ _ _ _ _ fmt _ _ _ => tldConverts fmt && fmt != .e2m1
  | _ => false

/-- Whether the instruction of a pending result can change system register n, one of FPFLAGS and the counters; the members
of a gang run their leader's words (R301, R326). -/
def canChange (n : Nat) (env : Env) (c : Core) (p : Pending) : Bool :=
  match decode (istoreWord (env.lead.getD c) p.fpc) with
  | .ok i => if n == 0x008 then canFlag i else if n == 0x00E then canSat i else if n == 0x00F then canNan i else canUfl i
  | .error _ => true

/-- A body that first waits until the context's earlier results that can change its register are written (R326). -/
def afterResults (n : Nat) (env : Env) (c : Core) (k : Out) : Out :=
  match if waitsForResults n then (pendingOf c env.ctx).find? fun p => p.late.isNone && canChange n env c p else none with
  | some p => .await p
  | none => k

/-- RDSYS (R324): a read of ECCCNT clears it (R102). -/
def execRdsys (h : Hdr) (d : Reg) (sys : BitVec 12) (s : State) : Host.Outcome State Fault Refusal :=
  issue { mkOp (.rdsys h d sys) h .s [] (xs [d]) (fun env c =>
            afterResults sys.toNat env c (
              let v := readSys c env.cycle sys.toNat
              let c := if sys = 0x011 then { c with sys := { c.sys with ecccnt := 0 } } else c
              wx c d v)) with
          staticPriv := fun _ c => !c.sys.mode && readPrivileged sys.toNat } s

/-- WRSYS (R325). -/
def execWrsys (h : Hdr) (a : Reg) (sys : BitVec 12) (s : State) : Host.Outcome State Fault Refusal :=
  issue { mkOp (.wrsys h a sys) h .s (xs [a]) [] (fun env c =>
            afterResults sys.toNat env c (
              match writeSys c sys.toNat (env.x c a) env.word with
              | .ok c => done c
              | .trap code v => .trap code v)) with
          staticPriv := fun _ c => !c.sys.mode && !writeOpen sys.toNat, noHandler := true,
          detBad := fun env c => decide (sys = 0x009) && c.sys.det && !(env.x c a).getLsbD 0,
          rsvReads := if 0x020 ≤ sys.toNat ∧ sys.toNat ≤ 0x027 then xs [a] else [],
          dynRsv := fun env c =>
            decide (0x020 ≤ sys.toNat) && decide (sys.toNat ≤ 0x027) && (env.x c a).extractLsb' 32 3 == 7 } s

/-- RETT: the return from a trap, in system mode only (R327). -/
def execRett (h : Hdr) (s : State) : Host.Outcome State Fault Refusal :=
  issue { mkOp (.rett h) h .s [] [] (fun _ c => .ok { core := trapReturn c, stays := true }) with
          staticPriv := fun _ c => !c.sys.mode, noHandler := true, gangBad := fun _ c => c.gang.isSome } s

/-! ## SLEEP (R328) -/

/-- Whether a delivery of kind 15 is held for a core (R328). -/
def heldBurst (c : Core) : Bool := c.rx.any fun q => match q.2 with | f :: _ => flitKind f == 15 | [] => false

/-- A wake condition of SLEEP: a task is ready, a drain marker has arrived, or a delivery of kind 15 is held (R328). -/
def wakes (c : Core) : Bool := (nextTask (refreshReady c)).isSome || !c.markers.isEmpty || heldBurst c

/-- Whether a core has nothing of its own outstanding: no status word, no capability answer, no handler, no burst
(R328, R392). -/
def nothingOutstanding (c : Core) : Bool :=
  c.ops.isEmpty && c.breads.isEmpty && c.caps.isEmpty && c.bursts.isEmpty && !c.handlers.any fun h => h.2.busy

/-- Whether a message of kinds 1 to 7 is being delivered into a core (R216). -/
def delivering (c : Core) : Bool :=
  c.rx.any fun q => match q.2 with | f :: _ => decide (1 ≤ flitKind f) && decide (flitKind f ≤ 7) | [] => false

/-- SLEEP: waits for the core's own work, then gates it from the first cycle with no inbound message in delivery; a wake
condition that holds already prevents the gating (R328). -/
def execSleep (h : Hdr) (a : Reg) (s : State) : Host.Outcome State Fault Refusal :=
  issue { mkOp (.sleep h a) h .b (xs [a]) [] (fun env c =>
            unlessOpen c (
              if c.pending.any fun p => p.ctx = env.ctx then whenSettled env c (done c)
              else if !c.pending.isEmpty || !nothingOutstanding c || delivering c then .stall
              else if wakes c then done c
              else done { c with sleep := .gated env.cycle (env.x c a).toNat })) with
          noHandler := true, gangBad := fun _ c => c.gang.isSome } s

/-! ## Handles (R116 to R119, R329) -/

/-- The seal of a handle is right (R116). -/
def sealOk (key : Nat) (h : Word) : Bool := h.extractLsb' 0 24 == Config.sealOf key (h.extractLsb' 24 40)

/-- EXT of a handle (R116). -/
def extOf (h : Word) : Nat := (h.extractLsb' 40 7).toNat

/-- The rectangle of a handle: first and last-plus-one rows and columns, clipped to the grid (R116). -/
def handleRect (h : Word) : Nat × Nat × Nat × Nat :=
  let r := (h.extractLsb' 56 8).toNat
  let c := (h.extractLsb' 47 9).toNat
  (r, min (r + 2 ^ (extOf h / 10)) 224, c, min (c + 2 ^ (extOf h % 10)) 384)

/-- Whether a coordinate lies in a handle's rectangle. -/
def inRect (h : Word) (row col : Nat) : Bool :=
  let r := handleRect h
  decide (r.1 ≤ row) && decide (row < r.2.1) && decide (r.2.2.1 ≤ col) && decide (col < r.2.2.2)

/-- The narrowing of a handle, where every check of R118 passes. -/
def narrow (key : Nat) (h n : Word) : Option Word :=
  let a := handleRect h
  let b := handleRect n
  let rights : BitVec 4 := n.extractLsb' 36 4 &&& ~~~(h.extractLsb' 36 4)
  if !sealOk key h then none
  else if decide (90 ≤ extOf n) || decide (223 < (n.extractLsb' 56 8).toNat) || decide (383 < (n.extractLsb' 47 9).toNat) then none
  else if !(decide (a.1 ≤ b.1) && decide (b.2.1 ≤ a.2.1) && decide (a.2.2.1 ≤ b.2.2.1) && decide (b.2.2.2 ≤ a.2.2.2)) then none
  else if rights != 0 then none
  else
    let top : BitVec 40 := n.extractLsb' 36 28 ++ h.extractLsb' 24 12
    some (top ++ Config.sealOf key top)

/-- CAPNAR: a narrowed handle, or E_SEAL with the handle (R329). -/
def execCapnar (h : Hdr) (d a b : Reg) (s : State) : Host.Outcome State Fault Refusal :=
  issue (mkOp (.capnar h d a b) h .s (xs [a, b]) (xs [d]) fun env c =>
    match narrow env.dev.sealKey (env.x c a) (env.x c b) with
    | some v => wx c d v
    | none => .trap eSeal (env.x c a)) s

end Sys2Proof.Machine
end

