-- ==== Sys2Proof/Machine/Tensor.lean ====
section
/-! DEFINITION. Tensor instructions: operand slots, tile loads, the products of the array, accumulator access, per-channel
rescale, and partial sums into and out of the fabric (R366 to R380). -/

namespace Sys2Proof.Machine

/-! ## Slots (R366, R368) -/

/-- A map of the entries of a list that a test keeps, keyed by place. -/
def mapOf {α : Type} (keep : α → Bool) (l : List α) : FMap α := (l.zipIdx.filter fun p => keep p.1).map fun p => (p.2, p.1)

/-- Row i of a slot. -/
def slotRow (t : Slot) (i : Nat) : Block := fget t.rows i 0

/-- The rows of a slot. -/
def slotRows (t : Slot) : List Block := (List.range 16).map (slotRow t)

/-- A slot with its rows given. -/
def slotOf (i8 : Bool) (p : Planes) (rows : List Block) : Slot :=
  { claimed := true, i8 := i8, planes := p, rows := mapOf (· != 0) rows }

/-- A tensor instruction: not for handler contexts (R132, R367). -/
def tensorOp (i : Instr) (h : Hdr) (cls : LaClass) (reads writes : List RegRef) (body : Env → Core → Out) : Op :=
  { mkOp i h cls reads writes body with noHandler := true }

/-- The lowest unclaimed slot of a list. -/
def unclaimed (c : Core) (ts : List Nat) : Option Nat := (List.range 8).find? fun n => ts.contains n && !(readSlot c n).claimed

/-- A body that needs its slots claimed (R368). -/
def withSlots (c : Core) (ts : List Nat) (k : Out) : Out :=
  match unclaimed c ts with
  | some n => .trap eSlot (BitVec.ofNat 64 n)
  | none => k

/-- TCLM (R368). -/
def execTclm (h : Hdr) (t : BitVec 3) (s : State) : Host.Outcome State Fault Refusal :=
  issue (tensorOp (.tclm h t) h .s [] [.t t.toNat] fun _ c =>
    if (readSlot c t.toNat).claimed then .trap eSlot (t.setWidth 64)
    else .ok { core := c, dests := [.t t.toNat (slotOf false .p8 [])] }) s

/-- Whether a slot has a load still to be written. -/
def slotPending (c : Core) (ctx : Ctx) (n : Nat) : Bool := (pendingOf c ctx).any fun p => p.late.isNone && p.touches [.t n]

/-- TREL: waits for a pending load into its slot, which is no hazard (R368). -/
def execTrel (h : Hdr) (t : BitVec 3) (s : State) : Host.Outcome State Fault Refusal :=
  issue (tensorOp (.trel h t) h .s [] [] fun env c =>
    if slotPending c env.ctx t.toNat then .drain
    else withSlots c [t.toNat] (.ok { core := c, dests := [.t t.toNat { readSlot c t.toNat with claimed := false }] })) s

/-! ## Tile loads (R369 to R372) -/

/-- One read of a tile load: its size and address. -/
structure TileRead where
  size : Nat
  addr : Nat
  deriving DecidableEq, Repr

/-- The operands of a tile load. -/
structure TileSrc where
  fmt : Ty
  tr : Bool
  tab : Bool
  chk : Bool
  planes : Nat
  xa : Word
  xb : Word
  deriving DecidableEq, Repr

/-- H, the header address of row 0; B, the base of the elements. -/
def TileSrc.h (t : TileSrc) : Nat := wfield t.xa 0 19
/-- L, the address of plane 0 of row 0; TB, the side table. -/
def TileSrc.l (t : TileSrc) : Nat := wfield t.xa 32 19
/-- R, the row stride in blocks. -/
def TileSrc.r (t : TileSrc) : Nat := wfield t.xb 0 16
/-- PS, the plane stride. -/
def TileSrc.ps (t : TileSrc) : Nat := wfield t.xb 32 19
/-- P, the pitch. -/
def TileSrc.p (t : TileSrc) : Nat := wfield t.xb 0 19
/-- The serial. -/
def TileSrc.serial (t : TileSrc) : Nat := wfield t.xb 56 8
/-- The size of an element in bytes. -/
def TileSrc.es (t : TileSrc) : Nat := t.fmt.width / 8

/-- The address of element (i, e). -/
def TileSrc.elemAddr (t : TileSrc) (i e : Nat) : Nat :=
  if t.tr then t.h + e * t.p + i * t.es else t.h + i * t.p + e * t.es

/-- Whether a row reads a byte of the side table. -/
def TileSrc.sideRead (t : TileSrc) : Bool := decide (t.fmt = .e2m1) || (t.tab && t.fmt.isFloat)

/-- The reads of row i, in order (R372). -/
def TileSrc.rowReads (t : TileSrc) (i : Nat) : List TileRead :=
  (if t.sideRead then [⟨1, t.l + i⟩] else []) ++
    match t.fmt with
    | .nb => ⟨8, t.h + 8 * t.r * i⟩ :: (List.range t.planes).map fun p => ⟨4, t.l + t.ps * p + 4 * t.r * i⟩
    | .e2m1 => [⟨16, t.h + i * t.p⟩]
    | _ => (List.range 32).map fun e => ⟨t.es, t.elemAddr i e⟩

/-- Every read of a tile load, in order. -/
def TileSrc.reads (t : TileSrc) : List TileRead := (List.range 16).flatMap t.rowReads

/-- The checks of steps 1 to 3 of R318 over reads in order, then the wait of R224. -/
def checkReads (c : Core) (rs : List TileRead) : Option Out :=
  let one := fun (r : TileRead) => checkAccess c loads r.size r.size [r.addr]
  match rs.findSome? fun r => match one r with | some .stall => none | o => o with
  | some o => some o
  | none => if rs.any fun r => one r = some .stall then some .stall else none

/-- The block of row i as it stands in SRAM (R370). -/
def TileSrc.nbRow (t : TileSrc) (c : Core) (i : Nat) : Block :=
  BitVec.ofNat 320 (c.sram.readLE (t.h + 8 * t.r * i) 8 +
    (List.range t.planes).foldl (fun acc p => acc + c.sram.readLE (t.l + t.ps * p + 4 * t.r * i) 4 * 2 ^ (64 + 32 * p)) 0)

/-- The codes of row i (R371). -/
def TileSrc.codes (t : TileSrc) (c : Core) (i : Nat) : List Nat :=
  if t.fmt = .e2m1 then
    let v := c.sram.readLE (t.h + i * t.p) 16
    (List.range 32).map fun e => fieldN v (4 * e) 4
  else (List.range 32).map fun e => c.sram.readLE (t.elemAddr i e) t.es

/-- The byte of row i in the side table. -/
def TileSrc.side (t : TileSrc) (c : Core) (i : Nat) : Nat := c.sram.readLE (t.l + i) 1

/-- Row i as the slot receives it, with its counts (R370, R371). -/
def TileSrc.row (t : TileSrc) (c : Core) (i : Nat) : Block × Counts :=
  match t.fmt with
  | .nb => (t.nbRow c i, {})
  | .i8 => (BitVec.ofNat 320 (packNat 8 (t.codes c i)), {})
  | .e2m1 => let b := mxBlock (t.side c i) t.serial (t.codes c i); (b.1.keep t.planes, b.2)
  | _ =>
    let data := (t.codes c i).map (readF t.fmt)
    let b := blockOf (if t.tab then t.side c i else dynE data) t.serial data
    (b.1.keep t.planes, b.2)

/-- The trap found after issue, if any: the lowest row with an invalid exponent, else the lowest with a serial that
differs (R372). -/
def TileSrc.late (t : TileSrc) (c : Core) : Option LateTrap :=
  let badExp := fun i =>
    if t.fmt = .nb then (t.nbRow c i).E == 255
    else t.tab && (t.side c i == 0 || t.side c i == 255)
  match (List.range 16).find? badExp with
  | some i => some ⟨eFormat, if t.fmt = .nb then BitVec.ofNat 64 (t.h + 8 * t.r * i) else codeVal (t.side c i)⟩
  | none =>
    if t.chk then
      ((List.range 16).find? fun i => (t.nbRow c i).serial ≠ t.serial).map fun i =>
        ⟨eSkew, BitVec.ofNat 64 ((t.nbRow c i).serial + 256 * t.serial + 65536 * i)⟩
    else none

/-- The form codes of R277 that TLD accepts. -/
def tldFmtOk (t : Ty) : Bool := t = .i8 || t = .f32 || t = .f16 || t = .bf16 || t = .e4m3 || t = .e5m2 || t = .e2m1 || t = .nb

/-- The code of a type (R277). -/
def tyNumber : Ty → Nat
  | .i64 => 0 | .i32 => 1 | .i16 => 2 | .i8 => 3 | .n64 => 4 | .n32 => 5 | .n16 => 6 | .n8 => 7
  | .f64 => 8 | .f32 => 9 | .f16 => 10 | .bf16 => 11 | .e4m3 => 12 | .e5m2 => 13 | .e2m1 => 14 | .nb => 15

/-- TLD (R369 to R372). -/
def execTld (h : Hdr) (t : BitVec 3) (p : Planes) (xa xb : Reg) (fmt : Ty) (tr tab chk : Bool) (s : State) :
    Host.Outcome State Fault Refusal :=
  issue (tensorOp (.tld h t p xa xb fmt tr tab chk) h .l (xs [xa, xb]) [.t t.toNat] fun env c =>
    let src : TileSrc := ⟨fmt, tr, tab, chk, planeCount p, env.x c xa, env.x c xb⟩
    withSlots c [t.toNat] (
      if !tldFmtOk fmt then .trap eFormat (codeVal (tyNumber fmt))
      else
        match checkReads c src.reads with
        | some o => o
        | none =>
          match src.late c with
          | some l => .ok { core := c, dests := [.t t.toNat (readSlot c t.toNat)], late := some l }
          | none =>
            let rows := (List.range 16).map (src.row c)
            .ok { core := c,
                  dests := [.t t.toNat (slotOf (fmt = .i8) (if fmt = .i8 then .p8 else p) (rows.map (·.1)))],
                  counts := rows.foldl (fun n r => n.add r.2) {} })) s

/-! ## The array (R373 to R375) -/

/-- The elements of a tile, row by row. -/
def tileElems (t : Tile) : List Int := (List.range 256).map fun k => (fget t.el k 0).toInt

/-- A tile from its elements and exponent. -/
def tileOf (es : List Int) (X : Int) : Tile := ⟨mapOf (· != 0) (es.map (BitVec.ofInt 48)), BitVec.ofInt 10 X⟩

/-- The value of a tile that a pending result holds. -/
def destTile (n : Nat) : DestVal → Option Tile
  | .a m t => if m = n then some t else none
  | _ => none

/-- The accumulator as the array sees it: the result of its latest instruction still pending, where only the array's
are pending (R373). -/
def accView (c : Core) (ctx : Ctx) (n : Nat) : Tile :=
  let ps := (pendingOf c ctx).filter fun p => p.touches [.a n]
  if ps.all (·.array) then ((ps.reverse.findSome? fun p => p.dests.findSome? (destTile n))).getD (readAcc c n) else readAcc c n

/-- A body over both slots in one form (R374, R375). -/
def withForms (c : Core) (i8 : Bool) (ta tb : BitVec 3) (k : Out) : Out :=
  withSlots c [ta.toNat, tb.toNat] (
    if (readSlot c ta.toNat).i8 = i8 && (readSlot c tb.toNat).i8 = i8 then k else .trap eFormat (codeVal (if i8 then 15 else 3)))

/-- The pairs of a tile's rows and columns, row by row. -/
def tilePairs {α β : Type} (f : Nat → Nat → α → α → β) (as bs : List α) (d : α) : List β :=
  (List.range 256).map fun k => f (k / 16) (k % 16) (as.getD (k / 16) d) (bs.getD (k % 16) d)

/-- TMMA (R194, R195, R374). -/
def execTmma (h : Hdr) (a : BitVec 2) (ta tb : BitVec 3) (s : State) : Host.Outcome State Fault Refusal :=
  issue (tensorOp (.tmma h a ta tb) h (.array a.toNat) [.t ta.toNat, .t tb.toNat] [.a a.toNat] fun env c =>
    withForms c false ta tb (
      let sa := readSlot c ta.toNat
      let sb := readSlot c tb.toNat
      let acc := accView c env.ctx a.toNat
      let cs := tilePairs (fun _ _ x y => contribution x y (planeCount sa.planes) (planeCount sb.planes)) (slotRows sa)
        (slotRows sb) 0
      let r := accumulate (tileElems acc) acc.exp.toInt cs
      .ok { core := c, dests := [.a a.toNat (tileOf r.1 r.2.1)], counts := ⟨r.2.2, 0, 0⟩ })) s

/-- The group sum of two rows of signed bytes (R196). -/
def byteSum (x y : Block) : Int :=
  (List.range 32).foldl (fun acc e => acc + (x.extractLsb' (8 * e) 8).toInt * (y.extractLsb' (8 * e) 8).toInt) 0

/-- TMMI (R196, R375). -/
def execTmmi (h : Hdr) (sat : Bool) (a : BitVec 2) (ta tb : BitVec 3) (s : State) : Host.Outcome State Fault Refusal :=
  issue (tensorOp (.tmmi h sat a ta tb) h (.array a.toNat) [.t ta.toNat, .t tb.toNat] [.a a.toNat] fun env c =>
    withForms c true ta tb (
      let acc := accView c env.ctx a.toNat
      let gs := tilePairs (fun _ _ x y => byteSum x y) (slotRows (readSlot c ta.toNat)) (slotRows (readSlot c tb.toNat)) 0
      let rs := ((tileElems acc).zip gs).map fun p =>
        let w := sext (truncZ p.1 32) 32
        if sat then satcnt (w + p.2) (-(2 ^ 31)) (2 ^ 31 - 1) else (sext (truncZ (w + p.2) 32) 32, 0)
      .ok { core := c, dests := [.a a.toNat { tileOf (rs.map (·.1)) 0 with exp := acc.exp }],
            counts := ⟨rs.foldl (fun n r => n + r.2) 0, 0, 0⟩ })) s

/-! ## Accumulator access (R376) -/

/-- Row i of a tile. -/
def tileRow (t : Tile) (i : Nat) : List Int := (List.range 16).map fun j => (fget t.el (16 * i + j) 0).toInt

/-- A tile with row i replaced. -/
def setTileRow (t : Tile) (i : Nat) (es : List Int) : Tile :=
  { tileOf (((tileElems t).take (16 * i)) ++ es ++ (tileElems t).drop (16 * i + 16)) 0 with exp := t.exp }

/-- TZERO. -/
def execTzero (h : Hdr) (a : BitVec 2) (s : State) : Host.Outcome State Fault Refusal :=
  issue (tensorOp (.tzero h a) h .l [] [.a a.toNat] fun _ c => .ok { core := c, dests := [.a a.toNat {}] }) s

/-- TRD.raw. -/
def execTrdRaw (h : Hdr) (a : BitVec 2) (row : BitVec 4) (d : VReg) (x : Reg) (s : State) :
    Host.Outcome State Fault Refusal :=
  issue (tensorOp (.trdRaw h a row d x) h .l [.a a.toNat] (vgroup 2 d ++ xs [x]) fun _ c =>
    let t := readAcc c a.toNat
    let es := (tileRow t row.toNat).map (truncZ · 64)
    .ok { core := c, dests := [.v d.toNat (packV 64 (es.take 8)), .v (d.toNat + 1) (packV 64 (es.drop 8)),
                               .x x.toNat (BitVec.ofInt 64 t.exp.toInt)] }) s

/-- TRD.i32. -/
def execTrdI32 (h : Hdr) (a : BitVec 2) (row : BitVec 4) (d : VReg) (s : State) : Host.Outcome State Fault Refusal :=
  issue (tensorOp (.trdI32 h a row d) h .l [.a a.toNat] (vs [d]) fun _ c =>
    .ok { core := c, dests := [.v d.toNat (packV 32 ((tileRow (readAcc c a.toNat) row.toNat).map (truncZ · 32)))] }) s

/-- TWR.raw. -/
def execTwrRaw (h : Hdr) (a : BitVec 2) (row : BitVec 4) (d : VReg) (s : State) : Host.Outcome State Fault Refusal :=
  issue (tensorOp (.twrRaw h a row d) h .l (vgroup 2 d ++ [.a a.toNat]) [.a a.toNat] fun env c =>
    let bits := groupBits env c d 2
    let es := (List.range 16).map fun j => sext (fieldN bits (64 * j) 48) 48
    .ok { core := c, dests := [.a a.toNat (setTileRow (readAcc c a.toNat) row.toNat es)] }) s

/-- TWR.i32. -/
def execTwrI32 (h : Hdr) (a : BitVec 2) (row : BitVec 4) (d : VReg) (s : State) : Host.Outcome State Fault Refusal :=
  issue (tensorOp (.twrI32 h a row d) h .l (vs [d] ++ [.a a.toNat]) [.a a.toNat] fun env c =>
    let es := (List.range 16).map fun j => sext (lane 32 (env.v c d) j) 32
    .ok { core := c, dests := [.a a.toNat (setTileRow (readAcc c a.toNat) row.toNat es)] }) s

/-- TWR.exp. -/
def execTwrExp (h : Hdr) (a : BitVec 2) (x : Reg) (s : State) : Host.Outcome State Fault Refusal :=
  issue (tensorOp (.twrExp h a x) h .l (xs [x] ++ [.a a.toNat]) [.a a.toNat] fun env c =>
    .ok { core := c, dests := [.a a.toNat { readAcc c a.toNat with exp := (env.x c x).setWidth 10 }] }) s

/-- A tile with every element shifted and the exponent raised. -/
def shiftTile (t : Tile) (d : Int) : Tile := tileOf ((tileElems t).map (align · d)) (t.exp.toInt + d)

/-- TSH. -/
def execTsh (h : Hdr) (a : BitVec 2) (n : BitVec 6) (s : State) : Host.Outcome State Fault Refusal :=
  issue (tensorOp (.tsh h a n) h .l [.a a.toNat] [.a a.toNat] fun _ c =>
    let t := readAcc c a.toNat
    .ok { core := c, dests := [.a a.toNat (shiftTile t (min (n.toNat : Int) (511 - t.exp.toInt)))] }) s

/-- TSH.to. -/
def execTshTo (h : Hdr) (a : BitVec 2) (x : Reg) (s : State) : Host.Outcome State Fault Refusal :=
  issue (tensorOp (.tshTo h a x) h .l (xs [x] ++ [.a a.toNat]) [.a a.toNat] fun env c =>
    let t := readAcc c a.toNat
    let want := sext (wfield (env.x c x) 0 10) 10
    .ok { core := c, dests := [.a a.toNat (if t.exp.toInt < want then shiftTile t (want - t.exp.toInt) else t)] }) s

/-- The code of a plane count (R278). -/
def planeCode : Planes → Nat
  | .p2 => 0
  | .p4 => 1
  | .p8 => 2

/-- The word of TSTAT.slots. -/
def slotsWord (c : Core) : Nat :=
  (List.range 8).foldl (fun acc n =>
    let t := readSlot c n
    acc + bitN t.claimed * 2 ^ n + planeCode t.planes * 2 ^ (8 + 2 * n) + bitN t.i8 * 2 ^ (24 + n)) 0

/-- TSTAT.slots. -/
def execTstatSlots (h : Hdr) (x : Reg) (s : State) : Host.Outcome State Fault Refusal :=
  issue (tensorOp (.tstatSlots h x) h .l ((List.range 8).map .t) (xs [x]) fun _ c =>
    wx c x (BitVec.ofNat 64 (slotsWord c))) s

/-- TSTAT.exp. -/
def execTstatExp (h : Hdr) (a : BitVec 2) (x : Reg) (s : State) : Host.Outcome State Fault Refusal :=
  issue (tensorOp (.tstatExp h a x) h .l [.a a.toNat] (xs [x]) fun _ c =>
    wx c x (BitVec.ofInt 64 (readAcc c a.toNat).exp.toInt)) s

/-! ## Partial sums (R197 to R201, R378 to R380) -/

/-- The floor that renormalisations put on a chunk (R200). -/
def floorAt (rs : List Renorm) (chunk : BitVec 15) : Int :=
  rs.foldl (fun f r => if (chunk - r.chunk).toNat < 16384 then max f r.exp else f) (-512)

/-- The outputs of a routing entry for flits from direction d, 0 to 4 for N, E, S, W and local (R153). -/
def routeOut (e : BitVec 32) (d : Nat) : BitVec 5 := e.extractLsb' (5 + 5 * d) 5
/-- MERGE of a routing entry. -/
def routeMerge (e : BitVec 32) : Nat := (e.extractLsb' 2 3).toNat
/-- The merge inputs of an entry: the directions whose output set is not empty (R160). -/
def mergeInputs (e : BitVec 32) : List Nat := (List.range 5).filter fun d => routeOut e d ≠ 0

/-- Whether an entry makes its router the root of an add.sum tree: the node whose output set is the core alone (R164). -/
def isRoot (e : BitVec 32) : Bool :=
  routeMerge e == 3 && !(mergeInputs e).isEmpty && (mergeInputs e).all fun d => routeOut e d = 16

/-- The word of TSTAT.red for a class. -/
def redWord (c : Core) (cls : Nat) : Nat :=
  let ch := fget c.chunk cls 0
  ch.toNat + truncZ (floorAt (fget c.sendFloor cls []) ch) 10 * 2 ^ 16 +
    (if isRoot (routeOf c cls) then fget c.depth cls 0 else 0) * 2 ^ 32

/-- TSTAT.red: of the class of an IN or OUT binding (R376). -/
def execTstatRed (h : Hdr) (x : Reg) (q : BitVec 4) (s : State) : Host.Outcome State Fault Refusal :=
  issue (tensorOp (.tstatRed h x q) h .l [.q q.toNat] (xs [x]) fun _ c =>
    match readQ c q.toNat with
    | .inQ cls | .outQ cls _ _ _ => wx c x (BitVec.ofNat 64 (redWord c cls.toNat))
    | _ => .trap eQueue (q.setWidth 64)) s

/-- TCVT (R203, R377). -/
def execTcvt (h : Hdr) (a : BitVec 2) (row : BitVec 4) (xt : Reg) (d : VReg) (rm : RM) (s : State) :
    Host.Outcome State Fault Refusal :=
  issue (tensorOp (.tcvt h a row xt d rm) h .l (xs [xt] ++ [.a a.toNat]) (vs [d]) fun env c =>
    let t := (env.x c xt).toNat
    withAccess c loads 8 8 ((List.range 16).map fun j => t + 8 * j) (
      let acc := readAcc c a.toNat
      let rs := (tileRow acc row.toNat).zipIdx.map fun e =>
        let w := c.sram.readLE (t + 8 * e.2) 8
        fmaF .f32 rm (.fin (decide (e.1 < 0)) e.1.natAbs acc.exp.toInt) (readF .f32 (w % 2 ^ 32)) (readF .f32 (w / 2 ^ 32))
      .ok { core := c, dests := [.v d.toNat (packV 32 (rs.map (·.bits)))], flags := rs.foldl (fun f r => f ||| r.flags) 0,
            counts := ⟨rs.foldl (fun n r => n + r.sat) 0, 0, 0⟩ })) s

/-! ## Injection under a binding (R119, R384, R388) -/

/-- Whether a coordinate lies in the region of the issuing core. -/
def inOwnRegion (env : Env) (row col : Nat) : Bool := match env.launch with | some l => inRegion l row col | none => false

/-- Whether a flit injected under a handle is foreign: its destination lies outside its source's region (R148). -/
def isForeign (env : Env) (hd : Word) (row col : Nat) : Bool := hd != 0 && !inOwnRegion env row col

/-- The injection checks of a handle: seal, right and rectangle (R119). -/
def handleReaches (env : Env) (hd : Word) (right row col : Nat) : Bool :=
  sealOk env.dev.sealKey hd && hd.getLsbD right && inRect hd row col

/-- GEN of a handle (R116). -/
def genOf (hd : Word) : BitVec 12 := hd.extractLsb' 24 12

/-- Flits sent on an OUT binding, with the checks that the router of injection repeats (R384); the spec names no
TRAPVAL for a destination that is no longer allowed there. -/
def sendBound (put : Core → Nat → List Flit → Core) (env : Env) (c : Core) (cls drow dcol : Nat) (hd : Word) (fs : Bool → List Flit)
    (k : Core → Out) : Out :=
  if hd ≠ 0 && !handleReaches env hd 36 drow dcol then .trap eSeal hd
  else if (hd = 0 && !inOwnRegion env drow dcol) || unavailable env.dev drow dcol then .trap eBound (env.freeW 0)
  else
    let f := isForeign env hd drow dcol
    k (put c cls ((fs f).map fun x => { x with gen := if f then genOf hd else 0 }))

/-- TSEND: a row as a PSUM flit on the binding's class (R198, R379). -/
def execTsend (h : Hdr) (a : BitVec 2) (row q : BitVec 4) (s : State) : Host.Outcome State Fault Refusal :=
  issue (tensorOp (.tsend h a row q) h .s [.a a.toNat, .q q.toNat] [] fun env c =>
    match readQ c q.toNat with
    | .outQ cls drow dcol hd =>
      if !sendFree c cls.toNat then .stall
      else
        let acc := readAcc c a.toNat
        let ch := fget c.chunk cls.toNat 0
        let r := rowSums (tileRow acc row.toNat) acc.exp.toInt (floorAt (fget c.sendFloor cls.toNat []) ch)
        let payload := BitVec.ofNat 1024 (packNat 64 (r.1.map (truncZ · 32)))
        let c' : Core := { c with chunk := fset c.chunk cls.toNat (ch + 1) }
        sendBound send env c' cls.toNat drow dcol hd
          (fun f => [{ payload := payload, side := sidePsum cls.toNat drow dcol f r.2.1 ch.toNat }])
          fun c => .ok { core := c, counts := ⟨r.2.2, 0, 0⟩ }
    | _ => .trap eQueue (q.setWidth 64)) s

/-- TSEND.open: the reduction begins; at the root, its depth is recorded (R379). -/
def execTsendOpen (h : Hdr) (q : BitVec 4) (depth : BitVec 8) (s : State) : Host.Outcome State Fault Refusal :=
  issue (tensorOp (.tsendOpen h q depth) h .s [.q q.toNat] [] fun _ c =>
    match readQ c q.toNat with
    | .outQ cls _ _ _ =>
      let n := cls.toNat
      done { c with chunk := fset c.chunk n 0, sendFloor := fdel c.sendFloor n,
                    depth := if isRoot (routeOf c n) then fset c.depth n depth.toNat else c.depth }
    | _ => .trap eQueue (q.setWidth 64)) s

/-- The head flit of a class (R167, R380). -/
def headFlit (c : Core) (cls : Nat) : Option Flit := (popFlit c cls).map (·.1)

/-- TRECV: pops a PSUM flit into a group of two registers and its exponent and chunk into another (R380). -/
def execTrecv (h : Hdr) (d : VReg) (x : Reg) (q : BitVec 4) (s : State) : Host.Outcome State Fault Refusal :=
  issue (tensorOp (.trecv h d x q) h .b [.q q.toNat] (vgroup 2 d ++ xs [x]) fun _ c =>
    unlessOpen c (
      match readQ c q.toNat with
      | .inQ cls =>
        match popFlit c cls.toNat with
        | none => .wait c .instr
        | some (f, c') =>
          if flitKind f ≠ 10 then .trap eQueue (q.setWidth 64)
          else
            .ok { core := refreshReady c',
                  dests := [.v d.toNat (f.payload.extractLsb' 0 512), .v (d.toNat + 1) (f.payload.extractLsb' 512 512),
                            .x x.toNat (BitVec.ofNat 64 (truncZ (flitExp f) 10 + (flitChunk f).toNat * 2 ^ 16))] }
      | _ => .trap eQueue (q.setWidth 64))) s

end Sys2Proof.Machine
end

