-- ==== Sys2Proof/Machine/Queue.lean ====
section
/-! DEFINITION. Queue registers, messages, capability requests, routing entries, the task table and the cellar
(R383 to R397). -/

namespace Sys2Proof.Machine

/-! ## Bindings (R383 to R386) -/

/-- Whether a program may use a class: 0 to 23 in the launch's CLASSMASK (R152, R383). -/
def classAllowed (l : Option Launch) (cls : Nat) : Bool :=
  match l with
  | some l => decide (cls < 24) && l.classMask.getLsbD cls
  | none => false

/-- Whether a class may be received from: a program's own, or class 24 in system mode (R383, R396). -/
def classReceivable (env : Env) (c : Core) (cls : Nat) : Bool :=
  classAllowed env.launch cls || (cls == 24 && c.sys.mode)

/-- Whether a register may be rebound or freed (R386). -/
def mayRebind (c : Core) (q : Nat) : Bool :=
  (ffind c.opens q).isNone && match readQ c q with | .cap _ => c.caps.isEmpty | _ => true

/-- A body that rebinds a register (R386). -/
def rebinding (c : Core) (q : Nat) (k : Out) : Out := if mayRebind c q then k else .trap eQueue (BitVec.ofNat 64 q)

/-- A core with a register bound. -/
def bind (c : Core) (q : BitVec 4) (b : QBind) : Out := done (writeQ c q.toNat b)

/-- QBIND.in (R383). -/
def execQbindIn (h : Hdr) (q : BitVec 4) (cls : BitVec 5) (s : State) : Host.Outcome State Fault Refusal :=
  issue { mkOp (.qbindIn h q cls) h .s [] [.q q.toNat] (fun _ c => rebinding c q.toNat (bind c q (.inQ cls))) with
          staticPriv := fun env c => !classReceivable env c cls.toNat } s

/-- The destination of a program-form address, absolute: relative to the region, or to a handle's origin (R210). -/
def absTarget (l : Option Launch) (hd : Option Word) (v : Word) : Nat × Nat :=
  let row := wfield v 48 9
  let col := wfield v 39 9
  match hd, l with
  | some h, _ => (wfield h 56 8 + row, wfield h 47 9 + col)
  | none, some l => (l.orgRow + row, l.orgCol + col)
  | none, none => (row, col)

/-- Whether a program-form address without a handle lies in the region's shape (R211, R384). -/
def inShape (l : Option Launch) (v : Word) : Bool :=
  match l with
  | some l => decide (wfield v 48 9 < l.rows) && decide (wfield v 39 9 < l.cols)
  | none => false

/-- QBIND.out (R384). -/
def execQbindOut (h : Hdr) (q : BitVec 4) (cls : BitVec 5) (a hd : Reg) (s : State) : Host.Outcome State Fault Refusal :=
  issue { mkOp (.qbindOut h q cls a hd) h .s (xs [a, hd]) [.q q.toNat] (fun env c =>
            rebinding c q.toNat (
              let v := env.x c a
              let hv := env.x c hd
              let t := absTarget env.launch (if hd = 0 then none else some hv) v
              if hd ≠ 0 && !handleReaches env hv 36 t.1 t.2 then .trap eSeal hv
              else if wfield v 57 6 ≠ 0 || (hd = 0 && !inShape env.launch v) || 224 ≤ t.1 || 384 ≤ t.2 ||
                  unavailable env.dev t.1 t.2 then .trap eBound v
              else bind c q (.outQ cls t.1 t.2 (if hd = 0 then 0 else hv)))) with
          staticPriv := fun env _ => !classAllowed env.launch cls.toNat } s

/-- The sectors a pantry's window holds (R258). -/
def pantryW (p : Pantry) : Nat := 2 ^ p.logsz / 32
/-- The local address of sector s of a pantry (R258). -/
def sectorAddr (p : Pantry) (s : BitVec 32) : Nat := p.base.toNat + 32 * (s.toNat % pantryW p)

/-- QBIND.pantry (R383). -/
def execQbindPantry (h : Hdr) (q : BitVec 4) (p : BitVec 3) (s : State) : Host.Outcome State Fault Refusal :=
  issue (mkOp (.qbindPantry h q p) h .s [] [.q q.toNat] fun _ c =>
    rebinding c q.toNat (
      let x := pantryAt c p.toNat
      if x.valid && !x.outbound then bind c q (.pantry p.toNat 0) else .trap eBound (x.base.setWidth 64))) s

/-- QBIND.larder: the operand names a larder and a context (R383). -/
def execQbindLarder (h : Hdr) (q : BitVec 4) (a : Reg) (s : State) : Host.Outcome State Fault Refusal :=
  issue { mkOp (.qbindLarder h q a) h .s (xs [a]) [.q q.toNat] (fun env c =>
            rebinding c q.toNat (
              let v := env.x c a
              if 47 < wfield v 0 6 then .trap eBound v else bind c q (.larder (wfield v 0 6) (wfield v 8 4)))) with
          dynPriv := fun env c =>
            decide (wfield (env.x c a) 0 6 ≤ 47) && !bindsLarder env.launch (wfield (env.x c a) 0 6) } s

/-- QBIND.cap (R383). -/
def execQbindCap (h : Hdr) (q : BitVec 4) (a : Reg) (s : State) : Host.Outcome State Fault Refusal :=
  issue (mkOp (.qbindCap h q a) h .s (xs [a]) [.q q.toNat] fun env c =>
    rebinding c q.toNat (
      if sealOk env.dev.sealKey (env.x c a) then bind c q (.cap (env.x c a)) else .trap eSeal (env.x c a))) s

/-- QFREE (R386). -/
def execQfree (h : Hdr) (q : BitVec 4) (s : State) : Host.Outcome State Fault Refusal :=
  issue (mkOp (.qfree h q) h .s [] [.q q.toNat] fun _ c => rebinding c q.toNat (bind c q .unbound)) s

/-! ## Receiving (R387, R391) -/

/-- A misuse of a queue register (R393). -/
def badQueue (q : BitVec 4) : Out := .trap eQueue (q.setWidth 64)

/-- A body on an inbound pantry that is still valid (R391). -/
def withPantry (c : Core) (p : Nat) (k : Pantry → Out) : Out :=
  let x := pantryAt c p
  if x.valid && !x.outbound then k x else .trap eBound (x.base.setWidth 64)

/-- The head flit of a class popped, or a wait for one (R387). -/
def popOr (c : Core) (cls : Nat) (k : Flit → Core → Out) : Out :=
  match popFlit c cls with
  | some (f, c') => k f (refreshReady c')
  | none => .wait c .instr

/-- The sectors a pantry has for its reader. -/
def pantryAvail (p : Pantry) : Nat := (p.fill - p.cur).toNat

/-- POP (R387, R391, R392). -/
def execPop (h : Hdr) (d : Reg) (q : BitVec 4) (k : BitVec 4) (s : State) : Host.Outcome State Fault Refusal :=
  issue (mkOp (.pop h d q k) h .b [.q q.toNat] (xs [d]) fun _ c =>
    unlessOpen c (
      let take := fun cls => popOr c cls fun f c' => wx c' d (BitVec.ofNat 64 (flitField f (8 * k.toNat) 8))
      match readQ c q.toNat with
      | .inQ cls => take cls.toNat
      | .cap _ => take 27
      | .pantry p o =>
        if k ≠ 0 then badQueue q
        else
          withPantry c p fun x =>
            if pantryAvail x = 0 then .wait c .instr
            else
              let v := c.sram.word (sectorAddr x x.cur + 8 * o)
              let c' := setPantry c p { x with cur := if o = 3 then x.cur + 1 else x.cur }
              wx (writeQ c' q.toNat (.pantry p ((o + 1) % 4))) d v
      | _ => badQueue q)) s

/-- VPOP (R387, R391, R392). -/
def execVpop (h : Hdr) (d : VReg) (q : BitVec 4) (s : State) : Host.Outcome State Fault Refusal :=
  issue (mkOp (.vpop h d q) h .b [.q q.toNat] (vgroup 2 d) fun _ c =>
    unlessOpen c (
      let put := fun (c : Core) (v : BitVec 1024) =>
        Out.ok { core := c, dests := [.v d.toNat (v.extractLsb' 0 512), .v (d.toNat + 1) (v.extractLsb' 512 512)] }
      match readQ c q.toNat with
      | .inQ cls => popOr c cls.toNat fun f c' => put c' f.payload
      | .cap _ => popOr c 27 fun f c' => put c' f.payload
      | .pantry p o =>
        if o ≠ 0 then badQueue q
        else
          withPantry c p fun x =>
            if pantryW x < 4 then .trap eBound (x.base.setWidth 64)
            else if pantryAvail x < 4 then .wait c .instr
            else
              let bytes := (List.range 4).flatMap fun i => c.sram.readBytes (sectorAddr x (x.cur + BitVec.ofNat 32 i)) 32
              put (setPantry c p { x with cur := x.cur + 4 }) (bitsOfBytes 1024 bytes)
      | _ => badQueue q)) s

/-- QPEEK: a word of the head flit, or its sideband; 0 when there is none (R387). -/
def execQpeek (h : Hdr) (d : Reg) (q : BitVec 4) (k : BitVec 5) (s : State) : Host.Outcome State Fault Refusal :=
  issue (mkOp (.qpeek h d q k) h .s [.q q.toNat] (xs [d]) fun _ c =>
    let peek := fun cls =>
      match headFlit c cls with
      | some f => wx c d (if k = 16 then f.side else BitVec.ofNat 64 (flitField f (8 * k.toNat) 8))
      | none => wx c d 0
    match readQ c q.toNat with
    | .inQ cls => peek cls.toNat
    | .cap _ => peek 27
    | _ => badQueue q) s

/-! ## Sending (R388, R389) -/

/-- The lowest register with a message open, if some register other than q has one open on the same class (R389). -/
def otherOpen (c : Core) (q : Nat) (cls : BitVec 5) : Option Nat :=
  if c.opens.any fun o => o.1 != q && (match readQ c o.1 with | .outQ k _ _ _ => k == cls | _ => false) then lowestOpen c
  else none

/-- A flit of a message of n flits: its first carries LEN and the source (R149). -/
def msgFlit (env : Env) (cls : Nat) (drow dcol i n : Nat) (f : Bool) (p : BitVec 1024) : Flit :=
  { payload := p,
    side := if i = 0 then sideFirst cls 0 drow dcol f (n - 1) env.row env.col else sideLater cls 0 i drow dcol f }

/-- Appended bytes: the flits they complete and the message after them (R388). -/
def appendMsg (o : OpenMsg) (len v : Nat) : Option (BitVec 1024) × OpenMsg :=
  let at_ := o.cursor % 128
  let all := o.part.toNat + v * 2 ^ (8 * at_)
  if at_ + len < 128 then (none, { o with cursor := o.cursor + len, part := BitVec.ofNat 1024 all })
  else (some (BitVec.ofNat 1024 all), { o with cursor := o.cursor + len, part := BitVec.ofNat 1024 (all / 2 ^ 1024) })

/-- PUSH and VPUSH of len bytes on an OUT binding (R388). -/
def pushOut (env : Env) (c : Core) (q : BitVec 4) (cls : BitVec 5) (drow dcol : Nat) (hd : Word) (len v : Nat) : Out :=
  match otherOpen c q.toNat cls with
  | some n => .trap eQueue (BitVec.ofNat 64 n)
  | none =>
    match ffind c.opens q.toNat with
    | none =>
      if !inputFree c cls.toNat then .stall
      else sendBound sendNow env c cls.toNat drow dcol hd (fun f => [msgFlit env cls.toNat drow dcol 0 1 f (BitVec.ofNat 1024 v)]) done
    | some o =>
      if o.flits * 128 < o.cursor + len then badQueue q
      else
        let r := appendMsg o len v
        let put := fun (c : Core) => done (sendBehind { c with opens := fset c.opens q.toNat r.2 } cls.toNat)
        match r.1 with
        | none => put c
        | some p =>
          if !inputFree c cls.toNat then .stall
          else sendBound sendNow env c cls.toNat drow dcol hd (fun f => [msgFlit env cls.toNat drow dcol (o.cursor / 128) o.flits f p]) put

/-- PUSH (R388). -/
def execPush (h : Hdr) (q : BitVec 4) (a : Reg) (s : State) : Host.Outcome State Fault Refusal :=
  issue (mkOp (.push h q a) h .b (xs [a] ++ [.q q.toNat]) [] fun env c =>
    match readQ c q.toNat with
    | .outQ cls drow dcol hd => pushOut env c q cls drow dcol hd 8 (env.x c a).toNat
    | _ => badQueue q) s

/-- The right a capability operation needs: its bit in a handle (R116, R172); none for a code that names no operation. -/
def capRight (op : Nat) : Option Nat :=
  if op = 1 || op = 2 then some 39 else if op = 3 || op = 4 then some 38 else if op = 5 then some 37 else none

/-- The lowest capability tag not in use (R392). -/
def capTag (c : Core) : Option Nat := (List.range 4).find? fun t => !(c.caps.any fun x => x.1 == t)

/-- An answer to a capability request as the router of injection gives it: NACK with a code (R115, R173). -/
def capNack (env : Env) (tag code : Nat) : Flit :=
  { payload := payloadOf [(0, tag), (2, code)], side := sideFirst 27 9 env.row env.col false 0 env.row env.col }

/-- VPUSH on a CAP binding: one request, its handle and tag written by the hardware (R172, R392). A fifth request
stalls, answers not yet read counted, so that class 27 never spills (log entry 13). -/
def pushCap (env : Env) (c : Core) (hd : Word) (v : Nat) : Out :=
  let row := wfield hd 56 8 + fieldN v 208 16
  let col := wfield hd 47 9 + fieldN v 224 16
  let op := fieldN v 64 8
  let right := match capRight op with | some r => hd.getLsbD r | none => true
  if !(sealOk env.dev.sealKey hd && right && inRect hd row col) then .trap eSeal hd
  else if 4 ≤ c.caps.length + (queueOf c 27).length || !inputFree c 25 then .stall
  else
    match capTag c with
    | none => .stall
    | some t =>
      let p := hd.toNat + fieldN v 64 128 * 2 ^ 64 + t * 2 ^ 192 + (v / 2 ^ 240) * 2 ^ 240
      let f : Flit :=
        { payload := BitVec.ofNat 1024 p,
          side := sideFirst 25 14 row col (isForeign env hd row col) 0 env.row env.col, gen := genOf hd }
      if unavailable env.dev row col then done (setQueue c 27 (queueOf c 27 ++ [capNack env t 5]))
      else done { send c 25 [f] with caps := c.caps ++ [(t, keyOf row col)] }

/-- VPUSH (R388, R392). -/
def execVpush (h : Hdr) (q : BitVec 4) (a : VReg) (s : State) : Host.Outcome State Fault Refusal :=
  issue (mkOp (.vpush h q a) h .b (vgroup 2 a ++ [.q q.toNat]) [] fun env c =>
    let v := groupBits env c a 2
    match readQ c q.toNat with
    | .outQ cls drow dcol hd => pushOut env c q cls drow dcol hd 128 v
    | .cap hd => pushCap env c hd v
    | _ => badQueue q) s

/-- MOPEN (R388). -/
def execMopen (h : Hdr) (q : BitVec 4) (n1 : BitVec 5) (s : State) : Host.Outcome State Fault Refusal :=
  issue (mkOp (.mopen h q n1) h .s [] [.q q.toNat] fun _ c =>
    match readQ c q.toNat with
    | .outQ cls _ _ _ =>
      match otherOpen c q.toNat cls with
      | some n => .trap eQueue (BitVec.ofNat 64 n)
      | none =>
        if (ffind c.opens q.toNat).isSome then badQueue q
        else done { c with opens := fset c.opens q.toNat ⟨n1.toNat + 1, 0, 0⟩ }
    | _ => badQueue q) s

/-- MCLOSE: the rest of the message is zeros. It sends the flits that its router takes, and stalls with the message open until
the last of them is sent (R388). -/
def execMclose (h : Hdr) (q : BitVec 4) (s : State) : Host.Outcome State Fault Refusal :=
  issue (mkOp (.mclose h q) h .s [] [.q q.toNat] fun env c =>
    match readQ c q.toNat, ffind c.opens q.toNat with
    | .outQ cls drow dcol hd, some o =>
      let i := o.cursor / 128
      let left := o.flits - i
      let room := 2 - (egressOf c cls.toNat).length
      if left = 0 then done { c with opens := fdel c.opens q.toNat }
      else if room = 0 then .stall
      else
        sendBound sendNow env c cls.toNat drow dcol hd
          (fun f => (List.range (min left room)).map fun j =>
            msgFlit env cls.toNat drow dcol (i + j) o.flits f (if j = 0 then o.part else 0)) fun c =>
          if left ≤ room then done (sendBehind { c with opens := fdel c.opens q.toNat } cls.toNat)
          else .wait { c with opens := fset c.opens q.toNat { o with cursor := 128 * (i + room), part := 0 } } .run
    | _, _ => badQueue q) s

/-- The status word of a queue register (R394). -/
def qstatWord (c : Core) (q : Nat) : Nat :=
  let k := fun n => 2 ^ 63 + n * 2 ^ 60
  match readQ c q with
  | .unbound => 0
  | .inQ cls =>
    k 1 + min 0xFFFF ((queueOf c cls.toNat).length +
      ((cellarEntries c).filter fun e => flitCls e.2.2 == cls.toNat).length)
  | .outQ cls _ _ _ =>
    k 2 + (2 - min 2 (egressOf c cls.toNat).length) +
      match ffind c.opens q with
      | some o => 2 ^ 8 + (o.flits - o.cursor / 128) * 2 ^ 16
      | none => 0
  | .pantry p o => k 3 + pantryAvail (pantryAt c p) + o * 2 ^ 32
  | .larder n c => k 4 + n + c * 2 ^ 8
  | .cap _ => k 5 + c.caps.length + (queueOf c 27).length * 2 ^ 4

/-- QSTAT (R394). -/
def execQstat (h : Hdr) (d : Reg) (q : BitVec 4) (s : State) : Host.Outcome State Fault Refusal :=
  issue (mkOp (.qstat h d q) h .s [.q q.toNat] (xs [d]) fun _ c => wx c d (BitVec.ofNat 64 (qstatWord c q.toNat))) s

/-! ## Routing entries (R152 to R154, R395) -/

/-- The E_RSV conditions of a routing entry for a program class (R154). -/
def routeReserved (e : BitVec 32) : Bool :=
  let outs := (List.range 5).map (routeOut e)
  let used := outs.filter (· ≠ 0)
  e.extractLsb' 30 2 != 0 || decide (4 ≤ routeMerge e) || (e.extractLsb' 0 2 != 3 && (routeMerge e != 0 || !used.isEmpty)) ||
    ((List.range 4).any fun d => (routeOut e d).getLsbD d) ||
    (routeMerge e != 0 && used.any fun o => decide (some o ≠ used.head?))

/-- Whether output d of a core's router leads out of its region, other than to a Poluri port (R151, R154). -/
def leadsOut (env : Env) (d : Nat) : Bool :=
  let r := env.row
  let c := env.col
  if d = 0 then if r = 0 then c % 12 != 6 else !inOwnRegion env (r - 1) c
  else if d = 1 then c + 1 == 384 || !inOwnRegion env r (c + 1)
  else if d = 2 then if r = 223 then c % 12 != 6 else !inOwnRegion env (r + 1) c
  else if d = 3 then c == 0 || !inOwnRegion env r (c - 1)
  else false

/-- A core with a class's routing entry written: its floors and depth start afresh (R200, R395). -/
def setRoute (c : Core) (cls : Nat) (e : BitVec 32) : Core :=
  { c with routes := if e = 0 then fdel c.routes cls else fset c.routes cls e, nodeFloor := fdel c.nodeFloor cls,
           sendFloor := fdel c.sendFloor cls, depth := fdel c.depth cls }

/-- CLSET (R154, R395). -/
def execClset (h : Hdr) (cls : BitVec 5) (a : Reg) (s : State) : Host.Outcome State Fault Refusal :=
  issue { mkOp (.clset h cls a) h .s (xs [a]) [] (fun env c =>
            let e := (env.x c a).setWidth 32
            if (List.range 5).any fun d => (List.range 4).any fun o => (routeOut e d).getLsbD o && leadsOut env o then
              .trap eSeal 0
            else done (setRoute c cls.toNat e)) with
          staticPriv := fun env _ => !classAllowed env.launch cls.toNat,
          dynRsv := fun env c => routeReserved ((env.x c a).setWidth 32), rsvReads := xs [a], noHandler := true,
          detBad := fun env c => c.sys.det && (env.x c a).extractLsb' 0 2 == 2 } s

/-- CLGET (R395). -/
def execClget (h : Hdr) (d : Reg) (cls : BitVec 5) (s : State) : Host.Outcome State Fault Refusal :=
  issue { mkOp (.clget h d cls) h .s [] (xs [d]) (fun _ c => wx c d ((routeEntry c cls.toNat).setWidth 64)) with
          noHandler := true } s

/-! ## Task table (R288, R396) -/

/-- TBIND (R396). -/
def execTbind (h : Hdr) (k : BitVec 5) (a : Reg) (s : State) : Host.Outcome State Fault Refusal :=
  issue { mkOp (.tbind h k a) h .s (xs [a]) [] (fun env c =>
            let v := env.x c a
            let entry : BitVec 16 := v.setWidth 16
            if entry.toNat % 8 ≠ 0 then .trap eAlign (entry.setWidth 64)
            else
              let t : Task := { entry := entry, pc := entry, prio := v.extractLsb' 16 2, onEvent := v.getLsbD 18,
                                k := v.extractLsb' 19 5 }
              done (refreshReady { c with tasks := fset c.tasks k.toNat t })) with
          dynPriv := fun env c =>
            let v := env.x c a
            !v.getLsbD 18 && !classReceivable env c (wfield v 19 5),
          noHandler := true, gangBad := fun _ c => c.gang.isSome } s

/-- TUNB (R396). -/
def execTunb (h : Hdr) (k : BitVec 5) (s : State) : Host.Outcome State Fault Refusal :=
  issue { mkOp (.tunb h k) h .s [] [] (fun _ c => done { c with tasks := fdel c.tasks k.toNat }) with
          noHandler := true, gangBad := fun _ c => c.gang.isSome } s

/-! ## The cellar (R168, R397) -/

/-- Whether a range overlaps a valid pantry. -/
def overPantry (c : Core) (a n : Nat) : Bool :=
  (List.range 8).any fun p => let x := pantryAt c p; x.valid && rangesMeet a n x.base.toNat (2 ^ x.logsz)

/-- A cellar's memory with every stamp invalid and the next arrival number 0. -/
def clearStamps (m : Memory) (base n : Nat) : Memory :=
  let m := (List.range n).foldl (fun (m : Memory) i =>
    let a := base + 136 * n + 8 * i + 7
    m.write a (m.read a &&& 0x7F)) m
  m.writeLE (base + 144 * n) 8 0

/-- CELLAR (R397). -/
def execCellar (h : Hdr) (m : BitVec 5) (a : Reg) (s : State) : Host.Outcome State Fault Refusal :=
  issue { mkOp (.cellar h m a) h .s (xs [a]) [] (fun env c =>
            let base : BitVec 19 := (env.x c a).setWidth 19
            let size := 4096 * m.toNat
            if !(cellarEntries c).isEmpty then .trap eQueue 0
            else if m = 0 then done { c with cellar := none }
            else if base.toNat % 4096 ≠ 0 then .trap eAlign (base.setWidth 64)
            else if 0x80000 < base.toNat + size || overPantry c base.toNat size then .trap eBound (base.setWidth 64)
            else done { c with cellar := some (base, size), sram := clearStamps c.sram base.toNat (cellarCount size) }) with
          staticPriv := fun _ c => !c.sys.mode } s

end Sys2Proof.Machine
end

