-- ==== Sys2Proof/Machine/Engine.lean ====
section
/-! DEFINITION. Engine operations: remote copies, sums and atomics, attic accesses, bulk reads and the submission of larder
commands (R208 to R216, R262, R398 to R405, R414). -/

namespace Sys2Proof.Machine

/-! ## Status words and tags (R215, R400) -/

/-- Codes of R216 and R400. -/
def stOk : Nat := 0
/-- SEAL. -/
def stSeal : Nat := 4
/-- RANGE. -/
def stRange : Nat := 5
/-- ABORT. -/
def stAbort : Nat := 6

/-- The next tag after a number of tags: capability requests keep 0 to 3 (R392). -/
def tagAfter (t : BitVec 16) (n : Nat) : BitVec 16 := if 65536 ≤ t.toNat + n then BitVec.ofNat 16 (4 + n) else t + BitVec.ofNat 16 n

/-- The first of n consecutive tags. -/
def tagFirst (t : BitVec 16) (n : Nat) : BitVec 16 := if 65536 ≤ t.toNat + n then 4 else t

/-- The operations in flight, bulk reads included (R405). -/
def inFlight (c : Core) : Nat := c.ops.length + c.breads.length

/-- The ranges in flight (R224, R225, R227). -/
def rangesHeld (c : Core) : Nat := (destRanges c).length + (sourceRanges c).length

/-- Whether a new range conflicts with one in flight (R226). -/
def rangeConflict (c : Core) (src : Bool) (a n : Nat) : Bool :=
  (destRanges c).any (fun r => rangesMeet a n r.1 r.2) ||
    (!src && (sourceRanges c).any fun r => rangesMeet a n r.1 r.2)

/-! ## Addresses (R209 to R213) -/

/-- OFFSET of a core-space address. -/
def offsetOf (v : Word) : Nat := wfield v 0 39

/-- The status of an operation that a check of R211 refuses: in the order listed. -/
def coreAddrStatus (env : Env) (hd : Option Word) (v : Word) (len : Nat) : Option Nat :=
  let t := absTarget env.launch hd v
  if v.getLsbD 63 then some stRange
  else if wfield v 57 6 ≠ 0 then some stRange
  else if hd.isNone && !inShape env.launch v then some stRange
  else if hd.isSome && (decide (224 ≤ t.1) || decide (384 ≤ t.2)) then some stRange
  else if (match hd with | some h => !handleReaches env h 36 t.1 t.2 | none => false) then some stSeal
  else if unavailable env.dev t.1 t.2 then some stRange
  else if 0x80000 < offsetOf v + len || 0x80000 ≤ offsetOf v then some stRange
  else none

/-- The status of an attic operation that R212 or R399 refuses: no attic address, or no bound larder. -/
def atticAddrStatus (env : Env) (v : Word) : Option Nat :=
  if !v.getLsbD 63 || wfield v 48 15 ≠ 0 || (env.launch.bind homeLarder).isNone then some stRange else none

/-! ## Issue of an engine operation (R399) -/

/-- What an engine operation needs at issue: its registers' values and forms. -/
structure EngReq where
  kind : EngKind
  o : EngOp
  hd : Option Word
  remote : Word
  len : Nat
  src : Bool
  lo : Nat
  msgs : Nat
  deriving DecidableEq, Repr

/-- The registers an engine operation reads. -/
def engReads (o : EngOp) (local_ : Bool) : List RegRef :=
  xs (if local_ then [o.xa, o.xd, o.xx, o.handle] else [o.xa, o.xx, o.handle])

/-- The handle of an operation: none for register 0 (R398). -/
def engHandle (env : Env) (c : Core) (o : EngOp) : Option Word := if o.handle = 0 then none else some (env.x c o.handle)

/-- An operation that completes at once: its status word, and 0 in the destination of RAMO and DFADD (R399, R404). -/
def engRefused (c : Core) (o : EngOp) (amo : Bool) (code : Nat) : Out :=
  .ok { core := c, dests := (if amo then [.x o.xd.toNat 0] else []) ++ [.x o.xs.toNat (statusOf code 0)] }

/-- The operation that enters the engine, with its first tag. -/
def engEntry (env : Env) (c : Core) (r : EngReq) (amo : Bool) (sig : Option PutsSignal) : EngineOp :=
  let t := absTarget env.launch r.hd r.remote
  { kind := r.kind, xs := r.o.xs.toNat, xd := if amo then r.o.xd.toNat else 0, tag := tagFirst c.nextTag r.msgs,
    msgs := r.msgs, answers := [], cls := r.o.cls, drow := t.1, dcol := t.2, handle := r.hd.getD 0, lo := r.lo,
    len := if amo then 0 else r.len, src := r.src, signal := sig }

/-- The core once an operation has entered its engine. -/
def enterEngine (c : Core) (e : EngineOp) : Core :=
  { c with ops := c.ops ++ [e], nextTag := tagAfter c.nextTag e.msgs }

/-- The alignment checks of a transfer, in the order of R213. -/
def transferAlign (env : Env) (c : Core) (o : EngOp) : Option Out :=
  let a := env.x c o.xd
  let n := wfield (env.x c o.xx) 0 32
  let r := env.x c o.xa
  if a.toNat % 32 ≠ 0 then some (.trap eAlign a)
  else if n % 32 ≠ 0 || n = 0 then some (.trap eAlign (BitVec.ofNat 64 n))
  else if r.toNat % 32 ≠ 0 then some (.trap eAlign r)
  else none

/-- The bound, conflicts and limits of a transfer's local range (R399, steps 3 and 4). -/
def transferRange (c : Core) (src : Bool) (a : Word) (n : Nat) : Option Out :=
  if !boundOk c a.toNat n then some (.trap eBound a)
  else if rangeConflict c src a.toNat n || 32 ≤ inFlight c || 16 ≤ rangesHeld c then some .stall
  else none

/-- The lengths of the messages of a transfer (R213). -/
def messageCount (len : Nat) : Nat := (len + 3967) / 3968

/-- Bytes of message i of a transfer. -/
def messageLen (len i : Nat) : Nat := min 3968 (len - 3968 * i)

/-- The descriptor flit of a message (R214). -/
def descPayload (toff roff len tag op val1 val2 gen ex : Nat) : BitVec 1024 :=
  payloadOf [(0, toff), (4, roff), (8, len), (12, tag), (14, op), (16, val1), (24, val2), (32, gen), (34, ex)]

/-- The flits of a message from a core to a target, under a handle or not. -/
def coreMessage (env : Env) (cls kind : Nat) (t : Nat × Nat) (hd : Option Word) (desc : Nat → BitVec 1024)
    (data : List Byte) : List Flit :=
  let f := isForeign env (hd.getD 0) t.1 t.2
  let gen := if f then (genOf (hd.getD 0)).toNat else 0
  (messageFlits cls kind t.1 t.2 f env.row env.col (desc gen :: payloads ((data.length + 127) / 128) data)).map
    fun x => { x with gen := BitVec.ofNat 12 gen }

/-- The messages of a transfer: message i covers bytes 3968·i on (R213, R214). -/
def transferFlits (env : Env) (c : Core) (r : EngReq) (kind op ex : Nat) (data : Bool) : List Flit :=
  let t := absTarget env.launch r.hd r.remote
  let tag := tagFirst c.nextTag r.msgs
  (List.range r.msgs).flatMap fun i =>
    let n := messageLen r.len i
    coreMessage env r.o.cls.toNat kind t r.hd
      (fun gen => descPayload (offsetOf r.remote + 3968 * i) (if data then 0 else r.lo + 3968 * i) n (tag.toNat + i) op 0 0 gen ex)
      (if data then c.sram.readBytes (r.lo + 3968 * i) n else [])

/-- A transfer to or from a core, judged in the order of R399; more holds the checks that come after the alignment. -/
def transferBody (kind : EngKind) (fkind op : Nat) (src : Bool) (o : EngOp) (ex : Word → Nat)
    (sig : Env → Core → Option PutsSignal) (refuse : Word → Bool) (env : Env) (c : Core) : Out :=
  match transferAlign env c o with
  | some t => t
  | none =>
    match sig env c with
    | some g => if g.addr.toNat % 8 ≠ 0 then .trap eAlign (g.addr.setWidth 64) else rest (some g)
    | none => rest none
where
  rest (g : Option PutsSignal) : Out :=
    let xx := env.x c o.xx
    let n := wfield xx 0 32
    let a := env.x c o.xd
    match transferRange c src a n with
    | some t => t
    | none =>
      let hd := engHandle env c o
      match coreAddrStatus env hd (env.x c o.xa) n, refuse xx with
      | some code, _ => engRefused c o false code
      | none, true => engRefused c o false stRange
      | none, false =>
        let r : EngReq := ⟨kind, o, hd, env.x c o.xa, n, src, a.toNat, messageCount n⟩
        let fs := transferFlits env c r fkind op (ex xx) src
        done (send (enterEngine c (engEntry env c r false g)) o.cls.toNat fs)

/-- An engine operation: class E, on a class of the launch, not in a handler (R398). -/
def engineOp (i : Instr) (h : Hdr) (o : EngOp) (reads writes : List RegRef) (body : Env → Core → Out) : Op :=
  { mkOp i h .e reads writes body with
    staticPriv := fun env _ => !classAllowed env.launch o.cls.toNat, noHandler := true }

/-- PUT (R401). -/
def execPut (h : Hdr) (o : EngOp) (s : State) : Host.Outcome State Fault Refusal :=
  issue (engineOp (.put h o) h o (engReads o true) (xs [o.xs])
    (transferBody .put 1 0 true o (fun _ => 0) (fun _ _ => none) (fun _ => false))) s

/-- PUTS: the data, then one signal once all of it is acknowledged (R229, R401). -/
def execPuts (h : Hdr) (o : EngOp) (inc : Reg) (s : State) : Host.Outcome State Fault Refusal :=
  issue (engineOp (.puts h o inc) h o (engReads o true ++ xs [inc]) (xs [o.xs])
    (transferBody .puts 1 0 true o (fun _ => 0)
      (fun env c => some ⟨(env.x c o.xx).extractLsb' 32 19, env.x c inc, false⟩) (fun _ => false))) s

/-- GET (R402). -/
def execGet (h : Hdr) (o : EngOp) (s : State) : Host.Outcome State Fault Refusal :=
  issue (engineOp (.get h o) h o (engReads o true) (xs [o.xs])
    (transferBody .get 3 0 false o (fun _ => 0) (fun _ _ => none) (fun _ => false))) s

/-- The operation code of RADD (R214). -/
def raddCode : RaddOp → Nat
  | .addI32 => 1 | .addI64 => 2 | .addF32 => 3 | .maxI32 => 4 | .minI32 => 5 | .addSum => 6

/-- RADD: add.f32 is refused in a deterministic region; EXP belongs to add.sum alone (R235, R403). -/
def execRadd (h : Hdr) (op : RaddOp) (o : EngOp) (s : State) : Host.Outcome State Fault Refusal :=
  issue { engineOp (.radd h op o) h o (engReads o true) (xs [o.xs])
            (transferBody .radd 5 (raddCode op) true o (fun xx => if op = .addSum then wfield xx 32 10 else 0)
              (fun _ _ => none) (fun xx => op ≠ .addSum && wfield xx 32 10 != 0)) with
          detBad := fun _ c => c.sys.det && decide (op = .addF32) } s

/-- The body of RAMO and DFADD: one request for one 8-byte word (R404). -/
def amoBody (kind : EngKind) (op : Nat) (o : EngOp) (val1 val2 : Env → Core → Word) (env : Env) (c : Core) : Out :=
  let v := env.x c o.xa
  if v.toNat % 8 ≠ 0 then .trap eAlign v
  else if 32 ≤ inFlight c then .stall
  else
    let hd := engHandle env c o
    match coreAddrStatus env hd v 8 with
    | some code => engRefused c o true code
    | none =>
      let r : EngReq := ⟨kind, o, hd, v, 8, true, 0, 1⟩
      let t := absTarget env.launch hd v
      let tag := tagFirst c.nextTag 1
      let fs := coreMessage env o.cls.toNat 6 t hd
        (fun gen => descPayload (offsetOf v) 0 0 tag.toNat op (val1 env c).toNat (val2 env c).toNat gen 0) []
      done (send (enterEngine c (engEntry env c r true none)) o.cls.toNat fs)

/-- The operation code of RAMO (R214). -/
def ramoCode : RamoOp → Nat
  | .add => 1 | .swap => 2 | .cas => 3

/-- RAMO: refused in a deterministic region; cas sends the compare value first (R235, R404). -/
def execRamo (h : Hdr) (op : RamoOp) (o : EngOp) (cmp : Reg) (s : State) : Host.Outcome State Fault Refusal :=
  issue { engineOp (.ramo h op o cmp) h o (engReads o false ++ if op = .cas then xs [cmp] else []) (xs [o.xs, o.xd])
            (amoBody .ramo (ramoCode op) o (fun env c => if op = .cas then env.x c cmp else env.x c o.xx)
              (fun env c => if op = .cas then env.x c o.xx else 0)) with
          detBad := fun _ c => c.sys.det } s

/-- DFADD (R236, R404). -/
def execDfadd (h : Hdr) (o : EngOp) (s : State) : Host.Outcome State Fault Refusal :=
  issue (engineOp (.dfadd h o) h o (engReads o false) (xs [o.xs, o.xd])
    (amoBody .dfadd 4 o (fun env c => env.x c o.xx) (fun _ _ => 0))) s

/-! ## The attic (R405) -/

/-- The descriptor of a message to a home larder: a WRITE with its data, or an RDREQ that names where the data goes. R214 has no
field for an attic address: the VA stands in bytes 16 to 23, and in bytes 24 to 27 the operation's first tag and its number of
messages, by which the larder stops the whole of it (log entry 40, DESIGN CHOICE). -/
def atticDesc (write : Bool) (va loc len tag first msgs : Nat) : BitVec 1024 :=
  payloadOf [(4, if write then 0 else loc), (8, len), (12, tag), (16, va), (24, first), (26, msgs)]

/-- The messages of an attic access to larder k: message i covers bytes 3968·i on (R213, R405). -/
def atticFlits (env : Env) (c : Core) (cls k : Nat) (write : Bool) (va loc len : Nat) : List Flit :=
  let n := messageCount len
  let tag := (tagFirst c.nextTag n).toNat
  (List.range n).flatMap fun i =>
    let m := messageLen len i
    messageFlits cls (if write then 1 else 3) (larderRow k) (larderCol k) false env.row env.col
      (atticDesc write ((va + 3968 * i) % 2 ^ 48) (loc + 3968 * i) m (tag + i) tag n ::
        if write then payloads ((m + 127) / 128) (c.sram.readBytes (loc + 3968 * i) m) else [])

/-- An attic access: messages to the home larder of the launch, on the operation's class (R405). -/
def atticBody (kind : EngKind) (write : Bool) (o : EngOp) (env : Env) (c : Core) : Out :=
  match transferAlign env c o with
  | some t => t
  | none =>
    let n := wfield (env.x c o.xx) 0 32
    let a := env.x c o.xd
    let v := env.x c o.xa
    match transferRange c write a n with
    | some t => t
    | none =>
      match atticAddrStatus env v, env.launch.bind homeLarder with
      | none, some k =>
        let r : EngReq := ⟨kind, o, none, 0, n, write, a.toNat, messageCount n⟩
        let e := { engEntry env c r false none with drow := larderRow k, dcol := larderCol k }
        done (send (enterEngine c e) o.cls.toNat (atticFlits env c o.cls.toNat k write (v.toNat % 2 ^ 48) a.toNat n))
      | _, _ => engRefused c o false stRange

/-- AWRITE (R405). -/
def execAwrite (h : Hdr) (o : EngOp) (s : State) : Host.Outcome State Fault Refusal :=
  issue (engineOp (.awrite h o) h o (engReads o true) (xs [o.xs]) (atticBody .awrite true o)) s

/-- AREAD (R405). -/
def execAread (h : Hdr) (o : EngOp) (s : State) : Host.Outcome State Fault Refusal :=
  issue (engineOp (.aread h o) h o (engReads o true) (xs [o.xs]) (atticBody .aread false o)) s

/-! ## Bulk reads (R262 to R267) -/

/-- The descriptor of a bulk read, where every field is within its limits (R262). -/
def readDesc (m : Memory) (a : Nat) : Option BreadDesc :=
  let f := fun k n => m.readLE (a + k) n
  let stride := sext (f 8 8) 64
  let direct := f 0x28 1 % 2 == 1
  let ok := f 0 4 % 32 == 0 && decide (32 ≤ f 0 4) && decide (f 0 4 ≤ 2 ^ 24) && decide (1 ≤ f 4 4) && decide (f 4 4 ≤ 2 ^ 20) &&
    stride % 32 == 0 && f 0x10 4 % 32 == 0 && f 0x14 4 % 32 == 0 && f 0x28 8 / 2 == 0 &&
    (!direct || (f 0x20 4 % 32 == 0 && f 0x24 4 % 32 == 0))
  if ok then
    some ⟨f 0 4, f 4 4, stride, f 0x10 4, f 0x14 4, f 0x18 4, f 0x1C 4, f 0x20 4, f 0x24 4, direct⟩
  else none

/-- The lowest and highest-plus-one byte offsets of a bulk read from its source. -/
def extentOf (d : BreadDesc) : Int × Int :=
  let x1 := min d.x1 d.width
  let first : Int := d.y0 * d.stride
  let last : Int := (min d.y1 d.height - 1 : Nat) * d.stride
  (min first last + d.x0, max first last + x1)

/-- The status of a bulk read whose source a check of R211 or R212 refuses, over the whole of its extent (R262). -/
def breadStatus (env : Env) (v : Word) (d : BreadDesc) : Option Nat :=
  let x := extentOf d
  if v.getLsbD 63 then
    match atticAddrStatus env v with
    | some code => some code
    | none =>
      let a : Int := (wfield v 0 48 : Nat)
      if burstTotal d ≠ 0 && (decide (a + x.1 < 0) || decide (2 ^ 48 < a + x.2)) then some stRange else none
  else
    match coreAddrStatus env none v 0 with
    | some code => some code
    | none =>
      if burstTotal d ≠ 0 && (decide ((offsetOf v : Int) + x.1 < 0) || decide (0x80000 < (offsetOf v : Int) + x.2)) then
        some stRange
      else none

/-- A bulk read that completes at once: status and event flag (R262, R266). -/
def breadAtOnce (c : Core) (r : Reg) (ev : BitVec 5) (code : Nat) : Out :=
  .ok { core := setEvents c (1#32 <<< ev.toNat), dests := [.x r.toNat (statusOf code 0)] }

/-- The lowest free bulk-read tag (R262). -/
def breadTag (c : Core) : Option Nat := (List.range 8).find? fun t => (ffind c.breads t).isNone

/-- BREAD (R262 to R267). -/
def execBread (h : Hdr) (sr xa xd xx : Reg) (ev : BitVec 5) (he : BitVec 16) (s : State) :
    Host.Outcome State Fault Refusal :=
  issue { mkOp (.bread h sr xa xd xx ev he) h .e (xs [xa, xd, xx]) (xs [sr]) (fun env c =>
            let a := (env.x c xd).toNat
            let v := env.x c xa
            match checkAccess c loads 8 48 [a] with
            | some o => o
            | none =>
              match readDesc c.sram a with
              | none => breadAtOnce c sr ev stRange
              | some d =>
                let dr := directRange d
                if d.direct && dr.2 != 0 && !boundOk c dr.1 dr.2 then .trap eBound (BitVec.ofNat 64 d.dest)
                else if (d.direct && (rangeConflict c false dr.1 dr.2 || decide (16 ≤ rangesHeld c))) || 32 ≤ inFlight c then .stall
                else
                  match breadTag c with
                  | none => .stall
                  | some tag =>
                    match breadStatus env v d with
                    | some code => breadAtOnce c sr ev code
                    | none =>
                      if burstTotal d = 0 then breadAtOnce c sr ev stOk
                      else
                        let b : Bread := ⟨sr.toNat, ev, he, env.x c xx, v, d, burstTotal d, 0, 0, 0, 0, false⟩
                        let posts :=
                          if v.getLsbD 63 then
                            match env.launch, env.launch.bind homeLarder with
                            | some l, some k =>
                              [Post.serve k ⟨l.num, tag, ev, v, env.row, env.col, d, env.x c xx, he, 0, 0⟩]
                            | _, _ => []
                          else
                            let t := absTarget env.launch none v
                            [Post.source (keyOf t.1 t.2) ⟨env.row, env.col, tag, offsetOf v, d, 0⟩]
                        .ok { core := { c with breads := fset c.breads tag b }, posts := posts }) with
          noHandler := true } s

/-! ## Larder commands (R242, R243, R414, R415) -/

/-- What a class-29 flit carries to a larder: an operation code (0 START.list, 1 START.ring, 2 STOP, 3 CSIG, 4 LSUB),
the context, LOGN, a tag, a VA and a command. The spec names these operands and no layout (log entry 14). -/
def larderPayload (op ctx logn tag va w0 w1 : Nat) : BitVec 1024 :=
  payloadOf [(0, op), (1, ctx), (2, logn), (4, tag), (8, va), (16, w0), (24, w1)]

/-- A class-29 flit from a core to a larder. -/
def larderFlits (env : Env) (n : Nat) (p : BitVec 1024) : List Flit :=
  messageFlits 29 0 (larderRow n) (larderCol n) false env.row env.col [p]

/-- LSUB (R243, R414): the command is read at issue. -/
def execLsub (h : Hdr) (sr xa : Reg) (q : BitVec 4) (s : State) : Host.Outcome State Fault Refusal :=
  issue { mkOp (.lsub h sr xa q) h .e (xs [xa] ++ [.q q.toNat]) (xs [sr]) (fun env c =>
            match readQ c q.toNat with
            | .larder n k =>
              let a := (env.x c xa).toNat
              match checkAccess c loads 16 16 [a] with
              | some o => o
              | none =>
                if 32 ≤ inFlight c || !inputFree c 29 then .stall
                else
                  let tag := tagFirst c.nextTag 1
                  let e : EngineOp :=
                    { kind := .lsub, xs := sr.toNat, xd := 0, tag := tag, msgs := 1, answers := [], cls := 29, drow := larderRow n,
                      dcol := larderCol n, handle := 0, lo := 0, len := 0, src := true, signal := none }
                  done (send (enterEngine c e) 29
                    (larderFlits env n (larderPayload 4 k 0 tag.toNat 0 (c.sram.readLE a 8) (c.sram.readLE (a + 8) 8))))
            | _ => badQueue q) with
          noHandler := true } s

end Sys2Proof.Machine
end

