-- ==== Sys2Proof/Machine/Sync.lean ====
section
/-! DEFINITION. Waits on signal words, fences, barriers and local event flags (R229 to R233, R406 to R410). -/

namespace Sys2Proof.Machine

/-! ## Waits and fences -/

/-- WAITS: until the word at x[S1] is at least x[S2], now or as it was read in an earlier cycle of the wait (R230, R406). -/
def execWaits (h : Hdr) (a b : Reg) (s : State) : Host.Outcome State Fault Refusal :=
  issue { mkOp (.waits h a b) h .b (xs [a, b]) [] (fun env c =>
            unlessOpen c (
              let ea := (env.x c a).toNat
              match checkAccess c loads 8 8 [ea] with
              | some .stall | none => if c.wait = .met ∨ (env.x c b).toNat ≤ (c.sram.word ea).toNat then done c else .wait c .instr
              | some o => o)) with
          noHandler := true } s

/-- Whether a target lies within a scope of a core (R9, R232). -/
def inScope (sc : Scope) (key target : Nat) : Bool :=
  match sc with
  | .lane | .core => target == key
  | .quad => rowOf target / 2 == rowOf key / 2 && colOf target / 2 == colOf key / 2
  | .field => rowOf target / 32 == rowOf key / 32 && colOf target / 32 == colOf key / 32
  | .wafer | .pod => true

/-- Whether an operation in flight is a remote write that a fence at a scope waits for (R232). -/
def fenceWaits (sc : Scope) (key : Nat) (o : EngineOp) : Bool :=
  match o.kind with
  | .put | .puts | .radd | .ramo | .dfadd => inScope sc key (keyOf o.drow o.dcol)
  | .awrite => match sc with | .wafer | .pod => true | _ => false
  | _ => false

/-- The tags that a fence at a scope waits for: remote writes and capability requests within it (R232, R407). -/
def fenceTags (sc : Scope) (key : Nat) (c : Core) : List Nat :=
  ((c.ops.filter (fenceWaits sc key)).map fun o => o.tag.toNat) ++
    (c.caps.filter fun x => inScope sc key x.2).map (·.1)

/-- FENCE (R232, R407). -/
def execFence (h : Hdr) (sc : Scope) (s : State) : Host.Outcome State Fault Refusal :=
  issue { mkOp (.fence h sc) h .b [] [] (fun env c => if (fenceTags sc env.key c).isEmpty then done c else .stall) with
          noHandler := true } s

/-! ## Barriers (R135, R233, R408, R409) -/

/-- The place of a barrier id in the arrival bits of R93. -/
def barBit (sc : Scope) (id : BitVec 3) : Nat :=
  match sc with
  | .quad => id.toNat
  | .field => 4 + id.toNat
  | .wafer => 12 + id.toNat
  | .pod => 20 + id.toNat
  | .lane | .core => id.toNat

/-- Whether the launch's image holds a barrier id. -/
def holdsBarrier (l : Option Launch) (sc : Scope) (id : BitVec 3) : Bool :=
  match l with
  | none => false
  | some l =>
    match sc with
    | .quad => l.quadBar.getLsbD id.toNat
    | .field => l.fieldBar.getLsbD id.toNat
    | .wafer => l.waferBar.getLsbD id.toNat
    | .pod => l.podBar.getLsbD id.toNat
    | .lane | .core => false

/-- A core's arrival at a barrier (R409), sent once the fence at that scope is satisfied (R233). -/
def arrive (env : Env) (c : Core) (sc : Scope) (id : BitVec 3) : Core :=
  let n := barBit sc id
  let tags := fenceTags sc env.key c
  { c with arrivals := c.arrivals ||| (1#24 <<< n),
           fencing := if tags.isEmpty then fdel c.fencing n else fset c.fencing n tags }

/-- A barrier instruction: its id must be one of the image's (R408). -/
def barOp (i : Instr) (h : Hdr) (cls : LaClass) (sc : Scope) (id : BitVec 3) (body : Env → Core → Out) : Op :=
  { mkOp i h cls [] [] body with staticPriv := fun env _ => !holdsBarrier env.launch sc id, noHandler := true }

/-- BARA: stalls while the core's last arrival has not released (R409). -/
def execBara (h : Hdr) (id : BitVec 3) (sc : Scope) (s : State) : Host.Outcome State Fault Refusal :=
  issue (barOp (.bara h id sc) h .s sc id fun env c =>
    if c.arrivals.getLsbD (barBit sc id) then .stall else done (arrive env c sc id)) s

/-- The wait phase of a barrier: until the instance of the core's arrival has released (R409). -/
def waitBarrier (c : Core) (sc : Scope) (id : BitVec 3) : Out :=
  if c.arrivals.getLsbD (barBit sc id) then .wait c (.barrier sc id) else done c

/-- BARW (R409). -/
def execBarw (h : Hdr) (id : BitVec 3) (sc : Scope) (s : State) : Host.Outcome State Fault Refusal :=
  issue (barOp (.barw h id sc) h .b sc id fun _ c => unlessOpen c (waitBarrier c sc id)) s

/-- BAR: the arrival, then the wait; resumed in its wait phase it does not arrive again (R90, R233). -/
def execBar (h : Hdr) (id : BitVec 3) (sc : Scope) (s : State) : Host.Outcome State Fault Refusal :=
  issue (barOp (.bar h id sc) h .b sc id fun env c =>
    unlessOpen c (
      if c.wait = .barrier sc id then waitBarrier c sc id
      else if c.arrivals.getLsbD (barBit sc id) then .stall
      else .wait (arrive env c sc id) (.barrier sc id))) s

/-! ## Events (R410) -/

/-- A body that leaves EVFLAGS changed. -/
def eventBody (f : Env → Core → BitVec 32) (env : Env) (c : Core) : Out := done (putEvents c (f env c))

/-- EVSET of one flag. -/
def execEvset (h : Hdr) (k : BitVec 5) (s : State) : Host.Outcome State Fault Refusal :=
  issue (mkOp (.evset h k) h .s [] [] (eventBody fun _ c => c.sys.evflags ||| (1#32 <<< k.toNat))) s

/-- EVSET.m. -/
def execEvsetM (h : Hdr) (a : Reg) (s : State) : Host.Outcome State Fault Refusal :=
  issue (mkOp (.evsetM h a) h .s (xs [a]) [] (eventBody fun env c => c.sys.evflags ||| (env.x c a).setWidth 32)) s

/-- EVCLR of one flag. -/
def execEvclr (h : Hdr) (k : BitVec 5) (s : State) : Host.Outcome State Fault Refusal :=
  issue (mkOp (.evclr h k) h .s [] [] (eventBody fun _ c => c.sys.evflags &&& ~~~(1#32 <<< k.toNat))) s

/-- EVCLR.m. -/
def execEvclrM (h : Hdr) (a : Reg) (s : State) : Host.Outcome State Fault Refusal :=
  issue (mkOp (.evclrM h a) h .s (xs [a]) [] (eventBody fun env c => c.sys.evflags &&& ~~~((env.x c a).setWidth 32))) s

/-- EVRD. -/
def execEvrd (h : Hdr) (d : Reg) (s : State) : Host.Outcome State Fault Refusal :=
  issue (mkOp (.evrd h d) h .s [] (xs [d]) fun _ c => wx c d (c.sys.evflags.setWidth 64)) s

end Sys2Proof.Machine
end

