-- ==== Sys2Proof/Machine/HandlerOps.lean ====
section
/-! DEFINITION. Handler instructions, pantries and larder control (R258 to R261, R411 to R415). -/

namespace Sys2Proof.Machine

/-! ## Handlers (R130, R411 to R413) -/

/-- The handler context of an instruction. -/
def envHandler (env : Env) (c : Core) : Handler := match env.ctx with | .handler k => handlerAt c k | .main => {}

/-- HEND: the context ends and its burst is handled (R130, R411). -/
def execHend (h : Hdr) (s : State) : Host.Outcome State Fault Refusal :=
  issue { mkOp (.hend h) h .s [] [] (fun env c =>
            match env.ctx with
            | .handler k => .ok { core := endHandler c k false, stays := true }
            | .main => done c) with
          noMain := true } s

/-- HMOV: a coordinate of the burst (R411). -/
def execHmov (h : Hdr) (d : Reg) (src : BurstCoord) (s : State) : Host.Outcome State Fault Refusal :=
  issue { mkOp (.hmov h d src) h .s [] (xs [d]) (fun env c =>
            let x := envHandler env c
            wx c d (match src with
              | .bix => x.bix.setWidth 64
              | .bxc => x.bxc.setWidth 64
              | .byc => x.byc.setWidth 64
              | .bcnt => x.bcnt.setWidth 64)) with
          noMain := true } s

/-- HST: the valid part of the burst, as accesses of one size (R412). -/
def execHst (h : Hdr) (sz : StSize) (m : MemOp) (s : State) : Host.Outcome State Fault Refusal :=
  issue { mkOp (.hst h sz m) h .s (memRefs m ++ [.v 0, .v 1]) [] (fun env c =>
            let a := (effAddr env c m).toNat
            let n := (envHandler env c).bcnt.toNat
            let w := stBytes sz
            let bits := (readV c env.ctx 0).toNat + (readV c env.ctx 1).toNat * 2 ^ 512
            withAccess c stores w w ((List.range (n / w)).map fun i => a + w * i)
              (done (storeBytes c a (leBytes bits n)))) with
          noMain := true } s

/-- A lane of HADD. -/
def haddLane (sz : StSize) (fp : Bool) (x y : Nat) : FRes :=
  if fp then addF .f32 .rne (readF .f32 x) (readF .f32 y) else laneVal ((x + y) % 2 ^ (8 * stBytes sz))

/-- HADD: a register added lane by lane into 64 bytes of SRAM (R413). -/
def execHadd (h : Hdr) (sz : StSize) (fp : Bool) (d : VReg) (m : MemOp) (s : State) : Host.Outcome State Fault Refusal :=
  issue (mkOp (.hadd h sz fp d m) h .s (.v d.toNat :: memRefs m) [] fun env c =>
    let a := (effAddr env c m).toNat
    withAccess c updates 64 64 [a] (
      let w := 8 * stBytes sz
      let old := BitVec.ofNat 512 (c.sram.readLE a 64)
      let rs := (List.range (512 / w)).map fun i => haddLane sz fp (lane w old i) (lane w (env.v c d) i)
      .ok { core := storeBytes c a (byteSlice (packV w (rs.map (·.bits))) 0 64),
            flags := rs.foldl (fun f r => f ||| r.flags) 0 })) s

/-! ## Pantries (R258 to R261, R414) -/

/-- A misuse of a pantry: E_BOUND with its base (R261). -/
def badPantry (p : Pantry) : Out := .trap eBound (p.base.setWidth 64)

/-- A body on a valid pantry (R261). -/
def onPantry (c : Core) (p : BitVec 3) (k : Pantry → Out) : Out :=
  let x := pantryAt c p.toNat
  if x.valid then k x else badPantry x

/-- The free sectors of an outbound pantry (R260). -/
def pantryFree (p : Pantry) : Nat := pantryW p - (p.rel - p.fill).toNat

/-- The count operand of a pantry instruction. -/
def countOf (env : Env) (c : Core) (a : Reg) : Nat := wfield (env.x c a) 0 32

/-- PWAIT (R231, R261). -/
def execPwait (h : Hdr) (p : BitVec 3) (a : Reg) (s : State) : Host.Outcome State Fault Refusal :=
  issue { mkOp (.pwait h p a) h .b (xs [a]) [] (fun env c =>
            unlessOpen c (onPantry c p fun x =>
              let n := countOf env c a
              if pantryW x < n then badPantry x
              else if n ≤ (if x.outbound then pantryFree x else pantryAvail x) then done c
              else .wait c .instr)) with
          noHandler := true } s

/-- PREL: releases sectors, or publishes them (R260, R261). -/
def execPrel (h : Hdr) (p : BitVec 3) (a : Reg) (s : State) : Host.Outcome State Fault Refusal :=
  issue (mkOp (.prel h p a) h .s (xs [a]) [] fun env c =>
    onPantry c p fun x =>
      let n := countOf env c a
      if (if x.outbound then pantryFree x else (x.cur - x.rel).toNat) < n then badPantry x
      else done (setPantry c p.toNat { x with rel := x.rel + BitVec.ofNat 32 n })) s

/-- PCUR (R261). -/
def execPcur (h : Hdr) (d : Reg) (p : BitVec 3) (a : Reg) (s : State) : Host.Outcome State Fault Refusal :=
  issue (mkOp (.pcur h d p a) h .s (xs [a]) (xs [d]) fun env c =>
    onPantry c p fun x =>
      let n := countOf env c a
      if x.outbound then
        if n ≠ 0 then badPantry x else wx c d (BitVec.ofNat 64 (sectorAddr x x.rel))
      else if pantryAvail x < n then badPantry x
      else
        wx (setPantry c p.toNat { x with cur := x.cur + BitVec.ofNat 32 n }) d (BitVec.ofNat 64 (sectorAddr x x.cur))) s

/-- Whether a window overlaps the cellar or a valid pantry other than p (R261). -/
def windowTaken (c : Core) (p a n : Nat) : Bool :=
  inCellar c a n ||
    (List.range 8).any fun q =>
      let x := pantryAt c q
      q != p && x.valid && rangesMeet a n x.base.toNat (2 ^ x.logsz)

/-- Whether a pantry belongs to an earlier launch: it is valid, and no PSET of the present one has set it (R140). -/
def strangePantry (c : Core) (p : BitVec 3) : Bool := (pantryAt c p.toNat).valid && !c.own.getLsbD p.toNat

/-- PSET: in user mode, E_PRIV on a pantry that is not the launch's own (R140, R261). -/
def execPset (h : Hdr) (p : BitVec 3) (a : Reg) (s : State) : Host.Outcome State Fault Refusal :=
  issue { mkOp (.pset h p a) h .s (xs [a]) [] (fun env c =>
    let v := env.x c a
    let base : BitVec 19 := v.setWidth 19
    let lz := wfield v 20 3
    let size := 2 ^ (lz + 12)
    if 6 < lz then .trap eBound (base.setWidth 64)
    else if base.toNat % size ≠ 0 then .trap eAlign (base.setWidth 64)
    else if windowTaken c p.toNat base.toNat size then .trap eBound (base.setWidth 64)
    else
      done (resetPantry { c with own := c.own ||| (1#8 <<< p.toNat) } p.toNat
        { base := base, logsz := lz + 12, valid := v.getLsbD 25, outbound := v.getLsbD 24, sets := (pantryAt c p.toNat).sets + 1 })) with
          dynPriv := fun _ c => !c.sys.mode && strangePantry c p } s

/-! ## Larder control (R242, R415) -/

/-- A larder control operation: on a larder the launch binds; E_PRIV in user mode and no effect in system mode on one it
does not; E_BOUND on a number that names no larder (R140, R242, R415). -/
def lctlOp (i : Instr) (h : Hdr) (a : Reg) (more : List Reg) (op : Nat) (va : Env → Core → Nat) : Op :=
  { mkOp i h .s (xs (a :: more)) [] (fun env c =>
      let v := env.x c a
      let n := wfield v 0 6
      if 47 < n then .trap eBound v
      else if !bindsLarder env.launch n then done c
      else if !inputFree c 29 then .stall
      else done (send c 29 (larderFlits env n (larderPayload op (wfield v 8 4) (wfield v 16 4) 0 (va env c) 0 0)))) with
    dynPriv := fun env c =>
      let n := wfield (env.x c a) 0 6
      !c.sys.mode && decide (n ≤ 47) && !bindsLarder env.launch n }

/-- LCTL.start. -/
def execLctlStart (h : Hdr) (a v : Reg) (s : State) : Host.Outcome State Fault Refusal :=
  issue (lctlOp (.lctlStart h a v) h a [v] 0 fun env c => wfield (env.x c v) 0 48) s

/-- LCTL.ring. -/
def execLctlRing (h : Hdr) (a v : Reg) (s : State) : Host.Outcome State Fault Refusal :=
  issue (lctlOp (.lctlRing h a v) h a [v] 1 fun env c => wfield (env.x c v) 0 48) s

/-- LCTL.stop. -/
def execLctlStop (h : Hdr) (a : Reg) (s : State) : Host.Outcome State Fault Refusal :=
  issue (lctlOp (.lctlStop h a) h a [] 2 fun _ _ => 0) s

/-- LCTL.csig. -/
def execLctlCsig (h : Hdr) (a : Reg) (s : State) : Host.Outcome State Fault Refusal :=
  issue (lctlOp (.lctlCsig h a) h a [] 3 fun _ _ => 0) s

end Sys2Proof.Machine
end

