-- ==== Sys2Proof/Machine/Fabric.lean ====
section
/-! DEFINITION. The fabric: how routers choose outputs, arbitrate and move flits (R151 to R159, R170 to R176), how they
merge (R160 to R163, R197, R199) and how renormalisations travel (R164, R165, R200, R201). -/

namespace Sys2Proof.Machine

/-! ## Directions and edges (R151, R153) -/

/-- The number of a direction: N, E, S, W, local. -/
def dirCode : Dir → Nat
  | .n => 0
  | .e => 1
  | .s => 2
  | .w => 3
  | .l => 4

/-- The direction facing a mesh direction. -/
def facing (d : Nat) : Nat := if d < 4 then (d + 2) % 4 else d

/-- The bit of a direction in an output set. -/
def dirBit (d : Nat) : BitVec 5 := 1#5 <<< d

/-- The larder at a logical row of the west or east edge. -/
def larderUnit (row : Nat) (east : Bool) : Option Attach :=
  if row % 9 = 4 ∧ row < 216 then some (.larder (row / 9 + if east then 24 else 0)) else none

/-- What is attached across the edge of the logical grid at a core, in a direction (R151). -/
def unitAt (row col o : Nat) : Option Attach :=
  if o = 0 then if row = 0 ∧ col % 12 = 6 then some (.poluri (col / 12)) else none
  else if o = 1 then if col = 383 then larderUnit row true else none
  else if o = 2 then if row = 223 ∧ col % 12 = 6 then some (.poluri (32 + col / 12)) else none
  else if o = 3 ∧ col = 0 then if row = 111 then some .cmd else larderUnit row false
  else none

/-- Whether a direction leads across the edge of the logical grid. -/
def crossesEdge (row col o : Nat) : Bool :=
  (o == 0 && row == 0) || (o == 1 && col == 383) || (o == 2 && row == 223) || (o == 3 && col == 0)

/-- Where a link leads: another router, an attachment, or nowhere. -/
inductive Lead where
  | router (k : Nat)
  | unit (a : Attach)
  | off
  deriving DecidableEq, Repr

/-- The attachment across the physical edge at a router, by the logical line it carries. -/
def edgeLead (d : Device) (prow pcol o : Nat) : Lead :=
  let line := if o = 0 ∨ o = 2 then carried d.retiredCols pcol else carried d.retiredRows prow
  match line.bind fun n => if o = 0 then unitAt 0 n 0 else if o = 1 then unitAt n 383 1 else if o = 2 then unitAt 223 n 2 else unitAt n 0 3 with
  | some a => .unit a
  | none => .off

/-- Where output o of a physical router leads. -/
def leadOf (d : Device) (k o : Nat) : Lead :=
  let r := rowOf k
  let c := colOf k
  if o = 0 then if r = 0 then edgeLead d r c o else .router (keyOf (r - 1) c)
  else if o = 1 then if c = 395 then edgeLead d r c o else .router (keyOf r (c + 1))
  else if o = 2 then if r = 230 then edgeLead d r c o else .router (keyOf (r + 1) c)
  else if o = 3 then if c = 0 then edgeLead d r c o else .router (keyOf r (c - 1))
  else .off

/-- The physical router beside an attachment and the input it feeds. -/
def entryRouter (d : Device) : Attach → Option (Nat × Nat)
  | .larder n => (prowOf d (larderRow n)).map fun r => if n < 24 then (keyOf r 0, 3) else (keyOf r 395, 1)
  | .cmd => (prowOf d cmdRow).map fun r => (keyOf r 0, 3)
  | .poluri n => (pcolOf d (12 * (n % 32) + 6)).map fun c => if n < 32 then (keyOf 0 c, 0) else (keyOf 230 c, 2)

/-! ## Inputs of a router -/

/-- The logical coordinate of a physical router. -/
def placeOf (s : State) (k : Nat) : Option (Nat × Nat) := logicalOf s.dev (rowOf k) (colOf k)

/-- The flits in an input of a router; the local input holds the first two of what the core sends (R157). -/
def inputFlits (s : State) (k : Nat) (lg : Option (Nat × Nat)) (d cls : Nat) : List Flit :=
  if d < 4 then fget (routerAt s k).inp (32 * d + cls) []
  else
    match lg with
    | some (r, c) => (egressOf (coreAt s (keyOf r c)) cls).take 2
    | none => []

/-- The state with the flits of an input replaced by a change to them. -/
def changeInput (s : State) (k : Nat) (lg : Option (Nat × Nat)) (d cls : Nat) (f : List Flit → List Flit) : State :=
  if d < 4 then let r := routerAt s k; setRouter s k { r with inp := fmod r.inp (32 * d + cls) [] f }
  else
    match lg with
    | some (r, c) => modCore s (keyOf r c) fun x => { x with egress := fmod x.egress cls [] f }
    | none => s

/-- The routing entry in force at a router for a class (R152, R153). -/
def entryHere (s : State) (lg : Option (Nat × Nat)) (cls : Nat) : BitVec 32 :=
  match lg with
  | some (r, c) => routeEntry (coreAt s (keyOf r c)) cls
  | none => 0

/-- The entry of an input's head noted as it becomes the head (R159). -/
def noteHead (s : State) (k : Nat) (lg : Option (Nat × Nat)) (d cls : Nat) : State :=
  let r := routerAt s k
  let i := 32 * d + cls
  if (inputFlits s k lg d cls).isEmpty then setRouter s k { r with entry := fdel r.entry i }
  else setRouter s k { r with entry := fset r.entry i (entryHere s lg cls) }

/-- The entry by which an input's head is routed. -/
def headEntry (s : State) (k : Nat) (lg : Option (Nat × Nat)) (d cls : Nat) : BitVec 32 :=
  (ffind (routerAt s k).entry (32 * d + cls)).getD (entryHere s lg cls)

/-- An input without its head. -/
def dropHead (s : State) (k : Nat) (lg : Option (Nat × Nat)) (d cls : Nat) : State :=
  let s := changeInput s k lg d cls List.tail
  let r := routerAt s k
  noteHead (setRouter s k { r with served := fdel r.served (32 * d + cls) }) k lg d cls

/-- A flit that has arrived at a mesh input. -/
def arriveInput (s : State) (k d cls : Nat) (f : Flit) : State :=
  let lg := placeOf s k
  let first := (inputFlits s k lg d cls).isEmpty
  let s := changeInput s k lg d cls (· ++ [f])
  if first then noteHead s k lg d cls else s

/-! ## Routes (R155, R156, R165, R171, R175) -/

/-- The flits of the message that a first flit opens: PSUM, STAT and the like are single (R149). -/
def messageSize (f : Flit) : Nat := if flitKind f = 10 then 1 else flitLen f + 1

/-- The YX step: rows first. -/
def yxStep (row col drow dcol : Nat) : Nat :=
  if row < targetRow drow then 2 else if targetRow drow < row then 0
  else if col < targetCol dcol then 1 else if targetCol dcol < col then 3 else finalOut drow dcol

/-- The flits an output holds of a class. -/
def outFlits (r : Router) (o cls : Nat) : List Flit := fget r.out (32 * o + cls) []

/-- The ADAPT step: the productive output that holds fewer flits of the class, the X direction on a tie. -/
def adaptStep (r : Router) (row col drow dcol cls : Nat) : Nat :=
  let x := xyStep row col drow dcol
  let y := yxStep row col drow dcol
  if (outFlits r y cls).length < (outFlits r x cls).length then y else x

/-- Whether a flit's source lies in the region of a core; a PSUM flit names no source and never leaves its region
unless FOREIGN (R149, R156). -/
def ownSource (s : State) (row col : Nat) (f : Flit) : Bool :=
  flitKind f == 10 || match launchOf s row col with | some l => inRegion l (flitSrow f) (flitScol f) | none => false

/-- Whether a router applies its entry for a program class to a flit (R156); one with an edge code goes by XY (R151). -/
def entryApplies (s : State) (row col cls : Nat) (f : Flit) : Bool :=
  decide (cls < 24) && !flitForeign f && !f.xy && flitKind f != 13 && decide (flitDrow f < 510) && decide (flitDcol f < 510) &&
    ownSource s row col f

/-- Whether an entry makes its router a merge node for a flit: with several inputs, or with one that a floor may align
(R160, R199). -/
def waitsToMerge (e : BitVec 32) (f : Flit) : Bool :=
  e.extractLsb' 0 2 == 3 && decide (1 ≤ routeMerge e) && decide (routeMerge e ≤ 3) &&
    (decide (2 ≤ (mergeInputs e).length) || (routeMerge e == 3 && flitKind f == 10))

/-- Whether the class that a drain marker names is YX: by the entry of its launch's region, the same wherever the marker stands
(R171). -/
def markerYx (s : State) (f : Flit) : Bool :=
  match s.unrid.launches.find? fun l => l.num % 4096 == flitField f 2 2 with
  | some l => (routeEntry (coreAt s (keyOf l.orgRow l.orgCol)) (flitField f 0 1)).extractLsb' 0 2 == 1
  | none => false

/-- The outputs of a drain marker: along the source's row and down every column of the rectangle, or along its column and
across every row where the class is YX (R171). -/
def markerOuts (yx : Bool) (row col d : Nat) (f : Flit) : BitVec 5 :=
  let src := flitField f 1 1
  let west := decide (src < 24) || src == 48
  let srow := if src < 48 then larderRow src else cmdRow
  let scol := if west then 0 else 383
  let r0 := flitField f 4 2 % 512
  let c0 := flitField f 6 2 % 512
  let r1 := r0 + flitField f 8 2 % 512
  let c1 := c0 + flitField f 10 2 % 512
  let inRows := decide (r0 ≤ row) && decide (row < r1)
  let inCols := decide (c0 ≤ col) && decide (col < c1)
  let up := if r0 < row then dirBit 0 else 0
  let down := if row + 1 < r1 then dirBit 2 else 0
  let on := if west then if col + 1 < c1 then dirBit 1 else 0 else if c0 < col then dirBit 3 else 0
  let here := if inRows && inCols then dirBit 4 else 0
  let turn := if inRows then on else 0
  if yx then
    if d = 0 then here ||| down ||| turn
    else if d = 2 then here ||| up ||| turn
    else if row = srow && col = scol then here ||| up ||| down ||| turn
    else here ||| on
  else if d = 0 then here ||| down
  else if d = 2 then here ||| up
  else here ||| on ||| if inCols then up ||| down else 0

/-- The outputs of a RENORM at a router: every merge input of the class it names; the local bit stands for its arrival
at the node (R165). -/
def renormOuts (c : Core) (f : Flit) : BitVec 5 :=
  (mergeInputs (routeOf c (flitField f 0 1))).foldl (fun o d => o ||| dirBit d) (dirBit 4)

/-- The outputs that the head of an input needs: none while it waits to be merged (R155, R156, R160, R175). -/
def headOuts (s : State) (k : Nat) (lg : Option (Nat × Nat)) (d cls : Nat) (f : Flit) : BitVec 5 :=
  match lg with
  | none => if d < 4 then dirBit (facing d) else 0
  | some (row, col) =>
    let r := routerAt s k
    let e := headEntry s k lg d cls
    if flitKind f = 13 then markerOuts (markerYx s f) row col d f
    else if cls = 26 then renormOuts (coreAt s (keyOf row col)) f
    else
      match ffind r.path (32 * d + cls) with
      | some p => p.1
      | none =>
        if !entryApplies s row col cls f then dirBit (xyStep row col (flitDrow f) (flitDcol f))
        else if e.extractLsb' 0 2 = 0 then dirBit (xyStep row col (flitDrow f) (flitDcol f))
        else if e.extractLsb' 0 2 = 1 then dirBit (yxStep row col (flitDrow f) (flitDcol f))
        else if e.extractLsb' 0 2 = 2 then dirBit (adaptStep r row col (flitDrow f) (flitDcol f) cls)
        else if waitsToMerge e f then 0
        else routeOut e d

/-! ## Stall reports and counts (R86, R170) -/

/-- CLASS_STALL reported to Unrid: the first report of each class of a launch is kept (R170). -/
def reportStall (s : State) (row col cls reason : Nat) : State :=
  match launchOf s row col with
  | none => s
  | some l =>
    modLaunch s l.num fun l =>
      if l.stalls.any fun x => x.1 == cls then l else { l with stalls := l.stalls ++ [(cls, row, col, reason)] }

/-- Whether a router on the way counts a flit it copies, discards or lets out: a program class, not FOREIGN, no marker. A FOREIGN
flit is counted at its source and at its target (R86; log entry 15). -/
def counted (cls : Nat) (f : Flit) : Bool := decide (cls < 24) && !flitForeign f && flitKind f != 13

/-- The counts of a router with some flits injected and delivered. -/
def countFlits (s : State) (lg : Option (Nat × Nat)) (inj del : Nat) : State :=
  match lg with
  | some (r, c) => modCore s (keyOf r c) fun x => { x with injected := x.injected + inj, delivered := x.delivered + del }
  | none => s

/-! ## Arbitration and grants (R155, R157, R163) -/

/-- What an output buffer holds once a flit joins it, if it can; merges tells a router that merges from one that only passes flits
through (R157, R163, R175). -/
def joinOut (merges : Bool) (r : Router) (o cls : Nat) (f : Flit) : Option (List Flit) :=
  match outFlits r o cls with
  | [] => some [f]
  | [g] => if merges ∧ cls = 30 then (joinStat g f).map fun x => [x] else none
  | _ => none

/-- The head of an input, if it needs an output that it does not have yet (R157). -/
def wantsOut (s : State) (k : Nat) (lg : Option (Nat × Nat)) (o cls d : Nat) : Option (Nat × Flit) :=
  match (inputFlits s k lg d cls).head? with
  | none => none
  | some f =>
    if (headOuts s k lg d cls f).getLsbD o && !(fget (routerAt s k).served (32 * d + cls) 0).getLsbD o &&
        (joinOut lg.isSome (routerAt s k) o cls f).isSome && !(cls == 26 && o == 4) then some (d, f)
    else none

/-- The input that an output grants for a class: the one that holds it for a message, else the next in the round
(R157). -/
def inputFor (s : State) (k : Nat) (lg : Option (Nat × Nat)) (o cls : Nat) : Option (Nat × Flit) :=
  let r := routerAt s k
  match ffind r.lock (32 * o + cls) with
  | some (d, _) => wantsOut s k lg o cls d
  | none =>
    ((List.range 5).map fun i => (fget r.lastIn (32 * o + cls) 4 + 1 + i) % 5).findSome? fun d =>
      wantsOut s k lg o cls d

/-- The classes in the order in which an output grants them: class 26, then the round (R157). -/
def classOrder (last : Nat) : List Nat := 26 :: (List.range 32).map fun i => (last + 1 + i) % 32

/-- The flits of a message still to come at an input after the one at its head. -/
def restOf (r : Router) (i : Nat) (f : Flit) : Nat :=
  match ffind r.path i with
  | some (_, n, _) => n - 1
  | none => messageSize f - 1

/-- The input that holds an output for a message, once a flit of it has been granted. -/
def lockAfter (r : Router) (j d i : Nat) (f : Flit) : FMap (Nat × Nat) :=
  match ffind r.lock j with
  | some (_, n) => if n ≤ 1 then fdel r.lock j else fset r.lock j (d, n - 1)
  | none => if restOf r i f = 0 then r.lock else fset r.lock j (d, restOf r i f)

/-- The path of a message once one of its flits has left its input. -/
def pathAfter (r : Router) (i : Nat) (f : Flit) (outs : BitVec 5) : FMap (BitVec 5 × Nat × Flit) :=
  if restOf r i f = 0 then fdel r.path i
  else fset r.path i (outs, restOf r i f, match ffind r.path i with | some (_, _, g) => g | none => f)

/-- A flit granted an output: a copy beyond the first counts as injected, and one addressed across an edge with no
attachment is discarded (R86, R151, R157). -/
def grantOut (s : State) (k : Nat) (lg : Option (Nat × Nat)) (o cls d : Nat) (f : Flit) : State :=
  let r := routerAt s k
  let i := 32 * d + cls
  let j := 32 * o + cls
  let outs := headOuts s k lg d cls f
  let had := fget r.served i 0
  let has := had ||| dirBit o
  let off := match lg with | some (row, col) => crossesEdge row col o && (unitAt row col o).isNone | none => false
  let r : Router :=
    { r with out := if off then r.out else fset r.out j ((joinOut lg.isSome r o cls f).getD [f]), filled := fset r.filled j s.live,
             lastCls := fset r.lastCls o cls, lastIn := fset r.lastIn j d, lock := lockAfter r j d i f,
             waiting := fset r.waiting cls s.live, served := fset r.served i has }
  let fin := outs &&& ~~~has = 0
  let r : Router := if fin then { r with path := pathAfter r i f outs } else r
  let s := setRouter s k r
  let s := if fin then dropHead s k lg d cls else s
  let s := countFlits s lg (if counted cls f && had != 0 then 1 else 0) (if off && counted cls f then 1 else 0)
  match off, lg with
  | true, some (row, col) => reportStall s row col cls 2
  | _, _ => s

/-- An output of a router grants one flit (R157). -/
def hopGrant (s : State) (k o : Nat) : State :=
  let lg := placeOf s k
  match (classOrder (fget (routerAt s k).lastCls o 31)).findSome? fun cls => (inputFor s k lg o cls).map fun x => (cls, x) with
  | some (cls, d, f) => grantOut s k lg o cls d f
  | none => s

/-! ## Crossing a link (R151, R155, R157, R174) -/

/-- The head of an ADAPT message whose productive outputs have both been blocked for 16 cycles goes on by XY (R155). -/
def forceXy (s : State) (k : Nat) (lg : Option (Nat × Nat)) (cls d : Nat) : State :=
  match lg, (inputFlits s k lg d cls).head? with
  | some (row, col), some f =>
    let r := routerAt s k
    let x := xyStep row col (flitDrow f) (flitDcol f)
    let y := yxStep row col (flitDrow f) (flitDcol f)
    let blocked := fun o => !(outFlits r o cls).isEmpty && decide (fget r.filled (32 * o + cls) 0 + 16 ≤ s.live)
    if entryApplies s row col cls f && (headEntry s k lg d cls).extractLsb' 0 2 == 2 && x != y && blocked x && blocked y &&
        flitFidx f == 0 then
      changeInput s k lg d cls fun fs => match fs with | g :: gs => { g with xy := true } :: gs | [] => []
    else s
  | _, _ => s

/-- An output buffer emptied. -/
def leaveOut (s : State) (k o cls : Nat) : State :=
  let s := (List.range 5).foldl (fun s d => forceXy s k (placeOf s k) cls d) s
  let r := routerAt s k
  setRouter s k { r with out := fset r.out (32 * o + cls) ((outFlits r o cls).tail), retries := fdel r.retries (32 * o + cls),
                         waiting := fset r.waiting cls s.live }

/-- A flit at an attachment. How many flits a Poluri port holds of a class on its way out is not said: without a bound here
(log entry 69, DESIGN CHOICE). The answers to what the edge merge units have written end at the command processor (log entry 22). -/
def arriveUnit (s : State) (a : Attach) (cls : Nat) (f : Flit) : State :=
  match a with
  | .larder n => let l := larderAt s n; setLarder s n { l with rx := fmod l.rx cls [] (· ++ [f]) }
  | .cmd => if cls = 27 then s else modUnrid s fun u => { u with rx := fmod u.rx cls [] (· ++ [f]) }
  | .poluri n => let l := linkAt s n; setLink s n { l with tx := fmod l.tx cls [] (· ++ [f]) }

/-- Whether a core takes a flit of a class from its router: no whole message of it waits to be performed. -/
def rxFree (c : Core) (cls : Nat) : Bool :=
  match fget c.rx cls [] with
  | [] => true
  | f :: fs => decide (fs.length + 1 < messageSize f)

/-- A flit that leaves the wafer through a Poluri port counts as delivered at the edge router (R86). -/
def countLeave (s : State) (lg : Option (Nat × Nat)) (a : Attach) (cls : Nat) (f : Flit) : State :=
  match a with
  | .poluri _ => countFlits s lg 0 (if counted cls f then 1 else 0)
  | _ => s

/-- A flit that crosses the link of an output: into the next router's input while it has room, into an attachment, or,
at the local output, to the core that performs its message, which a first flit has judged (R216). MSG and PSUM flits and markers stay for their delivery. -/
def hopLink (s : State) (k o cls : Nat) : State :=
  match (outFlits (routerAt s k) o cls).head? with
  | none => s
  | some f =>
    if o = 4 then
      match placeOf s k with
      | some (row, col) =>
        if flitKind f = 0 ∨ flitKind f = 10 ∨ flitKind f = 13 then s
        else if rxFree (coreAt s (keyOf row col)) cls then
          modCore (leaveOut s k o cls) (keyOf row col) fun c => noteVerdict s row col cls { c with rx := fmod c.rx cls [] (· ++ [f]) }
        else s
      | none => s
    else
      match leadOf s.dev k o with
      | .router k' =>
        if (inputFlits s k' (placeOf s k') (facing o) cls).length < 2 then arriveInput (leaveOut s k o cls) k' (facing o) cls f else s
      | .unit a => countLeave (arriveUnit (leaveOut s k o cls) a cls f) (placeOf s k) a cls f
      | .off => s

/-- The flits an attachment has waiting on a class, and the state without the first of them. -/
def unitHead (s : State) (a : Attach) (cls : Nat) : Option (Flit × State) :=
  match a with
  | .larder n =>
    let l := larderAt s n
    (fget l.egress cls []).head?.map fun f => (f, setLarder s n { l with egress := fmod l.egress cls [] List.tail })
  | .cmd =>
    (fget s.unrid.egress cls []).head?.map fun f => (f, modUnrid s fun u => { u with egress := fmod u.egress cls [] List.tail })
  | .poluri _ => none

/-! ## What arrives at a Poluri port (R39, R177) -/

/-- The key of the logical core at the edge link of a Poluri port (R151). -/
def portCore (n : Nat) : Nat := keyOf (if n < 32 then 0 else 223) (12 * (n % 32) + 6)

/-- A port that has sent a frame carrying the number of the last frame accepted: an ACK starts the count of R35 afresh
(R33, R35). Before any frame has been accepted that number is 0xFFF, and the first frame after enable takes number 0 (DESIGN CHOICE,
log entry 21). -/
def sendFrame (l : Link) (type : Nat) (seq : BitVec 12) (ackKind crCls crCnt : Nat) (side : BitVec 64) (payload : BitVec 1024) : Link × Frame :=
  let f := makeFrame ⟨type, seq, l.expect - 1, ackKind, crCls, crCnt⟩ side payload
  ({ l with wire := l.wire ++ [f], sinceAck := if ackKind = 1 then 0 else l.sinceAck }, f)

/-- An IDLE frame. -/
def sendIdle (l : Link) (ackKind crCls crCnt : Nat) : Link := (sendFrame l 0 0 ackKind crCls crCnt 0 0).1

/-- Frames that a port still holds unacknowledged at most (R36). -/
def replayRoom (l : Link) : Bool := decide (l.replay.length < 1024)

/-- A sequenced frame sent, and kept until it is acknowledged (R35, R36). -/
def sendKept (now : Nat) (l : Link) (type : Nat) (side : BitVec 64) (payload : BitVec 1024) : Link :=
  let r := sendFrame l type l.sendSeq 1 0 0 side payload
  { r.1 with sendSeq := l.sendSeq + 1, replay := l.replay ++ [r.2], lastAck := if l.replay.isEmpty then now else l.lastAck }

/-- The credits that a port owes of a class returned, at most 15 in a frame; while the link is not ACTIVE they stay owed (R37, R38). -/
def returnCredits (l : Link) (cls : Nat) : Link :=
  let n := min (fget l.owed cls 0) 15
  if l.st = .active ∧ n ≠ 0 then sendIdle { l with owed := fset l.owed cls (fget l.owed cls 0 - n) } 1 cls n else l

/-- A port without the first flit of a class, whose credit it returns (R38). -/
def takeRx (l : Link) (cls : Nat) : Link :=
  returnCredits { l with rx := fmod l.rx cls [] List.tail, owed := fmod l.owed cls 0 (· + 1) } cls

/-- A flit of another wafer discarded, with EDGE reported (R177). -/
def discardForeign (s : State) (n cls : Nat) : State :=
  reportStall (setLink s n (takeRx (linkAt s n) cls)) (rowOf (portCore n)) (colOf (portCore n)) cls 2

/-- A late flit of an aborted step discarded, with its credit returned (R42). -/
def dropStale (s : State) (n cls : Nat) : State :=
  modUnrid (setLink s n (takeRx (linkAt s n) cls)) fun u => { u with stale := fmod u.stale (32 * n + cls) 0 (· - 1) }

/-- A flit of classes 24 to 31 that has arrived at a port goes to the command processor (R177); a late one of an aborted step is
discarded (R42). With none there, credits still owed go back (R38). -/
def portToUnrid (s : State) (n cls : Nat) : State :=
  match fget (linkAt s n).rx cls [] with
  | [] => setLink s n (returnCredits (linkAt s n) cls)
  | f :: _ =>
    if flitDwaf f ≠ s.dev.wafer.toNat then discardForeign s n cls
    else if cls < 24 then if 0 < fget s.unrid.stale (32 * n + cls) 0 then dropStale s n cls else s
    else modUnrid (setLink s n (takeRx (linkAt s n) cls)) fun u => { u with rx := fmod u.rx cls [] (· ++ [f]) }

/-- A flit of an attachment enters the router at the edge (R151). What arrives at a Poluri port goes to the command
processor, or waits for its merge step. -/
def hopEnter (s : State) (a : Attach) (cls : Nat) : State :=
  match unitHead s a cls, entryRouter s.dev a with
  | some (f, s'), some (k, d) => if (inputFlits s k (placeOf s k) d cls).length < 2 then arriveInput s' k d cls f else s
  | _, _ => s

/-- FLIT_HOP: routers do not move flits while the wafer is stopped (R100). -/
def execFlitHop (h : Hop) (s : State) : Host.Outcome State Fault Refusal :=
  if s.dev.stopped then .next s
  else
    match h with
    | .grant r c o => .next (hopGrant s (keyOf r c) (dirCode o))
    | .link r c o cls => .next (hopLink s (keyOf r c) (dirCode o) cls.toNat)
    | .enter (.poluri n) cls => .next (portToUnrid s n cls.toNat)
    | .enter a cls => .next (hopEnter s a cls.toNat)

/-! ## Merging (R160 to R162, R199) -/

/-- The 32-bit lanes of a payload. -/
def lanes32 (f : Flit) : List Nat := (List.range 32).map fun l => flitField f (4 * l) 4

/-- A payload from 32-bit lanes. -/
def payload32 (ls : List Nat) : BitVec 1024 := BitVec.ofNat 1024 (packNat 32 ls)

/-- A lane of add.sum: the words of every input aligned, then added in order without carrying (R199). -/
def sumLane : List (BitVec 32 × BitVec 32) → BitVec 32 × BitVec 32
  | [] => (0, 0)
  | h :: hs => hs.foldl (fun a w => let b := csa a.1 a.2 w.1; csa b.1 b.2 w.2) h

/-- A word aligned for add.sum. -/
def alignWord (w : Nat) (d : Int) : BitVec 32 := BitVec.ofInt 32 (align (sext w 32) d)

/-- The exponent of a merge: the largest of the inputs' and the node's floor (R199). -/
def mergeExp (fs : List Flit) (floor : Int) : Int := fs.foldl (fun x f => max x (flitExp f)) floor

/-- The payload of an add.sum merge under an exponent. -/
def sumPayload (fs : List Flit) (x : Int) : BitVec 1024 :=
  let lanes := (List.range 16).map fun l =>
    sumLane (fs.map fun f => (alignWord (flitField f (8 * l) 4) (x - flitExp f), alignWord (flitField f (8 * l + 4) 4) (x - flitExp f)))
  payload32 (lanes.flatMap fun p => [p.1.toNat, p.2.toNat])

/-- The payload of a lane-wise merge. -/
def lanePayload (op : Nat → Nat → Nat) : List Flit → BitVec 1024
  | [] => 0
  | f :: fs => payload32 (fs.foldl (fun ls g => List.zipWith op ls (lanes32 g)) (lanes32 f))

/-- The signed maximum of two 32-bit words. -/
def maxWord (a b : Nat) : Nat := if sext a 32 < sext b 32 then b else a

/-- A flit with EXP replaced. -/
def withExp (f : Flit) (x : Int) : Flit :=
  { f with side := BitVec.ofNat 64 (f.side.toNat % 2 ^ 39 + truncZ x 10 * 2 ^ 39 + (f.side.toNat / 2 ^ 49) * 2 ^ 49) }

/-- The heads combined (R160, R161, R199). -/
def mergeFlits (e : BitVec 32) (fs : List Flit) (floor : Int) : Option Flit :=
  match fs with
  | [] => none
  | f :: _ =>
    if routeMerge e = 1 then some { f with payload := lanePayload (fun a b => (a + b) % 2 ^ 32) fs }
    else if routeMerge e = 2 then some { f with payload := lanePayload maxWord fs }
    else let x := mergeExp fs floor; some (withExp { f with payload := sumPayload fs x } x)

/-- Whether heads may be combined: each a message of one flit, no later flit of a longer one (R162). -/
def mergeable (e : BitVec 32) (fs : List Flit) : Bool :=
  match fs with
  | [] => false
  | f :: _ =>
    fs.all fun g => flitFidx g == 0 && messageSize g == 1 && flitKind g == flitKind f && flitDrow g == flitDrow f && flitDcol g == flitDcol f &&
      flitDwaf g == flitDwaf f && (routeMerge e != 3 || (flitKind g == 10 && flitChunk g == flitChunk f))

/-- The resolved lanes of a PSUM payload (R197). -/
def resolved (f : Flit) : List Int :=
  (List.range 16).map fun l => sext ((flitField f (8 * l) 4 + flitField f (8 * l + 4) 4) % 2 ^ 32) 32

/-- Whether a lane of a merged flit has reached 2^29 in magnitude (R200). -/
def needsRenorm (f : Flit) : Bool := (resolved f).any fun v => decide (2 ^ 29 ≤ v.natAbs)

/-- A RENORM flit (R164). -/
def renormFlit (cls : Nat) (exp : Int) (chunk : BitVec 15) (row col : Nat) : Flit :=
  { payload := payloadOf [(0, cls), (2, truncZ exp 10), (4, chunk.toNat)], side := sideFirst 26 12 row col false 0 row col }

/-- A renormalisation joined to those in force for a class. -/
def addFloor (m : FMap (List Renorm)) (cls : Nat) (r : Renorm) : FMap (List Renorm) := fset m cls (fget m cls [] ++ [r])

/-- After the root has merged a chunk: a RENORM down the tree, or a report where it holds no depth (R164, R200). -/
def rootRenorm (s : State) (row col cls : Nat) (e : BitVec 32) (f : Flit) : State :=
  if isRoot e && needsRenorm f then
    let k := keyOf row col
    match ffind (coreAt s k).depth cls with
    | none => reportStall s row col cls 1
    | some d =>
      let chunk := flitChunk f + BitVec.ofNat 15 (2 * d)
      let x := sext (truncZ (flitExp f + 2) 10) 10
      modCore s k fun c =>
        send { c with nodeFloor := addFloor c.nodeFloor cls ⟨chunk, x⟩ } 26 [renormFlit cls x chunk row col]
  else s

/-- The first entry of a merge node under which the heads of a class wait. -/
def mergeEntry (s : State) (k : Nat) (lg : Option (Nat × Nat)) (row col cls : Nat) : Option (BitVec 32) :=
  (List.range 5).findSome? fun d =>
    match (inputFlits s k lg d cls).head? with
    | some f =>
      let e := headEntry s k lg d cls
      if entryApplies s row col cls f && waitsToMerge e f && routeOut e d != 0 && (ffind (routerAt s k).path (32 * d + cls)).isNone
      then some e else none
    | none => none

/-- The heads of the merge inputs, in the order N, E, S, W, local, if every one of them has one. The rest of a message that has begun
to leave an input goes on by its own path (R157, R159, R160). -/
def mergeHeads (s : State) (k : Nat) (lg : Option (Nat × Nat)) (row col cls : Nat) (e : BitVec 32) : Option (List Flit) :=
  (mergeInputs e).mapM fun d =>
    match (inputFlits s k lg d cls).head? with
    | some f =>
      if entryApplies s row col cls f && headEntry s k lg d cls == e && (ffind (routerAt s k).path (32 * d + cls)).isNone then some f
      else none
    | none => none

/-- A merged flit sent to every output of the node (R160). -/
def sendMerged (s : State) (k : Nat) (outs : List Nat) (cls : Nat) (f : Flit) : State :=
  let r := routerAt s k
  setRouter s k
    (outs.foldl (fun (r : Router) o =>
      { r with out := fset r.out (32 * o + cls) [f], filled := fset r.filled (32 * o + cls) s.live })
      { r with waiting := fset r.waiting cls s.live })

/-- The heads of a merge node combined and sent (R160, R86). -/
def combine (s : State) (k row col cls : Nat) (e : BitVec 32) (fs : List Flit) : State :=
  let lg := some (row, col)
  let r := routerAt s k
  let outs := (List.range 5).filter fun o => (routeOut e ((mergeInputs e).headD 0)).getLsbD o
  let chunk := flitChunk (fs.headD ⟨0, 0, 0, false⟩)
  let floor := floorAt (fget (coreAt s (keyOf row col)).nodeFloor cls []) chunk
  if outs.all fun o => (outFlits r o cls).isEmpty && (ffind r.lock (32 * o + cls)).isNone then
    match mergeFlits e fs floor with
    | none => s
    | some f =>
      let s := (mergeInputs e).foldl (fun s d => dropHead s k lg d cls) s
      let s := countFlits (sendMerged s k outs cls f) lg outs.length fs.length
      if routeMerge e = 3 then
        rootRenorm (modCore s (keyOf row col) fun c => { c with merged := fset c.merged cls (chunk + 1) }) row col cls e f
      else s
  else s

/-! ## Renormalisation (R165, R200, R201) -/

/-- The RENORMs that a router holds and has not applied yet: input and flit. -/
def renormsAt (s : State) (k : Nat) (lg : Option (Nat × Nat)) : List (Nat × Flit) :=
  (List.range 5).filterMap fun d =>
    match (inputFlits s k lg d 26).head? with
    | some f => if (fget (routerAt s k).served (32 * d + 26) 0).getLsbD 4 then none else some (d, f)
    | none => none

/-- A RENORM applied at a core's node, and to the core's own partial sums where the core is a merge input. -/
def applyRenorm (c : Core) (cls : Nat) (r : Renorm) : Core :=
  let c := { c with nodeFloor := addFloor c.nodeFloor cls r }
  if (mergeInputs (routeOf c cls)).contains 4 then { c with sendFloor := addFloor c.sendFloor cls r } else c

/-- Whether a chunk has gone by: it lies within half the range before the next one. -/
def goneBy (next chunk : BitVec 15) : Bool := next != chunk && decide ((next - chunk).toNat < 16384)

/-- Whether a RENORM comes late to a core's node or to its core (R201). -/
def renormLate (c : Core) (cls : Nat) (chunk : BitVec 15) : Bool :=
  (match ffind c.merged cls with | some m => goneBy m chunk | none => false) ||
    ((mergeInputs (routeOf c cls)).contains 4 && goneBy (fget c.chunk cls 0) chunk)

/-- The class that a RENORM names. -/
def renormCls (f : Flit) : Nat := flitField f 0 1
/-- The chunk that a RENORM names. -/
def renormChunk (f : Flit) : BitVec 15 := BitVec.ofNat 15 (flitField f 4 2)

/-- A RENORM at an input taken by its node; a late one is reported (R165, R200, R201). -/
def takeRenorm (s : State) (k row col d : Nat) (f : Flit) : State :=
  let lg := some (row, col)
  let cls := renormCls f
  let ren : Renorm := ⟨renormChunk f, sext (flitField f 2 2) 10⟩
  let late := renormLate (coreAt s (keyOf row col)) cls ren.chunk
  let has := fget (routerAt s k).served (32 * d + 26) 0 ||| dirBit 4
  let fin := headOuts s k lg d 26 f &&& ~~~has = 0
  let r := routerAt s k
  let s := setRouter s k { r with served := fset r.served (32 * d + 26) has, waiting := fset r.waiting 26 s.live }
  let s := if fin then dropHead s k lg d 26 else s
  let s := modCore s (keyOf row col) fun c => applyRenorm c cls ren
  if late then reportStall s row col cls 1 else s

/-- The RENORMs that wait at a node for the chunk it is about to merge, applied first (R178). -/
def renormFirst (s : State) (k row col cls : Nat) (chunk : BitVec 15) : State :=
  ((renormsAt s k (some (row, col))).filter fun x => renormCls x.2 == cls && renormChunk x.2 == chunk).foldl
    (fun s x => takeRenorm s k row col x.1 x.2) s

/-- RENORM_ARRIVAL: the node, and its core where that is a merge input, apply it. -/
def execRenormArrival (row col : Nat) (s : State) : Host.Outcome State Fault Refusal :=
  match s.dev.stopped, routerOf s.dev row col with
  | false, some k =>
    match renormsAt s k (some (row, col)) with
    | [] => .next s
    | (d, f) :: _ => .next (takeRenorm s k row col d f)
  | _, _ => .next s

/-- MERGE_COMBINE: once every merge input has a flit at its head, they are combined, or the class is held and reported; a RENORM
for the chunk that waits at the node goes first (R160, R162, R178). -/
def execMergeCombine (prow pcol : Nat) (cls : BitVec 5) (s : State) : Host.Outcome State Fault Refusal :=
  let k := keyOf prow pcol
  let lg := placeOf s k
  match s.dev.stopped, lg with
  | false, some (row, col) =>
    match mergeEntry s k lg row col cls.toNat with
    | none => .next s
    | some e =>
      match mergeHeads s k lg row col cls.toNat e with
      | none => .next s
      | some fs =>
        if mergeable e fs then
          .next (combine (renormFirst s k row col cls.toNat (flitChunk (fs.headD ⟨0, 0, 0, false⟩))) k row col cls.toNat e fs)
        else .next (reportStall s row col cls.toNat 1)
  | _, _ => .next s

/-! ## Stall counters (R170) -/

/-- Whether a flit of a class waits anywhere in a router. -/
def classWaits (s : State) (k : Nat) (lg : Option (Nat × Nat)) (cls : Nat) : Bool :=
  (List.range 5).any fun d => !(inputFlits s k lg d cls).isEmpty || !(outFlits (routerAt s k) d cls).isEmpty

/-- A router at the end of a cycle: the stall counter of a class starts with the first flit that waits and is gone with
the last, and what a core has sent is noted at the head of its input (R159, R170). -/
def tickClass (s : State) (k : Nat) (lg : Option (Nat × Nat)) (cls : Nat) : State :=
  let s := if (ffind (routerAt s k).entry (128 + cls)).isNone then noteHead s k lg 4 cls else s
  let r := routerAt s k
  if !classWaits s k lg cls then setRouter s k { r with waiting := fdel r.waiting cls }
  else if (ffind r.waiting cls).isNone then setRouter s k { r with waiting := fset r.waiting cls s.live }
  else s

/-- The classes that a router or its core holds something of. -/
def classesOf (s : State) (k : Nat) (lg : Option (Nat × Nat)) : List Nat :=
  let r := routerAt s k
  let sent : List Nat := match lg with | some (row, col) => (coreAt s (keyOf row col)).egress.map (·.1) | none => []
  (List.range 32).filter fun cls =>
    sent.contains cls || (ffind r.waiting cls).isSome || r.inp.any (fun e => e.1 % 32 == cls) || r.out.any fun e => e.1 % 32 == cls

/-- The routers that hold something: those listed, and those of cores that have sent. -/
def activeRouters (s : State) : List Nat :=
  (s.routers.map (·.1)) ++
    (s.cores.filter fun (c : Nat × Core) => !c.2.egress.isEmpty).filterMap fun (c : Nat × Core) => routerOf s.dev (rowOf c.1) (colOf c.1)

/-- Every router at the end of a cycle. -/
def tickRouters (s : State) : State :=
  (activeRouters s).foldl (fun s k => (classesOf s k (placeOf s k)).foldl (fun s cls => tickClass s k (placeOf s k) cls) s) s

/-- CLASS_STALL: a class of the region has not moved for the launch's stall limit (R170). -/
def execClassStall (prow pcol : Nat) (cls : BitVec 5) (s : State) : Host.Outcome State Fault Refusal :=
  let k := keyOf prow pcol
  match s.dev.stopped, placeOf s k with
  | false, some (row, col) =>
    match launchOf s row col, ffind (routerAt s k).waiting cls.toNat with
    | some l, some t =>
      let r := routerAt s k
      if l.classMask.getLsbD cls.toNat && decide (l.stallLim ≤ s.live - t) then
        .next (reportStall (setRouter s k { r with waiting := fset r.waiting cls.toNat s.live }) row col cls.toNat 0)
      else .next s
    | _, _ => .next s
  | _, _ => .next s

end Sys2Proof.Machine
end

