-- ==== Sys2Proof/Machine/Fetch.lean ====
section
/-! DEFINITION. The start state of a core (R123), the choice of the context that issues (R131), the fetch of its
instruction (R270, R281), and the passing of cycles (R17, R101). -/

namespace Sys2Proof.Machine

/-! ## Start of a core in a region (R56, R81, R117, R123) -/

/-- The system registers at launch start: those that R123 names, and the region's own of R81 and R117; the others keep
their values. -/
def startSys (y : Sys) (det : Bool) (orgRow orgCol rows cols : Nat) (prio : BitVec 2) (cap : Word) : Sys :=
  { y with
    mode := true, pmode := false, vecen := false, vec := 0, evflags := 1, cause := 0, trappc := 0,
    trapval := 0, fpflags := 0, precise := det, det := det, orgRow := BitVec.ofNat 9 orgRow,
    orgCol := BitVec.ofNat 9 orgCol, rows := BitVec.ofNat 9 rows, cols := BitVec.ofNat 9 cols, prio := prio,
    capself := cap, satcnt := 0, nancnt := 0, uflcnt := 0, seg := [] }

/-- Task 0 of a core that runs code: bound to event flag 0 at priority 0 (R123). -/
def taskZero (entry : BitVec 16) : Task := { entry := entry, pc := entry, prio := 0, onEvent := true, k := 0 }

/-- A core as its launch enters RUNNING without RESUME (R123, R200): entry is the address of its code, or none where it runs no code
(R56). No pantry is valid, so that none is of an earlier launch (R140, R455; DESIGN CHOICE, log entry 5). -/
def startCore (c : Core) (det : Bool) (orgRow orgCol rows cols : Nat) (prio : BitVec 2) (cap : Word)
    (entry : Option (BitVec 16)) : Core :=
  refreshReady
    { c with
      regs := {}, sys := startSys c.sys det orgRow orgCol rows cols prio cap, pc := 0, running := none,
      wait := .run, halted := false, gang := none, tasks := match entry with | some e => [(0, taskZero e)] | none => [],
      handlers := [], bursts := [], lastIssue := 0, pending := [], held := none, watch := [], own := 0,
      pantries := [], nodeFloor := [], sendFloor := [], depth := [], merged := [],
      runsCode := entry.isSome, cellar := none, opens := [], behind := [], arrivals := 0, fencing := [], sleep := .awake,
      frozen := false, draining := false, markers := [] }

/-! ## The choice of context (R131, R133) -/

/-- Whether a running task stands at a switch point at which a drain stops it (R90). -/
def atSwitchWait (c : Core) : Bool :=
  match c.wait with
  | .instr | .barrier .. => true
  | _ => false

/-- The busy handler contexts that may issue: all of them, or in a deterministic region the one of lowest bix (R131). -/
def handlerMayIssue (c : Core) (k : Nat) : Bool :=
  (handlerAt c k).busy &&
    (!c.sys.det || (List.range 8).all fun j =>
      !(handlerAt c j).busy || decide ((handlerAt c k).bix.toNat ≤ (handlerAt c j).bix.toNat))

/-- The round of R131, starting after the place that issued last: place 0 is the task, place k + 1 handler context k. -/
def roundOf (c : Core) : List Nat := (List.range 9).map fun i => (c.lastIssue + 1 + i) % 9

/-- Whether a core gives its next cycle to its main context: no handler context that may issue stands before it in the
round (R131, R133). -/
def givesMain (c : Core) : Bool :=
  ((roundOf c).find? fun n => n == 0 || handlerMayIssue c (n - 1)) == some 0

/-- Whether the members of a gang let it issue: none of them halted or frozen, and each gives the cycle to its main context
(R133). -/
def gangMayIssue (s : State) (g : GangSt) : Bool :=
  (gangKeys g).all fun k => let c := coreAt s k; !c.halted && !c.frozen && givesMain c

/-- Whether the main context of a core has something to issue: a running task, not stopped by a drain, and not waiting at
GANG unless a trap or a watchpoint's match is held for it; in a gang, the leader alone fetches (R90, R103, R133, R141, R300). -/
def mainMayIssue (s : State) (c : Core) : Bool :=
  c.running.isSome && !(c.draining && atSwitchWait c) && (!atGang c || c.held.isSome || !c.watch.isEmpty) &&
    match c.gang with
    | none => true
    | some g => g.leader && gangMayIssue s g

/-- The context of a place in the round: the task first, then the handler contexts. -/
def ctxOfPlace (n : Nat) : Ctx := if n = 0 then .main else .handler (n - 1)

/-- Whether the context of a place in the round has something to issue. -/
def placeMayIssue (s : State) (c : Core) (n : Nat) : Bool :=
  match ctxOfPlace n with
  | .main => mainMayIssue s c
  | .handler k => handlerMayIssue c k

/-- The next place in the round that has something to issue, starting after the one that issued last (R131). -/
def nextPlace (s : State) (c : Core) : Option Nat :=
  (roundOf c).find? (placeMayIssue s c)

/-- Whether a core issues at all: not stopped with the wafer or by a fault of its region, halted, frozen or asleep (R89, R97, R100,
R103, R328). -/
def coreMayIssue (s : State) (c : Core) : Bool :=
  !s.dev.stopped && !c.resetting && !c.halted && !c.frozen && decide (c.sleep = .awake)

/-- Whether the core is free and the scheduler has a task for it (R129, R133). -/
def mayDispatch (c : Core) : Bool :=
  c.running.isNone && c.gang.isNone && !c.draining && (nextTask (refreshReady c)).isSome

/-! ## Fetch -/

/-- The instruction of a word: a word that is none is an UNDEFINED_INSTRUCTION with its fate (R281). -/
def instrOfWord (w : Word) : Instr :=
  match decode w with
  | .ok i => i
  | .error f => .undefinedInstruction w f

/-- The instruction at the PC of a context of a core. -/
def fetchAt (c : Core) (ctx : Ctx) : Instr := instrOfWord (istoreWord c (pcOf c ctx))

/-- What a core does in a cycle of its own: dispatch a task, issue an instruction from a context, or nothing. -/
inductive Turn where
  | run (i : Instr) (s : State)
  | dispatch
  | idle
  deriving DecidableEq, Repr

/-- The turn of core k: what it runs, in the state with the focus on it. -/
def turnOf (s : State) (k : Nat) : Turn :=
  let c := coreAt s k
  if !coreMayIssue s c then .idle
  else if mayDispatch c then .dispatch
  else
    match nextPlace s c with
    | none => .idle
    | some n =>
      .run (fetchAt c (ctxOfPlace n)) { setCore s k { c with lastIssue := n } with focus := k, ctx := ctxOfPlace n }

/-! ## Cycles (R17, R101) -/

/-- A core some cycles later. -/
def tickCore (n : Nat) (c : Core) : Core := { c with stamp := c.stamp + n }

/-- Whether the word that a WAITS reads on a core ends it (R406). -/
def wordMet (c : Core) : Instr → Bool
  | .waits _ a b => decide ((readX c .main b.toNat).toNat ≤ (c.sram.word (readX c .main a.toNat).toNat).toNat)
  | _ => false

/-- Whether the running task of a core, or of a member of its gang, is stalled in a wait of an instruction. -/
def inWait (s : State) (c : Core) : Bool :=
  match c.gang with
  | none => decide (c.wait = .instr)
  | some g => (gangKeys g).any fun k => decide ((coreAt s k).wait = .instr)

/-- A core that waits at WAITS reads the word in each cycle: one that ends the wait ends it, whatever the word holds by the task's next
issue (R406). A core that a drain has stopped there reads nothing (R90). -/
def readWaits (s : State) (c : Core) : Core :=
  let lead := match c.gang with | some g => coreAt s (keyOf g.row g.col) | none => c
  if inWait s c && coreMayIssue s c && !lead.draining && wordMet c (fetchAt lead .main) then { c with wait := .met } else c

/-- The state n cycles later: the faults noted in the cycle that ends are acted on (R99); unless the wafer is stopped, the bulk reads
that have come to their end complete (R269), the cores that wait at WAITS read its word (R406), and the routers take note of what waits
in them; CYCLE always counts, and so do the cores' stamps; the paused timers count only while the wafer runs. -/
def elapse (s : State) (n : Nat) : State :=
  let s := settleFaults s
  let s := if s.dev.stopped then s else tickRouters { s with cores := s.cores.map fun e => (e.1, settleBreads (readWaits s e.2)) }
  { s with cores := s.cores.map fun e => (e.1, tickCore n e.2), cycle := s.cycle + n,
           live := if s.dev.stopped then s.live else s.live + n }

/-- An outcome a number of cycles later. -/
def elapseOutcome (n : Nat) : Host.Outcome State Fault Refusal → Host.Outcome State Fault Refusal
  | .next s => .next (elapse s n)
  | .fault f => .fault f
  | .refused r => .refused r

/-! ## A word placed where the next step fetches it -/

/-- The launch of the placed program: number 1, running on the one core at the grid's origin, with every program class
and barrier id. -/
def placedLaunch : Launch :=
  { key := ⟨0, 0⟩, num := 1, st := .running, image := 0, orgRow := 0, orgCol := 0, rows := 1, cols := 1, prio := 0,
    lflags := 0, argAddr := 0, actx := 0, larders := 0, stallLim := 0, preemptLim := 0, saveVa := 0,
    classMask := 0x00FF_FFFF, quadBar := 0x0F, fieldBar := 0xFF, waferBar := 0xFF, podBar := 0x0F,
    stalls := [], dataFault := false, sweep := none, drainAt := 0, frozenAt := 0, preemptKey := none, preemptSave := 0 }

/-- A core in the state of R123 with its task 0 running and a word at its PC. -/
def placedCore (c : Core) (w : Nat) : Core :=
  let c := startCore c false 0 0 1 1 0 0 (some 0)
  let c := { c with sys := { c.sys with evflags := 0, idle := false }, running := some 0, tasks := [(0, taskZero 0)] }
  { c with istore := c.istore.writeLE 0 8 w }

/-- The state in which the next step fetches a word at the core (0, 0). -/
def placeWord (s : State) (w : Nat) : State :=
  let s := setCore s 0 (placedCore (coreAt s 0) w)
  { s with
    agenda := [], focus := 0, ctx := .main, dev := { s.dev with st := .ready, stopped := false },
    unrid := { s.unrid with launches := [placedLaunch] } }

end Sys2Proof.Machine
end

