-- ==== Sys2Proof/Machine/Messages.lean ====
section
/-! DEFINITION. Messages at a core: the checks of its router, what each kind does there, and the answers (R166, R167,
R173, R213 to R217, R229, R235, R236, R252, R259, R264 to R266, R400 to R405). -/

namespace Sys2Proof.Machine

/-! ## Answers (R173) -/

/-- Whether a flit comes from a region that holds this core, or from an attachment. -/
def fromOwn (s : State) (row col : Nat) (f : Flit) : Bool :=
  decide (510 ≤ flitScol f) || decide (510 ≤ flitSrow f) || ownSource s row col f

/-- Flits of an answer joined to what a core sends: they carry no handle, and those that leave the region count as delivered out of
it at once (R86; log entry 15). -/
def sendBack (c : Core) (own : Bool) (cls : Nat) (fs : List Flit) : Core :=
  let d := send c cls fs
  if own || decide (24 ≤ cls) then d else { d with delivered := d.delivered + fs.length }

/-- Flits of an answer sent to the source of a message. -/
def sendReply (s : State) (row col : Nat) (c : Core) (f : Flit) (cls : Nat) (fs : List Flit) : Core :=
  sendBack c (fromOwn s row col f) cls fs

/-- An ACK or NACK to the source of a message: tag, code and sectors performed (R173). -/
def answerFlit (row col : Nat) (f : Flit) (tag code count data : Nat) : Flit :=
  { payload := payloadOf [(0, tag), (2, code), (4, count), (8, data)],
    side := sideFirst 27 (if code = 0 then 8 else 9) (flitSrow f) (flitScol f) false 0 row col }

/-- An answer sent. -/
def answer (row col : Nat) (c : Core) (f : Flit) (tag code count : Nat) : Core :=
  send c 27 [answerFlit row col f tag code count 0]

/-! ## The outbound copy of a source (R225) -/

/-- The word of a core's SRAM that stands at word w of data flit n of message i of an operation, if the message holds it. -/
def sourceWord (c : Core) (o : EngineOp) (i n w : Nat) : Option Word :=
  let at_ := 128 * (n - 1) + 8 * w
  if at_ < messageLen o.len i then some (c.sram.word (o.lo + 3968 * i + at_)) else none

/-- A data flit that waits to leave, each word of it as it was or as its source now stands, by a free bit (R225). -/
def refreshFlit (free : Nat → Bool) (c : Core) (o : EngineOp) (i : Nat) (f : Flit) : Flit :=
  let words := (List.range 16).map fun w =>
    match sourceWord c o i (flitFidx f) w with
    | some v => if free w then v.toNat else flitField f (8 * w) 8
    | none => flitField f (8 * w) 8
  { f with payload := BitVec.ofNat 1024 (packNat 64 words) }

/-- The kind of the messages that carry an operation's source (R214, R403). -/
def sourceKind : EngKind → Nat
  | .radd => 5
  | _ => 1

/-- The operation whose source a message carries, by its first flit, and the number of that message in it: none for an answer or a
queue message, whatever stands where a tag would. -/
def copyOf (ops : List EngineOp) (f : Flit) : Option (EngineOp × Nat) :=
  (ops.find? fun o => flitKind f == sourceKind o.kind && decide (o.tag.toNat ≤ dTag f) && decide (dTag f < o.tag.toNat + o.msgs)).map
    fun o => (o, dTag f - o.tag.toNat)

/-- The flits of a class that wait to leave, the data of each message of an operation whose source is in flight read again; j
numbers the free bits. -/
def refreshFlits (free : Nat → Bool) (c : Core) (ops : List EngineOp) : Option (EngineOp × Nat) → Nat → List Flit → List Flit
  | _, _, [] => []
  | cur, j, f :: fs =>
    if flitFidx f = 0 then
      f :: refreshFlits free c ops (copyOf ops f) (j + 1) fs
    else
      (match cur with | some (o, i) => refreshFlit (fun w => free (16 * j + w)) c o i f | none => f) ::
        refreshFlits free c ops cur (j + 1) fs

/-- The operations of a core whose source is in flight. -/
def sourceOps (c : Core) : List EngineOp := c.ops.filter fun o => o.src && o.len != 0

/-- A core into which something has been written from outside, while copies of its own wait to leave: each word of an outbound
copy carries the value before or after the write (R225). -/
def refreshCopies (n : Nat) (c : Core) : Core :=
  if (sourceOps c).isEmpty then c
  else
    let again := fun (base : Nat) (m : FMap (List Flit)) => m.map fun e =>
      if e.1 < 24 then
        (e.1, refreshFlits (fun j => Config.freeBit (65536 * n + base + 1024 * e.1 + j)) c
          ((sourceOps c).filter fun o => o.cls.toNat = e.1) none 0 e.2)
      else e
    { c with egress := again 0 c.egress, behind := again 32768 c.behind }

/-- The state with a core that a write from outside has reached. -/
def putReached (s : State) (k : Nat) (c : Core) : State :=
  if (sourceOps c).isEmpty then setCore s k c
  else setCore { s with freeCtr := s.freeCtr + 1 } k (refreshCopies s.freeCtr c)

/-! ## Taking a message -/

/-- The whole message at the head of what a core has received of a class: its first flit, its data flits, and the core
without it. -/
def takeMessage (c : Core) (cls : Nat) : Option (Flit × List Flit × Core) :=
  match fget c.rx cls [] with
  | [] => none
  | f :: fs =>
    let n := messageSize f - 1
    if fs.length < n then none
    else some (f, fs.take n, { c with rx := fset c.rx cls (fs.drop n), verdicts := fdel c.verdicts cls, accepted := fdel c.accepted cls })

/-- The counts of a core once it has taken a message (R86). -/
def countTaken (s : State) (row col cls : Nat) (c : Core) (f : Flit) (n : Nat) : Core :=
  if cls < 24 then countReached (flitForeign f || !fromOwn s row col f) n c else c

/-- Whether a coordinate is that of a core that has become unavailable: what is sent there is rejected at once (R115). -/
def gone (s : State) (row col : Nat) : Bool := decide (row < 510) && decide (col < 510) && unavailable s.dev row col

/-- A core that has taken a message, without the answer where its source has become unavailable: it is rejected where it is injected
(R115). -/
def keepAnswer (s : State) (f : Flit) (old c : Core) : Core :=
  if gone s (flitSrow f) (flitScol f) then
    { c with egress := old.egress, behind := old.behind, injected := old.injected, delivered := old.delivered }
  else c

/-- A message of one kind performed at a core: the body gives the core after it, or none while it must wait. Nothing
is performed while the wafer is stopped (R100). -/
def onMessage (s : State) (row col cls kind : Nat) (body : Core → Flit → List Flit → Option Core) : State :=
  let k := keyOf row col
  if s.dev.stopped || !inGrid k then s
  else
    match takeMessage (coreAt s k) cls with
    | none => s
    | some (f, ds, c) =>
      if flitKind f ≠ kind then s
      else
        match body c f ds with
        | none => s
        | some c' => putReached s k (refreshReady (countTaken s row col cls (keepAnswer s f c c') f (ds.length + 1)))

/-- A message of kinds 1 to 6, checked as its first flit arrived; refused, it is answered NACK and the rest of it is discarded
(R216). -/
def onChecked (s : State) (row col cls kind : Nat) (body : Core → Flit → List Flit → Option Core) : State :=
  onMessage s row col cls kind fun c f ds =>
    match verdictOn s row col cls (coreAt s (keyOf row col)) f with
    | some code => some (answer row col c f (dTag f) code 0)
    | none => body c f ds

/-- The data bytes of a message. -/
def dataBytes (ds : List Flit) (n : Nat) : List Byte := (ds.flatMap fun d => byteSlice d.payload 0 128).take n

/-- The watchpoint that a remote write or RADD into a range matches, kept for the next boundary (R103). -/
def noteWatch (c : Core) (load : Bool) (a n : Nat) : Core :=
  match watchHit c load true a n with
  | some (i, _) => { c with watch := c.watch ++ [i] }
  | none => c

/-- Bytes performed by fabric delivery. Every one of them counts as a remote write for a watchpoint: the data of WRITE, SIGNAL, AMOREQ,
DFADD, RDRSP, PUSH and bursts (R103 names a remote write and RADD; DESIGN CHOICE, log entry 27). -/
def deliverBytes (c : Core) (a : Nat) (bs : List Byte) : Core := storeBytes (noteWatch c false a bs.length) a bs

/-! ## Kinds 1 to 7 -/

/-- WRITE at a core (R214, R215). -/
def coreWrite (s : State) (row col : Nat) (cls : BitVec 5) : State :=
  onChecked s row col cls.toNat 1 fun c f ds =>
    some (answer row col (deliverBytes c (dToff f) (dataBytes ds (dLen f))) f (dTag f) 0 (dLen f / 32))

/-- SIGNAL: VAL1 added to the word at TOFF (R229). -/
def execSignalMessage (row col : Nat) (cls : BitVec 5) (s : State) : Host.Outcome State Fault Refusal :=
  .next (onChecked s row col cls.toNat 2 fun c f _ =>
    let v := (c.sram.readLE (dToff f) 8 + flitField f 16 8) % 2 ^ 64
    some (answer row col (deliverBytes c (dToff f) (leBytes v 8)) f (dTag f) 0 0))

/-- RDREQ at a core: the words are read as it is performed and go back as an RDRSP (R402). -/
def coreRdreq (s : State) (row col : Nat) (cls : BitVec 5) : State :=
  onChecked s row col cls.toNat 3 fun c f _ =>
    let n := dLen f
    let desc := payloadOf [(0, flitField f 4 4), (8, n), (12, dTag f)]
    let data := payloads ((n + 127) / 128) (c.sram.readBytes (dToff f) n)
    some (sendReply s row col c f cls.toNat
      (messageFlits cls.toNat 4 (flitSrow f) (flitScol f) false row col (desc :: data)))

/-- A lane of RADD at its target: its width in bytes and its sum (R403). -/
def raddLane (op : Nat) (old new : Nat) : Nat :=
  match op with
  | 1 => (old + new) % 2 ^ 32
  | 2 => (old + new) % 2 ^ 64
  | 3 => (addF .f32 .rne (readF .f32 old) (readF .f32 new)).bits
  | 4 => if sext old 32 < sext new 32 then new else old
  | 5 => if sext new 32 < sext old 32 then new else old
  | _ =>
    let w := fun (v k : Nat) => BitVec.ofNat 32 (v >>> (32 * k))
    let b := csa (w old 0) (w old 1) (w new 0)
    let r := csa b.1 b.2 (w new 1)
    r.1.toNat + r.2.toNat * 2 ^ 32

/-- The bytes of a RADD lane. -/
def raddWidth (op : Nat) : Nat := if op = 2 ∨ op = 6 then 8 else 4

/-- RADD: each lane added atomically, in address order (R215, R235, R403). -/
def execRaddMessage (row col : Nat) (cls : BitVec 5) (s : State) : Host.Outcome State Fault Refusal :=
  .next (onChecked s row col cls.toNat 5 fun c f ds =>
    let op := dOp f
    if op = 0 ∨ 6 < op then some (answer row col c f (dTag f) 5 0)
    else
      let w := raddWidth op
      let bs := dataBytes ds (dLen f)
      let m := (List.range (dLen f / w)).foldl (fun (m : Memory) i =>
        let a := dToff f + w * i
        m.writeLE a w (raddLane op (m.readLE a w) (leNat ((bs.drop (w * i)).take w)))) c.sram
      some (answer row col { noteWatch c true (dToff f) (dLen f) with sram := m } f (dTag f) 0 (dLen f / 32)))

/-- An AMORSP: the old value under the requester's tag (R404). -/
def amorsp (row col cls : Nat) (srow scol tag old : Nat) : Flit :=
  { payload := payloadOf [(12, tag), (16, old)], side := sideFirst cls 7 srow scol false 0 row col }

/-- A word's new value under RAMO: add, swap, cas (R404). -/
def ramoNew (op old val1 val2 : Nat) : Nat :=
  if op = 1 then (old + val1) % 2 ^ 64 else if op = 2 then val1 else if old = val1 then val2 else old

/-- A DFADD request joined to its word's open batch, or opening one; none while the batch to close or a seventeenth word
holds it back (R236). -/
def joinBatch (live : Nat) (cls : BitVec 5) (c : Core) (f : Flit) : Option Core :=
  let a : BitVec 19 := BitVec.ofNat 19 (dToff f)
  let q : DfReq := ⟨flitSrow f, flitScol f, BitVec.ofNat 16 (dTag f), BitVec.ofNat 64 (flitField f 16 8), cls⟩
  match c.batches.find? fun b => b.addr = a with
  | some b =>
    if live < b.opened + 256 then
      some { c with batches := c.batches.map fun x => if x.addr = a then { x with reqs := x.reqs ++ [q] } else x }
    else none
  | none => if 16 ≤ c.batches.length then none else some { c with batches := c.batches ++ [⟨a, live, [q]⟩] }

/-- AMOREQ: RAMO at its target, or a DFADD request for its batch (R236, R404). -/
def execAmoreqMessage (row col : Nat) (cls : BitVec 5) (s : State) : Host.Outcome State Fault Refusal :=
  .next (onChecked s row col cls.toNat 6 fun c f _ =>
    let op := dOp f
    if op = 0 ∨ 4 < op then some (answer row col c f (dTag f) 5 0)
    else if op = 4 then joinBatch s.live cls c f
    else
      let a := dToff f
      let old := c.sram.readLE a 8
      let c := deliverBytes c a (leBytes (ramoNew op old (flitField f 16 8) (flitField f 24 8)) 8)
      some (sendReply s row col c f cls.toNat [amorsp row col cls.toNat (flitSrow f) (flitScol f) (dTag f) old]))

/-- Whether one DFADD request goes before another: by source, row-major, then by the order its tags were issued
(R236). -/
def dfBefore (a b : DfReq) : Bool :=
  if a.srow ≠ b.srow then decide (a.srow < b.srow)
  else if a.scol ≠ b.scol then decide (a.scol < b.scol)
  else decide ((b.tag - a.tag).toNat < 32768)

/-- A request put in its place. -/
def dfInsert (q : DfReq) : List DfReq → List DfReq
  | [] => [q]
  | r :: rs => if dfBefore q r then q :: r :: rs else r :: dfInsert q rs

/-- A batch's requests in order. -/
def dfOrder (rs : List DfReq) : List DfReq := rs.foldr dfInsert []

/-- The answers of a batch in order: each request with the value ahead of it, and the total. -/
def dfValues : Nat → List DfReq → List (DfReq × Nat) × Nat
  | v, [] => ([], v)
  | v, q :: qs => let r := dfValues ((v + q.inc.toNat) % 2 ^ 64) qs; ((q, v) :: r.1, r.2)

/-- DFADD_BATCH_CLOSE: 256 cycles after it opened, a batch is ordered, answered and written (R236). -/
def execDfaddBatchClose (row col : Nat) (addr : BitVec 19) (s : State) : Host.Outcome State Fault Refusal :=
  let k := keyOf row col
  let c := coreAt s k
  match c.batches.find? fun b => b.addr = addr with
  | none => .next s
  | some b =>
    if s.dev.stopped || decide (s.live < b.opened + 256) then .next s
    else
      let r := dfValues (c.sram.readLE addr.toNat 8) (dfOrder b.reqs)
      let c := deliverBytes { c with batches := c.batches.filter fun x => x.addr ≠ addr } addr.toNat (leBytes r.2 8)
      .next (putReached s k (r.1.foldl (fun c p =>
        let f := amorsp row col p.1.cls.toNat p.1.srow p.1.scol p.1.tag.toNat p.2
        let own := match launchOf s row col with | some l => inRegion l p.1.srow p.1.scol | none => false
        if gone s p.1.srow p.1.scol then c else sendBack c own p.1.cls.toNat [f]) c))

/-! ## Completion at the requester (R215, R400 to R404) -/

/-- The operation and message index that a tag belongs to. -/
def opOfTag (c : Core) (tag : Nat) : Option (EngineOp × Nat) :=
  (c.ops.find? fun o => decide (o.tag.toNat ≤ tag) && decide (tag < o.tag.toNat + o.msgs)).map fun o => (o, tag - o.tag.toNat)

/-- The code of an operation: that of the first message refused, in injection order (R215). -/
def opCode (o : EngineOp) : Nat :=
  match (List.range (o.msgs + 1)).findSome? fun i => o.answers.find? fun a => a.1 == i && a.2.1 != 0 with
  | some a => a.2.1
  | none => 0

/-- The sectors an operation has performed. -/
def opSectors (o : EngineOp) : Nat := o.answers.foldl (fun n a => n + a.2.2) 0

/-- A core without an operation, its status word written (R400). -/
def completeOp (c : Core) (o : EngineOp) (code count : Nat) : Core :=
  writeX { c with ops := c.ops.filter fun p => p.tag ≠ o.tag, fencing := c.fencing.map fun e => (e.1, e.2.filter (· ≠ o.tag.toNat)) }
    .main o.xs (statusOf code count)

/-- The SIGNAL of a PUTS, sent once its data is acknowledged; it goes under the first tag of the operation, whose data
message is answered (R229, R401). -/
def putsSignalFlits (s : State) (row col : Nat) (o : EngineOp) (g : PutsSignal) : List Flit :=
  let own := match launchOf s row col with | some l => inRegion l o.drow o.dcol | none => false
  let f := o.handle != 0 && !own
  let gen := if f then (genOf o.handle).toNat else 0
  [{ payload := descPayload g.addr.toNat 0 0 o.tag.toNat 0 g.val.toNat 0 gen 0,
     side := sideFirst o.cls.toNat 2 o.drow o.dcol f 0 row col, gen := BitVec.ofNat 12 gen }]

/-- An operation once a message of it is answered: complete when all are, after the SIGNAL of a PUTS, which is rejected with RANGE
where its target has become unavailable (R115, R215, R401). -/
def settleOp (s : State) (row col : Nat) (c : Core) (o : EngineOp) : Core :=
  let c := { c with ops := c.ops.map fun p => if p.tag = o.tag then o else p }
  if o.answers.length < o.msgs then c
  else
    match o.signal with
    | some g =>
      if opCode o ≠ 0 then completeOp c o (opCode o) (opSectors o)
      else if g.sent then
        if o.msgs < o.answers.length then completeOp c o (opCode o) (opSectors o) else c
      else if unavailable s.dev o.drow o.dcol then completeOp c o stRange (opSectors o)
      else
        let o' := { o with signal := some { g with sent := true } }
        send { c with ops := c.ops.map fun p => if p.tag = o.tag then o' else p } o.cls.toNat (putsSignalFlits s row col o g)
    | none => completeOp c o (opCode o) (opSectors o)

/-- An answer to message i of an operation: code and sectors. A PUTS whose SIGNAL is out takes it as the last message.
The destination of RAMO and DFADD is 0 where the request is refused (R404). -/
def answerOp (s : State) (row col : Nat) (c : Core) (o : EngineOp) (i code count : Nat) : Core :=
  let sent := match o.signal with | some g => g.sent | none => false
  let i := if sent then o.msgs else i
  if o.answers.any fun a => a.1 == i then c
  else
    let c := if o.xd ≠ 0 ∧ code ≠ 0 then writeX c .main o.xd 0 else c
    settleOp s row col c { o with answers := o.answers ++ [(i, code, count)] }

/-- Data of an AREAD that is less than its message asked for: a NACK with the code follows (R405). -/
def isCutShort (o : EngineOp) (i n : Nat) : Bool := o.kind == .aread && decide (n < messageLen o.len i)

/-- RDRSP at a core: the data is written, and its message is answered, unless a code is still to come for it (R402, R405). -/
def coreRdrsp (s : State) (row col : Nat) (cls : BitVec 5) : State :=
  onMessage s row col cls.toNat 4 fun c f ds =>
    match verdictOn s row col cls.toNat (coreAt s (keyOf row col)) f, opOfTag c (dTag f) with
    | none, some (o, i) =>
      let c := deliverBytes c (dToff f) (dataBytes ds (dLen f))
      if isCutShort o i (dLen f) then
        some { c with ops := c.ops.map fun p => if p.tag = o.tag then { p with cutShort := p.cutShort ++ [(i, dLen f / 32)] } else p }
      else some (answerOp s row col c o i 0 (dLen f / 32))
    | some code, some (o, i) => some (answerOp s row col c o i code 0)
    | _, none => some c

/-- AMORSP: the old value and the status word are written together; refused, the request counts as refused (R216, R404). -/
def execAmorspMessage (row col : Nat) (cls : BitVec 5) (s : State) : Host.Outcome State Fault Refusal :=
  .next (onMessage s row col cls.toNat 7 fun c f _ =>
    match verdictOn s row col cls.toNat (coreAt s (keyOf row col)) f, opOfTag c (dTag f) with
    | none, some (o, _) => some (completeOp (writeX c .main o.xd (BitVec.ofNat 64 (flitField f 16 8))) o 0 0)
    | some code, some (o, i) => some (answerOp s row col c o i code 0)
    | _, none => some c)

/-- An answer to a capability request enters the inbound queue of class 27 (R173, R392). -/
def capAnswer (c : Core) (tag : Nat) (f : Flit) : Core :=
  { setQueue c 27 (queueOf c 27 ++ [f]) with
    caps := c.caps.filter fun x => x.1 ≠ tag, fencing := c.fencing.map fun e => (e.1, e.2.filter (· ≠ tag)) }

/-- Whether an answer waits for the data of its message: a NACK of an AREAD that counts sectors comes after them (R405). -/
def awaitsData (o : EngineOp) (i count : Nat) : Bool := o.kind == .aread && count != 0 && !o.cutShort.any fun x => x.1 == i

/-- An ACK or NACK at a core. -/
def coreAnswer (s : State) (row col kind : Nat) : State :=
  onMessage s row col 27 kind fun c f _ =>
    let tag := flitField f 0 2
    if tag < 4 then if c.caps.any fun x => x.1 == tag then some (capAnswer c tag f) else some c
    else
      match opOfTag c tag with
      | some (o, i) =>
        if awaitsData o i (flitField f 4 4) then none else some (answerOp s row col c o i (flitField f 2 1) (flitField f 4 4))
      | none => some c

/-! ## MSG and PSUM flits (R127, R166, R167, R390) -/

/-- Whether a core takes MSG and PSUM flits: it belongs to a region that is not being reset, runs code, and a FOREIGN flit's GEN
is its own (R56, R119, R166, R390). -/
def takesFlit (s : State) (row col : Nat) (c : Core) (f : Flit) : Bool :=
  (launchOf s row col).isSome && c.runsCode && !c.resetting && (!flitForeign f || f.gen.toNat == ownGen c)

/-- Whether a core removes its cellar in its next turn: CELLAR with m = 0 stands there, and the cellar is empty; a flit that would
spill in that cycle waits, for CELLAR takes effect first (R168, R417). -/
def removesCellar (s : State) (k : Nat) : Bool :=
  match turnOf s k with
  | .run (.cellar _ m _) s' => s'.ctx == .main && m == 0 && (coreAt s k).sys.mode && (cellarEntries (coreAt s k)).isEmpty
  | _ => false

/-- Whether a flit for a core would go to its cellar: its queue is full (R167). -/
def wouldSpill (c : Core) (f : Flit) : Bool := decide (4 ≤ (queueOf c (flitCls f)).length)

/-- MSG_DELIVERY: a flit at the local output enters its queue or the cellar, or is discarded; it is held while neither
has room (R166, R167, R169). -/
def execMsgDelivery (row col : Nat) (cls : BitVec 5) (s : State) : Host.Outcome State Fault Refusal :=
  match s.dev.stopped, routerOf s.dev row col with
  | false, some k =>
    match (outFlits (routerAt s k) 4 cls.toNat).head? with
    | none => .next s
    | some f =>
      if flitKind f ≠ 0 ∧ flitKind f ≠ 10 then .next s
      else
        let key := keyOf row col
        let c := coreAt s key
        let put := fun (c : Core) =>
          leaveOut (setCore s key (if cls.toNat < 24 then countReached (flitForeign f) 1 c else c)) k 4 cls.toNat
        if !takesFlit s row col c f then .next (put c)
        else if wouldSpill c f && removesCellar s key then .next s
        else
          match enqueue c f with
          | some c => .next (put (refreshReady c))
          | none => .next s
  | _, _ => .next s

/-- CELLAR_TO_QUEUE: the oldest flit of a class moves from the cellar into its queue (R167). -/
def execCellarToQueue (row col : Nat) (cls : BitVec 5) (s : State) : Host.Outcome State Fault Refusal :=
  let k := keyOf row col
  let c := coreAt s k
  if s.dev.stopped || decide (4 ≤ (queueOf c cls.toNat).length) then .next s
  else
    match takeSpilled c cls.toNat with
    | some (f, c) => .next (setCore s k (setQueue c cls.toNat (queueOf c cls.toNat ++ [f])))
    | none => .next s

/-! ## Pushes (R217, R252, R259, R264, R265) -/

/-- The FORM of a PUSH. -/
def pForm (f : Flit) : Nat := flitField f 4 1
/-- SRCID of a PUSH. -/
def pSource (f : Flit) : Nat := flitField f 6 2

/-- The answer to a PUSH or SIGNAL of a larder: its tag holds SRCID, which names the context (log entry 14). -/
def pushAnswer (row col : Nat) (c : Core) (f : Flit) (code count : Nat) : Core :=
  if flitField f 6 2 / 2 ^ 15 = 1 then c else answer row col c f (pSource f) code count

/-- Whether a PUSH is refused: no code runs here, a reserved byte, or a range outside SRAM (R216, R217). -/
def pushRefused (c : Core) (f : Flit) : Bool :=
  !c.runsCode || !descClean f || (pForm f == 1 && decide (0x80000 < dToff f + dLen f)) || decide (2 < pForm f)

/-- A sector performed into a pantry: at FILL, which advances (R259). -/
def fillSector (c : Core) (p : Nat) (x : Pantry) (bs : List Byte) : Core :=
  setPantry (deliverBytes c (sectorAddr x x.fill) bs) p { x with fill := x.fill + 1 }

/-- Sectors performed into the window of a pantry as long as there is room, and those left (R259). -/
def fillPantry (p : Nat) : Core → List (List Byte) → Core × List (List Byte)
  | c, [] => (c, [])
  | c, b :: bs =>
    let x := pantryAt c p
    if (x.fill - x.rel).toNat < pantryW x then fillPantry p (fillSector c p x b) bs else (c, b :: bs)

/-- The rest of a delivery whose pantry has been set anew since it was accepted: written against the old descriptor
(R261). -/
def fillOld (x : Pantry) : Core → Nat → List (List Byte) → Core
  | c, _, [] => c
  | c, i, b :: bs => fillOld x (deliverBytes c (sectorAddr x (x.fill + BitVec.ofNat 32 i)) b) (i + 1) bs

/-- Such a delivery performed: the next one by the same descriptor goes on after it. -/
def finishOld (x : Pantry) (p : Nat) (c : Core) (bs : List (List Byte)) : Core :=
  changeOld (fillOld x c 0 bs) p x.sets fun y => { y with fill := y.fill + BitVec.ofNat 32 bs.length }

/-- The sectors of a delivery. -/
def sectorsOf (bs : List Byte) : List (List Byte) := (List.range (bs.length / 32)).map fun i => (bs.drop (32 * i)).take 32

/-- A pantry delivery, begun or taken up again: the state with what fits performed; answered once all of it is, held
otherwise (R259). It is judged and performed against the pantry that it was accepted for (R261, R269). -/
def deliverPantry (s : State) (row col cls : Nat) (again : Bool) : State :=
  let k := keyOf row col
  let c0 := coreAt s k
  match s.dev.stopped || isGated c0, takeMessage c0 cls, ffind c0.pushed cls with
  | false, some (f, ds, c), h =>
    if flitKind f ≠ 15 ∨ pForm f ≠ 0 ∨ h.isSome ≠ again then s
    else
      let p := flitField f 5 1
      let x := pantryAt c p
      let n := dLen f / 32
      let did := match h with | some q => q.1 | none => 0
      let left := (sectorsOf (dataBytes ds (dLen f))).drop did
      let fin := fun (c : Core) (code count : Nat) =>
        putReached s k (countTaken s row col cls (pushAnswer row col { c with pushed := fdel c.pushed cls } f code count) f (ds.length + 1))
      match h with
      | none =>
        let y := match ffind c0.accepted cls with | some a => a.2 | none => x
        if pushRefused c f || decide (7 < p) || !y.valid || y.outbound then fin c 5 0
        else if y.sets ≠ x.sets then fin (finishOld y p c left) 0 n
        else
          match fillPantry p c left with
          | (c, []) => fin c 0 n
          | (c, more) => putReached s k { c with rx := c0.rx, pushed := fset c.pushed cls (n - more.length, pantryAt c p) }
      | some q =>
        if q.2.sets ≠ x.sets then fin (finishOld q.2 p c left) 0 n
        else
          match fillPantry p c left with
          | (c, []) => fin c 0 n
          | (c, more) => putReached s k { c with rx := c0.rx, pushed := fset c.pushed cls (n - more.length, pantryAt c p) }
  | _, _, _ => s

/-- PANTRY_PUSH (R259). -/
def execPantryPush (row col : Nat) (cls : BitVec 5) (s : State) : Host.Outcome State Fault Refusal :=
  .next (deliverPantry s row col cls.toNat false)

/-- HELD_DELIVERY_RESUME: a delivery held for window space goes on (R259). -/
def execHeldDeliveryResume (row col : Nat) (cls : BitVec 5) (s : State) : Host.Outcome State Fault Refusal :=
  .next (deliverPantry s row col cls.toNat true)

/-- SRAM_PUSH: a PUSH of FORM 1 (R252). -/
def execSramPush (row col : Nat) (cls : BitVec 5) (s : State) : Host.Outcome State Fault Refusal :=
  .next (onMessage s row col cls.toNat 15 fun c f ds =>
    if isGated c || pForm f != 1 then none
    else if pushRefused c f then some (pushAnswer row col c f 5 0)
    else some (pushAnswer row col (deliverBytes c (dToff f) (dataBytes ds (dLen f))) f 0 (dLen f / 32)))

/-- The burst that a PUSH of FORM 2 carries; bytes beyond the valid ones are 0 (R252, R264). -/
def burstOf (f : Flit) (ds : List Flit) : Burst :=
  let n := flitField f 28 2
  { tag := dTag f, bix := BitVec.ofNat 32 (flitField f 16 4), bxc := BitVec.ofNat 32 (flitField f 20 4),
    byc := BitVec.ofNat 32 (flitField f 24 4), bcnt := BitVec.ofNat 16 n, data := bitsOfBytes 1024 (dataBytes ds n) }

/-- BURST_DELIVERY: written at once in the direct form, else placed in a handler context or the burst buffer, held while
that is full (R130, R264, R265). -/
def execBurstDelivery (row col : Nat) (s : State) : Host.Outcome State Fault Refusal :=
  .next (onMessage s row col 24 15 fun c f ds =>
    if isGated c || pForm f != 2 then none
    else
      match ffind c.breads (dTag f) with
      | none => some (pushAnswer row col c f 5 0)
      | some b =>
        let x := burstOf f ds
        let n := x.bcnt.toNat
        let b' := { b with delivered := b.delivered + 1, sectors := b.sectors + n / 32 }
        let c' : Core := { c with breads := fset c.breads (dTag f) b' }
        if b.desc.direct then
          let a := b.desc.dest + (x.byc.toNat - b.desc.y0) * b.desc.dpitch + (x.bxc.toNat - b.desc.x0)
          some (pushAnswer row col (burstHandled (deliverBytes c' a (dataBytes ds n)) (dTag f) false) f 0 (n / 32))
        else if 8 ≤ c.bursts.length then none
        else some (pushAnswer row col (placeBursts { c' with bursts := c'.bursts ++ [x] } 8) f 0 (n / 32)))

/-- A burst of a core-space bulk read as a PUSH message on class 24 (R263). -/
def burstFlits (row col drow dcol tag src : Nat) (d : BreadDesc) (k by_ lo n : Nat) (data : List Byte) : List Flit :=
  let desc := payloadOf
    [(0, if d.direct then d.dest + (by_ - d.y0) * d.dpitch + (lo - d.x0) else 0), (4, 2), (6, src), (8, n), (12, tag),
     (16, k), (20, lo), (24, by_), (28, n)]
  messageFlits 24 15 drow dcol false row col [desc, bitsOfBytes 1024 data]

/-- Whether a bulk read sends no further burst: a handler of it has trapped (R266). -/
def breadStopped (s : State) (row col tag : Nat) : Bool :=
  match ffind (coreAt s (keyOf row col)).breads tag with
  | some b => b.code != 0
  | none => false

/-- A bulk read whose source stops after a number of bursts: those are all that come (R266). -/
def stopBread (c : Core) (tag sent : Nat) : Core :=
  match ffind c.breads tag with
  | none => c
  | some b => { c with breads := fset c.breads tag { b with total := sent } }

/-- A bulk read at its requester that its source refuses (R266). -/
def refuseBread (c : Core) (tag code : Nat) : Core :=
  match ffind c.breads tag with
  | none => c
  | some b => { c with breads := fset c.breads tag { b with code := code, ended := true } }

/-- BREAD_SOURCE_BURST: the source core reads and sends the next burst of the first bulk read it holds; asleep as the
read arrives, it refuses it, and it stops once a handler of the read has trapped (R216, R263, R266). -/
def execBreadSourceBurst (row col : Nat) (s : State) : Host.Outcome State Fault Refusal :=
  let k := keyOf row col
  let c := coreAt s k
  match s.dev.stopped, c.sources with
  | false, b :: rest =>
    if b.next = 0 ∧ isGated c then
      .next (modCore (setCore s k { c with sources := rest }) (keyOf b.rrow b.rcol) fun r => refuseBread r b.tag 1)
    else if breadStopped s b.rrow b.rcol b.tag then
      .next (modCore (setCore s k { c with sources := rest }) (keyOf b.rrow b.rcol) fun r => stopBread r b.tag b.next)
    else if !inputFree c 24 then .next s
    else
      let j := burstIndex b.desc b.next
      match burstSpan b.desc j with
      | none => .next (setCore s k { c with sources := rest })
      | some (by_, lo, hi) =>
        let a := (b.off : Int) + by_ * b.desc.stride + lo
        let data := c.sram.readBytes a.toNat (hi - lo)
        let c := send c 24 (burstFlits row col b.rrow b.rcol b.tag (2 ^ 15) b.desc j by_ lo (hi - lo) data)
        let more := if b.next + 1 < burstTotal b.desc then [{ b with next := b.next + 1 }] else []
        .next (setCore s k { c with sources := more ++ rest })
  | _, _ => .next s

end Sys2Proof.Machine
end

