-- ==== Sys2Proof/Machine/CoreEvents.lean ====
section
/-! DEFINITION. The core's own events: results written, stalls released, breakpoints, barriers, waking, drain markers and
freezing (R89, R90, R103, R135, R136, R141, R233, R328, R409), and capability operations (R104, R172, R173). -/

namespace Sys2Proof.Machine

/-- A core event: nothing happens while the wafer is stopped, or outside the grid. -/
def onCore (s : State) (row col : Nat) (f : Core → Core) : State :=
  if s.dev.stopped || !inGrid (keyOf row col) then s else modCore s (keyOf row col) f

/-- A result's flags and counts noted as landing in this cycle, and the counters as they stand before the first of them (R193,
R326). -/
def noteResult (c : Core) (p : Pending) : Core :=
  let l := landedNow c
  { c with landed :=
      { l with results := l.results ++ [(p.ctx, p.flags, p.sat, p.nan, p.ufl)],
               counts := if l.results.isEmpty then (c.sys.satcnt, c.sys.nancnt, c.sys.uflcnt) else l.counts } }

/-- RESULT_WRITEBACK: the oldest pending result of a core is written; results under way are written while the wafer is
stopped too (R100, R136). -/
def execResultWriteback (row col : Nat) (s : State) : Host.Outcome State Fault Refusal :=
  if !inGrid (keyOf row col) then .next s
  else
    .next (modCore s (keyOf row col) fun c =>
      match c.pending.find? (·.late.isNone) with
      | some p => (writeOldest (noteResult c p) fun _ => true).getD c
      | none => c)

/-! ## Stalled tasks (R128, R387, R391, R406, R414) -/

/-- Whether a receiving instruction on a binding has what it waits for. -/
def bindingReady (c : Core) (q need : Nat) : Bool :=
  match readQ c q with
  | .inQ cls => classHolds c cls.toNat
  | .cap _ => classHolds c 27
  | .pantry p _ => decide (need ≤ pantryAvail (pantryAt c p))
  | _ => true

/-- Whether the instruction at which a task is stalled can go on. -/
def waitOver (c : Core) : Instr → Bool
  | .pop _ _ q _ => bindingReady c q.toNat 1
  | .vpop _ _ q => bindingReady c q.toNat 4
  | .trecv _ _ _ q => bindingReady c q.toNat 1
  | .pwait _ p a =>
    let x := pantryAt c p.toNat
    decide (wfield (readX c .main a.toNat) 0 32 ≤ if x.outbound then pantryFree x else pantryAvail x)
  | .waits _ a b => decide ((readX c .main b.toNat).toNat ≤ (c.sram.word (readX c .main a.toNat).toNat).toNat)
  | _ => true

/-- Whether a wait at an instruction is over (R90, R406). -/
def waitEnded (c : Core) (i : Instr) : Wait → Bool
  | .instr => decide (c.wait = .met) || waitOver c i
  | .barrier sc id => !c.arrivals.getLsbD (barBit sc id)
  | _ => true

/-- The state of a task whose wait at an instruction is over: a WAITS that has read its value reads no other (R406). -/
def releasedWait : Instr → Wait
  | .waits .. => .met
  | _ => .run

/-- STALL_RELEASE: what a stalled task waits for has come, and its instruction executes afresh at its next issue; a BAR or
BARW goes on past its wait phase (R90, R128). A core that a drain has stopped at its switch point stays there (R89), and a
gang goes on as a whole, once its leader issues again (R133). -/
def execStallRelease (row col : Nat) (s : State) : Host.Outcome State Fault Refusal :=
  .next (onCore s row col fun c =>
    if c.draining || c.frozen || c.gang.isSome then c
    else
    match c.wait with
    | .instr => if waitOver c (fetchAt c .main) then { c with wait := releasedWait (fetchAt c .main) } else c
    | .barrier sc id =>
      if c.arrivals.getLsbD (barBit sc id) then c else { advance (countIssue c .main) .main c.pc with wait := .run }
    | _ => c)

/-- The first context of a core that is about to issue an instruction with a breakpoint. -/
def breakpointCtx (s : State) (c : Core) : Option (Ctx × Boundary) :=
  ((List.range 9).filter fun n => placeMayIssue s c n).findSome? fun n =>
    let ctx := ctxOfPlace n
    (breakpointAt c ctx (pcOf c ctx)).map fun b => (ctx, breakAction b.2 b.1 (pcOf c ctx))

/-- BREAKPOINT_MATCH: an instruction with a breakpoint is about to issue, and the action is taken before it has any
effect (R103). -/
def execBreakpointMatch (row col : Nat) (s : State) : Host.Outcome State Fault Refusal :=
  let k := keyOf row col
  let c := coreAt s k
  if !inGrid k || !coreMayIssue s c then .next s
  else
    match breakpointCtx s c with
    | some (ctx, b) => .next (applyBoundary s k ctx b)
    | none => .next s

/-! ## Barriers (R82, R135, R233, R409) -/

/-- The cores of a region that a barrier instance counts, seen from one of them. -/
def participants (l : Launch) (sc : Scope) (key : Nat) : List Nat := (regionKeys l).filter (inScope sc key)

/-- Whether a core counts as arrived: it runs no code, or its arrival's fence is satisfied (R233, R409). -/
def hasArrived (sc : Scope) (id : BitVec 3) (c : Core) : Bool :=
  !c.runsCode ||
    (c.arrivals.getLsbD (barBit sc id) &&
      !(fget c.fencing (barBit sc id) []).any fun t => (c.ops.any fun o => o.tag.toNat == t) || c.caps.any fun x => x.1 == t)

/-- A core whose barrier instance has released. -/
def releaseBit (sc : Scope) (id : BitVec 3) (c : Core) : Core :=
  { c with arrivals := c.arrivals &&& ~~~(1#24 <<< barBit sc id), fencing := fdel c.fencing (barBit sc id) }

/-! ### The pod barrier tree (R33, R409)

A wafer arrives at its parent once its own participants and every child have arrived; the root's release goes down the tree. The
shape of the tree and the payloads are Config's (log entry 17). -/

/-- Whether a port holds a pod barrier signal that has come. -/
def podHeard (s : State) (release : Bool) (id : BitVec 3) (n : Nat) : Bool :=
  (linkAt s n).barIn.any fun p => Config.barrierSignal p == some (release, id.toNat)

/-- A port without the first such signal. -/
def podTake (release : Bool) (id : BitVec 3) (s : State) (n : Nat) : State :=
  let l := linkAt s n
  setLink s n { l with barIn := l.barIn.eraseP fun p => Config.barrierSignal p == some (release, id.toNat) }

/-- Whether a port can send a BARRIER frame, which takes no credit (R36 to R38). -/
def podCanTell (s : State) (n : Nat) : Bool := decide ((linkAt s n).st = .active) && replayRoom (linkAt s n)

/-- A BARRIER frame sent through a port (R33, R35). -/
def podTell (release : Bool) (id : BitVec 3) (s : State) (n : Nat) : State :=
  setLink s n (sendKept s.cycle (linkAt s n) 3 0 (Config.barrierPayload release id.toNat))

/-- The release of an instance of a pod barrier on this wafer: the arrivals of the children are used up, and they are told. -/
def podRelease (s : State) (id : BitVec 3) : State :=
  let s := Config.podChildren.foldl (podTell true id) (Config.podChildren.foldl (podTake false id) s)
  modUnrid s fun u => { u with podSent := u.podSent &&& ~~~(1#8 <<< id.toNat) }

/-- What a wafer whose own participants have arrived at a pod barrier does: it waits for its children, arrives at its parent, and
releases on the parent's word, or at the root at once. The second part says whether the instance is released. -/
def podStep (s : State) (id : BitVec 3) : State × Bool :=
  let ready := Config.podChildren.all (podCanTell s)
  if !Config.podChildren.all (podHeard s false id) then (s, false)
  else
    match Config.podParent with
    | none => if ready then (podRelease s id, true) else (s, false)
    | some p =>
      if s.unrid.podSent.getLsbD id.toNat then
        if podHeard s true id p && ready then (podRelease (podTake true id s p) id, true) else (s, false)
      else if podCanTell s p then
        (modUnrid (podTell false id s p) fun u => { u with podSent := u.podSent ||| (1#8 <<< id.toNat) }, false)
      else (s, false)

/-- BARRIER_RELEASE: once every participant has arrived, on every wafer of the pod at pod scope, the bit clears in all of them. -/
def execBarrierRelease (sc : Scope) (id : BitVec 3) (row col : Nat) (s : State) : Host.Outcome State Fault Refusal :=
  match s.dev.stopped, launchOf s row col with
  | false, some l =>
    let ks := participants l sc (keyOf row col)
    if holdsBarrier (some l) sc id && ks.all fun k => hasArrived sc id (coreAt s k) then
      let r := if sc = .pod then podStep s id else (s, true)
      .next (if r.2 then ks.foldl (fun s k => modCore s k (releaseBit sc id)) r.1 else r.1)
    else .next s
  | _, _ => .next s

/-! ## SLEEP (R328) -/

/-- A core awake. -/
def wakeCore (c : Core) : Core := { c with sleep := .awake }

/-- SLEEP_WAKE: a wake condition holds. -/
def execSleepWake (row col : Nat) (s : State) : Host.Outcome State Fault Refusal :=
  .next (onCore s row col fun c => if isGated c && wakes c then wakeCore c else c)

/-- SLEEP_TIMEOUT: the timeout has passed since gating; its count does not pause (R328). -/
def execSleepTimeout (row col : Nat) (s : State) : Host.Outcome State Fault Refusal :=
  .next (onCore s row col fun c =>
    match c.sleep with
    | .gated since t => if t ≠ 0 ∧ since + t ≤ s.cycle then wakeCore c else c
    | .awake => c)

/-! ## Drain markers and freezing (R89, R90, R171) -/

/-- The classes that a core binds: by its queue registers and its tasks. -/
def boundClasses (c : Core) : List Nat :=
  (List.range 24).filter fun cls =>
    ((List.range 16).any fun q => match readQ c q with | .inQ k | .outQ k _ _ _ => k.toNat == cls | _ => false) ||
      c.tasks.any fun t => !t.2.onEvent && t.2.k.toNat == cls

/-- The sources of markers of a launch: its larders and the command processor (R89, R171). -/
def markerSources (l : Launch) : List Nat := ((List.range 48).filter fun n => l.larders.getLsbD n) ++ [48]

/-- Whether a core's main context stands at a switch point: its own, or in a gang its leader's (R90). -/
def atSwitchPoint (s : State) (c : Core) : Bool :=
  let c := match c.gang with | some g => coreAt s (keyOf g.row g.col) | none => c
  c.running.isNone || atSwitchWait c

/-- Whether a draining core freezes: stopped at a switch point, its status words and results written, and a marker held
from every source for every class it binds (R89). -/
def freezes (s : State) (l : Launch) (c : Core) : Bool :=
  c.draining && atSwitchPoint s c && c.ops.isEmpty && c.breads.isEmpty && c.caps.isEmpty && c.pending.isEmpty &&
    (boundClasses c).all fun cls => (markerSources l).all fun src => !l.classMask.getLsbD cls || c.markers.contains (cls, src)

/-- A core frozen if it can be. -/
def tryFreeze (s : State) (l : Launch) (k : Nat) : State :=
  let c := coreAt s k
  if !c.frozen && freezes s l c then setCore s k { c with frozen := true } else s

/-- The class in whose local output a marker stands. -/
def markerClass (s : State) (k : Nat) : Option (Nat × Flit) :=
  (List.range 32).findSome? fun cls =>
    match (outFlits (routerAt s k) 4 cls).head? with
    | some f => if flitKind f = 13 then some (cls, f) else none
    | none => none

/-- DRAIN_MARKER: a marker reaches a core, which wakes, and freezes once it can (R89, R171, R328). -/
def execDrainMarker (row col : Nat) (s : State) : Host.Outcome State Fault Refusal :=
  match s.dev.stopped, routerOf s.dev row col with
  | false, some k =>
    match markerClass s k with
    | none => .next s
    | some (cls, f) =>
      let key := keyOf row col
      let m := (flitField f 0 1, flitField f 1 1)
      let s := modCore (leaveOut s k 4 cls) key fun c => wakeCore { c with markers := c.markers ++ [m] }
      match launchOf s row col with
      | some l => .next (tryFreeze s l key)
      | none => .next s
  | _, _ => .next s

/-! ## Inspection writes (R104, R105) -/

/-- A word of a 512-bit register replaced. -/
def setWord512 (v : BitVec 512) (i : Nat) (w : Word) : BitVec 512 :=
  let a := v.toNat
  BitVec.ofNat 512 (a % 2 ^ (64 * i) + w.toNat * 2 ^ (64 * i) + (a / 2 ^ (64 * (i + 1))) * 2 ^ (64 * (i + 1)))

/-- A core with a word written by inspection. A system register takes the write that WRSYS makes in system mode; one
that WRSYS would refuse with a trap is left unchanged. -/
def inspectWrite (c : Core) (space w : Nat) (v : Word) : Core :=
  match space with
  | 0 => writeX c .main w v
  | 1 => writeV c .main (w / 8) (setWord512 (readV c .main (w / 8)) (w % 8) v)
  | 2 => match writeSys c w v 0 with | .ok c => c | .trap .. => c
  | 3 => { c with sram := c.sram.writeLE (8 * w) 8 v.toNat }
  | 4 => { c with istore := c.istore.writeLE (8 * w) 8 v.toNat }
  | 5 =>
    let n := w / 257
    let t := readAcc c n
    if w % 257 = 256 then writeAcc c n { t with exp := v.setWidth 10 }
    else writeAcc c n { t with el := fset t.el (w % 257) (v.setWidth 48) }
  | 6 =>
    let k := w / 36
    let j := w % 36
    let h := handlerAt c k
    setHandler c k (
      if j < 16 then { h with y := fset h.y j v }
      else if j < 32 then { h with w := fset h.w (j / 24) (setWord512 (fget h.w (j / 24) 0) (j % 8) v) }
      else if j = 32 then { h with bix := v.setWidth 32, bxc := v.extractLsb' 32 32 }
      else if j = 33 then { h with byc := v.setWidth 32, bcnt := v.extractLsb' 32 16, pc := v.extractLsb' 48 16 }
      else if j = 34 then { h with busy := v.getLsbD 0, tag := wfield v 8 3 }
      else h)
  | _ => c

/-! ## Capability operations (R104, R172, R173) -/

/-- Whether a request breaks a rule that is answered RANGE (R173). -/
def capInvalid (f : Flit) : Bool :=
  let op := flitField f 8 1
  let clean := payloadOf ([(0, 8), (8, 1), (9, 1), (12, 4), (16, 8), (24, 2)].map fun p => (p.1, flitField f p.1 p.2)) == f.payload
  op == 0 || decide (5 < op) || decide (6 < flitField f 9 1) || decide (spaceWords (flitField f 9 1) ≤ flitField f 12 4) ||
    !clean || (op == 5 && decide (31 < flitField f 16 8))

/-- A capability request of one operation performed at its target: refused where the handle's launch is not the
target's, or a rule is broken; else the body gives the core, the code and the word read. A request of no operation is
taken with the reads. -/
def onCap (s : State) (row col op : Nat) (body : Core → Flit → Core × Nat × Nat) : State :=
  onMessage s row col 25 14 fun c f _ =>
    let tag := flitField f 24 2
    let is := flitField f 8 1
    if is ≠ op ∧ !(op = 1 ∧ (is = 0 ∨ 5 < is)) then none
    else if flitField f 3 2 % 4096 ≠ ownGen c then some (send c 27 [answerFlit row col f tag 4 0 0])
    else if capInvalid f then some (send c 27 [answerFlit row col f tag 5 0 0])
    else
      let r := body c f
      some (send r.1 27 [answerFlit row col f tag r.2.1 0 r.2.2])

/-- CAP_READ. -/
def execCapRead (row col : Nat) (s : State) : Host.Outcome State Fault Refusal :=
  .next
    { onCap s row col 1 fun c f =>
        (inspectTaken c (flitField f 9 1) (flitField f 12 4), 0,
          (inspectRead c s.cycle (flitField f 9 1) (flitField f 12 4) (Config.freeWord s.freeCtr)).toNat) with
      freeCtr := s.freeCtr + 1 }

/-- CAP_WRITE: only while the target is halted; a write to a running core is ignored and answered SEAL (R104, R173). -/
def execCapWrite (row col : Nat) (s : State) : Host.Outcome State Fault Refusal :=
  .next (onCap s row col 2 fun c f =>
    if c.halted then (inspectWrite c (flitField f 9 1) (flitField f 12 4) (BitVec.ofNat 64 (flitField f 16 8)), 0, 0)
    else (c, 4, 0))

/-- CAP_HALT. -/
def execCapHalt (row col : Nat) (s : State) : Host.Outcome State Fault Refusal :=
  .next (onCap s row col 3 fun c _ => (haltCore c, 0, 0))

/-- CAP_RESUME. -/
def execCapResume (row col : Nat) (s : State) : Host.Outcome State Fault Refusal :=
  .next (onCap s row col 4 fun c _ => ({ c with halted := false }, 0, 0))

/-- CAP_WAKE: an event flag of the target, as EVSET sets it (R172). -/
def execCapWake (row col : Nat) (s : State) : Host.Outcome State Fault Refusal :=
  .next (onCap s row col 5 fun c f => (setEvents c (1#32 <<< (flitField f 16 8)), 0, 0))

end Sys2Proof.Machine
end

