-- ==== Sys2Proof/Machine/Retire.lean ====
section
/-! DEFINITION. The retirement log, the choice of a line, the shift-remap wave and failures in service
(R15, R16, R96, R99, R106 to R115, R174, R176). -/

namespace Sys2Proof.Machine

/-! ## The retirement log (R106, R107) -/

/-- Where slot i of the log lies in the flash. -/
def slotAddr (i : Nat) : Nat := 0x10_0000 + 64 * i

/-- The slots of the log. -/
def logSlots : Nat := 16384

/-- Whether a slot is erased. -/
def erasedSlot (m : Memory) (i : Nat) : Bool := (m.readBytes (slotAddr i) 64).all (· == 0xFF)

/-- What replay has come to: the last sequence number, the generation and the lines retired. -/
structure Replay where
  seq : Nat := 0
  gen : Nat := 1
  rows : FMap (List Nat) := []
  cols : FMap (List Nat) := []
  deriving DecidableEq, Repr

/-- Whether a line is retired already. -/
def lineRetired (rows cols : FMap (List Nat)) (l : LineRec) : Bool :=
  (fget (if l.row then rows else cols) (l.index / 33) []).contains (l.index % 33)

/-- A line joined to the retired ones, in ascending order. -/
def addLine (m : FMap (List Nat)) (index : Nat) : FMap (List Nat) :=
  let old := fget m (index / 33) []
  fset m (index / 33) ((List.range 33).filter fun i => old.contains i || i == index % 33)

/-- Whether an index names a line of its kind. -/
def lineExists (l : LineRec) : Bool := if l.row then decide (l.index < 231) else decide (l.index < 396)

/-- The line of a slot's record if it is committed after what has been replayed (R107). -/
def committed (m : Memory) (i : Nat) (r : Replay) : Option LineRec :=
  let a := slotAddr i
  let f := fun o n => m.readLE (a + o) n
  let l : LineRec := ⟨f 4 1 == 1, f 6 2⟩
  if f 0x3F 1 = 0xA5 ∧ crc32c (m.readBytes a 56) = BitVec.ofNat 32 (f 0x38 4) ∧ f 0 4 = r.seq + 1 ∧ f 8 2 = r.gen + 1 ∧
      (f 4 1 = 1 ∨ f 4 1 = 2) ∧ lineExists l ∧ !lineRetired r.rows r.cols l then some l
  else none

/-- The record of a line applied. -/
def replayLine (r : Replay) (l : LineRec) : Replay :=
  { seq := r.seq + 1, gen := r.gen + 1, rows := if l.row then addLine r.rows l.index else r.rows,
    cols := if l.row then r.cols else addLine r.cols l.index }

/-- Replay from slot i, for at most n slots, up to the first erased one (R107). -/
def replayFrom (m : Memory) : Nat → Nat → Replay → Replay
  | 0, _, r => r
  | n + 1, i, r =>
    if erasedSlot m i then r
    else
      match committed m i r with
      | some l => replayFrom m n (i + 1) (replayLine r l)
      | none => replayFrom m n (i + 1) r

/-- The whole log replayed. -/
def replayLog (m : Memory) : Replay := replayFrom m logSlots 0 {}

/-- The slot that the next record goes to: the first erased one after the last that is not, if there is one (R106). -/
def freeSlot (m : Memory) : Option Nat :=
  let used := (List.range logSlots).filter fun i => !erasedSlot m i
  let i := match used.getLast? with | some j => j + 1 | none => 0
  if i < logSlots then some i else none

/-- The bytes of a record (R106). -/
def recordOf (seq gen : Nat) (l : LineRec) (reason prow pcol cycle : Nat) : List Byte :=
  let m := writeFields (Memory.empty) 0
    [(0, 4, seq), (4, 1, if l.row then 1 else 2), (5, 1, reason), (6, 2, l.index), (8, 2, gen), (12, 2, prow), (14, 2, pcol), (16, 8, cycle)]
  let m := m.writeLE 0x38 4 (crc32c (m.readBytes 0 56)).toNat
  (m.writeLE 0x3F 1 0xA5).readBytes 0 64

/-! ## Retiring a line (R16, R110, R114) -/

/-- The state without the launches whose regions meet a set of logical cores, each aborted with a cause (R97). -/
def abortCovering (s : State) (hit : Launch → Bool) (cause prow pcol : Nat) : State :=
  (s.unrid.launches.filter fun l => launchHasRegion l && hit l).foldl (fun s l => regionFault s l.num cause prow pcol) s

/-- Whether a region covers a logical core of a band (row) or of a field column. -/
def coversLine (row : Bool) (b : Nat) (l : Launch) : Bool :=
  if row then decide (l.orgRow < 32 * (b + 1)) && decide (32 * b < l.orgRow + l.rows)
  else decide (l.orgCol < 32 * (b + 1)) && decide (32 * b < l.orgCol + l.cols)

/-! ## Cores that become unavailable (R16, R115) -/

/-- A message rejected before it enters the fabric: its operation takes RANGE, or the answer to a CAP request does; a message with
no status is gone. Its flits count as delivered (R86, R115). -/
def rejectMessage (s : State) (row col cls : Nat) (c : Core) (f : Flit) : Core :=
  let c := { c with delivered := if counted cls f then c.delivered + messageSize f else c.delivered }
  if flitKind f = 14 then
    capAnswer c (flitField f 24 2) { payload := payloadOf [(0, flitField f 24 2), (2, stRange)],
                                     side := sideFirst 27 9 row col false 0 (flitDrow f) (flitDcol f) }
  else if 1 ≤ flitKind f ∧ flitKind f ≤ 6 ∧ flitKind f ≠ 4 then
    match opOfTag c (dTag f) with
    | some (o, i) => answerOp s row col c o i stRange 0
    | none => c
  else c

/-- Whether a message that has not begun to leave is addressed to an unavailable core. -/
def rejected (s : State) (f : Flit) : Bool :=
  flitFidx f == 0 && decide (flitDrow f < 510) && decide (flitDcol f < 510) && unavailable s.dev (flitDrow f) (flitDcol f)

/-- What a core sends on a class without the messages to unavailable cores, and their first flits; skip counts the flits of one that
are still to be passed over. -/
def splitRejected (s : State) : Nat → List Flit → List Flit × List Flit
  | _, [] => ([], [])
  | n + 1, _ :: fs => splitRejected s n fs
  | 0, f :: fs =>
    if rejected s f then let r := splitRejected s (messageSize f - 1) fs; (r.1, f :: r.2)
    else let r := splitRejected s 0 fs; (f :: r.1, r.2)

/-- A core whose messages to unavailable cores are rejected at its router (R115). -/
def rejectCore (s : State) (k : Nat) (c : Core) : Core :=
  let reject := fun (put : Core → Nat → List Flit → Core) (m : FMap (List Flit)) (c : Core) =>
    (m.filter fun e => decide (e.1 < 26) || e.1 == 27).foldl (fun c e =>
      let r := splitRejected s 0 e.2
      r.2.foldl (rejectMessage s (rowOf k) (colOf k) e.1) (put c e.1 r.1)) c
  reject (fun c q fs => { c with behind := fset c.behind q fs }) c.behind
    (reject (fun c q fs => { c with egress := fset c.egress q fs }) c.egress c)

/-- What a larder or the command processor has to send, without the messages to unavailable cores: there is no status word for them to
take. -/
def keepAccepted (s : State) (m : FMap (List Flit)) : FMap (List Flit) :=
  m.map fun e => if e.1 < 26 || e.1 == 27 then (e.1, (splitRejected s 0 e.2).1) else e

/-- The flits of a map of buffers on the program classes, which count as injections (R86). -/
def programFlits (m : FMap (List Flit)) : Nat := ((m.filter fun e => decide (e.1 < 24)).map fun e => e.2.length).sum

/-- A larder whose messages to unavailable cores are rejected: their flits count as delivered (R86, R115). -/
def rejectLarder (s : State) (x : Larder) : Larder :=
  let m := keepAccepted s x.egress
  { x with egress := m, delivered := x.delivered + (programFlits x.egress - programFlits m) }

/-- The messages to cores that have become unavailable rejected where they are injected (R115). -/
def rejectUnavailable (s : State) : State :=
  { s with cores := s.cores.map fun e => if (e.2.egress ++ e.2.behind).any fun q => q.2.any (rejected s) then (e.1, rejectCore s e.1 e.2) else e,
           larders := s.larders.map fun e => if e.2.egress.any fun q => q.2.any (rejected s) then (e.1, rejectLarder s e.2) else e,
           unrid := if s.unrid.egress.any fun q => q.2.any (rejected s) then { s.unrid with egress := keepAccepted s s.unrid.egress } else s.unrid }

/-- An unrecorded retirement: the band or field column is unavailable and its cores are held in reset, and the regions that cover it
are aborted (R16). A region that R114 aborts in the same cycle shows CAUSE 1, the lower one (R99; log entry 68). -/
def unrecorded (s : State) (l : LineRec) (prow pcol : Nat) : State :=
  let b := l.index / 33
  let s := modDev s fun d =>
    if l.row then { d with unavailBands := d.unavailBands ||| (1#7 <<< b) }
    else { d with unavailCols := d.unavailCols ||| (1#12 <<< b) }
  let s := abortCovering s (coversLine l.row b) causeNoRecord prow pcol
  let s := { s with cores := s.cores.map fun e =>
               if unavailable s.dev (rowOf e.1) (colOf e.1) && (launchOf s (rowOf e.1) (colOf e.1)).isNone then (e.1, holdCore e.2) else e }
  rejectUnavailable s

/-- The lines in the order of the maps, with one more. -/
def retireMaps (d : Device) (l : LineRec) : Device :=
  if l.row then { d with retiredRows := addLine d.retiredRows l.index } else { d with retiredCols := addLine d.retiredCols l.index }

/-- The record appended and MAPGEN advanced, if there is room for it (R106, R108). -/
def appendRecord (s : State) (l : LineRec) (reason prow pcol cycle : Nat) : Option State :=
  let gen := s.dev.mapgen.toNat + 1
  match freeSlot s.dev.flash with
  | some i =>
    if 0xFFFF < gen then none
    else
      some (modDev s fun d =>
        { d with flash := d.flash.writeBytes (slotAddr i) (recordOf ((replayLog d.flash).seq + 1) gen l reason prow pcol cycle),
                 mapgen := BitVec.ofNat 16 gen })
  | none => none

/-- Whether the spare of a band or field column is free: no line of it is retired (R110). -/
def spareFree (m : FMap (List Nat)) (p : Nat) : Bool := (fget m (p / 33) []).isEmpty

/-- The line to retire for a failed core, and whether a spare replaces it; a column in place of a row only for a failure detected
outside a wave (R110, R112). -/
def chooseLine (d : Device) (f : FailedCore) : LineRec × Bool :=
  if spareFree d.retiredRows f.prow then (⟨true, f.prow⟩, true)
  else if !f.inWave && spareFree d.retiredCols f.pcol then (⟨false, f.pcol⟩, true)
  else (⟨true, f.prow⟩, false)

/-! ## The wave (R111, R158, R176)

Every flit keeps its place beside its logical core: the routers' buffers, with the routing entries in force for their heads, the
paths of half-sent messages and the merges that wait, go one line on with the lines from the retired one to the spare. Of the
retired line that is the hop of R176. The spec has the transit buffers of the other lines stay where they are and their flits go on
by logical address: what a program sees is the same, and the order of R158 holds (log entry 70). -/

/-- Where the buffers of a physical line go, of rows or of columns: with the logical line that it carries; nowhere for a line that
another one comes to or whose logical line is lost. -/
def lineTo (lost lost' : FMap (List Nat)) (p : Nat) : Option Nat :=
  match carried lost p with
  | some r => lineOf lost' r
  | none => match carried lost' p with | some _ => none | none => some p

/-- Where a router's buffers go in a wave. -/
def routerTo (d d' : Device) (row : Bool) (k : Nat) : Option Nat :=
  if row then (lineTo d.retiredRows d'.retiredRows (rowOf k)).map fun p => keyOf p (colOf k)
  else (lineTo d.retiredCols d'.retiredCols (colOf k)).map fun p => keyOf (rowOf k) p

/-- The buffers of a direction, by class. -/
def dirFlits (m : FMap (List Flit)) (d cls : Nat) : List Flit := fget m (32 * d + cls) []

/-- What a line had in transit joined to the buffers that have come to it: towards the far side ahead of them, from there behind
them, and along the line behind them. far is the direction towards the spare line. -/
def joinTransit (far : Nat) (x r : Router) : Router :=
  let behind := fun (r : Router) (cls d : Nat) =>
    let fs := dirFlits x.out (facing d) cls ++ dirFlits x.inp d cls
    if fs.isEmpty then r else { r with inp := fset r.inp (32 * d + cls) (dirFlits r.inp d cls ++ fs) }
  (List.range 32).foldl (fun (r : Router) cls =>
    let ahead := dirFlits x.out far cls ++ dirFlits x.inp (facing far) cls
    let r := if ahead.isEmpty then r else { r with out := fset r.out (32 * far + cls) (ahead ++ dirFlits r.out far cls) }
    ((List.range 4).filter (· != facing far)).foldl (fun r d => behind r cls d) r) r

/-- The routers as a wave leaves them. -/
def shiftRouters (d d' : Device) (row : Bool) (m : FMap Router) : FMap Router :=
  let moved := m.foldl (fun (t : FMap Router) e => match routerTo d d' row e.1 with | some k => fset t k e.2 | none => t) []
  m.foldl (fun (t : FMap Router) e =>
    match routerTo d d' row e.1 with
    | some _ => t
    | none => fset t e.1 (joinTransit (if row then 2 else 1) e.2 (fget t e.1 {}))) moved

/-- The wave: the maps rewritten, and the routers' buffers moved with their lines. Cores keep their state: it is held by logical
coordinate. Messages to cores that a degraded shape leaves out are rejected (R111, R114, R115). With the core goes the address of its last
corrected error, by which R109 counts two in one word; and a core of no region keeps its SRAM, instruction store and residency with its
coordinate also where the line is lost without a spare and nothing is copied (DESIGN CHOICE, log entry 80). -/
def runWave (s : State) (l : LineRec) : State :=
  let d' := retireMaps s.dev l
  rejectUnavailable { s with dev := d', routers := shiftRouters s.dev d' l.row s.routers }

/-- Whether a physical core stands on a line already retired. -/
def coreRetired (d : Device) (prow pcol : Nat) : Bool :=
  lineRetired d.retiredRows d.retiredCols ⟨true, prow⟩ || lineRetired d.retiredRows d.retiredCols ⟨false, pcol⟩

/-- The regions of a band or field column that loses a line without a spare, aborted at once, in waves too: the line is recorded after
them (R114). -/
def abortLine (s : State) (l : LineRec) (prow pcol : Nat) : State :=
  let hit := coversLine l.row (l.index / 33)
  let s := abortCovering s hit causeSram prow pcol
  abortNoted s (s.dev.faults.filter fun f => match f.launch.bind (launchNum s) with | some x => hit x | none => false)

/-- A wave completed: the stop is released, unless a further failure waits for its own wave under the same stop, or R101 holds it. -/
def releaseWave (s : State) : State :=
  if s.dev.st = .fatal then s
  else if !s.dev.failing.isEmpty then modDev s fun d => { d with inWaves := true }
  else
    let hold := s.dev.stopHost && !s.dev.releaseHeld
    modDev s fun d => { d with stopped := hold, stopHost := hold, releaseHeld := false, inWaves := false }

/-- The retirement of a core noted as failing begins: the stop, the choice of the line, the regions of a band without a
spare, and the record; a line that cannot be recorded ends it (R16, R110, R111, R114). -/
def beginWave (s : State) (f : FailedCore) : State :=
  if coreRetired s.dev f.prow f.pcol then releaseWave s
  else
    let ch := chooseLine s.dev f
    let s := stopWafer s
    let s := if ch.2 then s else abortLine s ch.1 f.prow f.pcol
    match appendRecord s ch.1 f.reason f.prow f.pcol f.cycle with
    | none => releaseWave (unrecorded s ch.1 f.prow f.pcol)
    | some s => modDev s fun d => { d with wave := some ⟨ch.1, f.prow, f.pcol, s.cycle⟩ }

/-- A failure detected while a wave ran: absorbed on a retired line; on another line of the wave's kind in its band or
field column, that line is lost without a spare; elsewhere it waits for a wave of its own (R112, R114). -/
def meetFailure (w : Wave) (s : State) (f : FailedCore) : State :=
  let drop := modDev s fun d => { d with failing := d.failing.erase f }
  let l : LineRec := if w.line.row then ⟨true, f.prow⟩ else ⟨false, f.pcol⟩
  if coreRetired s.dev f.prow f.pcol then drop
  else if l.index / 33 = w.line.index / 33 then
    let s := abortLine drop l f.prow f.pcol
    match appendRecord s l f.reason f.prow f.pcol f.cycle with
    | none => unrecorded s l f.prow f.pcol
    | some s => runWave s l
  else s

/-- The wave completed, with the failures detected while it ran (R111, R112). -/
def endWave (s : State) (w : Wave) : State :=
  let s := modDev (runWave s w.line) fun d => { d with wave := none, inWaves := true }
  releaseWave ((s.dev.failing.filter fun f => f.inWave && decide (w.since ≤ f.cycle)).foldl (meetFailure w) s)

/-! ## Boot self-test (R108) -/

/-- Whether a physical line is the spare of its band or field column and not in service. -/
def idleSpare (m : FMap (List Nat)) (p : Nat) : Bool := p % 33 == 32 && spareFree m p

/-- The line that a failed core at boot has recorded (R108, R110). -/
def bootLine (d : Device) (prow pcol : Nat) : LineRec :=
  if idleSpare d.retiredRows prow then ⟨true, prow⟩
  else if idleSpare d.retiredCols pcol then ⟨false, pcol⟩
  else (chooseLine d ⟨prow, pcol, 2, 0, false⟩).1

/-- One failed core at boot (R108). -/
def bootFailure (s : State) (prow pcol : Nat) : State :=
  if coreRetired s.dev prow pcol then s
  else
    let l := bootLine s.dev prow pcol
    match appendRecord s l 2 prow pcol 0 with
    | none => unrecorded s l prow pcol
    | some s => { s with dev := retireMaps s.dev l }

/-- The failed cores in physical row-major order. -/
def bootFailures (s : State) (fs : List (Nat × Nat)) : State :=
  (waferKeys.filter fun k => fs.contains (rowOf k, colOf k)).foldl (fun s k => bootFailure s (rowOf k) (colOf k)) s

/-! ## Failures in service (R96, R99, R109, R174) -/

/-- A core noted for retirement (R109). -/
def noteFailing (s : State) (prow pcol reason : Nat) : State :=
  modDev s fun d => { d with failing := d.failing ++ [⟨prow, pcol, reason, s.cycle, inWaves d⟩] }

/-- The logical core at a physical place: while a wave runs, a place of the line that comes into service has the one that it is to carry
(R14, R112). -/
def coreOfPlace (d : Device) (prow pcol : Nat) : Option (Nat × Nat) :=
  match logicalOf d prow pcol with
  | some p => some p
  | none => d.wave.bind fun w => logicalOf (retireMaps d w.line) prow pcol

/-- SRAM_UE: the fault of the core's region, or the residency record cleared in no region; the core's retirement follows
(R96, R97, R109). -/
def execSramUe (prow pcol : Nat) (s : State) : Host.Outcome State Fault Refusal :=
  match coreOfPlace s.dev prow pcol with
  | none => .next s
  | some (row, col) =>
    let s :=
      match launchOf s row col with
      | some l => regionFault s l.num causeSram prow pcol
      | none => modCore s (keyOf row col) fun c => { c with resident := [] }
    .next (noteFailing s prow pcol 3)

/-- SRAM_CORRECTED: counted in ECCCNT; the second in one word within 2^24 cycles retires the core (R99, R102, R109). -/
def execSramCorrected (prow pcol : Nat) (addr : BitVec 19) (s : State) : Host.Outcome State Fault Refusal :=
  match coreOfPlace s.dev prow pcol with
  | none => .next s
  | some (row, col) =>
    let k := keyOf row col
    let c := coreAt s k
    let hard := match c.eccLast with | some (a, t) => a.toNat / 8 == addr.toNat / 8 && decide (s.cycle ≤ t + 2 ^ 24) | none => false
    let n : BitVec 16 := if c.sys.ecccnt = 0xFFFF then 0xFFFF else c.sys.ecccnt + 1
    let s := setCore s k { c with sys := { c.sys with ecccnt := n }, eccLast := some (addr, s.cycle) }
    .next (if hard then noteFailing s prow pcol 4 else s)

/-- ROUTER_FAILURE: wafer-wide (R15, R96, R98). -/
def execRouterFailure (prow pcol : Nat) (s : State) : Host.Outcome State Fault Refusal :=
  if inWafer (keyOf prow pcol) then .next (waferFault s causeRouter prow pcol) else .next s

/-- MESH_HOP_ERROR: the flit of a hop is found in error and sent again; the ninth failure exhausts the link (R96, R174). -/
def execMeshHopError (prow pcol : Nat) (out : Dir) (cls : BitVec 5) (s : State) : Host.Outcome State Fault Refusal :=
  let k := keyOf prow pcol
  let r := routerAt s k
  let j := 32 * dirCode out + cls.toNat
  if s.dev.stopped || (fget r.out j []).isEmpty || out == .l then .next s
  else
    let n := fget r.retries j 0 + 1
    let s := setRouter s k { r with retries := fset r.retries j n }
    .next (if 9 ≤ n then waferFault s causeLink prow pcol else s)

/-- RETIREMENT_WAVE: the wave of a core noted as failing begins, or, once begun, completes. One to begin outside waves waits for the
faults that have arisen to be acted on; between waves those wait for the release (R109 to R113). -/
def execRetirementWave (prow pcol : Nat) (s : State) : Host.Outcome State Fault Refusal :=
  if s.dev.st = .fatal then .next s
  else
    match s.dev.wave with
    | some w => .next (if w.prow = prow ∧ w.pcol = pcol then endWave s w else s)
    | none =>
      match s.dev.failing.find? fun f => f.prow == prow && f.pcol == pcol with
      | none => .next s
      | some f =>
        if s.dev.faults.isEmpty || inWaves s.dev then .next (beginWave (modDev s fun d => { d with failing := d.failing.erase f }) f)
        else .next s

end Sys2Proof.Machine
end

