-- ==== Sys2Proof/Machine/UserQueues.lean ====
section
/-! DEFINITION. User queues: the queue table, slots, notifies, scheduling, fetching and completion of entries, and the
checks of an entry (R65 to R76, R98). -/

namespace Sys2Proof.Machine

/-! ## Queue records (R65, R66) -/

/-- The port and address of a queue's record. -/
def recordPlace (s : State) (q : Nat) : HostPort × Nat := (portOf s.unrid.qtbase, hostPage s.unrid.qtbase + 64 * q)

/-- A field of a queue's record. -/
def recordField (s : State) (q o n : Nat) : Nat := let p := recordPlace s q; hostLE s p.1 (p.2 + o) n

/-- A field of a queue's record written; discarded while the port is down. -/
def putRecord (s : State) (q o n v : Nat) : State := let p := recordPlace s q; hostPut s p.1 (p.2 + o) n v

/-- What Unrid keeps of a queue. -/
def keepAt (s : State) (q : Nat) : QKeep := fget s.unrid.keep q {}

/-- The state with what is kept of a queue replaced. -/
def setKeep (s : State) (q : Nat) (k : QKeep) : State := modUnrid s fun u => { u with keep := fset u.keep q k }

/-- The state with a slot replaced. -/
def setSlot (s : State) (n : Nat) (x : QSlot) : State := modUnrid s fun u => { u with slots := fset u.slots n x }

/-- The slot that holds a queue. -/
def queueSlot (s : State) (q : Nat) : Option (Nat × QSlot) := s.unrid.slots.find? fun x => x.2.queue == q

/-- Whether a record may be mapped: reserved bytes 0, LOGSIZE and MSIX within their limits (R65). -/
def recordSound (s : State) (q : Nat) : Bool :=
  recordField s q 0xD 3 == 0 && recordField s q 0x20 32 == 0 && decide (4 ≤ recordField s q 8 1) &&
    decide (recordField s q 8 1 ≤ 16) && decide (recordField s q 0xA 1 ≤ 63)

/-- A slot of a queue that has been enabled anew: HEAD, SEQ and STATE 0 (R66). -/
def freshSlot (x : QSlot) : QSlot := { x with head := 0, seq := 0, error := false, lost := false }

/-- A reading of a queue's ENABLE: a change from 0 to 1 clears HEAD, SEQ and STATE, in the record and in the slot that holds the
queue (R66). -/
def readEnable (s : State) (q : Nat) : State :=
  let on := recordField s q 9 1 == 1
  let k := keepAt s q
  if on && !k.enable then
    let s := setKeep (putRecord (putRecord (putRecord s q 0x14 4 0) q 0x18 8 0) q 0xC 1 0) q { k with enable := true, cut := none, ahead := [] }
    match queueSlot s q with
    | some (n, x) => setSlot s n (freshSlot x)
    | none => s
  else setKeep s q { k with enable := on }

/-- Whether the command processor executes commands: from READY on, a wafer-wide fault included (R49, R98). -/
def unridRuns (s : State) : Bool := match s.dev.st with | .ready | .fatal | .dumping => true | _ => false

/-! ## Mapping and unmapping (R70, R72) -/

/-- The lowest free slot. -/
def freeQueueSlot (s : State) : Option Nat := (List.range 64).find? fun n => (ffind s.unrid.slots n).isNone

/-- A queue mapped to a slot: TAIL read again, SLOT written, PENDNOTIFY cleared (R70); ERROR and LINKLOST stay with it. -/
def mapQueue (s : State) (q n : Nat) : State :=
  let ring := BitVec.ofNat 64 (recordField s q 0 8)
  let st := recordField s q 0xC 1
  let x : QSlot :=
    { queue := q, ring := ring, logsize := recordField s q 8 1, msix := recordField s q 0xA 1,
      head := BitVec.ofNat 32 (recordField s q 0x14 4), tail := BitVec.ofNat 32 (recordField s q 0x10 4),
      seq := BitVec.ofNat 64 (recordField s q 0x18 8), since := s.live, error := st.testBit 1, lost := st.testBit 2,
      mappedAt := s.cycle, cut := !hostUp s (portOf ring) }
  let s := putRecord (putRecord s q 0xB 1 n) q 0xC 1 (st - st % 2)
  modUnrid (setSlot s n x) fun u => { u with lastMapped := q }

/-- Whether an unmapped queue is to be mapped (R70). -/
def wantsSlot (s : State) (q : Nat) : Bool :=
  (keepAt s q).enable && (keepAt s q).cut.isNone && (queueSlot s q).isNone && recordSound s q &&
    hostUp s (portOf (BitVec.ofNat 64 (recordField s q 0 8))) &&
    (recordField s q 0x10 4 != recordField s q 0x14 4 || recordField s q 0xC 1 % 2 == 1)

/-- One queue of a run of the scheduler. -/
def scanQueue (s : State) (q : Nat) : State :=
  if (queueSlot s q).isSome || (keepAt s q).cut.isSome || !hostUp s (recordPlace s q).1 then s
  else
    let s := readEnable s q
    if !(keepAt s q).enable then s
    else if !recordSound s q then putRecord s q 0xC 1 (recordField s q 0xC 1 ||| 2)
    else if wantsSlot s q then match freeQueueSlot s with | some n => mapQueue s q n | none => s
    else s

/-- The queues of the table in the order of a scheduler run: after the last one mapped, counted modulo QTLEN also where QTLEN has since been
set to no more than its number (R70; DESIGN CHOICE, log entry 76). -/
def scanOrder (s : State) : List Nat :=
  let n := s.unrid.qtlen.toNat
  (List.range n).map fun i => (s.unrid.lastMapped + 1 + i) % n

/-- The reading of a mapped queue's ENABLE. -/
def scanMapped (s : State) : State :=
  s.unrid.slots.foldl (fun s x => if hostUp s (recordPlace s x.2.queue).1 then readEnable s x.2.queue else s) s

/-- QUEUE_SCAN: a run of the scheduler (R70). -/
def execQueueScan (s : State) : Host.Outcome State Fault Refusal :=
  if unridRuns s && !s.unrid.qtstop then .next ((scanOrder s).foldl scanQueue (scanMapped s)) else .next s

/-- The entries in flight of a queue. -/
def inFlightOf (s : State) (q : Nat) : Nat := (s.unrid.entries.filter fun e => e.key.queue == q).length

/-- STATE of a mapped queue as it is unmapped: PENDNOTIFY where a notify of it was accepted in this cycle, ERROR, and LINKLOST
where it is or has been cut off (R70 to R72). -/
def queueSlotState (s : State) (x : QSlot) : Nat :=
  bitN (match x.notified with | some (t, _) => t == s.cycle | none => false) + 2 * bitN x.error + 4 * bitN (x.cut || x.lost)

/-- A queue unmapped: its record written, or kept with LINKLOST while the record cannot be (R70, R72). Of one that is cut off no
unmapping is noted: every notify for it is discarded. -/
def unmapQueue (s : State) (n : Nat) (x : QSlot) : State :=
  let q := x.queue
  let st := queueSlotState s x
  let s := modUnrid s fun u => { u with slots := fdel u.slots n }
  let s := setKeep s q { keepAt s q with unmapping := if x.cut then none else some ⟨n, s.cycle, x.head, x.logsize⟩ }
  let s :=
    if hostUp s (recordPlace s q).1 then
      putRecord (putRecord (putRecord (putRecord s q 0x14 4 x.head.toNat) q 0x18 8 x.seq.toNat) q 0xC 1 st) q 0xB 1 0xFF
    else setKeep s q { keepAt s q with cut := some (x.head, x.seq, BitVec.ofNat 8 st) }
  if s.unrid.qtstop && s.unrid.slots.isEmpty then modUnrid s fun u => { u with qtlen := 0, qtstop := false } else s

/-- Whether a queue has held its slot longest among the mapped queues with nothing in flight. -/
def heldLongest (s : State) (x : QSlot) : Bool :=
  s.unrid.slots.all fun y => inFlightOf s y.2.queue != 0 || decide (x.mappedAt ≤ y.2.mappedAt)

/-- Whether a mapped queue is to be unmapped (R68, R70, R72). -/
def unmaps (s : State) (x : QSlot) : Bool :=
  inFlightOf s x.queue == 0 &&
    (x.cut || s.unrid.qtstop || !(keepAt s x.queue).enable || decide (x.since + 190000 ≤ s.live) ||
      (s.unrid.slots.length == 64 && (List.range s.unrid.qtlen.toNat).any (wantsSlot s) && heldLongest s x))

/-- QUEUE_IDLE_UNMAP (R70). -/
def execQueueIdleUnmap (slot : BitVec 6) (s : State) : Host.Outcome State Fault Refusal :=
  match ffind s.unrid.slots slot.toNat with
  | some x => if unmaps s x then .next (unmapQueue s slot.toNat x) else .next s
  | none => .next s

/-! ## Notifies (R49, R69) -/

/-- Whether a notify is well formed for a queue: its reserved bits 0 and its TAIL within the ring (R69). -/
def notifyOk (v : Word) (head : BitVec 32) (logsize : Nat) : Bool :=
  v.extractLsb' 42 22 == 0 && decide ((v.setWidth 32 - head : BitVec 32).toNat ≤ 2 ^ logsize)

/-- A notify that comes in the cycle in which its queue was unmapped from the slot: accepted, it sets PENDNOTIFY in the saved
STATE (R71); one for a queue that is cut off is discarded (R72). -/
def lateNotify (s : State) (slot : Nat) (v : Word) : State :=
  let q := wfield v 32 10
  let k := keepAt s q
  match k.unmapping with
  | some m =>
    if k.cut.isNone ∧ m.slot = slot ∧ m.cycle = s.cycle ∧ notifyOk v m.head m.logsize then
      putRecord s q 0xC 1 (recordField s q 0xC 1 ||| 1)
    else s
  | none => s

/-- A notify through port p acted on: accepted, discarded, or refused with ERROR set in the record. Of two in one cycle port 0's
counts as the first, so that port 1's TAIL stays (R69). Any notify accepted restarts the 190,000 cycles of R70, one that repeats the
present TAIL too (DESIGN CHOICE, log entry 76). -/
def applyNotify (s : State) (p : HostPort) (slot : Nat) (v : Word) : State :=
  match ffind s.unrid.slots slot with
  | none => lateNotify s slot v
  | some x =>
    if x.queue ≠ wfield v 32 10 then lateNotify s slot v
    else if x.cut then s
    else if notifyOk v x.head x.logsize then
      if p = .p0 ∧ x.notified = some (s.cycle, .p1) then s
      else setSlot s slot { x with tail := v.setWidth 32, since := s.live, notified := some (s.cycle, p) }
    else putRecord (setSlot s slot { x with error := true }) x.queue 0xC 1 (recordField s x.queue 0xC 1 ||| 2)

/-- A write to the notify register of a slot: before READY it is recorded (R49, R69). -/
def notifyWrite (s : State) (p : HostPort) (slot : Nat) (v : Word) : State :=
  if unridRuns s then applyNotify s p slot v
  else modUnrid s fun u => { u with notifies := u.notifies ++ [(p, BitVec.ofNat 6 slot, v)] }

/-- NOTIFY_WRITE (R49, R69). -/
def execNotifyWrite (p : HostPort) (slot : BitVec 6) (v : Word) (s : State) : Host.Outcome State Fault Refusal :=
  .next (notifyWrite s p slot.toNat v)

/-- The notifies recorded before READY, acted on. -/
def applyNotifies (s : State) : State :=
  s.unrid.notifies.foldl (fun s n => applyNotify s n.1 n.2.1.toNat n.2.2) (modUnrid s fun u => { u with notifies := [] })

/-- QTBASE: writable only while QTLEN reads 0 (R68). Its bits [11:1] are not kept and read 0 (DESIGN CHOICE, log entry 64). -/
def writeQtbase (s : State) (v : Word) : State :=
  if s.unrid.qtlen = 0 then modUnrid s fun u => { u with qtbase := v &&& (~~~0xFFF#64 ||| 1#64) } else s

/-- QTBASE_WRITE (R67, R68). -/
def execQtbaseWrite (v : Word) (s : State) : Host.Outcome State Fault Refusal := .next (writeQtbase s v)

/-- What is kept of a queue as QTLEN starts anew: its ENABLE copy 0, and what could not be written back yet, where its record still
lies behind a port that is down (R66, R72). -/
def restartKeep (down : Bool) (k : QKeep) : QKeep := { cut := if down then k.cut else none }

/-- QTLEN: a nonzero value while it reads 0 starts with every ENABLE copy 0; 0 stops every queue (R66, R68). The whole 64-bit value
is judged against 0 and 1,024 (DESIGN CHOICE, log entry 64). -/
def writeQtlen (s : State) (v : Word) : State :=
  if 1024 < v.toNat then s
  else if v = 0 then
    if s.unrid.slots.isEmpty then modUnrid s fun u => { u with qtlen := 0, qtstop := false }
    else modUnrid s fun u => { u with qtstop := true }
  else if s.unrid.qtlen = 0 then
    let down := !hostUp s (portOf s.unrid.qtbase)
    modUnrid s fun u => { u with qtlen := v.setWidth 11, keep := u.keep.map fun k => (k.1, restartKeep down k.2) }
  else s

/-- QTLEN_WRITE (R66, R68). -/
def execQtlenWrite (v : Word) (s : State) : Host.Outcome State Fault Refusal := .next (writeQtlen s v)

/-! ## The checks of an entry (R73, R74, R76) -/

/-- The operand bytes that an opcode lists: offset and size. -/
def listed (op : Nat) : List (Nat × Nat) :=
  match op with
  | 1 => [(8, 2), (0xA, 2), (0xC, 2), (0xE, 1), (0xF, 1), (0x10, 8), (0x18, 2), (0x1A, 6), (0x20, 4), (0x24, 4), (0x28, 8)]
  | 2 => [(8, 8), (0x10, 1), (0x11, 1), (0x14, 4), (0x18, 8), (0x20, 8)]
  | 3 => [(8, 2), (0x10, 8)]
  | 4 => [(8, 8), (0x10, 8), (0x18, 1)]
  | 5 => [(8, 8), (0x10, 8), (0x18, 8), (0x20, 2), (0x22, 1)]
  | 6 => [(8, 2), (0xA, 1), (0x10, 8), (0x18, 8), (0x20, 1)]
  | 7 => [(8, 1), (9, 1)]
  | 8 => [(8, 2), (0x10, 8), (0x18, 8)]
  | 9 => [(8, 2), (0x10, 8), (0x18, 4), (0x1C, 2), (0x1E, 2)]
  | 10 => [(8, 1)]
  | 11 => [(8, 8), (0x10, 8), (0x18, 8), (0x20, 2)]
  | _ => []

/-- Whether every unlisted byte of 0x02 to 0x37 is 0. -/
def reservedClear (e : Entry) : Bool :=
  (List.range 0x36).all fun i =>
    let o := i + 2
    (listed (entryOp e)).any (fun r => decide (r.1 ≤ o) && decide (o < r.1 + r.2)) || e.bytes.getD o 0 == 0

/-- Whether an operand is a sound attic address (R76). -/
def atticOk (v : Word) : Bool := v.getLsbD 63 && wfield v 48 15 == 0

/-- Whether an operand is a sound global address: attic space with bits [62:48] 0, or core space. -/
def globalOk (v : Word) : Bool := !v.getLsbD 63 || wfield v 48 15 == 0

/-- Whether a host address has an alignment, bit 0 apart (R76). -/
def hostAligned (v : Word) (n : Nat) : Bool := hostByte v % n == 0

/-- Whether the operands of an entry are within their limits (R62, R76, R77). SAVEVA of a LAUNCH is judged with RESUME alone, which uses it,
and STOREPA of an IMAGE that drops one is judged as that of any other (DESIGN CHOICE, log entries 41 and 42). -/
def operandsOk (s : State) (e : Entry) : Bool :=
  let f := entryField e
  let w := entryWord e
  match entryOp e with
  | 1 =>
    let arg := w 0x10
    decide (f 0xE 1 ≤ 3) && decide (f 0xF 1 ≤ 7) && decide (f 0x18 2 ≤ 63) &&
      (f 0xF 1 / 2 % 2 == 1 || if arg.getLsbD 63 then wfield arg 48 15 == 0 && arg.toNat % 256 == 0 else hostAligned arg 256) &&
      (f 0xF 1 / 2 % 2 == 0 || atticOk (w 0x28))
  | 2 =>
    let m := f 8 8
    m != 0 && (m % 2 ^ 32 == 0 || m / 2 ^ 32 == 0) && decide (1 ≤ f 0x10 1) && decide (f 0x10 1 ≤ 3) && decide (f 0x11 1 ≤ 23) &&
      decide (1 ≤ f 0x14 4) && decide (f 0x14 4 ≤ 65536) && globalOk (w 0x18) && globalOk (w 0x20) && f 0x20 8 % 8 == 0
  | 3 => decide (f 8 2 < s.unrid.qtlen.toNat) && !(f 8 2 == e.key.queue && decide (e.key.seq ≤ f 0x10 8))
  | 4 => hostAligned (w 8) 8 && decide (f 0x18 1 ≤ 1)
  | 5 =>
    hostAligned (w 8) 64 && atticOk (w 0x10) && f 0x10 8 % 64 == 0 && f 0x18 8 % 64 == 0 && decide (64 ≤ f 0x18 8) &&
      decide (f 0x18 8 ≤ 2 ^ 40) && decide (f 0x20 2 ≤ 63) && decide (f 0x22 1 ≤ 1)
  | 6 =>
    let op := f 0xA 1
    let va := f 0x10 8
    let pa := f 0x18 8
    let pg := pageBytes (f 0x20 1)
    decide (f 8 2 ≤ 63) && decide (1 ≤ op) && decide (op ≤ 4) &&
      (if op = 1 then va % 4096 == 0 && decide (va < 2 ^ 48) && pa % 4096 == 0 && decide (4096 ≤ pa) && f 0x20 1 == 0
       else if op = 4 then va == 0 && pa == 0 && f 0x20 1 == 0
       else decide (f 0x20 1 ≤ 2) && va % pg == 0 && decide (va < 2 ^ 48) &&
         (if op = 2 then pa % pg == 0 && decide (pa < 2 ^ 48) else pa == 0))
  | 7 => decide (f 8 1 ≤ 47) && decide (f 9 1 ≤ 15)
  | 8 => atticOk (w 0x18) && f 0x18 8 % 4096 == 0
  | 9 =>
    decide (1 ≤ f 8 2) && decide (f 8 2 ≤ 3) &&
      (f 8 2 != 3 || (decide (1 ≤ f 0x1C 2) && decide (f 0x1C 2 ≤ 224) && decide (1 ≤ f 0x1E 2) && decide (f 0x1E 2 ≤ 384)))
  | 10 => decide (f 8 1 ≤ 1)
  | 11 => f 0x18 8 % 4096 == 0 && decide (f 0x18 8 < 2 ^ 48)
  | _ => false

/-- Whether an entry is well formed (R73, R74, R76). -/
def entryOk (s : State) (e : Entry) : Bool :=
  let fl := entryField e 1 1
  let op := entryOp e
  decide (1 ≤ op) && decide (op ≤ 11) && decide (fl ≤ 7) && (fl / 2 % 2 == 0 || op == 1) && (fl / 4 % 2 == 0 || op == 2) &&
    reservedClear e && operandsOk s e

/-! ## Fetching and completing (R73 to R75, R98) -/

/-- The sequence number of the next entry to fetch. -/
def nextSeq (x : QSlot) : Nat := x.seq.toNat + (x.head - x.seq.setWidth 32).toNat + 1

/-- Where the entry of a sequence number lies in a ring (R65). -/
def entryPlace (x : QSlot) (n : Nat) : Nat := hostPage x.ring + 64 * ((n - 1) % 2 ^ x.logsize)

/-- Whether a slot has an entry to fetch. A queue whose ENABLE has read 0 is fetched from until it is unmapped (DESIGN CHOICE, log
entry 76). -/
def mayFetch (s : State) (x : QSlot) : Bool :=
  unridRuns s && !s.unrid.qtstop && !x.cut && hostUp s (portOf x.ring) && x.head != x.tail

/-- ENTRY_FETCH: the next entry of a slot's queue; one that is not well formed ends BAD_ENTRY (R74, R85). -/
def execEntryFetch (slot : BitVec 6) (s : State) : Host.Outcome State Fault Refusal :=
  match ffind s.unrid.slots slot.toNat with
  | none => .next s
  | some x =>
    if !mayFetch s x then .next s
    else
      let n := nextSeq x
      let e : Entry := ⟨⟨x.queue, n⟩, hostRead s (portOf x.ring) (entryPlace x n) 64, .fetched⟩
      let s := putRecord (setSlot s slot.toNat { x with head := x.head + 1 }) x.queue 0x14 4 (x.head + 1).toNat
      let st : EntrySt :=
        if entryOk s e then .fetched else .done csBadEntry 0 0
      .next (modUnrid s fun u => { u with entries := u.entries ++ [{ e with st := st }] })

/-- SEQ advanced over the completed entries (R65). -/
def advanceSeq : Nat → Nat → List Nat → Nat × List Nat
  | 0, q, ahead => (q, ahead)
  | n + 1, q, ahead => if ahead.contains (q + 1) then advanceSeq n (q + 1) (ahead.filter (· ≠ q + 1)) else (q, ahead)

/-- The COMPLETION word (R74). -/
def completionWord (status detail result : Nat) : Nat := 2 ^ 63 + status * 2 ^ 56 + detail % 256 * 2 ^ 48 + result % 2 ^ 32

/-- QUEUE_ENTRY_COMPLETION: COMPLETION, then SEQ, then the vector, each discarded behind a port that is down (R72, R74). -/
def execQueueEntryCompletion (k : EntryKey) (s : State) : Host.Outcome State Fault Refusal :=
  match entryAt s k, queueSlot s k.queue with
  | some e, some (n, x) =>
    match e.st with
    | .done status detail result =>
      let s := hostPut s (portOf x.ring) (entryPlace x k.seq + 0x38) 8 (completionWord status detail result)
      let r := advanceSeq ((keepAt s k.queue).ahead.length + 1) x.seq.toNat ((keepAt s k.queue).ahead ++ [k.seq])
      let s := setKeep s k.queue { keepAt s k.queue with ahead := r.2 }
      let s := setSlot s n { x with seq := BitVec.ofNat 64 r.1, since := s.live }
      let s := putRecord s k.queue 0x18 8 r.1
      let s := modUnrid s fun u => { u with entries := u.entries.filter fun y => y.key ≠ k }
      .next (if entryField e 1 1 % 2 = 1 ∧ x.msix ≠ 0 then sendMsix s (portOf x.ring) x.msix else s)
    | _ => .next s
  | _, _ => .next s

/-- Whether an entry has come to its end: it counts as completed from then on, its COMPLETION word and SEQ written or not (DESIGN
CHOICE, log entry 76). -/
def isDone (e : Entry) : Bool := match e.st with | .done .. => true | _ => false

/-- The region of a LAUNCH entry: its launch's once it has started, else what the image that it names makes it. -/
def launchShape (s : State) (e : Entry) : Option (Nat × Nat × Nat × Nat) :=
  match s.unrid.launches.find? fun l => l.key == e.key with
  | some l => some (l.orgRow, l.orgCol, l.rows, l.cols)
  | none => (ffind s.unrid.images (entryField e 8 2)).map fun i => (entryField e 0xA 2, entryField e 0xC 2, i.rows, i.cols)

/-- Whether two rectangles share a core: origin row and column, rows, columns. -/
def rectsMeet (a b : Nat × Nat × Nat × Nat) : Bool :=
  decide (a.1 < b.1 + b.2.2.1) && decide (b.1 < a.1 + a.2.2.1) && decide (a.2.1 < b.2.1 + b.2.2.2) && decide (b.2.1 < a.2.1 + a.2.2.2)

/-- Whether an entry may start: every earlier entry of its queue has completed; for a CONCURRENT LAUNCH every earlier one
but LAUNCHes on disjoint regions (R75). A LAUNCH that has not started and whose image is not loaded has no region, and none that it shares
(DESIGN CHOICE, log entry 76). -/
def mayStart (s : State) (e : Entry) : Bool :=
  let early := s.unrid.entries.filter fun x => x.key.queue == e.key.queue && decide (x.key.seq < e.key.seq) && !isDone x
  if entryOp e = 1 ∧ entryField e 1 1 / 2 % 2 = 1 then
    early.all fun x =>
      entryOp x == 1 &&
        match launchShape s e, launchShape s x with
        | some a, some b => !rectsMeet a b
        | _, _ => true
  else early.isEmpty

/-- An entry of an opcode that may start now (R75). -/
def startable (s : State) (k : EntryKey) (op : Nat) : Option Entry :=
  match entryAt s k with
  | some e => if unridRuns s && entryOp e == op && decide (e.st = .fetched) && mayStart s e then some e else none
  | none => none

/-- A command performed at its start, if its entry may start. -/
def onEntry (s : State) (k : EntryKey) (op : Nat) (body : Entry → State) : Host.Outcome State Fault Refusal :=
  match startable s k op with
  | some e => .next (body e)
  | none => .next s

/-- A command that needs the fabric or a larder: it waits while the wafer is stopped, and after a wafer-wide fault one of
the kinds that R98 names ends ABORT once its own check of BAD_ENTRY has passed (R78, R98, R101). -/
def onWafer (s : State) (k : EntryKey) (op : Nat) (bad : Entry → Bool) (body : Entry → State) : Host.Outcome State Fault Refusal :=
  onEntry s k op fun e =>
    if bad e then endEntry s k csBadEntry 0 0
    else if s.dev.st = .fatal ∧ needsWafer e then endEntry s k csAbort 0 0
    else if s.dev.stopped ∧ s.dev.st ≠ .fatal then s
    else body e

end Sys2Proof.Machine
end

