-- ==== Sys2Proof/Machine/Registers.lean ====
section
/-! DEFINITION. The register spaces of the host ports and of the management port: BAR0, semaphores, the host links, the
wafer stop, inspection over I3C and the flash window (R30, R43 to R48, R54, R67, R68, R72, R100 to R105), and the power
events (R23). -/

namespace Sys2Proof.Machine

/-! ## Reading BAR0 (R43, R44, R67) -/

/-- PORTID of a port. -/
def portId : HostPort → Nat
  | .p0 => 1
  | .p1 => 2

/-- The other port. -/
def otherPort : HostPort → HostPort
  | .p0 => .p1
  | .p1 => .p0

/-- DEVSTAT.STATE. -/
def devCode : DevSt → Nat
  | .reset => 0
  | .selftest => 1
  | .patchwait => 2
  | .ready => 3
  | .fatal => 4
  | .dumping => 5

/-- DEVSTAT as a port reads it (R44). -/
def devstat (s : State) (p : HostPort) : Word :=
  BitVec.ofNat 64
    (devCode s.dev.st + 8 * bitN s.dev.cfgdef + 16 * bitN s.dev.patched + 32 * bitN s.dev.patcherr + 64 * bitN (hostUp s (otherPort p)))

/-- A slot's register (R67); of a slot that holds no queue all read 0 (DESIGN CHOICE, log entry 64). -/
def slotRegister (s : State) (n k : Nat) : Word :=
  match ffind s.unrid.slots n with
  | none => 0
  | some x =>
    match k with
    | 0 => BitVec.ofNat 64 (2 ^ 15 + x.queue)
    | 1 => x.head.setWidth 64
    | 2 => x.tail.setWidth 64
    | _ => x.seq

/-- Semaphore n. -/
def semAt (s : State) (n : Nat) : Hsem := fget s.dev.hsem n {}

/-- What a read of BAR0 returns, but for the effect of a semaphore read (R43, R67). -/
def bar0Read (s : State) (p : HostPort) (off size : Nat) : Word :=
  let d := s.dev
  let x := portAt s p
  if size ≠ 8 ∨ off % 8 ≠ 0 then 0
  else if 0x1000 ≤ off ∧ off < 0x1800 then slotRegister s ((off - 0x1000) / 32) ((off - 0x1000) % 32 / 8)
  else if 0x100 ≤ off ∧ off < 0x180 then (semAt s ((off - 0x100) / 8)).owner.setWidth 64
  else
    match off with
    | 0x00 => 9140
    | 0x08 => BitVec.ofNat 64 (Config.romRelease.toNat % 2 ^ 16 + 2 ^ 16 * d.patchLevel.toNat)
    | 0x10 => d.mapgen.setWidth 64
    | 0x18 => Config.serial
    | 0x20 => BitVec.ofNat 64 (portId p)
    | 0x28 => devstat s p
    | 0x30 => x.event.setWidth 64
    | 0x38 => x.evmask
    | 0x40 => d.patchAddr
    | 0x48 => d.patchLen
    | 0x58 => x.dumpbuf
    | 0x60 => x.dumplen
    | 0x68 => BitVec.ofNat 64 (d.unavailBands.toNat + 2 ^ 16 * d.unavailCols.toNat)
    | 0x1800 => s.unrid.qtbase
    | 0x1808 => s.unrid.qtlen.setWidth 64
    | 0x1810 => s.unrid.qscan.setWidth 64
    | _ => 0

/-! ## Events (R45) -/

/-- A write to EVENT: each bit written as 1 is cleared in the port's copy, but for one whose event occurs in the same cycle. -/
def writeEvent (s : State) (p : HostPort) (v : Word) : State :=
  modPort s p fun x =>
    let e := eventsNow s x
    let clr := v.setWidth 9 &&& ~~~e.occurred
    { x with event := x.event &&& ~~~clr, events := { e with cleared := e.cleared ||| (x.event &&& clr) } }

/-- EVENT_WRITE. -/
def execEventWrite (p : HostPort) (v : Word) (s : State) : Host.Outcome State Fault Refusal := .next (writeEvent s p v)

/-- A write to EVMASK: one message on vector 0 where it sets a mask bit whose EVENT bit is already 1. All 64 bits are stored and
read back (DESIGN CHOICE, log entry 64: R43 marks none of EVMASK reserved). -/
def writeEvmask (s : State) (p : HostPort) (v : Word) : State :=
  let x := portAt s p
  let fresh := v &&& ~~~x.evmask
  let s := modPort s p fun x => { x with evmask := v }
  if x.event &&& fresh.setWidth 9 ≠ 0 then sendMsix s p 0 else s

/-- EVMASK_WRITE. -/
def execEvmaskWrite (p : HostPort) (v : Word) (s : State) : Host.Outcome State Fault Refusal := .next (writeEvmask s p v)

/-! ## Semaphores (R46, R47) -/

/-- The state with a semaphore replaced. -/
def setSem (s : State) (n : Nat) (h : Hsem) : State := modDev s fun d => { d with hsem := fset d.hsem n h }

/-- The value that a port's read has returned. -/
def returnTo (s : State) (p : HostPort) (v : Word) : State := modPort s p fun x => { x with readData := v }

/-- A read of a semaphore by one port. -/
def readSem (s : State) (p : HostPort) (n : Nat) : State :=
  let h := semAt s n
  let s := returnTo s p (h.owner.setWidth 64)
  if h.owner = 0 then setSem s n { h with owner := BitVec.ofNat 2 (portId p) } else s

/-- Reads of a semaphore from both ports in one cycle: of a free one, the port that lost the last tie wins, port 0 the
first; the loser receives the winner's PORTID. -/
def readSemTie (s : State) (n : Nat) : State :=
  let h := semAt s n
  let w : HostPort := if h.lastTieLost1 then .p1 else .p0
  if h.owner ≠ 0 then returnTo (returnTo s .p0 (h.owner.setWidth 64)) .p1 (h.owner.setWidth 64)
  else
    setSem (returnTo (returnTo s w 0) (otherPort w) (BitVec.ofNat 64 (portId w))) n ⟨BitVec.ofNat 2 (portId w), w == .p0⟩

/-- HSEM_READ. -/
def execHsemRead (who : HsemReader) (n : BitVec 4) (s : State) : Host.Outcome State Fault Refusal :=
  match who with
  | .one p => .next (readSem s p n.toNat)
  | .both => .next (readSemTie s n.toNat)

/-- A write to a semaphore: its own PORTID by the owning port frees it. All 64 bits written are compared (DESIGN CHOICE, log entry
64). -/
def writeSem (s : State) (p : HostPort) (n : Nat) (v : Word) : State :=
  let h := semAt s n
  if h.owner.toNat = portId p ∧ v.toNat = portId p then setSem s n { h with owner := 0 } else s

/-- HSEM_WRITE. -/
def execHsemWrite (p : HostPort) (n : BitVec 4) (v : Word) (s : State) : Host.Outcome State Fault Refusal :=
  .next (writeSem s p n.toNat v)

/-- The semaphores of a port freed (R47). -/
def freeSems (s : State) (p : HostPort) : State :=
  modDev s fun d => { d with hsem := d.hsem.map fun h => if h.2.owner.toNat = portId p then (h.1, { h.2 with owner := 0 }) else h }

/-- Whether a port owns HSEM0 (R48). -/
def ownsBoot (s : State) (p : HostPort) : Bool := (semAt s 0).owner.toNat == portId p

/-- HOST_PORT_RESET: a hot reset or function-level reset frees the port's semaphores (R47). -/
def execHostPortReset (p : HostPort) (s : State) : Host.Outcome State Fault Refusal := .next (freeSems s p)

/-! ## The links of the host ports (R30, R47, R72) -/

/-- An unmapped queue whose ring or record lies behind a port that has gone down: LINKLOST sets, in the record or in what Unrid keeps
in its place (R72): with the port of QTBASE every queue is cut off, with the port of its ring one that is enabled. -/
def cutUnmapped (p : HostPort) (s : State) (q : Nat) : State :=
  let k := keepAt s q
  let st := recordField s q 0xC 1 ||| 4
  if k.cut.isSome || (queueSlot s q).isSome then s
  else if (recordPlace s q).1 = p then
    setKeep s q { k with cut := some (BitVec.ofNat 32 (recordField s q 0x14 4), BitVec.ofNat 64 (recordField s q 0x18 8), BitVec.ofNat 8 st) }
  else if k.enable ∧ portOf (BitVec.ofNat 64 (recordField s q 0 8)) = p then putRecord s q 0xC 1 st
  else s

/-- HOST_LINK_DOWN: the port's semaphores are freed, PEER_DOWN sets, and every queue whose ring or record lies behind the port is
cut off; a command that then turns to the port ends ABORT. -/
def execHostLinkDown (p : HostPort) (s : State) : Host.Outcome State Fault Refusal :=
  if !hostUp s p then .next s
  else
    let s := freeSems (modPort s p fun x => { x with up := false }) p
    let s := (List.range s.unrid.qtlen.toNat).foldl (cutUnmapped p) s
    let s := modUnrid s fun u =>
      { u with slots := u.slots.map fun x => if portOf x.2.ring = p ∨ portOf u.qtbase = p then (x.1, { x.2 with cut := true }) else x }
    .next (raiseEvent s evPeerDown)

/-- The record of a queue that was cut off, written back (R72). -/
def restoreRecord (s : State) (q : Nat) (k : QKeep) : State :=
  match k.cut with
  | none => s
  | some (head, seq, st) =>
    let s := putRecord (putRecord (putRecord (putRecord s q 0x14 4 head.toNat) q 0x18 8 seq.toNat) q 0xC 1 st.toNat) q 0xB 1 0xFF
    setKeep s q { k with cut := none }

/-- HOST_LINK_UP: Unrid writes back what it kept of the queues whose records lie behind the port. -/
def execHostLinkUp (p : HostPort) (s : State) : Host.Outcome State Fault Refusal :=
  let s := modPort s p fun x => { x with up := true }
  if portOf s.unrid.qtbase = p then .next (s.unrid.keep.foldl (fun s k => restoreRecord s k.1 k.2) s) else .next s

/-! ## The wafer stop over I3C (R100, R101, R105) -/

/-- WSTOP_ASSERT. -/
def execWstopAssert (s : State) : Host.Outcome State Fault Refusal := .next (assertStop s)

/-- WSTOP_RELEASE. -/
def execWstopRelease (s : State) : Host.Outcome State Fault Refusal := .next (releaseStop s)

/-- WSTAT. -/
def wstat (d : Device) : Word := BitVec.ofNat 64 (bitN d.stopped + 2 * bitN d.ierr + 256 * d.stopCycles.toNat)

/-- The value that an I3C read has returned. -/
def returnI3c (s : State) (v : Word) : State := modDev s fun d => { d with i3cData := v }

/-- WSTAT_READ: IERR is cleared. -/
def execWstatRead (s : State) : Host.Outcome State Fault Refusal :=
  .next (modDev (returnI3c s (wstat s.dev)) fun d => { d with ierr := false })

/-! ## Inspection over I3C (R104, R105) -/

/-- The core that ICOORD names. -/
def inspected (d : Device) : Nat := keyOf (wfield d.icoord 0 9) (wfield d.icoord 16 9)

/-- The space and word index of ISPACE. -/
def inspectedWord (d : Device) : Nat × Nat := (wfield d.ispace 0 4, wfield d.ispace 8 24)

/-- An inspection refused. -/
def refuseInspect (s : State) : State := modDev s fun d => { d with ierr := true }

/-- IDATA_READ. -/
def execIdataRead (s : State) : Host.Outcome State Fault Refusal :=
  let k := inspected s.dev
  let w := inspectedWord s.dev
  if !inGrid k || decide (spaceWords w.1 ≤ w.2) then .next (returnI3c (refuseInspect s) 0)
  else
    let s' := if w = (2, 0x011) then modCore s k fun c => inspectTaken c w.1 w.2 else s
    .next { returnI3c s' (inspectRead (coreAt s k) s.cycle w.1 w.2 (Config.freeWord s.freeCtr)) with freeCtr := s.freeCtr + 1 }

/-- A write of IDATA: a word stored in a halted core, or in any core while the wafer is stopped; HALT and RESUME. -/
def writeIdata (s : State) (v : Word) : State :=
  let k := inspected s.dev
  let w := inspectedWord s.dev
  if !inGrid k then refuseInspect s
  else if w.1 = 7 then modCore s k haltCore
  else if w.1 = 8 then modCore s k fun c => { c with halted := false }
  else if spaceWords w.1 ≤ w.2 then refuseInspect s
  else if (coreAt s k).halted || s.dev.stopped then modCore s k fun c => refreshReady (inspectWrite c w.1 w.2 v)
  else refuseInspect s

/-- IDATA_WRITE. -/
def execIdataWrite (v : Word) (s : State) : Host.Outcome State Fault Refusal := .next (writeIdata s v)

/-- IDATA_HALT: a write of IDATA whose space is HALT. -/
def execIdataHalt (s : State) : Host.Outcome State Fault Refusal :=
  if (inspectedWord s.dev).1 = 7 then .next (writeIdata s 0) else .next s

/-- IDATA_RESUME: a write of IDATA whose space is RESUME. -/
def execIdataResume (s : State) : Host.Outcome State Fault Refusal :=
  if (inspectedWord s.dev).1 = 8 then .next (writeIdata s 0) else .next s

/-! ## The flash window (R24, R54) -/

/-- ERR set. -/
def flashErr (s : State) : State := modDev s fun d => { d with ferr := true }

/-- A write of FADDR. -/
def writeFaddr (s : State) (v : Word) : State :=
  if v.toNat % 8 ≠ 0 then flashErr s else modDev s fun d => { d with faddr := v.setWidth 26 }

/-- FADDR_WRITE. -/
def execFaddrWrite (v : Word) (s : State) : Host.Outcome State Fault Refusal := .next (writeFaddr s v)

/-- The flash as it reads: the reserved region reads 0xFF. -/
def flashWord (d : Device) : Word := if 0x20_0000 ≤ d.faddr.toNat then BitVec.allOnes 64 else d.flash.word d.faddr.toNat

/-- FDATA_READ. -/
def execFdataRead (s : State) : Host.Outcome State Fault Refusal :=
  if s.dev.fbusy then .next (returnI3c (flashErr s) 0)
  else .next (modDev (returnI3c s (flashWord s.dev)) fun d => { d with faddr := d.faddr + 8 })

/-- A write of FDATA: NOR cells of the boot configuration are programmed, which clears bits and sets none. -/
def writeFdata (s : State) (v : Word) : State :=
  if s.dev.fbusy then flashErr s
  else if 0x10_0000 ≤ s.dev.faddr.toNat then modDev s fun d => { d with frefused := true }
  else
    modDev s fun d =>
      { d with flash := d.flash.writeLE d.faddr.toNat 8 (d.flash.word d.faddr.toNat &&& v).toNat, faddr := d.faddr + 8, fbusy := true }

/-- FDATA_WRITE. -/
def execFdataWrite (v : Word) (s : State) : Host.Outcome State Fault Refusal := .next (writeFdata s v)

/-- ERASECFG. -/
def eraseConfig (s : State) : State :=
  if s.dev.fbusy then flashErr s
  else modDev s fun d => { d with flash := { d.flash with cells := d.flash.cells.filter fun c => decide (0x10_0000 ≤ c.1) }, fbusy := true }

/-- FCMD_ERASECFG. -/
def execFcmdErasecfg (s : State) : Host.Outcome State Fault Refusal := .next (eraseConfig s)

/-- FSTAT_READ: ERR and REFUSED are cleared. -/
def execFstatRead (s : State) : Host.Outcome State Fault Refusal :=
  let d := s.dev
  .next (modDev (returnI3c s (BitVec.ofNat 64 (bitN d.fbusy + 2 * bitN d.ferr + 4 * bitN d.frefused))) fun d =>
    { d with ferr := false, frefused := false })

/-- FLASH_BUSY_END. -/
def execFlashBusyEnd (s : State) : Host.Outcome State Fault Refusal := .next (modDev s fun d => { d with fbusy := false })

/-! ## Plain register writes (R43, R48, R54, R67, R68) -/

/-- QSCAN, clamped to its limits (R68). -/
def writeQscan (s : State) (v : Word) : State :=
  modUnrid s fun u => { u with qscan := BitVec.ofNat 32 (max 1900 (min 1900000 (wfield v 0 32))) }

/-- A write to a boot control: it takes effect only from the port that owns HSEM0 (R48). -/
def bootControl (s : State) (p : HostPort) (f : Device → Device) : State := if ownsBoot s p then modDev s f else s

/-- A write to BAR0 at an offset other than BOOTGO. PATCHADDR and PATCHLEN keep every bit written (DESIGN CHOICE, log entry 64:
the spec clears the low bits of DUMPBUF alone). -/
def bar0Write (s : State) (p : HostPort) (off size : Nat) (v : Word) : State :=
  if size ≠ 8 ∨ off % 8 ≠ 0 then s
  else if 0x100 ≤ off ∧ off < 0x180 then writeSem s p ((off - 0x100) / 8) v
  else
    match off with
    | 0x30 => writeEvent s p v
    | 0x38 => writeEvmask s p v
    | 0x40 => bootControl s p fun d => { d with patchAddr := v }
    | 0x48 => bootControl s p fun d => { d with patchLen := v }
    | 0x58 => modPort s p fun x => { x with dumpbuf := v &&& ~~~0xFFF#64 }
    | 0x60 => modPort s p fun x => { x with dumplen := v }
    | 0x1800 => writeQtbase s v
    | 0x1808 => writeQtlen s v
    | 0x1810 => writeQscan s v
    | _ => s

/-- What a read over I3C returns, but for the effects of WSTAT, IDATA, FDATA and FSTAT reads (R54, R105). -/
def i3cRead (s : State) (off : Nat) : Word :=
  let d := s.dev
  match off with
  | 0x10 => BitVec.ofNat 64 (bitN d.stopHost)
  | 0x18 => wstat d
  | 0x20 => d.icoord
  | 0x28 => d.ispace
  | 0x40 => d.faddr.setWidth 64
  | _ => 0

/-- A read of BAR2: the rest of a page reads 0 (R69), and so does a notify register (DESIGN CHOICE, log entry 64). -/
def bar2Read (_ : State) (_ : HostPort) (_ _ : Nat) : Word := 0

/-- A write to BAR2: the first 8 bytes of page s are the notify register of slot s, and the rest of a page ignores writes (R69).
Pages are of 4 KiB, and a write of another size than 8 is ignored (DESIGN CHOICE, log entry 64). -/
def bar2Write (s : State) (p : HostPort) (off size : Nat) (v : Word) : State :=
  if size = 8 ∧ off % 4096 = 0 ∧ off / 4096 < 64 then notifyWrite s p (off / 4096) v else s

/-- A write over I3C: every write is of 8 bytes. The bits of ICOORD and ISPACE that R105 does not list are not kept (DESIGN CHOICE,
log entry 64). -/
def i3cWrite (s : State) (off : Nat) (v : Word) : State :=
  match off with
  | 0x10 => if v.getLsbD 0 then assertStop s else releaseStop s
  | 0x20 => modDev s fun d => { d with icoord := v &&& 0x01FF_01FF#64 }
  | 0x28 => modDev s fun d => { d with ispace := v &&& 0xFFFF_FF0F#64 }
  | 0x30 => writeIdata s v
  | 0x40 => writeFaddr s v
  | 0x48 => writeFdata s v
  | 0x50 => if v = 1 then eraseConfig s else if s.dev.fbusy then flashErr s else s
  | _ => s

/-! ## Power (R23, R54) -/

/-- An in-band interrupt of the management port. -/
def raiseIbi (s : State) (b : Nat) : State := modDev s fun d => { d with ibi := d.ibi ++ [b] }

/-- POWER_LIMIT: raised to both host ports and the management port; work continues. -/
def execPowerLimit (s : State) : Host.Outcome State Fault Refusal := .next (raiseIbi (raiseEvent s evPowerLimit) 1)

/-- POWER_TRIP: raised, and the wafer-wide fault taken. -/
def execPowerTrip (s : State) : Host.Outcome State Fault Refusal :=
  .next (waferFault (raiseIbi (raiseEvent s evPowerTrip) 2) causePower 0xFFFF 0xFFFF)

end Sys2Proof.Machine
end

