-- ==== Sys2Proof/Machine/Boot.lean ====
section
/-! DEFINITION. Boot: device reset, the boot configuration, the patch window, signatures, and the loss of power (R15, R16,
R48 to R53, R59, R60, R107, R108). -/

namespace Sys2Proof.Machine

/-! ## Signatures (R59, R60) -/

/-- The bytes of a signature block. -/
def sigBytes : Nat := 17064

/-- The hashes of the two public keys of a signature block: the RSA key over modulus and exponent, the SLH-DSA key (R60, R62). -/
def keyPair (b : List Byte) : List Byte := sha384 (sliceOf b 0x10 388) ++ sha384 (sliceOf b 0x318 48)

/-- Whether a signature block verifies over a message under one of the trusted key pairs: both signatures, always. -/
def blockVerifies (keys : List (List Byte)) (msg b : List Byte) : Bool :=
  fieldOf b 0 4 == 0x4749_5358 && fieldOf b 4 4 == 1 && zeroAt b 8 8 && fieldOf b 0x190 4 == 65537 && zeroAt b 0x194 4 &&
    keys.contains (keyPair b) && rsaVerifies (sliceOf b 0x10 384) msg (sliceOf b 0x198 384) &&
    slhVerifies (sliceOf b 0x318 48) msg (sliceOf b 0x348 16224)

/-! ## The boot configuration (R52, R53) -/

/-- The bytes of the boot configuration. -/
def configBytes : Nat := 0x1B4

/-- Whether the bytes of a boot configuration are valid. -/
def configOk (bs : List Byte) : Bool :=
  fieldOf bs 0 4 == 0x4643_4258 && fieldOf bs 4 2 == 1 && decide (fieldOf bs 6 2 ≤ 3) && zeroAt bs 0x2C 4 &&
    crc32c (bs.take 0x1B0) == BitVec.ofNat 32 (fieldOf bs 0x1B0 4)

/-- The owner key slots that are not empty. -/
def ownerKeys (bs : List Byte) : List (List Byte) :=
  ((List.range 4).map fun i => sliceOf bs (0x30 + 96 * i) 96).filter fun k => k.any (· != 0)

/-- Whether an undercroft is present: aligned, of whole pages, within the capacity of an enabled port. -/
def undercroftOk (s : State) (base size : Nat) : Bool :=
  base != 0 && base % 4096 == 0 && size != 0 && size % 4096 == 0 && namesMemory s base &&
    (match ffind s.expanders (base / 2 ^ 42) with | some e => decide (base % 2 ^ 42 + size ≤ e.capacity) | none => false)

/-- The boot configuration in force after a reset, and CFGDEF. -/
def readConfig (s : State) : BootCfg × Bool :=
  let bs := s.dev.flash.readBytes 0 configBytes
  if !configOk bs then ({ raw := bs }, true)
  else
    let f := fieldOf bs
    let uc := undercroftOk s (f 8 8) (f 0x10 8)
    ({ reqsig := f 6 2 % 2 == 1, dumpsram := f 6 2 / 2 == 1, ucbase := if uc then f 8 8 else 0,
       ucsize := if uc then f 0x10 8 else 0, stallLim := if f 0x18 4 = 0 then 1900000 else f 0x18 4,
       preemptLim := if f 0x1C 4 = 0 then 95000 else f 0x1C 4, satThr := f 0x20 4, nanThr := f 0x24 4, uflThr := f 0x28 4,
       owners := ownerKeys bs, raw := bs }, false)

/-! ## Device reset (R49, R107, R108, R116) -/

/-- The status of a port after enumeration (R25). -/
def findStatus (e : AtticFind) : AtticStatus :=
  if e.device ≠ .expander then .unsupportedDevice else if e.linkOk then .enabled else .disabled

/-- A port as enumeration leaves it: one that is not enabled serves no address. Sectors poisoned before stay so (R25, R27). -/
def foundPort (s : State) (e : AtticFind) : Expander :=
  { capacity := e.capacity, up := findStatus e == .enabled, device := e.device, status := findStatus e,
    poison := e.poison ++ match ffind s.expanders e.port with | some x => x.poison.filter fun n => !e.poison.contains n | none => [] }

/-- What a reset leaves outside the reset of the registers: the flash, the attic's contents and host memory; the links and
expanders are as the outside gives them. -/
def resetBase (env : BootEnv) (s : State) : State :=
  { State.reset with
    attic := s.attic,
    expanders := env.expanders.foldl (fun m e => fset m e.port (foundPort s e)) [],
    port0 := { up := env.up0, mem := s.port0.mem }, port1 := { up := env.up1, mem := s.port1.mem },
    dev := { flash := s.dev.flash, sealKey := Config.bootKey s.freeCtr, st := .selftest },
    agenda := s.agenda, freeCtr := s.freeCtr + 1 }

/-- The configuration read and the retirement log replayed. -/
def readFlash (s : State) : State :=
  let cfg := readConfig s
  let log := replayLog s.dev.flash
  modDev s fun d =>
    { d with cfg := cfg.1, cfgdef := cfg.2, mapgen := BitVec.ofNat 16 log.gen, retiredRows := log.rows, retiredCols := log.cols }

/-- DEVICE_RESET: boot up to the patch window; a failed router is a wafer-wide fault (R15, R49, R107, R108). -/
def execDeviceReset (env : BootEnv) (s : State) : Host.Outcome State Fault Refusal :=
  let s := bootFailures (readFlash (resetBase env s)) env.failedCores
  match env.failedRouters with
  | r :: _ => .next (settleFaults (waferFault s causeRouter r.1 r.2))
  | [] => .next (modDev s fun d => { d with st := .patchwait })

/-! ## The patch window (R49 to R51) -/

/-- Whether the header of a patch is within its limits. -/
def patchHeaderOk (bs : List Byte) : Bool :=
  let f := fieldOf bs
  let n := f 0xC 4
  f 0 4 == 0x4854_4150 && f 4 2 == 1 && f 6 2 != 0 && f 8 2 == Config.romRelease.toNat % 2 ^ 16 && zeroAt bs 0xA 2 && n % 8 == 0 &&
    decide (8 ≤ n) && decide (n ≤ 524288) && f 0x10 4 % 8 == 0 && decide (f 0x10 4 + n ≤ 524288) && f 0x14 4 % 8 == 0 &&
    decide (f 0x14 4 < n) && zeroAt bs 0x18 40 && bs.length == 64 + n + sigBytes

/-- Whether a patch is applied: its header, and both signatures under a pair held in ROM. -/
def patchOk (bs : List Byte) : Bool :=
  patchHeaderOk bs && blockVerifies Config.romKeys (bs.take (bs.length - sigBytes)) (bs.drop (bs.length - sigBytes))

/-- The patch that the registers name, applied or refused. Its code replaces parts of Unrid's implementation only. The patch in force
is kept whole, its signature block included, for the hash of R61 (log entry 25). -/
def takePatch (s : State) : State :=
  let d := s.dev
  let n := d.patchLen.toNat
  let p := portOf d.patchAddr
  let bs := if n ≤ 0x10_0000 ∧ hostUp s p then hostRead s p (hostPage d.patchAddr) n else []
  if patchOk bs then
    modDev s fun d =>
      { d with patched := true, patchLevel := BitVec.ofNat 16 (fieldOf bs 6 2), patchBytes := bs,
               patchRam := d.patchRam.writeBytes (fieldOf bs 0x10 4) (sliceOf bs 0x40 (fieldOf bs 0xC 4)) }
  else modDev s fun d => { d with patcherr := true }

/-- The end of the patch window: any patch is applied, STATE moves to READY, BOOT_DONE sets and the notifies recorded are
acted on. -/
def endPatchwait (s : State) : State :=
  let s := if s.dev.patchLen = 0 then s else takePatch s
  applyNotifies (raiseEvent (modDev s fun d => { d with st := .ready }) evBootDone)

/-- The cycles of the patch window: 100 ms. -/
def patchWindow : Nat := 190000000

/-- PATCHWAIT_TIMEOUT. -/
def execPatchwaitTimeout (s : State) : Host.Outcome State Fault Refusal :=
  if s.dev.st = .patchwait ∧ patchWindow ≤ s.cycle then .next (endPatchwait s) else .next s

/-- A write to BOOTGO (R48, R49). -/
def writeBootgo (s : State) (p : HostPort) (v : Word) : State :=
  if s.dev.st = .patchwait ∧ v = 1 ∧ ownsBoot s p then endPatchwait s else s

/-- BOOTGO_WRITE. -/
def execBootgoWrite (p : HostPort) (v : Word) (s : State) : Host.Outcome State Fault Refusal := .next (writeBootgo s p v)

/-- REGISTER_WRITE: a register of BAR0, of BAR2, of the MSI-X masks or of the management port takes the value; other offsets and
sizes are ignored (R43, R45, R54, R69). -/
def execRegisterWrite (sp : RegSpace) (off size : Nat) (v : Word) (s : State) : Host.Outcome State Fault Refusal :=
  match sp with
  | .bar0 p => .next (if off = 0x50 ∧ size = 8 then writeBootgo s p v else bar0Write s p off size v)
  | .bar2 p => .next (bar2Write s p off size v)
  | .msix p => .next (writeMsixMask s p off (v.getLsbD 0))
  | .i3c => .next (if size = 8 then i3cWrite s off v else s)

/-! ## Power loss (R107) -/

/-- The flash as power goes: an append that was in progress for a failing core leaves its slot with a first part of the
record and no COMMIT. Whether one was, and how far it had come, is free. -/
def tornFlash (s : State) : Memory :=
  match s.dev.failing, freeSlot s.dev.flash with
  | f :: _, some i =>
    if Config.freeBit s.freeCtr then
      let r := recordOf ((replayLog s.dev.flash).seq + 1) (s.dev.mapgen.toNat + 1) (chooseLine s.dev f).1 f.reason f.prow f.pcol f.cycle
      s.dev.flash.writeBytes (slotAddr i) (r.take (1 + (Config.freeWord s.freeCtr).toNat % 63))
    else s.dev.flash
  | _, _ => s.dev.flash

/-- POWER_LOSS: the flash alone is kept; the attic's contents are not known, and host memory is the hosts'. -/
def execPowerLoss (s : State) : Host.Outcome State Fault Refusal :=
  .next
    { State.reset with
      attic := ⟨.free s.freeCtr, []⟩, port0 := { mem := s.port0.mem }, port1 := { mem := s.port1.mem },
      dev := { flash := tornFlash s }, agenda := s.agenda, freeCtr := s.freeCtr + 1 }

end Sys2Proof.Machine
end

