-- ==== Sys2Proof/Machine/Keys.lean ====
section
/-! DEFINITION. The key pairs of the device and of Cartur, and the signatures made with them (R61, R62): RSA key pairs with the public
exponent 65,537, and the signing side of pure SLH-DSA-SHA2-192s of FIPS 205. What is open are the secrets that the keys are made from
and the randomness of a signature: a signature verifies under the public key of its key pair. What is written here of the standards
is PRESUMED (log entry 62). -/

namespace Sys2Proof.Machine

/-- The holders of key pairs: the device, the Cartur intermediate and the Cartur root (R61, R62). -/
inductive Signer where
  | device
  | intermediate
  | root
  deriving DecidableEq, Repr

/-- The number of a holder, under which its secrets stand in Config. -/
def Signer.num : Signer → Nat
  | .device => 0
  | .intermediate => 1
  | .root => 2

/-- Bytes of a free string, filled with zeros. -/
def padded (bs : List Byte) (o n : Nat) : List Byte := sliceOf bs o n ++ List.replicate (n - (sliceOf bs o n).length) 0

/-! ## RSA key pairs (R59, R61) -/

/-- The first prime from a number on that suits the public exponent, among n numbers. -/
def primeFrom : Nat → Nat → Nat
  | 0, a => a
  | n + 1, a => if decide (Nat.Prime a) && (a - 1) % 65537 != 0 then a else primeFrom n (a + 1)

/-- The two primes of a holder's modulus, of 1,536 bits each: found from a secret start, in ranges whose products have 3,072 bits. -/
def rsaPrimes (k : Signer) : Nat × Nat :=
  (primeFrom (2 ^ 1500) (3 * 2 ^ 1534 + Config.primeSeed k.num false % 2 ^ 1533),
   primeFrom (2 ^ 1500) (3 * 2 ^ 1534 + 2 ^ 1533 + Config.primeSeed k.num true % 2 ^ 1532))

/-- The RSA modulus of a holder, big-endian (R59). -/
def rsaModulus (k : Signer) : List Byte := beBytes ((rsaPrimes k).1 * (rsaPrimes k).2) 384

/-- The private exponent of a holder: the inverse of 65,537 modulo the least common multiple of the two primes less one. -/
def rsaExponent (k : Signer) : Nat :=
  let l := Nat.lcm ((rsaPrimes k).1 - 1) ((rsaPrimes k).2 - 1)
  (Nat.gcdA 65537 l % (l : Int)).toNat

/-- A holder's RSASSA-PSS signature of a message: n numbers the salt (R60). -/
def signRsa (k : Signer) (n : Nat) (msg : List Byte) : List Byte :=
  rsaSign (rsaModulus k) (rsaExponent k) msg (padded (Config.pssSalt k.num n) 0 48)

/-! ## SLH-DSA-SHA2-192s signatures (FIPS 205) -/

/-- HMAC with SHA-512, of a key of at most 128 bytes. -/
def hmac512 (key m : List Byte) : List Byte :=
  let pad := fun (b : Byte) => xorBytes (key ++ List.replicate (128 - key.length) 0) (List.replicate 128 b)
  sha512 (pad 0x5C ++ sha512 (pad 0x36 ++ m))

/-- The secret value of a WOTS+ chain. -/
def slhWotsSecret (sk seed : List Byte) (a : SlhAddr) (i : Nat) : List Byte := slhF seed { a with type := 5, w2 := i, w3 := 0 } sk

/-- A WOTS+ public key from its secrets. -/
def slhWotsPublic (sk seed : List Byte) (a : SlhAddr) : List Byte :=
  slhH seed { a with type := 1, w2 := 0, w3 := 0 }
    ((List.range 51).flatMap fun i => slhChain seed { a with w2 := i } 15 0 (slhWotsSecret sk seed a i))

/-- A WOTS+ signature of 24 bytes. -/
def slhWotsSign (sk seed : List Byte) (a : SlhAddr) (m : List Byte) : List Byte :=
  (slhDigits m).zipIdx.flatMap fun d => slhChain seed { a with w2 := d.2 } d.1 0 (slhWotsSecret sk seed a d.2)

/-- A node of an XMSS tree, at a height and an index. -/
def slhXmssNode (sk seed : List Byte) (layer tree : Nat) : Nat → Nat → List Byte
  | 0, i => slhWotsPublic sk seed { layer := layer, tree := tree, w1 := i }
  | z + 1, i =>
    slhH seed { layer := layer, tree := tree, type := 2, w2 := z + 1, w3 := i }
      (slhXmssNode sk seed layer tree z (2 * i) ++ slhXmssNode sk seed layer tree z (2 * i + 1))

/-- The authentication path of a leaf of a tree of a height: the siblings on its way up. -/
def slhPath (node : Nat → Nat → List Byte) (h idx : Nat) : List Byte := (List.range h).flatMap fun j => node j (idx >>> j ^^^ 1)

/-- An XMSS signature: that of a leaf, with its path. -/
def slhXmssSign (sk seed : List Byte) (layer tree leaf : Nat) (m : List Byte) : List Byte :=
  slhWotsSign sk seed { layer := layer, tree := tree, w1 := leaf } m ++ slhPath (slhXmssNode sk seed layer tree) 9 leaf

/-- A signature by the hypertree from layer j on: n layers, each over the root of the one below. -/
def slhTreeSign (sk seed : List Byte) : Nat → Nat → Nat → Nat → List Byte → List Byte
  | 0, _, _, _, _ => []
  | n + 1, j, tree, leaf, m =>
    let sig := slhXmssSign sk seed j tree leaf m
    sig ++ slhTreeSign sk seed n (j + 1) (tree / 2 ^ 9) (tree % 2 ^ 9) (slhXmssRoot seed j tree leaf sig m)

/-- The secret value of a leaf of FORS. -/
def slhForsSecret (sk seed : List Byte) (a : SlhAddr) (idx : Nat) : List Byte := slhF seed { a with type := 6, w2 := 0, w3 := idx } sk

/-- A node of a FORS tree, at a height and an index. -/
def slhForsNode (sk seed : List Byte) (a : SlhAddr) : Nat → Nat → List Byte
  | 0, i => slhF seed { a with w3 := i } (slhForsSecret sk seed a i)
  | z + 1, i => slhH seed { a with w2 := z + 1, w3 := i } (slhForsNode sk seed a z (2 * i) ++ slhForsNode sk seed a z (2 * i + 1))

/-- A FORS signature of a message digest. -/
def slhForsSign (sk seed : List Byte) (tree leaf : Nat) (md : List Byte) : List Byte :=
  let a : SlhAddr := { tree := tree, type := 3, w1 := leaf }
  (baseBits md 14 17).zipIdx.flatMap fun d =>
    let idx := d.2 * 2 ^ 14 + d.1
    slhForsSecret sk seed a idx ++ slhPath (slhForsNode sk seed a) 14 idx

/-- The root of the hypertree, the second half of the public key. -/
def slhRoot (sk seed : List Byte) : List Byte := slhXmssNode sk seed 6 0 9 0

/-- A pure signature with an empty context, from SK.seed, SK.prf, PK.seed and fresh randomness. -/
def slhSign (sk prf seed rnd msg : List Byte) : List Byte :=
  let root := slhRoot sk seed
  let r := (hmac512 prf (rnd ++ [0, 0] ++ msg)).take 24
  let digest := slhDigest r seed root msg
  let md := digest.take 30
  let fors := slhForsSign sk seed (slhTreeOf digest) (slhLeafOf digest) md
  r ++ fors ++
    slhTreeSign sk seed 7 0 (slhTreeOf digest) (slhLeafOf digest) (slhForsKey seed (slhTreeOf digest) (slhLeafOf digest) fors md)

/-- The secrets of a holder's SLH-DSA key pair: SK.seed (0), SK.prf (1) and PK.seed (2). -/
def slhSecret (k : Signer) (i : Nat) : List Byte := padded (Config.slhSeed k.num i) 0 24

/-- The SLH-DSA public key of a holder. -/
def slhKey (k : Signer) : List Byte := slhSecret k 2 ++ slhRoot (slhSecret k 0) (slhSecret k 2)

/-- A holder's SLH-DSA signature of a message: n numbers its randomness (R60). -/
def signSlh (k : Signer) (n : Nat) (msg : List Byte) : List Byte :=
  slhSign (slhSecret k 0) (slhSecret k 1) (slhSecret k 2) (padded (Config.slhRandom k.num n) 0 24) msg

end Sys2Proof.Machine
end

