-- ==== Sys2Proof/Machine/Larders.lean ====
section
/-! DEFINITION. Larders: their contexts and messages, the command words, LCTL and LSUB, transfers and their answers, faults
and notices, the service context and the attic accesses of cores, and the statistics sink (R193, R234, R239 to R257, R267,
R268, R405). Transfers move one sector (of BCAST, one burst; of a bulk read, one burst) in a step. -/

namespace Sys2Proof.Machine

/-! ## Parts -/

/-- The state with one context of a larder changed. -/
def modLctx (s : State) (n c : Nat) (f : LCtx → LCtx) : State := let l := larderAt s n; setLarder s n (setLctx l c (f (lctxAt l c)))

/-- A context of a bound larder, with its launch, while the wafer runs. -/
def activeCtx (s : State) (n c : Nat) : Option (Launch × LCtx) :=
  if s.dev.stopped then none else (launchBound s n).map fun l => (l, lctxAt (larderAt s n) c)

/-- An event of a context: the body gives the state after it. -/
def onLctx (s : State) (n c : Nat) (body : Launch → LCtx → State) : Host.Outcome State Fault Refusal :=
  match activeCtx s n c with
  | some (l, x) => .next (body l x)
  | none => .next s

/-- SRCID of a context (R252). -/
def srcId (n c : Nat) : Nat := n + 2 ^ 8 * c

/-- Whether a larder has room to send on a class: two flits, as at a router's input. -/
def larderFree (s : State) (n cls : Nat) : Bool := decide ((fget (larderAt s n).egress cls []).length < 2)

/-- Flits sent by a larder; those of a program class are counted (R86). -/
def sendLarder (s : State) (n cls : Nat) (fs : List Flit) : State :=
  let l := larderAt s n
  setLarder s n
    { l with egress := fmod l.egress cls [] (· ++ fs), injected := if cls < 24 then l.injected + fs.length else l.injected }

/-- A message of a larder towards a core. -/
def sendMessage (s : State) (n cls kind key : Nat) (ps : List (BitVec 1024)) : State :=
  sendLarder s n cls (messageFlits cls kind (rowOf key) (colOf key) false (larderRow n) (larderCol n) ps)

/-! ## Limits (R247 to R249) -/

/-- Whether the larder registers are within the limits of a data command (R247 to R249). -/
def gLimits (x : LCtx) : LCmd → Bool
  | .stream h _ _ _ _ _ _ _ _ _ =>
    let e := extents x
    let u := if h then 64 else 32
    e.1 != 0 && e.2.1 != 0 && e.2.2.1 != 0 && e.2.2.2 != 0 && (gOf x 1).toNat % u == 0 && (gOf x 2).toNat % u == 0 &&
      (gOf x 3).toNat % u == 0 && (gOf x 4).toNat % 32 == 0
  | .gather .. => (gOf x 4).toNat % 4 == 0 && (gOf x 0).toNat % 32 == 0
  | .wback .. => (gOf x 4).toNat % 32 == 0
  | .bcast .. => (gOf x 4).toNat % 32 == 0
  | _ => true

/-! ## The course of a context (R240, R243) -/

/-- Whether a transfer goes to the attic. -/
def isWback : Transfer → Bool
  | .wback _ => true
  | _ => false

/-- Whether a fault found earlier gives way to one found now: a translation fault does to a data fault, which a sector issued before it
has met (R27, R253, R254). -/
def givesWay (old : Option (LKind × BitVec 48)) (k : LKind) : Bool :=
  match old with
  | some (k', _) => k' == .xlate && k != .xlate
  | none => true

/-- A context with a fault found: the first data fault found stays, and what has not been sent yet is dropped for a data
fault. -/
def findFault (x : LCtx) (k : LKind) (va : Nat) : LCtx :=
  if givesWay x.found k then
    { x with found := some (k, BitVec.ofNat 48 va),
             reads := if k = .xlate then x.reads else x.reads.filter fun r => r.cores.isEmpty && !isWback r.what }
  else x

/-- The address of the next command of a ring. -/
def ringAddr (x : LCtx) : BitVec 48 := x.ringva + BitVec.ofNat 48 (16 * (x.head.toNat % 2 ^ x.logn))

/-- Whether a ring-mode context has nothing to fetch. -/
def ringEmpty (x : LCtx) : Bool := x.ring && x.cmd.isNone && x.head == x.tail && x.cp == ringAddr x

/-- A running context waits at an empty ring. -/
def settleRing (x : LCtx) : LCtx := if x.st = .run && ringEmpty x then { x with st := .wait } else x

/-- A command done: the next one is at CP + 16 or at an address that the command gives, or at HEAD. ELEM goes on counting what a
data command has under way, until the next one begins (R255, R440). -/
def doneAt (x : LCtx) (cp : BitVec 48) : LCtx :=
  settleRing
    { x with st := .run, cmd := none, step := 0, fva := 0, idx := 0, dcore := 0, whole := true, cp := if x.ring then ringAddr x else cp }

/-- A command done that sets no address. -/
def doneCmd (x : LCtx) : LCtx := doneAt x (x.cp + 16)

/-- A context none of whose sectors counts for the command at CP: that command has not begun (R255). -/
def freshCmd (x : LCtx) : LCtx := { x with elem := 0, reads := x.reads.map fun r => { r with mine := false } }

/-- The record of a context that leaves the command at CP: its place in a data command in progress, else nothing delivered of it
yet (R255). -/
def leaveCmd (s : State) (l : Launch) (x : LCtx) : LCtx :=
  { markPlace s l (if x.whole then freshCmd x else x) with cmd := none, step := 0, stopAsked := false }

/-- KIND as a stop finds it: an LRESUME of the same cycle has not taken effect (R269, R443). -/
def stopKind (s : State) (x : LCtx) : LKind :=
  match x.resumed with
  | some (t, k) => if t = s.cycle then k else x.kind
  | none => x.kind

/-- A context that stops: its record keeps its place, and the command is fetched again if it goes on (R240, R257). -/
def stopCtx (s : State) (l : Launch) (x : LCtx) : LCtx := { leaveCmd s l x with st := .stopped, kind := stopKind s x }

/-- A command fetched: its words, and the context with HEAD past it (R243). -/
def fetchCmd (s : State) (l : Launch) (x : LCtx) : Except LKind (Word × Word × LCtx) :=
  match readVa s l x.cp.toNat 16 with
  | .error k => .error k
  | .ok bs =>
    .ok (BitVec.ofNat 64 (fieldOf bs 0 8), BitVec.ofNat 64 (fieldOf bs 8 8),
      if x.ring && x.cp == ringAddr x then { x with head := x.head + 1 } else x)

/-- The start of a command of one kind in a running context: a fault of the fetch or of the command's words is found
whatever kind is asked for; the body gives the state for a command of the kind. -/
def onCommand (s : State) (n c : Nat) (kind : LCmd → Bool) (body : Launch → LCtx → LCmd → State) :
    Host.Outcome State Fault Refusal :=
  onLctx s n c fun l x =>
    if 15 ≤ c || x.st != .run || x.found.isSome || x.cmd.isSome || ringEmpty x then s
    else
      match fetchCmd s l x with
      | .error k => modLctx s n c fun x => findFault x k x.cp.toNat
      | .ok (w, v, x') =>
        match cmdOf w v with
        | none => modLctx s n c fun _ => findFault x' .badcmd x.cp.toNat
        | some m =>
          if !classOk l m then modLctx s n c fun _ => findFault x' .badcmd x.cp.toNat
          else if kind m then body l { x' with cmd := some (w, v) } m
          else s

/-- The state with a context replaced. -/
def putLctx (s : State) (n c : Nat) (x : LCtx) : State := modLctx s n c fun _ => x

/-- The start of a data command: its limits, its target set, and the walk begun, or taken up at the place of the record. -/
def startData (s : State) (n c : Nat) (l : Launch) (x : LCtx) (m : LCmd) (one : Bool) : State :=
  if !gLimits x m then putLctx s n c { findFault x .badcmd x.cp.toNat with cmd := none }
  else if (targets l x one).isNone then putLctx s n c { findFault x .range x.cp.toNat with cmd := none }
  else
    let x := if x.whole then freshCmd x else x
    putLctx s n c { x with step := sectorOf x m, whole := false }

/-- STREAM (R247, R248). -/
def execStream (n c : Nat) (s : State) : Host.Outcome State Fault Refusal :=
  onCommand s n c (fun m => match m with | .stream .. => true | _ => false) fun l x m => startData s n c l x m false

/-- GATHER (R249). -/
def execGather (n c : Nat) (s : State) : Host.Outcome State Fault Refusal :=
  onCommand s n c (fun m => match m with | .gather .. => true | _ => false) fun l x m => startData s n c l x m false

/-- WBACK (R249). -/
def execWback (n c : Nat) (s : State) : Host.Outcome State Fault Refusal :=
  onCommand s n c (fun m => match m with | .wback .. => true | _ => false) fun l x m => startData s n c l x m true

/-- BCAST (R249). -/
def execBcast (n c : Nat) (s : State) : Host.Outcome State Fault Refusal :=
  onCommand s n c (fun m => match m with | .bcast .. => true | _ => false) fun l x m => startData s n c l x m false

/-- The bits of a tag that name what a larder asked for beside its context: an RDREQ, or a SIGNAL; a PUSH sets neither (log
entry 14). -/
def tagRdreq : Nat := 2 ^ 14
/-- The bit of a SIGNAL. -/
def tagSignal : Nat := 2 ^ 13

/-- Whether a context has something still to be sent to a core, or sent and not yet performed: a SIGNAL comes after it (R231,
R251). -/
def aheadOf (x : LCtx) (key : Nat) : Bool := x.reads.any fun r => !isWback r.what && (r.cores.contains key || r.waits.contains key)

/-- Whether a context has something still to be sent to a core (R251). -/
def unsentTo (x : LCtx) (key : Nat) : Bool := x.reads.any fun r => r.cores.contains key

/-- A context with a transfer under way, under a number of its own. -/
def addRead (x : LCtx) (r : LRead) : LCtx := { x with reads := x.reads ++ [{ r with id := x.nextId }], nextId := x.nextId + 1 }

/-- SIGNAL: sent once every earlier delivery of the context into the core has been performed (R231, R249, R251). -/
def execLarderSignal (n c : Nat) (s : State) : Host.Outcome State Fault Refusal :=
  onCommand s n c (fun m => match m with | .signal .. => true | _ => false) fun l x m =>
    match m, oneTarget l x with
    | .signal cls addr v, some key =>
      if !larderFree s n cls || aheadOf x key then s
      else
        let s := sendMessage s n cls 2 key [payloadOf [(0, addr), (12, srcId n c + tagSignal), (16, v.toNat)]]
        putLctx s n c (doneCmd (addRead x { what := .signal, va := 0, pas := [], data := some [], cls := cls, cores := [], waits := [key], mine := false }))
    | _, _ => putLctx s n c { findFault x .range x.cp.toNat with cmd := none }

/-- What a queue SIGNAL does at a host address; none where the port's link is down (R30, R77). -/
def hostSignal (s : State) (a v : Word) (add : Bool) : Option State :=
  let p := portOf a
  if hostUp s p then
    let b := hostByte a
    some (hostPut s p b 8 (if add then (hostLE s p b 8 + v.toNat) % 2 ^ 64 else v.toNat))
  else none

/-- EVENT (R30, R249). -/
def execLarderEvent (n c : Nat) (s : State) : Host.Outcome State Fault Refusal :=
  onCommand s n c (fun m => match m with | .event .. => true | _ => false) fun _ x m =>
    match m with
    | .event add vec v =>
      let a := gOf x 4
      match hostSignal s a v add with
      | some s => putLctx (if vec = 0 then s else sendMsix s (portOf a) vec) n c (doneCmd x)
      | none => putLctx s n c { findFault x .range x.cp.toNat with cmd := none }
    | _ => s

/-! ## Control commands (R250) -/

/-- The free sectors of a core's pantry: none in one that is not valid. -/
def freeSectors (c : Core) (p : Nat) : Nat :=
  let x := pantryAt c p
  if !x.valid then 0 else if x.outbound then pantryFree x else pantryW x - (x.fill - x.rel).toNat

/-- Whether what a waiting command waits for has come. -/
def waitMet (s : State) (l : Launch) (x : LCtx) : LCmd → Bool
  | .waitw p n => match oneTarget l x with | some k => decide (n ≤ freeSectors (coreAt s k) p) | none => true
  | .waitc _ t => decide (t ≤ x.csig.toNat)
  | .fence => x.reads.isEmpty
  | _ => true

/-- A wait that is over. -/
def endWait (x : LCtx) : LCmd → LCtx
  | .waitc true t => doneCmd { x with csig := x.csig - BitVec.ofNat 16 t }
  | _ => doneCmd x

/-- A waiting command: done at once, or the context waits. -/
def startWait (s : State) (n c : Nat) (l : Launch) (x : LCtx) (m : LCmd) : State :=
  putLctx s n c (if waitMet s l x m then endWait x m else { x with st := .wait })

/-- WAITW. -/
def execWaitw (n c : Nat) (s : State) : Host.Outcome State Fault Refusal :=
  onCommand s n c (fun m => match m with | .waitw .. => true | _ => false) fun l x m =>
    if (oneTarget l x).isNone then putLctx s n c { findFault x .range x.cp.toNat with cmd := none } else startWait s n c l x m

/-- WAITC. -/
def execWaitc (n c : Nat) (s : State) : Host.Outcome State Fault Refusal :=
  onCommand s n c (fun m => match m with | .waitc .. => true | _ => false) fun l x m => startWait s n c l x m

/-- FENCE. -/
def execLarderFence (n c : Nat) (s : State) : Host.Outcome State Fault Refusal :=
  onCommand s n c (fun m => match m with | .fence => true | _ => false) fun l x m => startWait s n c l x m

/-- LARDER_WAIT_RESUME: the wait is satisfied, or a command stands in the ring (R240). -/
def execLarderWaitResume (n c : Nat) (s : State) : Host.Outcome State Fault Refusal :=
  onLctx s n c fun l x =>
    if x.st ≠ .wait then s
    else
      match currentCmd x with
      | some m => if waitMet s l x m then putLctx s n c (endWait x m) else s
      | none => if ringEmpty x then s else putLctx s n c { x with st := .run }

/-- A command that a context may not run: BADCMD. -/
def badCmd (s : State) (n c : Nat) (x : LCtx) : State := putLctx s n c { findFault x .badcmd x.cp.toNat with cmd := none }

/-- A loop level: open, count and start. -/
def levelOf (x : LCtx) (lv : Bool) : Bool × BitVec 32 × BitVec 48 :=
  if lv then (x.open1, x.lc1, x.lstart1) else (x.open0, x.lc0, x.lstart0)

/-- A context with a loop level replaced. -/
def setLevel (x : LCtx) (lv : Bool) (v : Bool × BitVec 32 × BitVec 48) : LCtx :=
  if lv then { x with open1 := v.1, lc1 := v.2.1, lstart1 := v.2.2 } else { x with open0 := v.1, lc0 := v.2.1, lstart0 := v.2.2 }

/-- One command passed over by a LOOP with count 0: step counts those passed, and the matching ENDL ends it (R250). -/
def skipOne (s : State) (n c : Nat) (l : Launch) (x : LCtx) (lv : Bool) : State :=
  let a := x.cp + BitVec.ofNat 48 (16 * (x.step + 1))
  match readVa s l a.toNat 16 with
  | .error k => putLctx s n c (findFault x k a.toNat)
  | .ok bs =>
    let w := BitVec.ofNat 64 (fieldOf bs 0 8)
    if wfield w 0 8 = 9 ∧ w.getLsbD 8 = lv then putLctx s n c (doneAt x (a + 16))
    else putLctx s n c { x with step := x.step + 1 }

/-- LOOP: with count 0, one command passed over in a step. -/
def execLarderLoop (n c : Nat) (s : State) : Host.Outcome State Fault Refusal :=
  match activeCtx s n c with
  | some (l, x) =>
    match currentCmd x with
    | some (.loop lv _) => if x.st = .run ∧ x.found.isNone then .next (skipOne s n c l x lv) else .next s
    | _ =>
      onCommand s n c (fun m => match m with | .loop .. => true | _ => false) fun _ x m =>
        match m with
        | .loop lv count =>
          if x.ring || (levelOf x lv).1 then badCmd s n c x
          else if count = 0 then putLctx s n c x
          else putLctx s n c (doneCmd (setLevel x lv (true, BitVec.ofNat 32 count, x.cp + 16)))
        | _ => s
  | none => .next s

/-- ENDL. -/
def execEndl (n c : Nat) (s : State) : Host.Outcome State Fault Refusal :=
  onCommand s n c (fun m => match m with | .endl .. => true | _ => false) fun _ x m =>
    match m with
    | .endl lv =>
      let v := levelOf x lv
      if x.ring || !v.1 then badCmd s n c x
      else if v.2.1 = 1 then putLctx s n c (doneCmd (setLevel x lv (false, 0, v.2.2)))
      else putLctx s n c (doneAt (setLevel x lv (true, v.2.1 - 1, v.2.2)) v.2.2)
    | _ => s

/-- JUMP. -/
def execJump (n c : Nat) (s : State) : Host.Outcome State Fault Refusal :=
  onCommand s n c (fun m => match m with | .jump .. => true | _ => false) fun _ x m =>
    match m with
    | .jump va => if x.ring then badCmd s n c x else putLctx s n c (doneAt x (BitVec.ofNat 48 va))
    | _ => s

/-- SETV. -/
def execSetv (n c : Nat) (s : State) : Host.Outcome State Fault Refusal :=
  onCommand s n c (fun m => match m with | .setv .. => true | _ => false) fun _ x m =>
    match m with
    | .setv g v => putLctx s n c (doneCmd { x with g := fset x.g g v })
    | _ => s

/-- ADDV. -/
def execAddv (n c : Nat) (s : State) : Host.Outcome State Fault Refusal :=
  onCommand s n c (fun m => match m with | .addv .. => true | _ => false) fun _ x m =>
    match m with
    | .addv g v => putLctx s n c (doneCmd { x with g := fset x.g g (gOf x g + v) })
    | _ => s

/-- STOP: CP stays at it, so that a saved region resumed stops there again, and ELEM counts the data command before it (R240, R250,
R440). -/
def execLarderStop (n c : Nat) (s : State) : Host.Outcome State Fault Refusal :=
  onCommand s n c (fun m => match m with | .stop => true | _ => false) fun _ x _ =>
    putLctx s n c { x with st := .stopped, cmd := none, step := 0 }

/-! ## LCTL and LSUB (R242, R243, R268) -/

/-- The class-29 operation at the head of what a larder has received, and the state without it; one whose source lies in
no region that the larder serves is discarded. -/
def takeLctl (s : State) (n op : Nat) (body : State → Launch → Flit → State) : Host.Outcome State Fault Refusal :=
  let x := larderAt s n
  match s.dev.stopped, fget x.rx 29 [] with
  | false, f :: rest =>
    if flitField f 0 1 ≠ op then .next s
    else
      let s := setLarder s n { x with rx := fset x.rx 29 rest }
      match launchBound s n with
      | some l => .next (if inRegion l (flitSrow f) (flitScol f) then body s l f else s)
      | none => .next s
  | _, _ => .next s

/-- A context started: its record cleared; what it has under way is kept, and with it a fault found of that and not yet taken (R27). -/
def startedCtx (old : LCtx) (x : LCtx) : LCtx :=
  { x with st := .run, reads := old.reads.map fun r => { r with mine := false }, nextId := old.nextId, found := old.found.or x.found }

/-- START of a context in IDLE, STOPPED or ENDED; a misaligned VA or a LOGN outside its limits ends it BADCMD. -/
def startCtx (s : State) (n : Nat) (f : Flit) (ring : Bool) : State :=
  let c := flitField f 1 1
  let x := lctxAt (larderAt s n) c
  let logn := flitField f 2 1
  let va := BitVec.ofNat 48 (flitField f 8 6)
  if 15 ≤ c || x.st == .run || x.st == .wait || x.st == .fault then s
  else if va.toNat % 16 ≠ 0 || (ring && (decide (logn < 4) || decide (15 < logn))) then
    putLctx s n c (startedCtx x { cp := va, found := some (.badcmd, va) })
  else putLctx s n c (settleRing (startedCtx x (if ring then { cp := va, ring := true, ringva := va, logn := logn } else { cp := va })))

/-- START_LIST (R242). -/
def execStartList (n : Nat) (s : State) : Host.Outcome State Fault Refusal := takeLctl s n 0 fun s _ f => startCtx s n f false

/-- START_RING (R242). -/
def execStartRing (n : Nat) (s : State) : Host.Outcome State Fault Refusal := takeLctl s n 1 fun s _ f => startCtx s n f true

/-- CONTEXT_STOP (R242): a step is a burst boundary; a fault that has been found is taken first. -/
def execContextStop (n : Nat) (s : State) : Host.Outcome State Fault Refusal :=
  takeLctl s n 2 fun s l f =>
    let c := flitField f 1 1
    let x := lctxAt (larderAt s n) c
    if 15 ≤ c then s
    else if x.found.isSome then putLctx s n c { x with stopAsked := true }
    else
      match x.st with
      | .run => putLctx s n c (stopCtx s l x)
      | .wait => putLctx s n c (stopCtx s l x)
      | .fault => putLctx s n c { x with st := .stopped }
      | _ => s

/-- CSIG (R242). -/
def execCsig (n : Nat) (s : State) : Host.Outcome State Fault Refusal :=
  takeLctl s n 3 fun s _ f =>
    let c := flitField f 1 1
    if 15 ≤ c then s else modLctx s n c fun x => { x with csig := if x.csig = 0xFFFF then 0xFFFF else x.csig + 1 }

/-- The answer of a larder to a core: code 0 acknowledges. -/
def larderAnswer (s : State) (n : Nat) (f : Flit) (tag code : Nat) : State :=
  sendLarder s n 27 [answerFlit (larderRow n) (larderCol n) f tag code 0 0]

/-- A command for the service context: SETV and ADDV of g0 to g2 alone (R268). -/
def serviceCmd (x : LCtx) : LCmd → Option LCtx
  | .setv g v => if g ≤ 2 then some { x with g := fset x.g g v } else none
  | .addv g v => if g ≤ 2 then some { x with g := fset x.g g (gOf x g + v) } else none
  | _ => none

/-- LSUB_APPEND: a command joins a ring, or is executed at once by the service context, or answered ABORT (R243, R268). -/
def execLsubAppend (n : Nat) (s : State) : Host.Outcome State Fault Refusal :=
  takeLctl s n 4 fun s l f =>
    let c := flitField f 1 1
    let tag := flitField f 4 2
    let w := flitField f 16 8
    let v := flitField f 24 8
    let x := lctxAt (larderAt s n) c
    if c = 15 then
      match (cmdOf (BitVec.ofNat 64 w) (BitVec.ofNat 64 v)).bind (serviceCmd x) with
      | some x => larderAnswer (putLctx s n 15 x) n f tag 0
      | none => larderAnswer s n f tag 6
    else
      let a := x.ringva.toNat + 16 * (x.tail.toNat % 2 ^ x.logn)
      match lookup s l a with
      | .ok pa =>
        if 15 < c || !x.ring || (x.tail - x.head).toNat == 2 ^ x.logn then larderAnswer s n f tag 6
        else larderAnswer (putLctx (atticWrite s pa (leBytes (w + 2 ^ 64 * v) 16)) n c { x with tail := x.tail + 1 }) n f tag 0
      | .error _ => larderAnswer s n f tag 6

/-! ## Issuing sectors (R253) -/

/-- The sectors of a context that are read or in flight. -/
def outstanding (x : LCtx) : Nat := x.reads.foldl (fun n r => n + r.pas.length) 0

/-- A context with a transfer joined, a number of sectors further; the command is done with its last sector. -/
def issued (x : LCtx) (m : LCmd) (r : LRead) (k : Nat) : LCtx :=
  let x := { addRead x r with step := x.step + k }
  if x.step = cmdTotal x m then doneCmd x else x

/-- One sector of STREAM or GATHER towards its pantry. -/
def issuePush (s : State) (l : Launch) (x : LCtx) (m : LCmd) (va p cls : Nat) (ts : List Nat) : LCtx :=
  match lookup s l va with
  | .error k => findFault x k va
  | .ok pa =>
    issued x m
      { what := .push p, va := BitVec.ofNat 48 va, pas := [pa], data := none, cls := cls, cores := [ts.getD (dealtTo m x.step ts.length) 0],
        waits := [], mine := true } 1

/-- What SERCHK finds in the two header sectors of a step before anything of it is issued: the fault of one that cannot be read, or
SKEW where the serial of one of the eight headers, bits [31:24] of each, is another (R187, R248). A header that cannot be read stops
the step before its first sector, with FVA at that header (DESIGN CHOICE, log entry 78). -/
def serialFault (s : State) (l : Launch) (va serial : Nat) : Option (LKind × Nat) :=
  match readVa s l va 32, readVa s l (va + 32) 32 with
  | .error k, _ => some (k, va)
  | _, .error k => some (k, (va + 32) % 2 ^ 48)
  | .ok as, .ok bs =>
    if (List.range 8).any fun i => ((as ++ bs).getD (8 * i + 3) 0).toNat != serial then some (.skew, va) else none

/-- A burst of BCAST: up to four sectors, those before a fault (R249, R253). -/
def bcastPas (s : State) (l : Launch) (va : Nat) : Nat → List Nat × Option (LKind × Nat)
  | 0 => ([], none)
  | k + 1 =>
    match lookup s l va with
    | .error e => ([], some (e, va % 2 ^ 48))
    | .ok pa => let r := bcastPas s l (va + 32) k; (pa :: r.1, r.2)

/-- A sector of WBACK with FORM 0: the next published sector that no context of the larder has on its way; none while there is
none (R260). -/
def pantrySector (s : State) (n key p : Nat) : Option (List Byte) :=
  let c := coreAt s key
  let a := pantryAt c p
  let busy := (((larderAt s n).ctx.flatMap fun x => x.2.reads).filter fun r => r.what == .wback (some p) && r.waits.contains key).length
  if busy < (a.rel - a.fill).toNat then some (c.sram.readBytes (sectorAddr a (a.fill + BitVec.ofNat 32 busy)) 32) else none

/-- The next sector, or burst, of the command in progress; BCAST reads its next burst once the one before it has reached every core
(R249). -/
def issueSector (s : State) (n c : Nat) (l : Launch) (x : LCtx) (m : LCmd) : State :=
  let j := x.step
  match m with
  | .stream h chk p cls serial _ pstr pb npl pp =>
    let v := streamSector x h p pstr pb npl pp j
    match targets l x false with
    | none => s
    | some ts =>
      match if chk && j % stepSectors h npl == 0 then serialFault s l v.1 serial else none with
      | some (k, a) => putLctx s n c (findFault x k a)
      | none => putLctx s n c (issuePush s l x m v.1 v.2 cls ts)
  | .gather p cls _ _ ilen =>
    let ia := (gOf x 4).toNat + 4 * (j / ilen)
    match targets l x false, readVa s l ia 4 with
    | some ts, .ok bs => putLctx s n c (issuePush s l x m (((gOf x 0).toNat + 32 * ilen * leNat bs + 32 * (j % ilen)) % 2 ^ 48) p cls ts)
    | _, .error k => putLctx s n c (findFault x k (ia / 32 * 32))
    | none, _ => s
  | .bcast p cls len =>
    let va := ((gOf x 4).toNat + 32 * j) % 2 ^ 48
    if x.reads.any (·.mine) then s
    else
    match targets l x false, bcastPas s l va (min 4 (len - j)) with
    | some ts, (pa :: pas, e) =>
      if 64 < outstanding x + pas.length + 1 then s
      else
        let x := issued x m
          { what := .push p, va := BitVec.ofNat 48 va, pas := pa :: pas, data := none, cls := cls, cores := ts, waits := [], mine := true }
          (pas.length + 1)
        putLctx s n c (match e with | some (k, a) => findFault x k a | none => x)
    | _, ([], some (k, a)) => putLctx s n c (findFault x k a)
    | _, _ => s
  | .wback sram p cls _ =>
    let va := ((gOf x 4).toNat + 32 * j) % 2 ^ 48
    match oneTarget l x, lookup s l va with
    | some key, .ok pa =>
      let r : LRead :=
        { what := .wback (if sram then none else some p), va := BitVec.ofNat 48 va, pas := [pa], data := none, cls := cls, cores := [],
          waits := [key], mine := true }
      if sram then
        if larderFree s n cls && !unsentTo x key then
          let desc := payloadOf
            [(0, (wfield (gOf x 4) 0 32 + 32 * j) % 2 ^ 32), (4, x.nextId % 2 ^ 32), (8, 32), (12, srcId n c + tagRdreq)]
          putLctx (sendMessage s n cls 3 key [desc]) n c (issued x m r 1)
        else s
      else
        let a := pantryAt (coreAt s key) p
        if !a.valid || !a.outbound then putLctx s n c (findFault x .range va)
        else
          match pantrySector s n key p with
          | some bs => putLctx s n c (issued x m { r with data := some bs } 1)
          | none => s
    | some _, .error k => putLctx s n c (findFault x k va)
    | none, _ => s
  | _ => s

end Sys2Proof.Machine
end

