-- ==== Sys2Proof/Machine/LarderFlow.lean ====
section
/-! DEFINITION. The flow of larder transfers: sectors issued, read responses, writes accepted, answers, faults with their
notices, LRESUME, bulk reads served, attic accesses of cores, the statistics sink, and drains (R27, R89, R171, R193, R234,
R253 to R257, R266 to R268, R405). -/

namespace Sys2Proof.Machine

/-! ## Drain markers (R89, R171) -/

/-- A drain marker of a class from a source. -/
def markerFlit (l : Launch) (src cls row col : Nat) : Flit :=
  { payload := payloadOf [(0, cls), (1, src), (2, l.num % 4096), (4, l.orgRow), (6, l.orgCol), (8, l.rows), (10, l.cols)],
    side := sideFirst 28 13 0 0 false 0 row col }

/-- The classes of a mask. -/
def maskClasses (m : BitVec 32) : List Nat := (List.range 32).filter fun q => m.getLsbD q

/-- Whether a larder has nothing left to send for its launch: no sector read and not sent, and no bulk read to issue. -/
def larderSent (l : Larder) : Bool :=
  (l.ctx.all fun x => x.2.reads.all fun r => r.cores.isEmpty) &&
    match l.serving with | some v => v.next == burstTotal v.desc | none => true

/-- The markers of a larder of a draining launch, sent once it has nothing left to send. -/
def tryMark (s : State) (n : Nat) : State :=
  match launchBound s n with
  | some l =>
    let x := larderAt s n
    if l.st = .draining ∧ !x.marked ∧ larderSent x then
      (maskClasses l.classMask).foldl (fun s q =>
        let x := larderAt s n
        setLarder s n { x with egress := fmod x.egress q [] (· ++ [markerFlit l n q (larderRow n) (larderCol n)]) })
        (setLarder s n { x with marked := true })
    else s
  | none => s

/-- The markers of the command processor, whose host ingress has stopped. -/
def markHost (s : State) (l : Launch) : State :=
  (maskClasses l.classMask).foldl (fun s q =>
    modUnrid s fun u => { u with egress := fmod u.egress q [] (· ++ [markerFlit l 48 q cmdRow cmdCol]) }) s

/-! ## Bulk reads at the service context (R266, R267) -/

/-- A bulk read refused at its requester. -/
def refuseServing (s : State) (v : Serving) (code : Nat) : State := modCore s (keyOf v.row v.col) fun c => refuseBread c v.tag code

/-- The service context with no bulk read held. -/
def freeService (s : State) (n : Nat) : State :=
  let l := larderAt s n
  let x := lctxAt l 15
  setLarder s n (setLctx { l with serving := none } 15 { x with st := .idle, kind := .none, found := none, stopAsked := false })

/-- The service context once its bursts are answered, with no fault found: the bulk read is done when all are issued or a handler of
it has trapped, and refused when a drain has stopped it (R27, R266, R267). -/
def settleService (s : State) (n : Nat) : State :=
  let l := larderAt s n
  let x := lctxAt l 15
  match l.serving with
  | some v =>
    if !x.reads.isEmpty || x.found.isSome then s
    else if v.next = burstTotal v.desc then freeService s n
    else if breadStopped s v.row v.col v.tag then
      modCore (freeService s n) (keyOf v.row v.col) fun c => stopBread c v.tag v.next
    else if x.stopAsked then refuseServing (freeService s n) v 3
    else s
  | none => s

/-- BREAD_SERVICE_START: the next bulk read in order of arrival, or, under a drain, its refusal (R267). -/
def execBreadServiceStart (n : Nat) (s : State) : Host.Outcome State Fault Refusal :=
  onLctx s n 15 fun l x =>
    let u := larderAt s n
    match u.serving, u.waiting with
    | none, v :: rest =>
      let s := setLarder s n { u with waiting := rest }
      if l.st ≠ .running then refuseServing s v 3
      else
        let u := larderAt s n
        setLarder s n (setLctx { u with serving := some v } 15 { x with st := .run, kind := .none, found := none })
    | _, _ => s

/-- The next burst of the bulk read being served: the sectors that hold its bytes, of a source that is not aligned one more (R263). -/
def issueBurst (s : State) (n : Nat) (l : Launch) (x : LCtx) (v : Serving) : State :=
  let d := v.desc
  let j := burstIndex d v.next
  match burstSpan d j with
  | none => s
  | some (by_, lo, hi) =>
    let va := truncZ ((v.src.toNat % 2 ^ 48 : Nat) + by_ * d.stride + lo) 48
    match bcastPas s l (va / 32 * 32) ((va % 32 + (hi - lo) + 31) / 32) with
    | (_, some (k, _)) => putLctx s n 15 (findFault x k va)
    | (pas, none) =>
      if 64 < outstanding x + pas.length then s
      else
        let r : LRead :=
          { what := .burst j, va := BitVec.ofNat 48 va, pas := pas, data := none, cls := 24, cores := [keyOf v.row v.col], waits := [],
            mine := true }
        let u := larderAt s n
        setLarder s n (setLctx { u with serving := some { v with next := v.next + 1 } } 15 (addRead x r))

/-- LARDER_SECTOR_ISSUE: the next sector of a command, or the next burst of a bulk read (R253, R267). -/
def execLarderSectorIssue (n c : Nat) (s : State) : Host.Outcome State Fault Refusal :=
  onLctx s n c fun l x =>
    if x.st ≠ .run || x.found.isSome || decide (64 ≤ outstanding x) then s
    else if c = 15 then
      match (larderAt s n).serving with
      | some v =>
        if breadStopped s v.row v.col v.tag then settleService s n
        else if v.next < burstTotal v.desc ∧ !x.stopAsked then issueBurst s n l x v
        else s
      | none => s
    else
      match currentCmd x with
      | some m => if x.step < cmdTotal x m then issueSector s n c l x m else s
      | none => s

/-! ## Attic accesses of cores (R234, R405) -/

/-- An answer of a larder to a message of an attic access: an ACK or NACK with the sectors performed (R215, R405). -/
def accessAnswer (s : State) (n : Nat) (a : AtticAccess) (code : Nat) : State :=
  sendLarder s n 27
    [{ payload := payloadOf [(0, a.tag.toNat), (2, code), (4, a.done), (8, 0)],
       side := sideFirst 27 (if code = 0 then 8 else 9) a.row a.col false 0 (larderRow n) (larderCol n) }]

/-- The data of an AREAD message sent to its requester (R405). -/
def accessData (s : State) (n : Nat) (a : AtticAccess) : State :=
  let bs := a.data.flatMap fun d => byteSlice d 0 32
  sendMessage s n a.cls 4 (keyOf a.row a.col)
    (payloadOf [(0, a.loc), (8, bs.length), (12, a.tag.toNat)] :: payloads ((bs.length + 127) / 128) bs)

/-- The operation of an attic access: its core and first tag. -/
def accessOp (a : AtticAccess) : Nat × Nat := (keyOf a.row a.col, a.op)

/-- A message of an attic access that ends. A sector at fault stops the whole operation; of one that is stopped, the last message
clears the note (R405). -/
def endAccess (s : State) (n i : Nat) (a : AtticAccess) (code : Nat) : State :=
  let u := larderAt s n
  let last := a.tag.toNat + 1 == a.op + a.msgs
  let others := u.stoppedOps.filter (· != accessOp a)
  let s := setLarder s n
    { u with accesses := u.accesses.eraseIdx i,
             stoppedOps := if last then others else if code = 0 then u.stoppedOps else others ++ [accessOp a] }
  if a.write then accessAnswer s n a code
  else
    let s := if a.done = 0 then s else accessData s n a
    if code = 0 then s else accessAnswer s n a code

/-- Whether an attic access waits for an earlier one of its core: an operation that the core issued before it and that has not
completed, or an earlier message of its own operation. The order in which their messages arrive is none of it (R234; log entry 40). -/
def accessWaits (s : State) (n : Nat) (a : AtticAccess) : Bool :=
  ((larderAt s n).accesses.any fun b =>
      b.row == a.row && b.col == a.col && b.op == a.op &&
        decide ((b.tag - BitVec.ofNat 16 a.op).toNat < (a.tag - BitVec.ofNat 16 a.op).toNat)) ||
    ((coreAt s (keyOf a.row a.col)).ops.takeWhile fun o => o.tag.toNat != a.op).any fun o => o.kind == .awrite || o.kind == .aread

/-- An AREAD message with its data read, once the larder can send it, or what ends it otherwise. -/
def finishAccess (s : State) (n i : Nat) (a : AtticAccess) (code : Nat) : State :=
  if a.write || a.done = 0 || larderFree s n a.cls then endAccess s n i a code else s

/-- The next sector of an attic access (R27, R234, R405). -/
def accessStep (s : State) (n i : Nat) (write : Bool) : State :=
  let u := larderAt s n
  match u.accesses[i]?, launchBound s n with
  | some a, some l =>
    if s.dev.stopped || a.write != write || accessWaits s n a then s
    else if u.stoppedOps.contains (accessOp a) then endAccess s n i a 6
    else if a.len ≤ 32 * a.done then finishAccess s n i a 0
    else
      match lookup s l (a.va.toNat + 32 * a.done) with
      | .error .nomem => finishAccess s n i a 5
      | .error _ => finishAccess s n i a 6
      | .ok pa =>
        if !write && poisoned s pa then finishAccess s n i a 6
        else
          let s := if write then atticWrite s pa (byteSlice (a.data.getD a.done 0) 0 32) else s
          let a := { a with done := a.done + 1,
                            data := if write then a.data else a.data ++ [BitVec.ofNat 256 (s.attic.readLE pa 32)] }
          let u := larderAt s n
          let s := setLarder s n { u with accesses := u.accesses.set i a }
          if a.len ≤ 32 * a.done then finishAccess s n i a 0 else s
  | _, _ => s

/-- An attic access from its message: the descriptor and its data (R405). -/
def accessOf (f : Flit) (cls : Nat) (write : Bool) (ds : List Flit) : AtticAccess :=
  let bs := ds.flatMap fun d => byteSlice d.payload 0 128
  { row := flitSrow f, col := flitScol f, tag := BitVec.ofNat 16 (dTag f), cls := cls, op := flitField f 24 2, msgs := flitField f 26 2,
    write := write, va := BitVec.ofNat 48 (flitField f 16 8), loc := flitField f 4 4, len := dLen f, done := 0,
    data := if write then (List.range (dLen f / 32)).map fun i => bitsOfBytes 256 ((bs.drop (32 * i)).take 32) else [] }

/-- A WRITE or RDREQ at a larder joins the attic accesses, once the whole of it has come; one whose source lies in no region that the
larder serves is discarded (R405). -/
def larderAccess (s : State) (n cls kind : Nat) : State :=
  let u := larderAt s n
  match s.dev.stopped, fget u.rx cls [] with
  | false, f :: fs =>
    let m := messageSize f - 1
    if flitKind f ≠ kind || fs.length < m then s
    else
      let u := { u with rx := fset u.rx cls (fs.drop m), delivered := if cls < 24 then u.delivered + m + 1 else u.delivered }
      match launchBound s n with
      | some l =>
        if inRegion l (flitSrow f) (flitScol f) then
          setLarder s n { u with accesses := u.accesses ++ [accessOf f cls (kind == 1) (fs.take m)] }
        else setLarder s n u
      | none => setLarder s n u
  | _, _ => s

/-- WRITE_MESSAGE, at a core or, from row 510 on, at larder col (R214, R215, R405). -/
def execWriteMessage (row col : Nat) (cls : BitVec 5) (s : State) : Host.Outcome State Fault Refusal :=
  .next (if 510 ≤ row then larderAccess s col cls.toNat 1 else coreWrite s row col cls)

/-- RDREQ_MESSAGE, at a core or, from row 510 on, at larder col (R402, R405). -/
def execRdreqMessage (row col : Nat) (cls : BitVec 5) (s : State) : Host.Outcome State Fault Refusal :=
  .next (if 510 ≤ row then larderAccess s col cls.toNat 3 else coreRdreq s row col cls)

/-! ## Responses (R27, R249, R251, R252) -/

/-- The message of a transfer towards a core. -/
def transferPayloads (n c : Nat) (bs : List Byte) (p : Nat) : List (BitVec 1024) :=
  [payloadOf [(4, 0), (5, p), (6, srcId n c), (8, bs.length)], bitsOfBytes 1024 bs]

/-- A transfer's data sent to the next of its cores. -/
def sendTransfer (s : State) (n c : Nat) (r : LRead) (bs : List Byte) (key : Nat) : State :=
  match r.what, (larderAt s n).serving with
  | .push p, _ => sendMessage s n r.cls 15 key (transferPayloads n c bs p)
  | .burst j, some v =>
    match burstSpan v.desc j with
    | some (by_, lo, hi) =>
      sendLarder s n 24 (burstFlits (larderRow n) (larderCol n) v.row v.col v.tag (srcId n c) v.desc j by_ lo (hi - lo)
        ((bs.drop (r.va.toNat % 32)).take (hi - lo)))
    | none => s
  | _, _ => s

/-- The first transfer of a context that has a core to go to: what stands before it, it, and the rest. -/
def firstToSend : List LRead → Option (List LRead × LRead × List LRead)
  | [] => none
  | r :: rs =>
    if r.cores.isEmpty then (firstToSend rs).map fun x => (r :: x.1, x.2.1, x.2.2) else some ([], r, rs)

/-- ATTIC_READ_RESPONSE: the oldest sector read goes to its next core, or, poisoned, ends the context; from c = 16 on, an
attic access of a core (R27, R405). -/
def execAtticReadResponse (n c : Nat) (s : State) : Host.Outcome State Fault Refusal :=
  if 16 ≤ c then .next (accessStep s n (c - 16) false)
  else
    onLctx s n c fun _ x =>
      match firstToSend x.reads with
      | none => s
      | some (pre, r, post) =>
        match r.cores with
        | [] => s
        | key :: more =>
          if r.data.isNone && r.pas.any (poisoned s) then putLctx s n c (findFault x .poison r.va.toNat)
          else if !larderFree s n r.cls then s
          else
            let bs := r.data.getD (r.pas.flatMap fun pa => s.attic.readBytes pa 32)
            let r' := { r with data := some bs, cores := more, waits := r.waits ++ [key] }
            tryMark (putLctx (sendTransfer s n c r bs key) n c { x with reads := pre ++ r' :: post }) n

/-- What an answer to a larder is about, by its tag: a sector of WBACK, a SIGNAL, or a PUSH (R252; log entry 14). -/
def answers (tag : Nat) : Transfer → Bool
  | .wback none => tag.testBit 14
  | .wback (some _) => false
  | .signal => tag.testBit 13
  | .push _ | .burst _ => !tag.testBit 14 && !tag.testBit 13

/-- The first transfer of a kind that waits for an answer of a core: what stands before it, it, and the rest. -/
def firstWaiting (key tag : Nat) : List LRead → Option (List LRead × LRead × List LRead)
  | [] => none
  | r :: rs =>
    if r.waits.contains key && answers tag r.what then some ([], r, rs)
    else (firstWaiting key tag rs).map fun x => (r :: x.1, x.2.1, x.2.2)

/-- The valid sectors of a burst of a bulk read (R263, R266). -/
def burstSectors (d : BreadDesc) : Transfer → Nat
  | .burst j => match burstSpan d j with | some (_, lo, hi) => (hi - lo) / 32 | none => 0
  | _ => 0

/-- A transfer answered by a core; it is complete once every core has answered (R255). -/
def answerTransfer (s : State) (n c key tag code : Nat) : State :=
  let x := lctxAt (larderAt s n) c
  match firstWaiting key tag x.reads with
  | none => s
  | some (pre, r, post) =>
    let r := { r with waits := r.waits.erase key }
    let done := (r.waits.isEmpty && r.cores.isEmpty) || (isWback r.what && code != 0)
    let x := { x with reads := pre ++ (if done then [] else [r]) ++ post,
                      elem := if done && r.mine && code == 0 then x.elem + BitVec.ofNat 32 r.pas.length else x.elem }
    let s := putLctx s n c (if code = 0 then x else findFault x .range r.va.toNat)
    if c = 15 then
      let u := larderAt s n
      settleService (setLarder s n
        { u with serving := u.serving.map fun v => { v with sectors := v.sectors + if code = 0 then burstSectors v.desc r.what else 0 } }) n
    else s

/-- An ACK or NACK at a larder: its tag names the context. -/
def larderReply (s : State) (n kind : Nat) : State :=
  let u := larderAt s n
  match s.dev.stopped, fget u.rx 27 [] with
  | false, f :: rest =>
    if flitKind f ≠ kind then s
    else
      answerTransfer (setLarder s n { u with rx := fset u.rx 27 rest }) n (flitField f 0 2 / 256 % 16) (keyOf (flitSrow f) (flitScol f))
        (flitField f 0 2) (flitField f 2 1)
  | _, _ => s

/-- ACK_MESSAGE, at a core or, from row 510 on, at larder col (R215, R252). -/
def execAckMessage (row col : Nat) (s : State) : Host.Outcome State Fault Refusal :=
  .next (if 510 ≤ row then larderReply s col 8 else coreAnswer s row col 8)

/-- NACK_MESSAGE (R216). -/
def execNackMessage (row col : Nat) (s : State) : Host.Outcome State Fault Refusal :=
  .next (if 510 ≤ row then larderReply s col 9 else coreAnswer s row col 9)

/-- An RDRSP at a larder: a sector of WBACK on its way to the attic, found by the number it was asked under, which TOFF returns
(R214, R249). -/
def larderRdrsp (s : State) (n cls : Nat) : State :=
  let u := larderAt s n
  match s.dev.stopped, fget u.rx cls [] with
  | false, f :: d :: rest =>
    if flitKind f ≠ 4 then s
    else
      let c := flitField f 12 2 / 256 % 16
      let s := setLarder s n { u with rx := fset u.rx cls rest, delivered := if cls < 24 then u.delivered + 2 else u.delivered }
      let x := lctxAt (larderAt s n) c
      match x.reads.findIdx? fun r => r.what == .wback none && r.data.isNone && r.id % 2 ^ 32 == dToff f with
      | none => s
      | some i => putLctx s n c { x with reads := x.reads.modify i fun r => { r with data := some (byteSlice d.payload 0 32) } }
  | _, _ => s

/-- RDRSP_MESSAGE, at a core or, from row 510 on, at larder col (R249, R402). -/
def execRdrspMessage (row col : Nat) (cls : BitVec 5) (s : State) : Host.Outcome State Fault Refusal :=
  .next (if 510 ≤ row then larderRdrsp s col cls.toNat else coreRdrsp s row col cls)

/-- ATTIC_WRITE_ACCEPT: the oldest sector of WBACK is written; from c = 16 on, an AWRITE of a core (R260, R405). -/
def execAtticWriteAccept (n c : Nat) (s : State) : Host.Outcome State Fault Refusal :=
  if 16 ≤ c then .next (accessStep s n (c - 16) true)
  else
    onLctx s n c fun _ x =>
      match x.reads.find? fun r => isWback r.what with
      | some r =>
        match r.data, r.pas, r.waits with
        | some bs, pa :: _, key :: _ =>
          let s := atticWrite s pa bs
          let s :=
            match r.what with
            | .wback (some p) => modCore s key fun k => let a := pantryAt k p; setPantry k p { a with fill := a.fill + 1 }
            | _ => s
          putLctx s n c { x with reads := x.reads.erase r, elem := if r.mine then x.elem + 1 else x.elem }
        | _, _, _ => s
      | none => s

/-! ## Faults (R253 to R257) -/

/-- The fault notice of a context at each port that has room for the table, and LFAULT (R256). -/
def writeNotice (s : State) (n c : Nat) : State :=
  let bs := recordBytes (larderFields s (larderAt s n) c)
  let put := fun (s : State) (p : HostPort) =>
    let x := portAt s p
    if x.dumpbuf ≠ 0 ∧ noticeBytes ≤ x.dumplen.toNat then
      hostWrite s p (hostPage x.dumpbuf + (x.dumplen.toNat - noticeBytes) + 128 * (16 * n + c)) bs
    else s
  raiseEvent (put (put s .p0) .p1) evLfault

/-- A command context that takes its fault: FAULT, or ENDED for a data fault; a stop asked for meanwhile applies. FVA is the first
sector not issued: the one that the fault was found at, or, for a fault of a sector on its way, the one after the last issued
(R255). -/
def faultedCtx (s : State) (l : Launch) (x : LCtx) (k : LKind) (va : BitVec 48) : LCtx :=
  let y := leaveCmd s l x
  { y with
    st := if k ≠ .xlate then .ended else if x.stopAsked then .stopped else .fault, kind := k,
    fva := if k = .poison ∨ k = .range then y.fva else va, found := none }

/-- LARDER_FAULT_ENTER: once every sector issued before the fault has been delivered, the fault is taken: by a command
context with its notice; by the service context with its notice, or, a data fault, with the end of the bulk read alone
(R253, R254, R256, R266, R267). -/
def execLarderFaultEnter (n c : Nat) (s : State) : Host.Outcome State Fault Refusal :=
  onLctx s n c fun l x =>
    match x.found with
    | none => s
    | some (k, va) =>
      if !x.reads.isEmpty then s
      else if c ≠ 15 then
        let s := writeNotice (putLctx s n c (faultedCtx s l x k va)) n c
        if k = .xlate then s else modLaunch s l.num fun l => { l with dataFault := true }
      else
        match (larderAt s n).serving with
        | none => freeService s n
        | some v =>
          if k = .xlate ∧ x.stopAsked then refuseServing (freeService s n) v 3
          else if k = .xlate then writeNotice (putLctx s n 15 { x with st := .fault, kind := k, fva := va, found := none }) n 15
          else refuseServing (freeService s n) v 6

/-- LRESUME of a context: none if it is done, else the detail of its refusal (R77, R95, R257). -/
def resumeCtx (s : State) (n c : Nat) : State × Option Nat :=
  let x := lctxAt (larderAt s n) c
  match launchBound s n with
  | some l =>
    if l.st = .running ∧ x.st = .fault then (putLctx s n c { x with st := .run, kind := .none, resumed := some (s.cycle, x.kind) }, none)
    else if x.st = .ended then (s, some 2)
    else (s, some 1)
  | none => (s, some 1)

/-! ## The statistics sink (R193, R268) -/

/-- CALIB_ALARM if a count of a STAT flit exceeds its threshold (R193). -/
def checkStat (s : State) (f : Flit) : State :=
  let g := s.dev.cfg
  let past := fun (k t : Nat) => t != 0 && decide (t < flitField f k 4)
  if past 0 g.satThr || past 4 g.nanThr || past 8 g.uflThr then raiseEvent s evCalib else s

/-- Bytes written at a virtual address, each page's under its own translation; nothing where a page meets a fault. -/
def writeVa (s : State) (l : Launch) (va : Nat) (bs : List Byte) : Option State :=
  let m := min bs.length (4096 - va % 4096)
  match lookup s l va, lookup s l (if m < bs.length then va + m else va) with
  | .ok a, .ok b => some (if m < bs.length then atticWrite (atticWrite s a (bs.take m)) b (bs.drop m) else atticWrite s a bs)
  | _, _ => none

/-- The record of a STAT flit in the ring of the home larder's service context; it may lie in two pages (R268). -/
def recordStat (s : State) (n : Nat) (f : Flit) : State :=
  let x := lctxAt (larderAt s n) 15
  let size := (gOf x 1).toNat
  match launchBound s n with
  | none => s
  | some l =>
    if size = 0 then s
    else
      match writeVa s l ((gOf x 0).toNat + 32 * ((gOf x 2).toNat % size)) (byteSlice f.payload 0 18 ++ leBytes 0 6 ++ leBytes s.cycle 8) with
      | none => s
      | some t => putLctx t n 15 { x with g := fset x.g 2 (gOf x 2 + 1) }

/-- STAT_SINK. -/
def execStatSink (a : Attach) (s : State) : Host.Outcome State Fault Refusal :=
  if s.dev.stopped then .next s
  else
    match a with
    | .larder n =>
      let u := larderAt s n
      match fget u.rx 30 [] with
      | f :: rest => .next (recordStat (checkStat (setLarder s n { u with rx := fset u.rx 30 rest }) f) n f)
      | [] => .next s
    | .cmd =>
      match fget s.unrid.rx 30 [] with
      | f :: rest => .next (checkStat (modUnrid s fun u => { u with rx := fset u.rx 30 rest }) f)
      | [] => .next s
    | .poluri _ => .next s

/-! ## Drain and restore (R89, R94, R240, R267) -/

/-- A command context as a drain begins: it stops; in FAULT it stays as it stands (R95). -/
def drainCtx (s : State) (l : Launch) (x : LCtx) : LCtx :=
  if x.found.isSome then { x with stopAsked := true }
  else match x.st with | .run => stopCtx s l x | .wait => stopCtx s l x | _ => x

/-- A larder as a drain begins. -/
def drainLarder (s : State) (l : Launch) (n : Nat) : State :=
  let u := larderAt s n
  let held := u.waiting
  let u := { u with waiting := [], ctx := u.ctx.map fun e => if e.1 = 15 then (15, { e.2 with stopAsked := true }) else (e.1, drainCtx s l e.2) }
  let s := held.foldl (fun s v => refuseServing s v 3) (setLarder s n u)
  tryMark (settleService s n) n

/-- The larders that a launch binds. -/
def boundLarders (l : Launch) : List Nat := (List.range 48).filter fun n => l.larders.getLsbD n

/-- A context from its record, for a region that is resumed: one in STOPPED runs on (R94, R240, R255). -/
def ctxOfRecord (bs : List Byte) (c : Nat) : LCtx :=
  let f := fieldOf bs
  let g := fun (o k : Nat) => (List.range k).map fun i => (i, BitVec.ofNat 64 (f (o + 8 * i) 8))
  if c = 15 then { g := g 0x60 3 }
  else
    let fl := f 2 1
    settleRing
      { st := (match f 0 1 with | 3 => .fault | 4 => .run | 5 => .ended | _ => .idle),
        kind := (match f 1 1 with | 1 => .xlate | 2 => .poison | 3 => .nomem | 4 => .skew | 5 => .badcmd | 6 => .range | _ => .none),
        ring := fl % 2 == 1, open0 := fl / 2 % 2 == 1, open1 := fl / 4 % 2 == 1, csig := BitVec.ofNat 16 (f 6 2),
        cp := BitVec.ofNat 48 (f 8 8), fva := BitVec.ofNat 48 (f 0x10 8), idx := BitVec.ofNat 64 (f 0x18 8),
        dcore := BitVec.ofNat 32 (f 0x20 4), elem := BitVec.ofNat 32 (f 0x24 4), lc0 := BitVec.ofNat 32 (f 0x28 4),
        lc1 := BitVec.ofNat 32 (f 0x2C 4), lstart0 := BitVec.ofNat 48 (f 0x30 8), lstart1 := BitVec.ofNat 48 (f 0x38 8),
        ringva := BitVec.ofNat 48 (f 0x40 8), logn := 4 + f 0x46 1 % 16, head := BitVec.ofNat 32 (f 0x48 4),
        tail := BitVec.ofNat 32 (f 0x4C 4), g := g 0x50 6, whole := false }

/-- A larder's contexts restored from its part of the larder section; one whose record is that of a translation fault reports it
again, in FAULT or, where it had been stopped, as it runs on with KIND 0 (R94, R240). -/
def restoreLarder (s : State) (n : Nat) (bs : List Byte) : State :=
  (List.range 16).foldl (fun s c =>
    let x := ctxOfRecord (sliceOf bs (128 * c) 128) c
    let s := putLctx s n c x
    if x.kind = .xlate then
      let s := writeNotice s n c
      if x.st = .fault then s else putLctx s n c { x with kind := .none }
    else s) s

end Sys2Proof.Machine
end

