-- ==== Sys2Proof/Machine/Images.lean ====
section
/-! DEFINITION. Program images: the loader's checks, the image table, and the sections that a core's role names (R55 to R60,
R77, R78). -/

namespace Sys2Proof.Machine

/-! ## The checks of the loader (R55 to R58) -/

/-- The first bytes of an image, with its role and section tables: those within the transfer. -/
def imageHead (m : Memory) (a n : Nat) : List Byte := m.readBytes a (min n (0x140 + 32 * 64))

/-- NSECT. -/
def nsect (h : List Byte) : Nat := fieldOf h 0x1C 2

/-- LENGTH. -/
def imageLength (h : List Byte) : Nat := fieldOf h 0x20 8

/-- SIGNED. -/
def imageSigned (h : List Byte) : Bool := fieldOf h 6 2 % 2 == 1

/-- Role entry i. -/
def roleAt (h : List Byte) (i : Nat) : Role :=
  let f := fun o => fieldOf h (0x40 + 16 * i + o) 2
  ⟨f 0, if f 2 = 0xFFFF then none else some (f 2), f 4, f 6, f 8, f 10⟩

/-- Section entry i. -/
def sectionAt (h : List Byte) (i : Nat) : Section :=
  let f := fun o n => fieldOf h (0x140 + 32 * i + o) n
  ⟨f 0 4 == 1, f 4 4, f 8 4, f 16 8⟩

/-- Whether a reserved field or bit is nonzero or a count outside its limits (R58 code 5); so is a KIND other than 1 and 2, a LENGTH
shorter than the header and its tables, and a SIGOFF other than 0 in an unsigned image (DESIGN CHOICE, log entry 41). -/
def badField (h : List Byte) : Bool :=
  let f := fieldOf h
  let nr := f 0x12 1
  let ns := nsect h
  decide (1 < f 6 2) || !zeroAt h 0x13 1 || !zeroAt h 0x17 1 || decide (15 < f 0x18 1) || decide (15 < f 0x1B 1) || !zeroAt h 0x1E 2 ||
    !zeroAt h 0x30 16 || nr == 0 || decide (16 < nr) || ns == 0 || decide (64 < ns) || decide (imageLength h < 0x140 + 32 * ns) ||
    (!imageSigned h && f 0x28 8 != 0) || ((List.range nr).any fun i => !zeroAt h (0x40 + 16 * i + 12) 4) ||
    ((List.range 16).any fun i => decide (nr ≤ i) && !zeroAt h (0x40 + 16 * i) 16) ||
    (List.range ns).any fun i =>
      !zeroAt h (0x140 + 32 * i + 24) 8 || (f (0x140 + 32 * i) 4 != 1 && f (0x140 + 32 * i) 4 != 2)

/-- Whether a role is wrong (R58 code 6). -/
def badRole (h : List Byte) (r : Role) : Bool :=
  let kind := fun (i : Nat) (code : Bool) => decide (i < nsect h) && (sectionAt h i).code == code
  !kind r.code true || (match r.data with | some d => !kind d false | none => false) ||
    decide (fieldOf h 0xE 2 < r.row0 + r.nrows) || decide (fieldOf h 0x10 2 < r.col0 + r.ncols)

/-- Whether a section leaves the image or its target store (R57; R58 code 7); a misaligned code TARGET or SIZE and a data TARGET
below 0x100 count as leaving it (DESIGN CHOICE, log entry 41). -/
def badSection (h : List Byte) (x : Section) : Bool :=
  decide (imageLength h < x.off + x.size) ||
    if x.code then x.target % 8 != 0 || x.size % 8 != 0 || decide (0x1_0000 < x.target + x.size)
    else decide (x.target < 0x100) || decide (0x8_0000 < x.target + x.size)

/-- Whether the signature block of a signed image verifies under an owner key slot (R58 code 10, R60). A block that does not end with the
image, which no code of R58 names, does not verify (DESIGN CHOICE, log entry 41). -/
def imageVerifies (s : State) (m : Memory) (a : Nat) (h : List Byte) : Bool :=
  let off := fieldOf h 0x28 8
  off + sigBytes == imageLength h && blockVerifies s.dev.cfg.owners (m.readBytes a off) (m.readBytes (a + off) sigBytes)

/-- The code of R58 for an image of a transfer of n bytes: the first reason that applies, or 0. A transfer shorter than a header is
code 1 (DESIGN CHOICE, log entry 41). -/
def imageCode (s : State) (m : Memory) (a n : Nat) : Nat :=
  let h := imageHead m a n
  let f := fieldOf h
  let secs := (List.range (nsect h)).map (sectionAt h)
  if n < 0x40 ∨ f 0 4 ≠ 0x4957_4C58 ∨ f 4 2 ≠ 1 ∨ n < imageLength h then 1
  else if f 8 4 ≠ 9140 then 2
  else if f 0xC 2 ≠ s.dev.mapgen.toNat then 3
  else if f 0xE 2 = 0 ∨ 224 < f 0xE 2 ∨ f 0x10 2 = 0 ∨ 384 < f 0x10 2 then 4
  else if badField h then 5
  else if (List.range (f 0x12 1)).any fun i => badRole h (roleAt h i) then 6
  else if secs.any (badSection h) then 7
  else if (List.range (nsect h)).any fun i =>
      let x := sectionAt h i
      crc32c (m.readBytes (a + x.off) x.size) != BitVec.ofNat 32 (f (0x140 + 32 * i + 12) 4) then 8
  else if s.dev.cfg.reqsig && !imageSigned h then 9
  else if imageSigned h && !imageVerifies s m a h then 10
  else 0

/-- An image as the table keeps it. -/
def imageOf (h : List Byte) (store : Nat) : Image :=
  let f := fieldOf h
  { mapgen := BitVec.ofNat 16 (f 0xC 2), rows := f 0xE 2, cols := f 0x10 2, roles := (List.range (f 0x12 1)).map (roleAt h),
    sections := (List.range (nsect h)).map (sectionAt h), classMask := BitVec.ofNat 32 (f 0x14 4), quadBar := BitVec.ofNat 8 (f 0x18 1),
    fieldBar := BitVec.ofNat 8 (f 0x19 1), waferBar := BitVec.ofNat 8 (f 0x1A 1), podBar := BitVec.ofNat 8 (f 0x1B 1), storePa := store,
    len := imageLength h }

/-! ## The image table (R77) -/

/-- Whether every byte of a physical range names memory (R26). -/
def rangeNames (s : State) (a n : Nat) : Bool :=
  (List.range ((a + n - 1) / 2 ^ 42 - a / 2 ^ 42 + 1)).all fun i =>
    let p := a / 2 ^ 42 + i
    match ffind s.expanders p with
    | some e => decide (p < 48) && e.up && decide (min (2 ^ 42) (a + n - 2 ^ 42 * p) ≤ e.capacity)
    | none => false

/-- The lowest free IMAGEID. -/
def freeImage (s : State) : Option Nat := (List.range 64).findSome? fun i => if (ffind s.unrid.images (i + 1)).isNone then some (i + 1) else none

/-- IMAGE_LOAD: refused with the code of R58, or for a full table; else the image is copied to STOREPA, which waits while the wafer
is stopped (R101). A store that names no memory ends the transfer with FAULT. -/
def execImageLoad (k : EntryKey) (s : State) : Host.Outcome State Fault Refusal :=
  onEntry s k 11 fun e =>
    let hw := entryWord e 8
    let p := portOf hw
    let m := (portAt s p).mem
    let n := entryField e 0x10 8
    let store := entryField e 0x18 8
    if hw = 0 then s
    else if !hostUp s p then endEntry s k csAbort 0 0
    else if imageCode s m (hostByte hw) n ≠ 0 then endEntry s k csRefused (imageCode s m (hostByte hw) n) 0
    else
      let h := imageHead m (hostByte hw) n
      match freeImage s with
      | none => endEntry s k csRefused 11 0
      | some i =>
        if s.dev.stopped ∧ s.dev.st ≠ .fatal then s
        else if !rangeNames s store (imageLength h) then endEntry s k csFault (lkindCode .nomem) 0
        else
          let s := atticWrite s store (m.readBytes (hostByte hw) (imageLength h))
          endEntry (modUnrid s fun u => { u with images := fset u.images i (imageOf h store) }) k csOk 0 i

/-- IMAGE_DROP: refused while a launch of the image runs; the residency records of the image go with it. A launch of it that waits for
its region goes on from what its entry found, under no IMAGEID any more (R77, R85; log entry 65). -/
def execImageDrop (k : EntryKey) (s : State) : Host.Outcome State Fault Refusal :=
  onEntry s k 11 fun e =>
    let i := entryField e 0x20 2
    if entryWord e 8 ≠ 0 then s
    else if (ffind s.unrid.images i).isNone then endEntry s k csBadEntry 0 0
    else if s.unrid.launches.any fun l => launchHasRegion l && l.image == i then endEntry s k csRefused 12 0
    else
      let s := modUnrid s fun u =>
        { u with images := fdel u.images i, launches := u.launches.map fun l => if l.image = i then { l with image := 0 } else l }
      endEntry { s with cores := s.cores.map fun c => (c.1, { c.2 with resident := c.2.resident.filter fun r => r.1 ≠ i }) } k csOk 0 0

/-! ## Sections in cores (R56, R78) -/

/-- The role of a core: the lowest-numbered one whose rectangle holds it. -/
def roleOf (i : Image) (row col : Nat) : Option Role :=
  i.roles.find? fun r => decide (r.row0 ≤ row) && decide (row < r.row0 + r.nrows) && decide (r.col0 ≤ col) && decide (col < r.col0 + r.ncols)

/-- A byte of an image's store; one that cannot be read is free. -/
def storeByte (s : State) (a : Nat) : Byte :=
  if namesMemory s a && !poisoned s a then s.attic.read a else Config.freeByte s.freeCtr a

/-- The contents of a section. -/
def sectionBytes (s : State) (i : Image) (x : Section) : List Byte := (List.range x.size).map fun j => storeByte s (i.storePa + x.off + j)

/-- Whether a resident section keeps its place when a range of the instruction store is loaded. -/
def keepsPlace (s : State) (a n : Nat) (r : Nat × Nat) : Bool :=
  match (ffind s.unrid.images r.1).bind fun i => i.sections[r.2]? with
  | some x => decide (x.target + x.size ≤ a) || decide (a + n ≤ x.target)
  | none => false

/-- A core with a code section loaded, unless its instruction store holds it already. Of an image that has been dropped, id 0, no
residency is recorded. -/
def loadCode (s : State) (id : Nat) (i : Image) (n : Nat) (c : Core) : Core :=
  match i.sections[n]? with
  | none => c
  | some x =>
    if c.resident.contains (id, n) then c
    else
      { c with istore := c.istore.writeBytes x.target (sectionBytes s i x),
               resident := (c.resident.filter (keepsPlace s x.target x.size)) ++ if id = 0 then [] else [(id, n)] }

/-- A core with a data section loaded. -/
def loadData (s : State) (i : Image) (n : Nat) (c : Core) : Core :=
  match i.sections[n]? with
  | none => c
  | some x => { c with sram := c.sram.writeBytes x.target (sectionBytes s i x) }

/-- A core with the sections of its role loaded, and the address at which it starts. -/
def loadRole (s : State) (l : Launch) (i : Image) (row col : Nat) (c : Core) : Core × Option (BitVec 16) :=
  match roleOf i row col with
  | none => (c, none)
  | some r =>
    let c := loadCode s l.image i r.code c
    let c := match r.data with | some d => if l.lflags.getLsbD 2 then c else loadData s i d c | none => c
    (c, some (BitVec.ofNat 16 (match i.sections[r.code]? with | some x => x.target | none => 0)))

end Sys2Proof.Machine
end

