-- ==== Sys2Proof/Machine/Launches.lean ====
section
/-! DEFINITION. Launches: the checks, regions and their grant, launch numbers and handles, loading and restoring, quiescence,
pre-emption and saves, and the activity forecast (R78, R79, R81, R84 to R95, R117, R123). -/

namespace Sys2Proof.Machine

/-! ## The entry (R78) -/

/-- Whether a LAUNCH entry fails the checks of R78. -/
def badLaunch (s : State) (e : Entry) : Bool :=
  match ffind s.unrid.images (entryField e 8 2) with
  | none => true
  | some i =>
    decide (224 < entryField e 0xA 2 + i.rows) || decide (384 < entryField e 0xC 2 + i.cols) || i.mapgen != s.dev.mapgen

/-- The launch of an entry, waiting for its region. -/
def launchOfEntry (s : State) (e : Entry) (i : Image) : Launch :=
  let f := entryField e
  let orDefault := fun (v d : Nat) => if v = 0 then d else v
  { key := e.key, num := 0, st := .waitRegion, image := f 8 2, orgRow := f 0xA 2, orgCol := f 0xC 2, rows := i.rows, cols := i.cols,
    prio := BitVec.ofNat 2 (f 0xE 1), lflags := BitVec.ofNat 8 (f 0xF 1), argAddr := entryWord e 0x10, actx := f 0x18 2,
    larders := BitVec.ofNat 48 (f 0x1A 6), stallLim := orDefault (f 0x20 4) s.dev.cfg.stallLim,
    preemptLim := orDefault (f 0x24 4) s.dev.cfg.preemptLim, saveVa := entryWord e 0x28, classMask := i.classMask,
    quadBar := i.quadBar, fieldBar := i.fieldBar, waferBar := i.waferBar, podBar := i.podBar, stalls := [], dataFault := false,
    sweep := none, drainAt := 0, frozenAt := 0, preemptKey := none, preemptSave := 0, img := some i }

/-- LAUNCH: BAD_ENTRY, or the launch waits for its region. -/
def execLaunch (k : EntryKey) (s : State) : Host.Outcome State Fault Refusal :=
  onEntry s k 1 fun e =>
    if badLaunch s e then endEntry s k csBadEntry 0 0
    else if s.dev.st = .fatal then endEntry s k csAbort 0 0
    else
      match ffind s.unrid.images (entryField e 8 2) with
      | some i => setEntry (modUnrid s fun u => { u with launches := u.launches ++ [launchOfEntry s e i] }) k .active
      | none => s

/-! ## The grant (R79, R84, R94, R117, R239) -/

/-- The rectangle of a launch. -/
def rectOf (l : Launch) : Nat × Nat × Nat × Nat := (l.orgRow, l.orgCol, l.rows, l.cols)

/-- Whether two launches may not hold their regions together: overlapping regions, or a wafer or pod barrier id of both. -/
def clash (a b : Launch) : Bool := rectsMeet (rectOf a) (rectOf b) || a.waferBar &&& b.waferBar != 0 || a.podBar &&& b.podBar != 0

/-- How far a queue comes after the last one granted. -/
def turnOfQueue (s : State) (l : Launch) : Nat := (l.key.queue + 1023 - s.unrid.lastGrant) % 1024

/-- Whether one waiting launch is granted before another: higher PRIO, then the queue's turn, then the earlier entry. -/
def grantedBefore (s : State) (a b : Launch) : Bool :=
  if a.prio ≠ b.prio then decide (b.prio.toNat < a.prio.toNat)
  else if turnOfQueue s a ≠ turnOfQueue s b then decide (turnOfQueue s a < turnOfQueue s b)
  else decide (a.key.seq < b.key.seq)

/-- Whether a waiting launch may be granted its region. -/
def mayGrant (s : State) (l : Launch) : Bool :=
  s.unrid.launches.all fun o =>
    o.key == l.key || !clash l o || (decide (o.st = .waitRegion) && grantedBefore s l o)

/-- Whether a larder named by a launch is bound to another. -/
def larderTaken (s : State) (l : Launch) : Bool := (boundLarders l).any fun n => (larderAt s n).launch.isSome

/-- A byte of a save area, under the context of a launch; one that cannot be read is free. -/
def saveByte (s : State) (l : Launch) (va : Nat) : Byte :=
  match lookup s l va with
  | .ok pa => if poisoned s pa then Config.freeByte s.freeCtr va else s.attic.read pa
  | .error _ => Config.freeByte s.freeCtr va

/-- Bytes of a save area. -/
def saveBytes (s : State) (l : Launch) (va n : Nat) : List Byte := (List.range n).map fun i => saveByte s l (va + i)

/-- Whether the region header at SAVEVA fits the image (R94). -/
def headerOk (s : State) (l : Launch) : Bool :=
  match lookup s l l.saveVa.toNat with
  | .error _ => false
  | .ok _ =>
    let h := saveBytes s l (wfield l.saveVa 0 48) 4096
    let f := fieldOf h
    f 0 4 == 0x5641_5358 && f 4 4 == 1 && f 0xFFF 1 == 0xA5 && f 0x10 2 == l.rows && f 0x12 2 == l.cols &&
      f 0x14 4 == l.classMask.toNat

/-- The detail with which a launch is refused at its grant, if it is (R85). -/
def grantRefusal (s : State) (l : Launch) : Option Nat :=
  if (regionKeys l).any fun k => unavailable s.dev (rowOf k) (colOf k) then some 13
  else if l.lflags.getLsbD 1 && !headerOk s l then some 14
  else if larderTaken s l then some 15
  else none

/-- The next launch number: modulo 4,096, skipping 0 and those of running launches (R117). -/
def nextNumber (s : State) : Nat :=
  (((List.range 4096).map fun i => (s.unrid.lastNum + 1 + i) % 4096).find? fun n =>
    n != 0 && !s.unrid.launches.any fun l => l.num == n).getD 0

/-- The smallest exponent whose power of two reaches a number. -/
def coverExp (n : Nat) : Nat := ((List.range 10).find? fun e => decide (n ≤ 2 ^ e)).getD 9

/-- The handle minted for a launch: its region, all four rights, its number and the seal (R116, R117). -/
def mintHandle (s : State) (l : Launch) : Word :=
  let top : BitVec 40 :=
    BitVec.ofNat 40 (l.orgRow * 2 ^ 32 + l.orgCol * 2 ^ 23 + (10 * coverExp l.rows + coverExp l.cols) * 2 ^ 16 + 0xF * 2 ^ 12 + l.num % 4096)
  top ++ Config.sealOf s.dev.sealKey top

/-- REGION_GRANT: the region, its number and its larders, and loading begins; or REFUSED, which leaves the queue last granted as it
was (R79, R85; DESIGN CHOICE, log entry 42). -/
def execRegionGrant (k : EntryKey) (s : State) : Host.Outcome State Fault Refusal :=
  match s.unrid.launches.find? fun l => l.key = k ∧ l.st = .waitRegion with
  | none => .next s
  | some l =>
    if s.dev.st = .fatal || !mayGrant s l then .next s
    else
      match grantRefusal s l with
      | some d => .next (modUnrid (endEntry s k csRefused d 0) fun u => { u with launches := u.launches.filter fun x => x.key ≠ k })
      | none =>
        let n := nextNumber s
        let s := modUnrid s fun u =>
          { u with lastNum := n, lastGrant := k.queue,
                   launches := u.launches.map fun x => if x.key = k then { x with st := .loading, num := n } else x }
        .next ((boundLarders l).foldl (fun s i => setLarder s i { unbindLarder (larderAt s i) with launch := some n }) s)

/-! ## Restoring a core (R93, R94) -/

/-- A binding from its 16 bytes. -/
def bindOf (f : Nat → Nat → Nat) : QBind :=
  match f 0 1 with
  | 1 => .inQ (BitVec.ofNat 5 (f 1 1))
  | 2 => .outQ (BitVec.ofNat 5 (f 1 1)) (f 4 2) (f 6 2) (BitVec.ofNat 64 (f 8 8))
  | 3 => .pantry (f 2 1) (f 3 1)
  | 4 => .larder (f 2 1) (f 3 1)
  | 5 => .cap (BitVec.ofNat 64 (f 8 8))
  | _ => .unbound

/-- A scope from its number. -/
def scopeOf (n : Nat) : Scope :=
  match n with
  | 0 => .lane
  | 1 => .core
  | 2 => .quad
  | 3 => .field
  | 4 => .wafer
  | _ => .pod

/-- A wait from the pending-wait word. -/
def waitOf (v : Nat) : Wait :=
  match v % 8 with
  | 1 => .instr
  | 2 => .barrier (scopeOf (v / 8 % 8)) (BitVec.ofNat 3 (v / 64))
  | 3 => .gang (v / 8 % 2 == 1)
  | 4 => .met
  | _ => .run

/-- A routing entry as a router holds it: bits [31:30] are reserved, read 0 and are ignored where they are written (R5, R153). -/
def routeBits (v : Nat) : BitVec 32 := BitVec.ofNat 32 v &&& 0x3FFF_FFFF#32

/-- Numbers at consecutive places of a record as a map. -/
def numMap {α : Type} (n : Nat) (f : Nat → α) : FMap α := (List.range n).map fun i => (i, f i)

/-- The registers of a record: f gives its numbers by offset and size. -/
def regsOf (f : Nat → Nat → Nat) : Regs :=
  { x := numMap 64 fun i => BitVec.ofNat 64 (f (8 * i) 8), v := numMap 32 fun i => BitVec.ofNat 512 (f (0x200 + 64 * i) 64),
    f := numMap 8 fun i => BitVec.ofNat 16 (f (0xA00 + 2 * i) 2),
    lc := numMap 2 fun i => ⟨BitVec.ofNat 32 (f (0xA10 + 8 * i) 4), BitVec.ofNat 16 (f (0xA14 + 8 * i) 2), BitVec.ofNat 16 (f (0xA16 + 8 * i) 2)⟩,
    a := numMap 4 fun i =>
      ⟨numMap 256 fun k => BitVec.ofNat 48 (f (0xA40 + 2056 * i + 8 * k) 8), BitVec.ofNat 10 (f (0xA40 + 2056 * i + 2048) 8)⟩,
    t := numMap 8 fun i =>
      let st := f (0x2A60 + 648 * i + 640) 8
      ⟨st % 2 == 1, st / 8 % 2 == 1, (match st / 2 % 4 with | 0 => .p2 | 1 => .p4 | _ => .p8),
        numMap 16 fun k => BitVec.ofNat 320 (f (0x2A60 + 648 * i + 40 * k) 40)⟩,
    q := numMap 16 fun i => bindOf fun o n => f (0x90A0 + 16 * i + o) n }

/-- Handler context i of a record. -/
def handlerOf (f : Nat → Nat → Nat) (i : Nat) : Handler :=
  let g := fun o n => f (0x3EA0 + 288 * i + o) n
  { busy := g 272 8 % 2 == 1, y := numMap 16 fun k => BitVec.ofNat 64 (g (8 * k) 8), w := numMap 2 fun k => BitVec.ofNat 512 (g (128 + 64 * k) 64),
    bix := BitVec.ofNat 32 (g 256 4), bxc := BitVec.ofNat 32 (g 260 4), byc := BitVec.ofNat 32 (g 264 4), bcnt := BitVec.ofNat 16 (g 268 2),
    pc := BitVec.ofNat 16 (g 270 2), tag := g 272 8 / 256 % 8 }

/-- The bursts of a record. -/
def burstsOf (f : Nat → Nat → Nat) : List Burst :=
  (List.range 8).filterMap fun i =>
    let g := fun o n => f (0x47A0 + 160 * i + o) n
    if g 142 2 < 2 ^ 15 then none
    else
      some ⟨g 142 2 % 8, BitVec.ofNat 32 (g 128 4), BitVec.ofNat 32 (g 132 4), BitVec.ofNat 32 (g 136 4), BitVec.ofNat 16 (g 140 2),
        BitVec.ofNat 1024 (g 0 128)⟩

/-- The inbound queues of a record: a flit's sideband names its class, so 0 stands for no flit but in class 0. -/
def queuesOf (f : Nat → Nat → Nat) : FMap (List Flit) :=
  (numMap 32 fun q => (List.range 4).filterMap fun i =>
    let a := 0x4CA0 + 544 * q + 136 * i
    if (if q = 0 then decide (i < f 0xA38 1) else f (a + 128) 8 != 0) then
      some ({ payload := BitVec.ofNat 1024 (f a 128), side := BitVec.ofNat 64 (f (a + 128) 8) } : Flit)
    else none).filter fun e => !e.2.isEmpty

/-- The tasks of a record and the one that runs; the ready ones in the order in which they became ready. -/
def tasksOf (f : Nat → Nat → Nat) : FMap Task × Option Nat :=
  let g := fun (i o n : Nat) => f (0x91A0 + 16 * i + o) n
  ((List.range 32).filterMap fun i =>
      let st := g i 5 1
      if st % 2 = 0 then none
      else
        some (i, { entry := BitVec.ofNat 16 (g i 0 2), pc := BitVec.ofNat 16 (g i 2 2), prio := BitVec.ofNat 2 (g i 4 1),
                   onEvent := st / 2 % 2 == 1, k := BitVec.ofNat 5 (g i 6 1), again := st / 8 % 2 == 1,
                   readyAt := if st / 4 % 2 = 1 then some (g i 12 4) else none, waits := g i 8 4 }),
    (List.range 32).find? fun i => g i 5 1 % 2 == 1 && g i 5 1 / 16 % 2 == 1)

/-- The system registers of a record, but for those that the new launch gives; reserved bits are ignored (R5). -/
def sysOf (f : Nat → Nat → Nat) (y : Sys) : Sys :=
  let w := fun n => BitVec.ofNat 64 (f (0x9520 + 8 * n) 8)
  { y with
    idle := (w 0).getLsbD 5, mode := (w 0).getLsbD 0, pmode := (w 0).getLsbD 1, vecen := (w 1).getLsbD 0, vec := (w 1).extractLsb' 3 13,
    evflags := (w 3).setWidth 32, cause := w 4 &&& causeMask, trappc := (w 5).extractLsb' 3 13 ++ 0#3, trapval := w 6, fpflags := (w 8).setWidth 5,
    precise := (w 9).getLsbD 0, det := (w 0xA).getLsbD 0, satcnt := (w 0xE).setWidth 32, nancnt := (w 0xF).setWidth 32, uflcnt := (w 0x10).setWidth 32,
    ecccnt := (w 0x11).setWidth 16, scratch := numMap 4 fun i => w (0x12 + i),
    seg := numMap 8 fun i =>
      ⟨(w (0x18 + i)).getLsbD 0, (w (0x18 + i)).extractLsb' 12 7, (w (0x20 + i)).extractLsb' 12 8, (w (0x20 + i)).extractLsb' 32 3⟩,
    dbgpc := numMap 4 fun i => (w (0x28 + i)).setWidth 23, dbgwa := numMap 2 fun i => (w (0x2C + i)).setWidth 25 }

/-- A core restored from its record: f gives the numbers of its core state, g its bytes from the start. A handler trap held when the
core was saved has no place in the record and is lost, and so have the floors of TSEND and of merges, the depths and what has been merged,
which are cleared, and the chunk counters, which stay the core's own (R93, R141, R200, R376; DESIGN CHOICE, log entry 16). -/
def restoreCore (k : Nat) (f : Nat → Nat → Nat) (g : Nat → Nat → List Byte) (c : Core) : Core :=
  let ts := tasksOf f
  let st := f 0x9520 8
  { c with
    regs := regsOf f, sys := sysOf f c.sys, pc := BitVec.ofNat 16 (f 0xA20 8), running := ts.2, wait := waitOf (f 0xA28 8), halted := false,
    gang := if st / 4 % 2 = 1 then some { groupOf k (st / 16 % 2 == 1) with leader := st / 8 % 2 == 1 } else none,
    tasks := ts.1, stamp := ts.1.foldl (fun m t => max m (t.2.readyAt.getD 0 + 1)) 0, landed := {}, own := 0xFF, handlers := numMap 8 (handlerOf f),
    bursts := burstsOf f, lastIssue := 0, pending := [], held := none, watch := [], sram := c.sram.writeBytes 0 (g 0 0x80000),
    istore := c.istore.writeBytes 0 (g 0x80000 0x10000), runsCode := true, resident := [], queues := queuesOf f,
    cellar := if f 0xA34 4 = 0 then none else some (BitVec.ofNat 19 (f 0xA30 4), f 0xA34 4),
    pantries := numMap 8 fun i =>
      let p := fun o n => f (0x93A0 + 32 * i + o) n
      ⟨BitVec.ofNat 19 (p 0 4), p 4 1, p 5 1 % 2 == 1, p 5 1 / 2 % 2 == 1, BitVec.ofNat 32 (p 8 4), BitVec.ofNat 32 (p 12 4), BitVec.ofNat 32 (p 16 4), 0⟩,
    opens := [], behind := [], routes := numMap 24 fun q => routeBits (f (0x94A0 + 4 * q) 4), arrivals := BitVec.ofNat 24 (f 0x9920 8),
    fencing := [], sleep := .awake, frozen := false, draining := false, markers := [], nodeFloor := [], sendFloor := [], depth := [], merged := [] }

/-- The registers of a region in one of its cores: the origin, the shape, PRIO and the capability (R81, R94, R117). -/
def giveRegion (l : Launch) (cap : Word) (c : Core) : Core :=
  { c with
    sys := { c.sys with orgRow := BitVec.ofNat 9 l.orgRow, orgCol := BitVec.ofNat 9 l.orgCol, rows := BitVec.ofNat 9 l.rows,
                        cols := BitVec.ofNat 9 l.cols, prio := l.prio, capself := cap } }

/-- Where the record of the i-th core of a region begins in a save. -/
def recordAt (l : Launch) (i : Nat) : Nat := wfield l.saveVa 0 48 + 102400 + recordSize * i

/-- A region restored: every core from its record, and the larder contexts (R91, R94). A core of no role runs no code. -/
def restoreRegion (s : State) (l : Launch) (i : Image) : State :=
  let s' := (regionKeys l).zipIdx.foldl (fun t k =>
    let a := recordAt l k.2
    let f := fun o n => leNat (saveBytes s l (a + stateBase + o) n)
    modCore t k.1 fun c =>
      let c := giveRegion l (mintHandle s l) (restoreCore k.1 f (fun o n => saveBytes s l (a + o) n) c)
      refreshReady { c with runsCode := (roleOf i (rowOf k.1 - l.orgRow) (colOf k.1 - l.orgCol)).isSome }) s
  (boundLarders l).foldl (fun t n => restoreLarder t n (saveBytes s l (wfield l.saveVa 0 48 + 4096 + 2048 * n) 2048)) s'

/-! ## Loading (R78, R123) -/

/-- The bytes of the argument block; those of an attic block that cannot be read are free. -/
def argBytes (s : State) (l : Launch) : List Byte :=
  if l.argAddr = 0 then List.replicate 256 0
  else if l.argAddr.getLsbD 63 then saveBytes s l (wfield l.argAddr 0 48) 256
  else hostRead s (portOf l.argAddr) (hostByte l.argAddr) 256

/-- Whether an argument block lies in host memory behind a port whose link is down (R30). -/
def argLost (s : State) (l : Launch) : Bool :=
  l.argAddr != 0 && !l.argAddr.getLsbD 63 && !l.lflags.getLsbD 1 && !hostUp s (portOf l.argAddr)

/-- A core of a region loaded and started. -/
def loadCore (s : State) (l : Launch) (i : Image) (k : Nat) (c : Core) : Core :=
  let r := loadRole s l i (rowOf k - l.orgRow) (colOf k - l.orgCol) c
  startCore { r.1 with sram := r.1.sram.writeBytes 0 (argBytes s l) } (l.lflags.getLsbD 0) l.orgRow l.orgCol l.rows l.cols l.prio
    (mintHandle s l) r.2

/-- LAUNCH_LOAD_COMPLETE: every core of the region holds what it needs, and the tasks start (R78, R85). -/
def execLaunchLoadComplete (num : Nat) (s : State) : Host.Outcome State Fault Refusal :=
  match launchNum s num with
  | none => .next s
  | some l =>
    if s.dev.stopped || faulted s num || l.st != .loading then .next s
    else if argLost s l then .next (endLaunch s l csAbort 0 0 (csAbort, 0))
    else
      match l.img with
      | none => .next s
      | some i =>
        let s := if l.lflags.getLsbD 1 then restoreRegion s l i else (regionKeys l).foldl (fun t k => modCore t k (loadCore s l i k)) s
        .next (modLaunch { s with freeCtr := s.freeCtr + 1 } num fun l => { l with st := .running, sweep := none })

/-! ## Quiescence and drain (R86, R89, R90) -/

/-- Whether what a core's running task waits for is still to come; in a gang, for one member or more. A wait that is over is no stall:
the task goes on at its next issue (R86, R133, R391). -/
def stillWaits (s : State) (c : Core) : Bool :=
  match c.gang with
  | none => !waitEnded c (fetchAt c .main) c.wait
  | some g =>
    let lead := coreAt s (keyOf g.row g.col)
    (gangKeys g).any fun k => !waitEnded (coreAt s k) (fetchAt lead .main) lead.wait

/-- Whether a core is quiet (R86, R103, R328). -/
def isQuiet (s : State) (c : Core) : Bool :=
  (nextTask (refreshReady c)).isNone && (c.running.isNone || atSwitchPoint s c && stillWaits s c) && !(c.handlers.any fun h => h.2.busy) && c.bursts.isEmpty &&
    c.ops.isEmpty && c.breads.isEmpty && c.caps.isEmpty && (c.queues.all fun q => q.2.isEmpty) && (cellarEntries c).isEmpty &&
    !c.halted && !isGated c

/-- Whether a larder context counts as having executed STOP (R240): none while a fault of a sector it has issued is still to be taken
(R27, R254). -/
def ctxDone (x : LCtx) : Bool :=
  x.found.isNone &&
    match x.st with
    | .idle => true
    | .stopped => true
    | .ended => true
    | .wait => ringEmpty x
    | _ => false

/-- Whether no context of a launch's larders has a fault still to be taken: a save holds those that have arisen (R27, R91, R255). -/
def faultsTaken (s : State) (l : Launch) : Bool := (boundLarders l).all fun n => (larderAt s n).ctx.all fun x => x.2.found.isNone

/-- Whether every context of a launch's larders counts as stopped, and nothing of theirs is under way. -/
def lardersDone (s : State) (l : Launch) : Bool :=
  (boundLarders l).all fun n =>
    let u := larderAt s n
    (u.ctx.all fun x => decide (x.1 = 15) || ctxDone x.2) && (u.ctx.all fun x => x.2.reads.isEmpty) && u.serving.isNone && u.waiting.isEmpty

/-- The sums of injections and deliveries of a region (R86). -/
def regionSums (s : State) (l : Launch) : Nat × Nat :=
  let a := (regionKeys l).foldl (fun t k => let c := coreAt s k; (t.1 + c.injected, t.2 + c.delivered)) (0, 0)
  (boundLarders l).foldl (fun t n => let u := larderAt s n; (t.1 + u.injected, t.2 + u.delivered)) a

/-- The detail of a launch that has quiesced (R86). -/
def quietDetail (s : State) (l : Launch) : Nat :=
  let any := fun (p : Core → Bool) => (regionKeys l).any fun k => p (coreAt s k)
  bitN (any fun c => c.running.isSome) + 2 * bitN (!l.stalls.isEmpty) + 4 * bitN l.dataFault + 8 * bitN (any fun c => c.held.isSome)

/-- Whether a sweep finds every core quiet, the larders done and the sums equal (R86). -/
def regionStill (s : State) (l : Launch) : Bool :=
  ((regionKeys l).all fun k => isQuiet s (coreAt s k)) && lardersDone s l && (regionSums s l).1 == (regionSums s l).2

/-- A sweep of a running launch: two in a row with every core quiet and the sums equal and unchanged complete it. -/
def sweepRunning (s : State) (l : Launch) : State :=
  let sums := regionSums s l
  let still := regionStill s l
  if still && l.sweep == some sums then endLaunch s l csOk (quietDetail s l) 0 (csRefused, 1)
  else modLaunch s l.num fun l => { l with sweep := if still then some sums else none }

/-- A sweep of a draining launch: larders that have sent everything mark it, cores that can freeze do, and two sweeps in a
row with every core frozen and the sums balanced begin the save (R89). -/
def sweepDraining (s : State) (l : Launch) : State :=
  let s := (boundLarders l).foldl (fun s n => tryMark (settleService s n) n) s
  let s := (regionKeys l).foldl (fun s k => tryFreeze s l k) s
  let sums := regionSums s l
  let still := ((regionKeys l).all fun k => (coreAt s k).frozen) && faultsTaken s l && sums.1 == sums.2
  if still && l.sweep == some sums then modLaunch s l.num fun l => { l with st := .saving, sweep := none, frozenAt := s.cycle }
  else modLaunch s l.num fun l => { l with sweep := if still then some sums else none }

/-- Whether a sweep falls in the cycle of a PREEMPT and finds the region quiescent: the sweep goes first (R95). -/
def quietFirst (s : State) (l : Launch) : Bool :=
  l.drainCycle == s.cycle && l.sweepWas == some (regionSums s l) && regionStill s l

/-- QUIESCENCE_SWEEP (R86, R89). A region at fault is past quiescing (R85, R97). -/
def execQuiescenceSweep (num : Nat) (s : State) : Host.Outcome State Fault Refusal :=
  match launchNum s num with
  | none => .next s
  | some l =>
    if s.dev.stopped || faulted s num then .next s
    else
      match l.st with
      | .running => .next (sweepRunning s l)
      | .draining =>
        if quietFirst s l then .next (endLaunch s l csOk (quietDetail s l) 0 (csRefused, 1)) else .next (sweepDraining s l)
      | _ => .next s

/-! ## Pre-emption (R77, R89, R91, R92, R95) -/

/-- A launch that begins to drain: its timer, its cores, its larders and the host's ingress. -/
def beginDrain (s : State) (l : Launch) (k : EntryKey) (save : Word) : State :=
  let s := modLaunch s l.num fun l =>
    { l with st := .draining, drainAt := s.live, sweep := none, preemptKey := some k, preemptSave := save, drainCycle := s.cycle,
             sweepWas := l.sweep }
  let s := (regionKeys l).foldl (fun s k => modCore s k fun c => { c with draining := true }) s
  let s := (boundLarders l).foldl (fun s n => drainLarder s l n) s
  markHost s l

/-- PREEMPT (R77, R89). -/
def execPreempt (k : EntryKey) (s : State) : Host.Outcome State Fault Refusal :=
  onEntry s k 8 fun e =>
    if s.dev.st = .fatal then endEntry s k csAbort 0 0
    else
      match s.unrid.launches.find? fun l => l.key = ⟨entryField e 8 2, entryField e 0x10 8⟩ with
      | none => endEntry s k csRefused 1 0
      | some l =>
        match l.st with
        | .running => setEntry (beginDrain s l k (entryWord e 0x18)) k .active
        | .draining => endEntry s k csRefused 2 0
        | .saving => endEntry s k csRefused 2 0
        | _ => endEntry s k csRefused 1 0

/-- PREEMPT_BOUND_EXPIRY (R89). -/
def execPreemptBoundExpiry (num : Nat) (s : State) : Host.Outcome State Fault Refusal :=
  match launchNum s num with
  | some l =>
    if !s.dev.stopped && !faulted s num && l.st == .draining && decide (l.drainAt + l.preemptLim ≤ s.live) then
      .next (regionFault s num causePreempt 0xFFFF 0xFFFF)
    else .next s
  | none => .next s

/-- The save size of a region in KiB (R91). -/
def saveSize (rows cols : Nat) : Nat := 100 + 640 * rows * cols

/-- The region header (R92). -/
def headerFields (s : State) (l : Launch) : List RecField :=
  [(0, 4, 0x5641_5358), (4, 4, 1), (8, 2, l.image), (0xA, 2, s.dev.mapgen.toNat), (0xC, 2, l.orgRow), (0xE, 2, l.orgCol), (0x10, 2, l.rows),
   (0x12, 2, l.cols), (0x14, 4, l.classMask.toNat), (0x18, 1, l.prio.toNat), (0x19, 1, l.lflags.toNat),
   (0x1C, 4, l.quadBar.toNat % 16 + 2 ^ 4 * l.fieldBar.toNat + 2 ^ 12 * l.waferBar.toNat + 2 ^ 20 * (l.podBar.toNat % 16)),
   (0x20, 8, l.frozenAt), (0xFFF, 1, 0xA5)]

/-- The larder section: the records of the launch's contexts, those of unbound ones 0; a service context as IDLE with g0
to g2 (R91, R267). -/
def larderSection (s : State) (l : Launch) (m : Memory) : Memory :=
  (boundLarders l).foldl (fun m n =>
    (List.range 16).foldl (fun m c =>
      let x := lctxAt (larderAt s n) c
      writeFields m (4096 + 2048 * n + 128 * c)
        (if c = 15 then (List.range 3).map fun g => (0x60 + 8 * g, 8, (gOf x g).toNat) else larderFields s (larderAt s n) c)) m) m

/-- A save, from its first byte on (R91 to R93). -/
def saveImage (s : State) (l : Launch) : Memory :=
  let m := larderSection s l (writeFields Memory.empty 0 (headerFields s l))
  (regionKeys l).zipIdx.foldl (fun m k => writeRecord m (102400 + recordSize * k.2) (coreAt s k.1) s.cycle) m

/-- The 4 KiB pages of a save written to the attic; none if one has no translation or names no memory: then nothing of the save is
written (R91; DESIGN CHOICE, log entry 16). -/
def writeSave (s : State) (l : Launch) (m : Memory) : Nat → Option State
  | 0 => some s
  | n + 1 =>
    match writeSave s l m n, lookup s l (wfield l.preemptSave 0 48 + 4096 * n) with
    | some t, .ok pa => some (atticWrite t pa (m.readBytes (4096 * n) 4096))
    | _, _ => none

/-- SAVE_COMPLETE: the save is written, which takes the queues' contents with it, and the launch ends PREEMPTED; a fault in the save area aborts the region (R91). -/
def execSaveComplete (num : Nat) (s : State) : Host.Outcome State Fault Refusal :=
  match launchNum s num with
  | some l =>
    if s.dev.stopped || faulted s num || l.st != .saving then .next s
    else
      match writeSave s l (saveImage s l) (saveSize l.rows l.cols / 4) with
      | some s =>
        let s := (regionKeys l).foldl (fun s k => modCore s k fun c => { c with queues := [] }) s
        .next (endLaunch s l csPreempted 0 (saveSize l.rows l.cols) (csOk, 0))
      | none => .next (regionFault s num causePreempt 0xFFFF 0xFFFF)
  | none => .next s

/-! ## The forecast (R87) -/

/-- The cores of a field: band b, field column c. -/
def fieldKeys (b c : Nat) : List Nat := (List.range 32).flatMap fun i => (List.range 32).map fun j => keyOf (32 * b + i) (32 * c + j)

/-- Whether a launch is about to be active: loading, or waiting with its region free. -/
def soonActive (s : State) (l : Launch) : Bool :=
  match l.st with
  | .loading => true
  | .waitRegion => s.unrid.launches.all fun o => !launchHasRegion o || !rectsMeet (rectOf l) (rectOf o)
  | _ => false

/-- The forecast of a field. -/
def forecastOf (s : State) (b c : Nat) : BitVec 8 :=
  let ks := fieldKeys b c
  let now := (ks.filter fun k => !isQuiet s (coreAt s k)).length
  let next := ((s.unrid.launches.filter (soonActive s)).map fun l => (ks.filter fun k => inRegion l (rowOf k) (colOf k)).length).sum
  BitVec.ofNat 8 (min 255 ((255 * (now + next) + 1023) / 1024))

/-- FORECAST_UPDATE. -/
def execForecastUpdate (s : State) : Host.Outcome State Fault Refusal :=
  .next (modDev s fun d =>
    { d with forecast := (List.range 84).map fun f => (f, forecastOf s (f / 12) (f % 12)) })

end Sys2Proof.Machine
end

