-- ==== Sys2Proof/Machine/Commands.lean ====
section
/-! DEFINITION. The other queue commands: WAITQ, SIGNAL, ACOPY, AMAP, LRESUME, QUERY and DUMP (R61, R62, R74, R77). -/

namespace Sys2Proof.Machine

/-! ## WAITQ and SIGNAL -/

/-- SEQ of a queue: of its slot, of what is kept of it, or of its record; none while that cannot be read. -/
def seqOf (s : State) (q : Nat) : Option Nat :=
  match queueSlot s q, (keepAt s q).cut with
  | some (_, x), _ => some x.seq.toNat
  | none, some (_, seq, _) => some seq.toNat
  | none, none => if hostUp s (recordPlace s q).1 then some (recordField s q 0x18 8) else none

/-- WAITQ: it starts waiting. -/
def execWaitq (k : EntryKey) (s : State) : Host.Outcome State Fault Refusal := onEntry s k 3 fun _ => setEntry s k .active

/-- WAITQ_COMPLETE: the named queue's SEQ has reached the value. -/
def execWaitqComplete (k : EntryKey) (s : State) : Host.Outcome State Fault Refusal :=
  match entryAt s k with
  | some e =>
    match seqOf s (entryField e 8 2) with
    | some n => if entryOp e = 3 ∧ e.st = .active ∧ entryField e 0x10 8 ≤ n then .next (endEntry s k csOk 0 0) else .next s
    | none => .next s
  | none => .next s

/-- SIGNAL: one 8-byte write or add to host memory; ABORT where the port's link is down (R30). -/
def execSignal (k : EntryKey) (s : State) : Host.Outcome State Fault Refusal :=
  onEntry s k 4 fun e =>
    match hostSignal s (entryWord e 8) (entryWord e 0x10) (entryField e 0x18 1 == 1) with
    | some s => endEntry s k csOk 0 0
    | none => endEntry s k csAbort 0 0

/-! ## ACOPY -/

/-- The parts of a copy by 4 KiB page: the VA, the offset from its start, and the bytes. -/
def copyParts (va len : Nat) : List (Nat × Nat × Nat) :=
  (List.range ((va % 4096 + len + 4095) / 4096)).map fun i =>
    let lo := max (4096 * i) (va % 4096)
    let hi := min (4096 * (i + 1)) (va % 4096 + len)
    (va - va % 4096 + lo, lo - va % 4096, hi - lo)

/-- The physical address of a part of one page under a context, or the fault it meets: its sectors are poisoned for a
read. -/
def partPa (s : State) (actx : Nat) (read : Bool) (p : Nat × Nat × Nat) : Except LKind Nat :=
  match translate s actx (p.1 % 2 ^ 48) with
  | none => .error .xlate
  | some pa =>
    if !namesMemory s pa then .error .nomem
    else if read && (List.range (p.2.2 / 32)).any fun i => poisoned s (pa + 32 * i) then .error .poison
    else .ok pa

/-- Bytes that a transfer leaves undefined, from its offset o on. -/
def freeBytes (s : State) (o n : Nat) : List Byte := (List.range n).map fun i => Config.freeByte s.freeCtr (o + i)

/-- One part copied: h is the host address of the copy's start. -/
def copyPart (s : State) (out : Bool) (p : HostPort) (h pa : Nat) (x : Nat × Nat × Nat) : State :=
  if out then hostWrite s p (h + x.2.1) (s.attic.readBytes pa x.2.2) else atticWrite s pa (hostRead s p (h + x.2.1) x.2.2)

/-- The parts from the faulting page on: undefined. -/
def spoilParts (s : State) (actx : Nat) (out : Bool) (p : HostPort) (h : Nat) (xs : List (Nat × Nat × Nat)) : State :=
  xs.foldl (fun t x =>
    if out then hostWrite t p (h + x.2.1) (freeBytes t x.2.1 x.2.2)
    else match partPa t actx false x with | .ok pa => atticWrite t pa (freeBytes t x.2.1 x.2.2) | .error _ => t) s

/-- The parts of a copy in order, up to the first fault: the state, and the fault with its page index. -/
def copyAll (actx : Nat) (out : Bool) (p : HostPort) (h : Nat) : State → Nat → List (Nat × Nat × Nat) → State × Option (LKind × Nat)
  | s, _, [] => (s, none)
  | s, i, x :: xs =>
    match partPa s actx out x with
    | .error k => ({ spoilParts s actx out p h (x :: xs) with freeCtr := s.freeCtr + 1 }, some (k, i))
    | .ok pa => copyAll actx out p h (copyPart s out p h pa x) (i + 1) xs

/-- ACOPY. -/
def execAcopy (k : EntryKey) (s : State) : Host.Outcome State Fault Refusal :=
  onWafer s k 5 (fun _ => false) fun e =>
    let hw := entryWord e 8
    let p := portOf hw
    if !hostUp s p then endEntry s k csAbort 0 0
    else
      let r := copyAll (entryField e 0x20 2) (entryField e 0x22 1 == 1) p (hostByte hw) s 0
        (copyParts (wfield (entryWord e 0x10) 0 48) (entryField e 0x18 8))
      match r.2 with
      | none => endEntry r.1 k csOk 0 0
      | some (f, i) => endEntry r.1 k csFault (lkindCode f) i

/-! ## AMAP -/

/-- The state with an attic context replaced. -/
def setCtx (s : State) (n : Nat) (x : AtticCtx) : State := modUnrid s fun u => { u with ctxs := fset u.ctxs n x }

/-- Whether two ranges share an address. -/
def spansMeet (a n b m : Nat) : Bool := decide (a < b + m) && decide (b < a + n)

/-- An AMAP entry of one operation: the body gives the detail of its refusal, or the state. -/
def onAmap (s : State) (k : EntryKey) (op : Nat) (body : Nat → Entry → Except Nat State) : Host.Outcome State Fault Refusal :=
  onEntry s k 6 fun e =>
    if entryField e 0xA 1 ≠ op then s
    else
      match body (entryField e 8 2) e with
      | .ok s => endEntry s k csOk 0 0
      | .error d => endEntry s k csRefused d 0

/-- AMAP_SETROOT. -/
def execAmapSetroot (k : EntryKey) (s : State) : Host.Outcome State Fault Refusal :=
  onAmap s k 1 fun n e =>
    let a := entryField e 0x10 8
    let len := entryField e 0x18 8
    if (atticCtx s n).isSome then .error 4
    else if overUndercroft s a len then .error 2
    else if !rangeNames s a len then .error 7
    else if s.unrid.ctxs.any fun c => spansMeet a len c.2.pool c.2.len then .error 8
    else .ok (setCtx s n ⟨a, len, [], []⟩)

/-- The tables on the path of a page: level and VA prefix. -/
def pathTables (va code : Nat) : List (Nat × Nat) :=
  [(2, va / 2 ^ 39), (3, va / 2 ^ 30)] ++ if code = 2 then [] else [(4, va / 2 ^ 21)]

/-- AMAP_MAP. -/
def execAmapMap (k : EntryKey) (s : State) : Host.Outcome State Fault Refusal :=
  onAmap s k 2 fun n e =>
    let va := entryField e 0x10 8
    let pa := entryField e 0x18 8
    let code := entryField e 0x20 1
    let size := pageBytes code
    match atticCtx s n with
    | none => .error 5
    | some x =>
      let fresh := (pathTables va code).filter fun t => !x.tables.contains t
      if x.len / 4096 < 1 + x.tables.length + fresh.length then .error 1
      else if overUndercroft s pa size then .error 2
      else if x.leaves.any fun l => l.2.1 != code && spansMeet va size l.1 (pageBytes l.2.1) then .error 6
      else
        .ok (setCtx s n { x with tables := x.tables ++ fresh, leaves := (x.leaves.filter fun l => l.1 != va) ++ [(va, code, pa)] })

/-- AMAP_UNMAP. -/
def execAmapUnmap (k : EntryKey) (s : State) : Host.Outcome State Fault Refusal :=
  onAmap s k 3 fun n e =>
    match atticCtx s n with
    | none => .error 5
    | some x =>
      .ok (setCtx s n { x with leaves := x.leaves.filter fun l => !(l.1 == entryField e 0x10 8 && l.2.1 == entryField e 0x20 1) })

/-- AMAP_DROP. -/
def execAmapDrop (k : EntryKey) (s : State) : Host.Outcome State Fault Refusal :=
  onAmap s k 4 fun n _ =>
    if (atticCtx s n).isNone then .error 5
    else if s.unrid.launches.any fun l => launchHasRegion l && l.actx == n then .error 3
    else .ok (modUnrid s fun u => { u with ctxs := fdel u.ctxs n })

/-! ## LRESUME -/

/-- LRESUME (R77, R257). -/
def execLresume (k : EntryKey) (s : State) : Host.Outcome State Fault Refusal :=
  onWafer s k 7 (fun _ => false) fun e =>
    match resumeCtx s (entryField e 8 1) (entryField e 9 1) with
    | (s, none) => endEntry s k csOk 0 0
    | (s, some d) => endEntry s k csRefused d 0

/-! ## QUERY (R61, R62, R91) -/

/-- An RSA public key in the layout of R59: the modulus, then the exponent. -/
def rsaKeyBytes (modulus : List Byte) : List Byte := modulus ++ leBytes 65537 4

/-- The subject of a certificate: the device, or the intermediate (R61, R62). -/
def subjectOf (device : Bool) : Signer := if device then .device else .intermediate

/-- The issuer of a certificate: the intermediate for the device, the root for the intermediate (R62). -/
def issuerOf (device : Bool) : Signer := if device then .intermediate else .root

/-- The signed part of a certificate (R62). -/
def certBody (device : Bool) : List Byte :=
  let m := writeFields Memory.empty 0
    [(0, 4, 0x5452_4358), (4, 4, 1), (8, 4, if device then 1 else 2), (0xC, 4, if device then 9140 else 0),
     (0x10, 8, if device then Config.serial.toNat else 0), (0x1C8, 8, (Config.certIssued device).toNat)]
  let m := m.writeBytes 0x18 (rsaModulus (subjectOf device))
  let m := m.writeBytes 0x198 (slhKey (subjectOf device))
  let m := m.writeBytes 0x1D0 (sha384 (rsaKeyBytes (rsaModulus (issuerOf device))))
  (m.writeBytes 0x200 (sha384 (slhKey (issuerOf device)))).readBytes 0 0x240

/-- The signature block of a certificate: the issuer's keys and its signatures of the body (R59, R61, R62). -/
def certBlock (device : Bool) : List Byte :=
  let k := issuerOf device
  leBytes 0x4749_5358 4 ++ leBytes 1 4 ++ leBytes 0 8 ++ rsaKeyBytes (rsaModulus k) ++ leBytes 0 4 ++
    signRsa k 0 (certBody device) ++ slhKey k ++ signSlh k 0 (certBody device)

/-- A certificate: the device's, or the intermediate's (R62; log entry 44). -/
def certificate (device : Bool) : List Byte := certBody device ++ certBlock device

/-- An entry of QUERY of one item that writes n bytes at HADDR: REFUSED for a LEN too small, ABORT where the port's link
is down. -/
def onQuery (s : State) (k : EntryKey) (item need result : Nat) (bytes : Entry → HostPort → Nat → List Byte) :
    Host.Outcome State Fault Refusal :=
  onEntry s k 9 fun e =>
    let hw := entryWord e 0x10
    let p := portOf hw
    if entryField e 8 2 ≠ item then s
    else if entryField e 0x18 4 < need then endEntry s k csRefused 1 0
    else if !hostUp s p then endEntry s k csAbort 0 0
    else endEntry (hostWrite s p (hostByte hw) (bytes e p (hostByte hw))) k csOk 0 result

/-- QUERY_CERTS. -/
def execQueryCerts (k : EntryKey) (s : State) : Host.Outcome State Fault Refusal :=
  onQuery s k 1 35280 35280 fun _ _ _ => certificate true ++ certificate false

/-- The signed part of an attestation report (R61). -/
def reportBody (s : State) (nonce : List Byte) : List Byte :=
  let d := s.dev
  let m := writeFields Memory.empty 0
    [(0, 4, 0x5454_4158), (4, 4, 1), (0x28, 4, 9140), (0x2C, 2, d.mapgen.toNat), (0x2E, 2, Config.romRelease.toNat % 2 ^ 16),
     (0x30, 8, Config.serial.toNat), (0x98, 8, s.cycle)]
  let m := m.writeBytes 8 nonce
  let m := if d.patched then m.writeBytes 0x38 (sha384 d.patchBytes) else m
  (m.writeBytes 0x68 (sha384 d.cfg.raw)).readBytes 0 0xA0

/-- The two signatures of an attestation report, under the device identity keys (R61; log entry 44). -/
def reportSigs (n : Nat) (body : List Byte) : List Byte :=
  signRsa .device n body ++ signSlh .device n body

/-- QUERY_ATTEST. -/
def execQueryAttest (k : EntryKey) (s : State) : Host.Outcome State Fault Refusal :=
  onQuery s k 2 16768 0 fun _ p a =>
    let b := reportBody s (hostRead s p a 32)
    b ++ reportSigs s.cycle b

/-- QUERY_SAVESIZE. -/
def execQuerySavesize (k : EntryKey) (s : State) : Host.Outcome State Fault Refusal :=
  onEntry s k 9 fun e =>
    if entryField e 8 2 ≠ 3 then s else endEntry s k csOk 0 (saveSize (entryField e 0x1C 2) (entryField e 0x1E 2))

/-! ## DUMP -/

/-- DUMP: under the wafer stop, of which it releases only its own (R77, R101). After a wafer-wide fault STATE stays FATAL, where R63
speaks of READY and R98 of a stop until reset (log entry 66). -/
def execDump (k : EntryKey) (s : State) : Host.Outcome State Fault Refusal :=
  onEntry s k 10 fun e =>
    endEntry (underStop s fun s => writeDump s (entryField e 8 1 == 1) causeHost 0xFFFF 0xFFFF) k csOk 0 0

end Sys2Proof.Machine
end

