-- ==== Sys2Proof/Machine/Integer.lean ====
section
/-! DEFINITION. Integer arithmetic on x registers (R291, R303 to R311). -/

namespace Sys2Proof.Machine

/-- A binary integer instruction of a type (R291). -/
def intOp (i : Instr) (h : Hdr) (cls : LaClass) (ty : Ty) (d a b : Reg) (f : Int → Int → Int) : Op :=
  mkOp i h cls (xs [a, b]) (xs [d]) fun env c =>
    wx c d (extendI ty (f (tyReadInt ty (env.x c a).toNat) (tyReadInt ty (env.x c b).toNat)))

/-- ADD. -/
def execAdd (h : Hdr) (ty : Ty) (d a b : Reg) (s : State) : Host.Outcome State Fault Refusal :=
  issue (intOp (.add h ty d a b) h .s ty d a b (· + ·)) s

/-- SUB. -/
def execSub (h : Hdr) (ty : Ty) (d a b : Reg) (s : State) : Host.Outcome State Fault Refusal :=
  issue (intOp (.sub h ty d a b) h .s ty d a b (· - ·)) s

/-- MUL: the low w bits of the product. -/
def execMul (h : Hdr) (ty : Ty) (d a b : Reg) (s : State) : Host.Outcome State Fault Refusal :=
  issue (intOp (.mul h ty d a b) h .l ty d a b (· * ·)) s

/-- MULH: the high 64 bits of the product. -/
def execMulh (h : Hdr) (ty : Ty) (d a b : Reg) (s : State) : Host.Outcome State Fault Refusal :=
  issue (intOp (.mulh h ty d a b) h .l ty d a b fun x y => (x * y) >>> 64) s

/-- DIV (R304). -/
def execDiv (h : Hdr) (ty : Ty) (d a b : Reg) (s : State) : Host.Outcome State Fault Refusal :=
  issue (intOp (.div h ty d a b) h .l ty d a b (divI ty)) s

/-- REM (R304). -/
def execRem (h : Hdr) (ty : Ty) (d a b : Reg) (s : State) : Host.Outcome State Fault Refusal :=
  issue (intOp (.rem h ty d a b) h .l ty d a b remI) s

/-- A binary instruction on 64-bit patterns. -/
def wordOp (i : Instr) (h : Hdr) (d a b : Reg) (f : Word → Word → Word) : Op :=
  mkOp i h .s (xs [a, b]) (xs [d]) fun env c => wx c d (f (env.x c a) (env.x c b))

/-- AND. -/
def execAnd (h : Hdr) (d a b : Reg) (s : State) : Host.Outcome State Fault Refusal :=
  issue (wordOp (.and h d a b) h d a b (· &&& ·)) s

/-- OR. -/
def execOr (h : Hdr) (d a b : Reg) (s : State) : Host.Outcome State Fault Refusal :=
  issue (wordOp (.or h d a b) h d a b (· ||| ·)) s

/-- XOR. -/
def execXor (h : Hdr) (d a b : Reg) (s : State) : Host.Outcome State Fault Refusal :=
  issue (wordOp (.xor h d a b) h d a b (· ^^^ ·)) s

/-- ANDN: a and not b. -/
def execAndn (h : Hdr) (d a b : Reg) (s : State) : Host.Outcome State Fault Refusal :=
  issue (wordOp (.andn h d a b) h d a b fun x y => x &&& ~~~y) s

/-- A shift by b modulo the width (R303); the w-bit result is extended by its type. -/
def shiftOp (i : Instr) (h : Hdr) (op : ShiftOp) (ty : Ty) (d a b : Reg) : Op :=
  mkOp i h .s (xs [a, b]) (xs [d]) fun env c =>
    wx c d (extendI ty (shiftN op ty.width (env.x c a).toNat (env.x c b).toNat : Nat))

/-- SHL. -/
def execShl (h : Hdr) (ty : Ty) (d a b : Reg) (s : State) : Host.Outcome State Fault Refusal :=
  issue (shiftOp (.shl h ty d a b) h .shl ty d a b) s

/-- SHR. -/
def execShr (h : Hdr) (ty : Ty) (d a b : Reg) (s : State) : Host.Outcome State Fault Refusal :=
  issue (shiftOp (.shr h ty d a b) h .shr ty d a b) s

/-- SAR. -/
def execSar (h : Hdr) (ty : Ty) (d a b : Reg) (s : State) : Host.Outcome State Fault Refusal :=
  issue (shiftOp (.sar h ty d a b) h .sar ty d a b) s

/-- ROTR. -/
def execRotr (h : Hdr) (ty : Ty) (d a b : Reg) (s : State) : Host.Outcome State Fault Refusal :=
  issue (shiftOp (.rotr h ty d a b) h .rotr ty d a b) s

/-- A bit instruction: a function of the w-bit pattern, zero-extended (R305). -/
def bitOp (i : Instr) (h : Hdr) (ty : Ty) (d a : Reg) (f : Nat → Nat → Nat) : Op :=
  mkOp i h .s (xs [a]) (xs [d]) fun env c =>
    wx c d (BitVec.ofNat 64 (f ty.width ((env.x c a).toNat % 2 ^ ty.width)))

/-- CLZ. -/
def execClz (h : Hdr) (ty : Ty) (d a : Reg) (s : State) : Host.Outcome State Fault Refusal :=
  issue (bitOp (.clz h ty d a) h ty d a clzN) s

/-- CTZ. -/
def execCtz (h : Hdr) (ty : Ty) (d a : Reg) (s : State) : Host.Outcome State Fault Refusal :=
  issue (bitOp (.ctz h ty d a) h ty d a ctzN) s

/-- POPC. -/
def execPopc (h : Hdr) (ty : Ty) (d a : Reg) (s : State) : Host.Outcome State Fault Refusal :=
  issue (bitOp (.popc h ty d a) h ty d a popcN) s

/-- BREV. -/
def execBrev (h : Hdr) (ty : Ty) (d a : Reg) (s : State) : Host.Outcome State Fault Refusal :=
  issue (bitOp (.brev h ty d a) h ty d a brevN) s

/-- BSWAP. -/
def execBswap (h : Hdr) (ty : Ty) (d a : Reg) (s : State) : Host.Outcome State Fault Refusal :=
  issue (bitOp (.bswap h ty d a) h ty d a fun w x => bswapN (w / 8) x) s

/-- MIN, signed. -/
def execMin (h : Hdr) (d a b : Reg) (s : State) : Host.Outcome State Fault Refusal :=
  issue (wordOp (.min h d a b) h d a b fun x y => if y.slt x then y else x) s

/-- MAX, signed. -/
def execMax (h : Hdr) (d a b : Reg) (s : State) : Host.Outcome State Fault Refusal :=
  issue (wordOp (.max h d a b) h d a b fun x y => if x.slt y then y else x) s

/-- MINU. -/
def execMinu (h : Hdr) (d a b : Reg) (s : State) : Host.Outcome State Fault Refusal :=
  issue (wordOp (.minu h d a b) h d a b fun x y => if y.ult x then y else x) s

/-- MAXU. -/
def execMaxu (h : Hdr) (d a b : Reg) (s : State) : Host.Outcome State Fault Refusal :=
  issue (wordOp (.maxu h d a b) h d a b fun x y => if x.ult y then y else x) s

/-- An instruction with an immediate: k is the sign-extended IMM32 (R306). -/
def immOp (i : Instr) (h : Hdr) (d a : Reg) (imm : BitVec 32) (f : Word → Word → Word) : Op :=
  mkOp i h .s (xs [a]) (xs [d]) fun env c => wx c d (f (env.x c a) (imm.signExtend 64))

/-- ADDI. -/
def execAddi (h : Hdr) (d a : Reg) (imm : BitVec 32) (s : State) : Host.Outcome State Fault Refusal :=
  issue (immOp (.addi h d a imm) h d a imm (· + ·)) s

/-- ANDI. -/
def execAndi (h : Hdr) (d a : Reg) (imm : BitVec 32) (s : State) : Host.Outcome State Fault Refusal :=
  issue (immOp (.andi h d a imm) h d a imm (· &&& ·)) s

/-- ORI. -/
def execOri (h : Hdr) (d a : Reg) (imm : BitVec 32) (s : State) : Host.Outcome State Fault Refusal :=
  issue (immOp (.ori h d a imm) h d a imm (· ||| ·)) s

/-- XORI. -/
def execXori (h : Hdr) (d a : Reg) (imm : BitVec 32) (s : State) : Host.Outcome State Fault Refusal :=
  issue (immOp (.xori h d a imm) h d a imm (· ^^^ ·)) s

/-- SHI: a shift at width 64 by the immediate. -/
def execShi (h : Hdr) (op : ShiftOp) (d a : Reg) (n : BitVec 6) (s : State) : Host.Outcome State Fault Refusal :=
  issue (mkOp (.shi h op d a n) h .s (xs [a]) (xs [d]) fun env c =>
    wx c d (BitVec.ofNat 64 (shiftN op 64 (env.x c a).toNat n.toNat))) s

/-- CMPI: 1 when the condition holds of x[S1] and k, else 0. -/
def execCmpi (h : Hdr) (cc : Cond) (d a : Reg) (imm : BitVec 32) (s : State) : Host.Outcome State Fault Refusal :=
  issue (immOp (.cmpi h cc d a imm) h d a imm fun x k => if condHolds cc x k then 1 else 0) s

/-- LI: the sign-extended immediate (R307). -/
def execLi (h : Hdr) (d : Reg) (imm : BitVec 32) (s : State) : Host.Outcome State Fault Refusal :=
  issue (mkOp (.li h d imm) h .s [] (xs [d]) fun _ c => wx c d (imm.signExtend 64)) s

/-- LI.hi: the high half replaced, the low half kept (R307). -/
def execLiHi (h : Hdr) (d : Reg) (imm : BitVec 32) (s : State) : Host.Outcome State Fault Refusal :=
  issue (mkOp (.liHi h d imm) h .s (xs [d]) (xs [d]) fun env c => wx c d (imm ++ (env.x c d).setWidth 32)) s

/-- CMP: the condition into an x register as 1 or 0, or into an f register as all ones or zeros (R308). -/
def execCmp (h : Hdr) (cc : Cond) (toF : Bool) (d a b : Reg) (s : State) : Host.Outcome State Fault Refusal :=
  issue (mkOp (.cmp h cc toF d a b) h .s (xs [a, b]) (if toF then [.f d.toNat] else xs [d]) fun env c =>
    let r := condHolds cc (env.x c a) (env.x c b)
    if toF then .ok { core := c, dests := [.f d.toNat (if r then 0xFFFF else 0)] } else wx c d (if r then 1 else 0)) s

/-- SEL: x[S1] when x[S3] is not 0, else x[S2] (R309). -/
def execSel (h : Hdr) (d a b cr : Reg) (s : State) : Host.Outcome State Fault Refusal :=
  issue (mkOp (.sel h d a b cr) h .s (xs [a, b, cr]) (xs [d]) fun env c =>
    wx c d (if env.x c cr ≠ 0 then env.x c a else env.x c b)) s

/-- MOV: by the files of its operands (R310). A count written at its counter's end address counts for this next(A). -/
def execMov (h : Hdr) (form : MovForm) (d a : Reg) (s : State) : Host.Outcome State Fault Refusal :=
  let reads : List RegRef := match form with
    | .xx | .fx | .lcx => xs [a]
    | .xf | .ff => [.f a.toNat]
    | .xlc => [.lc a.toNat]
  let writes : List RegRef := match form with
    | .xx | .xf | .xlc => xs [d]
    | .fx | .ff => [.f d.toNat]
    | .lcx => [.lc d.toNat]
  issue (mkOp (.mov h form d a) h .s reads writes fun env c =>
    match form with
    | .xx => wx c d (env.x c a)
    | .fx => .ok { core := c, dests := [.f d.toNat ((env.x c a).setWidth 16)] }
    | .xf => wx c d ((readFm c a.toNat).setWidth 64)
    | .ff => .ok { core := c, dests := [.f d.toNat (readFm c a.toNat)] }
    | .xlc => wx c d ((readLc c a.toNat).count.setWidth 64)
    | .lcx => done (writeLc c d.toNat { readLc c d.toNat with count := (env.x c a).setWidth 32 })) s

/-- EXT: a bit field, sign- or zero-extended (R311). -/
def execExt (h : Hdr) (signed : Bool) (d a : Reg) (pos len1 : BitVec 6) (s : State) : Host.Outcome State Fault Refusal :=
  issue (mkOp (.ext h signed d a pos len1) h .s (xs [a]) (xs [d]) fun env c =>
    let v := (env.x c a).toNat >>> pos.toNat
    let n := len1.toNat + 1
    wx c d (if signed then BitVec.ofInt 64 (sext v n) else BitVec.ofNat 64 (v % 2 ^ n))) s

/-- INS: a bit field of x[D] replaced by the low bits of x[S1] (R311). -/
def execIns (h : Hdr) (d a : Reg) (pos len1 : BitVec 6) (s : State) : Host.Outcome State Fault Refusal :=
  issue (mkOp (.ins h d a pos len1) h .s (xs [d, a]) (xs [d]) fun env c =>
    let m : Word := BitVec.ofNat 64 ((2 ^ (len1.toNat + 1) - 1) * 2 ^ pos.toNat)
    wx c d ((env.x c d &&& ~~~m) ||| ((env.x c a <<< pos.toNat) &&& m))) s

end Sys2Proof.Machine
end

