-- ==== Sys2Proof/Machine/Links.lean ====
section
/-! DEFINITION. The Poluri links (R31 to R39), the edge merge units with the COLL command (R40 to R42, R177), and an attic
port that goes down (R28). -/

namespace Sys2Proof.Machine

/-! ## Exhaustion (R28, R36, R96) -/

/-- The output of that core's router that leads to the port. -/
def portOut (n : Nat) : Nat := if n < 32 then 0 else 2

/-- Whether a routing entry of a launch's classes names a Poluri port. -/
def namesPort (s : State) (l : Launch) (n : Nat) : Bool :=
  let k := portCore n
  inRegion l (rowOf k) (colOf k) &&
    (List.range 24).any fun cls =>
      l.classMask.getLsbD cls && (List.range 5).any fun d => (routeOut (routeOf (coreAt s k) cls) d).getLsbD (portOut n)

/-- The launches with a region that a condition picks out, each with a region fault LINK_EXHAUST at a place. -/
def exhaustRegions (s : State) (hit : Launch → Bool) (prow pcol : Nat) : State :=
  abortLaunches s
    (s.unrid.launches.filter fun l => launchHasRegion l && hit l) prow pcol
where
  /-- Region faults of launches in order. -/
  abortLaunches (s : State) (ls : List Launch) (prow pcol : Nat) : State :=
    ls.foldl (fun s l => regionFault s l.num causeLink prow pcol) s

/-- A COLL step ended on a unit. -/
def endStep (s : State) (u : Nat) (m : MergeStep) (status result : Nat) : State :=
  modUnrid (endEntry s m.key status 0 result) fun x => { x with steps := fdel x.steps u }

/-- The merge unit of a port. -/
def unitOf (n : Nat) : Nat := n / 32

/-- Retry exhausted on a Poluri port: FAILED, the regions whose routing entries name it or that hold a pod barrier id, and
the COLL step on it (R36, R96). -/
def linkExhausted (s : State) (n : Nat) : State :=
  let s := setLink s n { linkAt s n with st := .failed }
  let p := physicalPlace s.dev (portCore n)
  let s := exhaustRegions s (fun l => namesPort s l n || l.podBar != 0) p.1 p.2
  match ffind s.unrid.steps (unitOf n) with
  | some m => if m.ports.getLsbD n then endStep s (unitOf n) m csAbort 0 else s
  | none => s

/-- ATTIC_PORT_DOWN: the port serves no address any more, and the regions whose attic context maps pages behind it take a
fatal fault (R25, R28). -/
def execAtticPortDown (n : BitVec 6) (s : State) : Host.Outcome State Fault Refusal :=
  match ffind s.expanders n.toNat with
  | none => .next s
  | some e =>
    if !e.up then .next s
    else
      let s := { s with expanders := fset s.expanders n.toNat { e with up := false } }
      .next (exhaustRegions s (fun l =>
        match atticCtx s l.actx with
        | some x => x.leaves.any fun f => f.2.2 / 2 ^ 42 == n.toNat
        | none => false) 0xFFFF 0xFFFF)

/-! ## Link states (R37) -/

/-- A CTRL frame sent, in the exchange of training; what it says is the implementation's (R33, R37; log entry 21). -/
def sendCtrl (s : State) (n : Nat) : State :=
  { setLink s n (sendFrame (linkAt s n) 2 0 0 0 0 0 (Config.ctrlPayload s.freeCtr)).1 with freeCtr := s.freeCtr + 1 }

/-- POLURI_ENABLE: DOWN to TRAIN, with sequence numbers and credits reset; all credits being the sender's again, the receive
buffer is empty (R37, R38; log entry 67). The first sequenced frame takes number 0 (DESIGN CHOICE, log entry 21). -/
def execPoluriEnable (n : BitVec 6) (s : State) : Host.Outcome State Fault Refusal :=
  let l := linkAt s n.toNat
  if l.st = .down then
    .next (sendCtrl (setLink s n.toNat
      { l with st := .train, sendSeq := 0, expect := 0, replay := [], nackSent := false, replays := 0, retrains := [],
               since := s.cycle, lastAck := s.cycle, sinceAck := 0, credits := (List.range 32).map fun c => (c, 8), rx := [], owed := [] })
      n.toNat)
  else .next s

/-- POLURI_DISABLE. -/
def execPoluriDisable (n : BitVec 6) (s : State) : Host.Outcome State Fault Refusal :=
  .next (setLink s n.toNat { linkAt s n.toNat with st := .down })

/-- 100 µs in cycles of 1.9 GHz. -/
def trainLimit : Nat := 190000

/-- Whether the 100 µs of a training have passed. -/
def trainLate (s : State) (n : Nat) : Bool := decide ((linkAt s n).since + trainLimit ≤ s.cycle)

/-- Training that has not completed within 100 µs fails; a retrain that fails exhausts the link (R36, R37). -/
def failTraining (s : State) (n : Nat) : State :=
  match (linkAt s n).st with
  | .train => setLink s n { linkAt s n with st := .failed }
  | .retrain => linkExhausted s n
  | _ => s

/-- TRAIN_TIMEOUT (R36, R37). -/
def execTrainTimeout (n : BitVec 6) (s : State) : Host.Outcome State Fault Refusal :=
  .next (if trainLate s n.toNat then failTraining s n.toNat else s)

/-- After sixteen replays without progress a port retrains, its replay buffer and credits kept; the fourth time within 1 ms exhausts
the link (R36, R37). While it retrains it sends CTRL frames only. -/
def settleReplays (s : State) (n : Nat) : State :=
  let l := linkAt s n
  if l.st = .active ∧ 16 ≤ l.replays then
    let ts := (l.retrains.filter fun t => decide (s.cycle < t + 1900000)) ++ [s.cycle]
    let l := { l with retrains := ts, replays := 0, since := s.cycle, st := .retrain }
    if 4 ≤ ts.length then linkExhausted (setLink s n l) n else sendCtrl (setLink s n l) n
  else s

/-- POLURI_RETRAIN (R36, R37). The sixteenth replay itself makes the port retrain, so that this finds such a port only in a state that no
run reaches. -/
def execPoluriRetrain (n : BitVec 6) (s : State) : Host.Outcome State Fault Refusal := .next (settleReplays s n.toNat)

/-! ## Sending (R35, R36, R38) -/

/-- POLURI_FLIT_SEND: the first flit that waits for the port on a class goes out, its frame kept until acknowledged (R36,
R38). -/
def execPoluriFlitSend (n : BitVec 6) (cls : BitVec 5) (s : State) : Host.Outcome State Fault Refusal :=
  let l := linkAt s n.toNat
  let c := cls.toNat
  match l.st, fget l.tx c [] with
  | .active, f :: rest =>
    if s.dev.stopped || fget l.credits c 0 == 0 || !replayRoom l then .next s
    else
      .next (setLink s n.toNat
        { sendKept s.cycle l 1 f.side f.payload with tx := fset l.tx c rest, credits := fset l.credits c (fget l.credits c 0 - 1) })
  | _, _ => .next s

/-- A go-back: every buffered frame again, in order; it counts as one replay (R36). -/
def goBack (now : Nat) (l : Link) : Link :=
  { l with wire := l.wire ++ l.replay, replays := l.replays + 1, lastAck := now }

/-- 2 µs in cycles. -/
def replayLimit : Nat := 3800

/-- A port whose frames have gone 3,800 cycles without an ACK goes back; the sixteenth replay makes it retrain (R36). -/
def replayTimeout (s : State) (n : Nat) : State :=
  let l := linkAt s n
  if l.st = .active ∧ !l.replay.isEmpty ∧ l.lastAck + replayLimit ≤ s.cycle ∧ l.replays < 16 then
    settleReplays (setLink s n (goBack s.cycle l)) n
  else s

/-- REPLAY_TIMEOUT (R36). -/
def execReplayTimeout (n : BitVec 6) (s : State) : Host.Outcome State Fault Refusal := .next (replayTimeout s n.toNat)

/-! ## Receiving (R33, R35, R38) -/

/-- The frames up to an acknowledged sequence number leave the replay buffer; a new one acknowledged ends a run of
replays (R35, R36). -/
def ackTo (now : Nat) (l : Link) (a : BitVec 12) : Link :=
  let k := (a + 1 - (l.sendSeq - BitVec.ofNat 12 l.replay.length)).toNat
  let k := if k ≤ l.replay.length then k else 0
  { l with replay := l.replay.drop k, replays := if k = 0 then l.replays else 0, lastAck := now }

/-- The acknowledgement and credits of a frame applied (R33, R36, R38). -/
def applyAck (now : Nat) (l : Link) (h : FrameHead) : Link :=
  let l := { l with credits := if h.crCnt = 0 then l.credits else fmod l.credits h.crCls 0 (· + h.crCnt) }
  if h.ackKind = 1 then ackTo now l h.ackSeq
  else if h.ackKind = 2 then goBack now (ackTo now l h.ackSeq)
  else l

/-- A frame discarded: the first one after an accepted frame sends a NACK (R35). So does the first one after enable, before any frame has
been accepted, with ACKSEQ 0xFFF (DESIGN CHOICE, log entry 21). -/
def discardFrame (l : Link) : Link := if l.nackSent then l else { sendIdle l 2 0 0 with nackSent := true }

/-- A sequenced frame accepted, acknowledged at least once in 64 (R35, R38). -/
def acceptFrame (l : Link) (h : FrameHead) (f : Frame) : Link :=
  let side := frameSide f
  let l := { l with expect := l.expect + 1, nackSent := false, sinceAck := l.sinceAck + 1 }
  let l : Link :=
    if h.type = 1 then
      { l with rx := fmod l.rx (side.extractLsb' 0 5).toNat [] (· ++ [{ payload := framePayload f, side := side }]) }
    else { l with barIn := l.barIn ++ [framePayload f] }
  if 64 ≤ l.sinceAck then sendIdle l 1 0 0 else l

/-- Whether the receive buffer has no room for a frame: of a FLIT frame's class it holds 8 flits already (R38). -/
def rxFull (l : Link) (h : FrameHead) (f : Frame) : Bool :=
  h.type == 1 && decide (8 ≤ (fget l.rx ((frameSide f).extractLsb' 0 5).toNat []).length)

/-- A frame received by a port that is ACTIVE. A FLIT sent without a credit finds no room and is not accepted; of a CTRL frame, of a far
end that trains, the ACK and credit fields are applied and nothing else is done (DESIGN CHOICE, log entry 21). -/
def receiveActive (now : Nat) (l : Link) (f : Frame) : Link :=
  let h := frameHead f
  if !frameGood f then discardFrame l
  else if h.type = 1 ∨ h.type = 3 then
    if h.seq = l.expect ∧ !rxFull l h f then acceptFrame (applyAck now l h) h f else discardFrame l
  else applyAck now l h

/-- A port whose training is complete: ACTIVE, the buffered frames sent again, and the credits that it owes returned, unless the
wafer is stopped (R37, R38, R101). -/
def goActive (s : State) (l : Link) : Link :=
  let l := { l with st := .active, lastAck := s.cycle, wire := l.wire ++ l.replay }
  if s.dev.stopped then l else (List.range 32).foldl returnCredits l

/-- A good CTRL frame received while training: too late, it completes nothing; when both ends agree, the port is ACTIVE; else the
exchange goes on (R37). Its ACKSEQ and credit fields are not applied, and the CTRL frames of a training carry ACKKIND 0: the port resumes
after the last frame that was acknowledged while it was ACTIVE (DESIGN CHOICE, log entry 21). -/
def receiveCtrl (s : State) (n : Nat) : State :=
  if trainLate s n then failTraining s n
  else
    let t := { s with freeCtr := s.freeCtr + 1 }
    if Config.trainAgrees s.freeCtr then setLink t n (goActive s (linkAt s n)) else sendCtrl t n

/-- POLURI_FRAME_RECEIVE: in ACTIVE every type of frame, while training CTRL alone (R35, R37). A go-back whose 3,800 cycles have passed
goes before an ACK that comes too late (R36). -/
def execPoluriFrameReceive (n : BitVec 6) (f : BitVec 1280) (s : State) : Host.Outcome State Fault Refusal :=
  let s := replayTimeout s n.toNat
  let l := linkAt s n.toNat
  match l.st with
  | .active => .next (settleReplays (setLink s n.toNat (receiveActive s.cycle l f)) n.toNat)
  | .train => .next (if frameGood f ∧ (frameHead f).type = 2 then receiveCtrl s n.toNat else s)
  | .retrain => .next (if frameGood f ∧ (frameHead f).type = 2 then receiveCtrl s n.toNat else s)
  | _ => .next s

/-! ## Edge merge units (R40 to R42) -/

/-- The ports of a step, ascending. -/
def stepPorts (m : MergeStep) : List Nat := (List.range 64).filter fun n => m.ports.getLsbD n

/-- The flits that a port has contributed so far. -/
def contributed (m : MergeStep) (n : Nat) : Nat := m.k + (fget m.bufs n []).length

/-- Contributions combined in ascending port number (R41). The destination takes the words of the result; EXP has no place there
(log entry 22). -/
def combineFlits (op : Nat) (fs : List Flit) : BitVec 1024 :=
  if op = 1 then lanePayload (fun a b => (a + b) % 2 ^ 32) fs
  else if op = 2 then lanePayload maxWord fs
  else sumPayload fs (mergeExp fs.tail (flitExp (fs.headD ⟨0, 0, 0, false⟩)))

/-- The flits of the WRITE messages by which the command processor's attachment writes bytes into a core (R213, R214). -/
def unridWrites (cls row col o : Nat) (bs : List Byte) : List Flit :=
  (List.range ((bs.length + 3967) / 3968)).flatMap fun i =>
    let part := (bs.drop (3968 * i)).take 3968
    messageFlits cls 1 row col false cmdRow cmdCol
      (descPayload (o + 3968 * i) 0 part.length 0 0 0 0 0 0 :: payloads ((part.length + 127) / 128) part)

/-- Bytes of a step sent to a global address in absolute form: to a core as messages of the step's class, which count as injected
into its region (R41, R86), none to one that is unavailable (R115); into the attic under the context of the model's choice. What
lies nowhere is not written, and for an address of another wafer, to which no rule gives a way, the port reports EDGE (R209, R212;
log entry 22). -/
def sendGlobal (s : State) (m : MergeStep) (a : Word) (bs : List Byte) : State :=
  let row := wfield a 48 9
  let col := wfield a 39 9
  let o := wfield a 0 39
  if a.getLsbD 63 then
    match translate s (Config.collActx % 64) (wfield a 0 48) with
    | some pa => if namesMemory s pa then atticWrite s pa bs else s
    | none => s
  else if wfield a 57 6 ≠ s.dev.wafer.toNat then
    match lowestBit m.ports with
    | some n => reportStall s (rowOf (portCore n)) (colOf (portCore n)) m.cls.toNat 2
    | none => s
  else if inGrid (keyOf row col) && !unavailable s.dev row col && decide (o + bs.length ≤ 0x80000) then
    let fs := unridWrites m.cls.toNat row col o bs
    modCore (modUnrid s fun u => { u with egress := fmod u.egress m.cls.toNat [] (· ++ fs) }) (keyOf row col) fun c =>
      { c with injected := c.injected + fs.length }
  else s

/-- The status block of a step: a word in the layout of COMPLETION, then one valid bit per flit (R77). -/
def stepStatus (m : MergeStep) (status merged valid : Nat) : List Byte :=
  leBytes (completionWord status 0 merged) 8 ++ leBytes (2 ^ valid - 1) (8 * ((m.nflits + 63) / 64))

/-- A flit index merged, once every contributing port has delivered it: its result is injected towards the destination (R41). -/
def mergeIndex (s : State) (m : MergeStep) : Option (State × MergeStep) :=
  match (stepPorts m).mapM fun n => (fget m.bufs n []).head?.map (·.2) with
  | none => none
  | some fs =>
    let s := sendGlobal s m (m.dest + BitVec.ofNat 64 (128 * m.k)) (byteSlice (combineFlits m.op fs) 0 128)
    some (s, { m with k := m.k + 1, bufs := m.bufs.map fun b => (b.1, b.2.tail) })

/-- A step after a contribution: the index it completes is merged, and the last one ends the step. -/
def advanceStep (s : State) (u : Nat) (m : MergeStep) : State :=
  match mergeIndex s m with
  | none => modUnrid s fun x => { x with steps := fset x.steps u m }
  | some (s, m) =>
    if m.k < m.nflits then modUnrid s fun x => { x with steps := fset x.steps u m }
    else endStep (sendGlobal s m m.status (stepStatus m csOk m.k m.k)) u m csOk m.k

/-- 200 µs in cycles. -/
def reduceLimit : Nat := 0x5CC60

/-- The time at which the first contribution for the flit index of a step arrived. -/
def firstArrival (m : MergeStep) : Option Nat :=
  ((stepPorts m).filterMap fun n => (fget m.bufs n []).head?.map (·.1)).min?

/-- The flits of a step that are still to arrive, to be discarded (R42). -/
def leaveStale (s : State) (m : MergeStep) : State :=
  modUnrid s fun u =>
    { u with stale := (stepPorts m).foldl (fun t n => fmod t (32 * n + m.cls.toNat) 0 (· + (m.nflits - contributed m n))) u.stale }

/-- Whether a contribution for the flit index of a step is still missing 380,000 cycles after the first one arrived (R42). -/
def stepLate (s : State) (m : MergeStep) : Bool :=
  match firstArrival m with
  | some t => decide (t + reduceLimit ≤ s.live)
  | none => false

/-- A late step aborted: it is repeated once where the entry asks for it, else it ends with every destination word marked invalid
(R42). -/
def abortStep (s : State) (u : Nat) (m : MergeStep) : State :=
  let s := leaveStale s m
  if m.retry then modUnrid s fun x => { x with steps := fset x.steps u { m with retry := false, k := 0, bufs := [] } }
  else endStep (sendGlobal s m m.status (stepStatus m csReduceLate m.k 0)) u m csReduceLate m.k

/-- A flit of a step at a port: one that an aborted step left over is discarded, else it joins the port's buffer of 64, unless the
step is late by then and aborts (R41, R42). -/
def contribute (s : State) (n : Nat) (m : MergeStep) (f : Flit) : State :=
  let cls := m.cls.toNat
  let j := 32 * n + cls
  let old := fget s.unrid.stale j 0
  let taken := setLink s n (takeRx (linkAt s n) cls)
  if flitDwaf f ≠ s.dev.wafer.toNat then discardForeign s n cls
  else if 0 < old then modUnrid taken fun u => { u with stale := fset u.stale j (old - 1) }
  else if stepLate s m then abortStep s (unitOf n) m
  else if contributed m n < m.nflits ∧ (fget m.bufs n []).length < 64 then
    advanceStep taken (unitOf n) { m with bufs := fmod m.bufs n [] (· ++ [(s.live, f)]) }
  else s

/-- EDGE_MERGE_CONTRIBUTION: the first flit of the running step's class at a contributing port (R41, R101, R177). -/
def execEdgeMergeContribution (n : BitVec 6) (s : State) : Host.Outcome State Fault Refusal :=
  match ffind s.unrid.steps (unitOf n.toNat) with
  | some m =>
    match s.dev.stopped, m.ports.getLsbD n.toNat, fget (linkAt s n.toNat).rx m.cls.toNat [] with
    | false, true, f :: _ => .next (contribute s n.toNat m f)
    | _, _, _ => .next s
  | none => .next s

/-- REDUCE_LATE: the step aborts once a contribution is late (R42). -/
def execReduceLate (south : Bool) (s : State) : Host.Outcome State Fault Refusal :=
  let u := if south then 1 else 0
  match s.dev.stopped, ffind s.unrid.steps u with
  | false, some m => .next (if stepLate s m then abortStep s u m else s)
  | _, _ => .next s

/-- COLL: the step begins on the unit of its ports once no other runs there (R40, R77). -/
def execColl (k : EntryKey) (s : State) : Host.Outcome State Fault Refusal :=
  onWafer s k 2 (fun _ => false) fun e =>
    let ports := entryWord e 8
    let u := if ports.toNat % 2 ^ 32 = 0 then 1 else 0
    if (ffind s.unrid.steps u).isSome then s
    else
      let m : MergeStep :=
        { key := k, ports := ports, op := entryField e 0x10 1, cls := BitVec.ofNat 5 (entryField e 0x11 1),
          nflits := entryField e 0x14 4, dest := entryWord e 0x18, status := entryWord e 0x20,
          retry := entryField e 1 1 / 4 % 2 == 1 }
      modUnrid (setEntry s k .active) fun x => { x with steps := fset x.steps u m }

end Sys2Proof.Machine
end

