-- ==== Sys2Proof/Machine/Dispatch.lean ====
section
/-! DEFINITION. The meaning of every instruction and event, one arm each. -/

namespace Sys2Proof.Machine

def exec (i : Instr) (s : State) : Host.Outcome State Fault Refusal :=
  match i with
  | .nop => Sys2Proof.Machine.execNop s
  | .undefinedInstruction w f => Sys2Proof.Machine.execUndefinedInstruction w f s
  | .br h off => Sys2Proof.Machine.execBr h off s
  | .brc h cc a b off => Sys2Proof.Machine.execBrc h cc a b off s
  | .brf h t f off => Sys2Proof.Machine.execBrf h t f off s
  | .gbr h all cc a b off => Sys2Proof.Machine.execGbr h all cc a b off s
  | .call h off => Sys2Proof.Machine.execCall h off s
  | .jmp h a => Sys2Proof.Machine.execJmp h a s
  | .ret h => Sys2Proof.Machine.execRet h s
  | .loop h lc a off => Sys2Proof.Machine.execLoop h lc a off s
  | .trap h imm => Sys2Proof.Machine.execTrap h imm s
  | .brk h imm => Sys2Proof.Machine.execBrk h imm s
  | .tend h => Sys2Proof.Machine.execTend h s
  | .tyield h => Sys2Proof.Machine.execTyield h s
  | .twait h => Sys2Proof.Machine.execTwait h s
  | .gang h block => Sys2Proof.Machine.execGang h block s
  | .split h => Sys2Proof.Machine.execSplit h s
  | .add h ty d a b => Sys2Proof.Machine.execAdd h ty d a b s
  | .sub h ty d a b => Sys2Proof.Machine.execSub h ty d a b s
  | .mul h ty d a b => Sys2Proof.Machine.execMul h ty d a b s
  | .mulh h ty d a b => Sys2Proof.Machine.execMulh h ty d a b s
  | .div h ty d a b => Sys2Proof.Machine.execDiv h ty d a b s
  | .rem h ty d a b => Sys2Proof.Machine.execRem h ty d a b s
  | .and h d a b => Sys2Proof.Machine.execAnd h d a b s
  | .or h d a b => Sys2Proof.Machine.execOr h d a b s
  | .xor h d a b => Sys2Proof.Machine.execXor h d a b s
  | .andn h d a b => Sys2Proof.Machine.execAndn h d a b s
  | .shl h ty d a b => Sys2Proof.Machine.execShl h ty d a b s
  | .shr h ty d a b => Sys2Proof.Machine.execShr h ty d a b s
  | .sar h ty d a b => Sys2Proof.Machine.execSar h ty d a b s
  | .rotr h ty d a b => Sys2Proof.Machine.execRotr h ty d a b s
  | .clz h ty d a => Sys2Proof.Machine.execClz h ty d a s
  | .ctz h ty d a => Sys2Proof.Machine.execCtz h ty d a s
  | .popc h ty d a => Sys2Proof.Machine.execPopc h ty d a s
  | .brev h ty d a => Sys2Proof.Machine.execBrev h ty d a s
  | .bswap h ty d a => Sys2Proof.Machine.execBswap h ty d a s
  | .min h d a b => Sys2Proof.Machine.execMin h d a b s
  | .max h d a b => Sys2Proof.Machine.execMax h d a b s
  | .minu h d a b => Sys2Proof.Machine.execMinu h d a b s
  | .maxu h d a b => Sys2Proof.Machine.execMaxu h d a b s
  | .addi h d a imm => Sys2Proof.Machine.execAddi h d a imm s
  | .andi h d a imm => Sys2Proof.Machine.execAndi h d a imm s
  | .ori h d a imm => Sys2Proof.Machine.execOri h d a imm s
  | .xori h d a imm => Sys2Proof.Machine.execXori h d a imm s
  | .shi h op d a n => Sys2Proof.Machine.execShi h op d a n s
  | .cmpi h cc d a imm => Sys2Proof.Machine.execCmpi h cc d a imm s
  | .li h d imm => Sys2Proof.Machine.execLi h d imm s
  | .liHi h d imm => Sys2Proof.Machine.execLiHi h d imm s
  | .cmp h cc toF d a b => Sys2Proof.Machine.execCmp h cc toF d a b s
  | .sel h d a b c => Sys2Proof.Machine.execSel h d a b c s
  | .mov h form d a => Sys2Proof.Machine.execMov h form d a s
  | .ext h signed d a pos len1 => Sys2Proof.Machine.execExt h signed d a pos len1 s
  | .ins h d a pos len1 => Sys2Proof.Machine.execIns h d a pos len1 s
  | .fadd h ty d a b rm => Sys2Proof.Machine.execFadd h ty d a b rm s
  | .fsub h ty d a b rm => Sys2Proof.Machine.execFsub h ty d a b rm s
  | .fmul h ty d a b rm => Sys2Proof.Machine.execFmul h ty d a b rm s
  | .fdiv h ty d a b rm => Sys2Proof.Machine.execFdiv h ty d a b rm s
  | .fsqrt h ty d a rm => Sys2Proof.Machine.execFsqrt h ty d a rm s
  | .fmin h ty d a b => Sys2Proof.Machine.execFmin h ty d a b s
  | .fmax h ty d a b => Sys2Proof.Machine.execFmax h ty d a b s
  | .ffma h ty d a b c rm => Sys2Proof.Machine.execFfma h ty d a b c rm s
  | .fcvt h dst src d a rm sat => Sys2Proof.Machine.execFcvt h dst src d a rm sat s
  | .fcmp h op ty toF d a b => Sys2Proof.Machine.execFcmp h op ty toF d a b s
  | .ld h sz d m => Sys2Proof.Machine.execLd h sz d m s
  | .st h sz d m => Sys2Proof.Machine.execSt h sz d m s
  | .ldp h d m => Sys2Proof.Machine.execLdp h d m s
  | .stp h d m => Sys2Proof.Machine.execStp h d m s
  | .amo h op ty d a b => Sys2Proof.Machine.execAmo h op ty d a b s
  | .cas h ty d a e n => Sys2Proof.Machine.execCas h ty d a e n s
  | .seg h n base size span => Sys2Proof.Machine.execSeg h n base size span s
  | .segOff h n => Sys2Proof.Machine.execSegOff h n s
  | .rdsys h d sys => Sys2Proof.Machine.execRdsys h d sys s
  | .wrsys h a sys => Sys2Proof.Machine.execWrsys h a sys s
  | .rett h => Sys2Proof.Machine.execRett h s
  | .sleep h a => Sys2Proof.Machine.execSleep h a s
  | .capnar h d a b => Sys2Proof.Machine.execCapnar h d a b s
  | .vadd h ty d a b rm sat m => Sys2Proof.Machine.execVadd h ty d a b rm sat m s
  | .vsub h ty d a b rm sat m => Sys2Proof.Machine.execVsub h ty d a b rm sat m s
  | .vmul h ty d a b rm sat m => Sys2Proof.Machine.execVmul h ty d a b rm sat m s
  | .vfma h ty d a b c rm m => Sys2Proof.Machine.execVfma h ty d a b c rm m s
  | .vminmax h isMax ty d a b m => Sys2Proof.Machine.execVminmax h isMax ty d a b m s
  | .vabsneg h op ty d a sat m => Sys2Proof.Machine.execVabsneg h op ty d a sat m s
  | .vdiv h ty d a b rm m => Sys2Proof.Machine.execVdiv h ty d a b rm m s
  | .vsqrt h ty d a rm m => Sys2Proof.Machine.execVsqrt h ty d a rm m s
  | .vrcp h ty d a rm m => Sys2Proof.Machine.execVrcp h ty d a rm m s
  | .vexp2 h d a rm m => Sys2Proof.Machine.execVexp2 h d a rm m s
  | .vlogic h op ty d a b m => Sys2Proof.Machine.execVlogic h op ty d a b m s
  | .vshift h op ty d a b m => Sys2Proof.Machine.execVshift h op ty d a b m s
  | .vbits h op ty d a m => Sys2Proof.Machine.execVbits h op ty d a m s
  | .vclass h ty d a m => Sys2Proof.Machine.execVclass h ty d a m s
  | .vcmp h op ty d a b m => Sys2Proof.Machine.execVcmp h op ty d a b m s
  | .vsel h ty d a b c m => Sys2Proof.Machine.execVsel h ty d a b c m s
  | .vcvt h dst src d a slice rm sat m => Sys2Proof.Machine.execVcvt h dst src d a slice rm sat m s
  | .vred h op ty d a rm k => Sys2Proof.Machine.execVred h op ty d a rm k s
  | .vscan h op ty d a rm m => Sys2Proof.Machine.execVscan h op ty d a rm m s
  | .vld h d m => Sys2Proof.Machine.execVld h d m s
  | .vst h d m => Sys2Proof.Machine.execVst h d m s
  | .vlds h ty d base stride m => Sys2Proof.Machine.execVlds h ty d base stride m s
  | .vsts h ty d base stride m => Sys2Proof.Machine.execVsts h ty d base stride m s
  | .vgath h ty d base off scale m => Sys2Proof.Machine.execVgath h ty d base off scale m s
  | .vscat h ty d base off scale m => Sys2Proof.Machine.execVscat h ty d base off scale m s
  | .vbcast h ty d a m => Sys2Proof.Machine.execVbcast h ty d a m s
  | .vextr h ty d a k => Sys2Proof.Machine.execVextr h ty d a k s
  | .vinsr h ty d a k => Sys2Proof.Machine.execVinsr h ty d a k s
  | .vperm h ty d a b m => Sys2Proof.Machine.execVperm h ty d a b m s
  | .vshuf h ty d a b c m => Sys2Proof.Machine.execVshuf h ty d a b c m s
  | .vslide h ty d a b k m => Sys2Proof.Machine.execVslide h ty d a b k m s
  | .vmov h ty d a m => Sys2Proof.Machine.execVmov h ty d a m s
  | .viota h ty d a b m => Sys2Proof.Machine.execViota h ty d a b m s
  | .vmask h op d a b => Sys2Proof.Machine.execVmask h op d a b s
  | .vdot h e5 d a b m => Sys2Proof.Machine.execVdot h e5 d a b m s
  | .vdoti h uns sat d a b c m => Sys2Proof.Machine.execVdoti h uns sat d a b c m s
  | .dmma h d a b c rm => Sys2Proof.Machine.execDmma h d a b c rm s
  | .vrng h d k c => Sys2Proof.Machine.execVrng h d k c s
  | .bcvt h src g tab d a x => Sys2Proof.Machine.execBcvt h src g tab d a x s
  | .bexp h src g d a => Sys2Proof.Machine.execBexp h src g d a s
  | .bunp h p d a => Sys2Proof.Machine.execBunp h p d a s
  | .bsat h p d a => Sys2Proof.Machine.execBsat h p d a s
  | .bstat h => Sys2Proof.Machine.execBstat h s
  | .bnorm h d a x m => Sys2Proof.Machine.execBnorm h d a x m s
  | .balign h d a x => Sys2Proof.Machine.execBalign h d a x s
  | .bchk h a b => Sys2Proof.Machine.execBchk h a b s
  | .tclm h t => Sys2Proof.Machine.execTclm h t s
  | .trel h t => Sys2Proof.Machine.execTrel h t s
  | .tld h t p xa xb fmt tr tab chk => Sys2Proof.Machine.execTld h t p xa xb fmt tr tab chk s
  | .tmma h a ta tb => Sys2Proof.Machine.execTmma h a ta tb s
  | .tmmi h sat a ta tb => Sys2Proof.Machine.execTmmi h sat a ta tb s
  | .tzero h a => Sys2Proof.Machine.execTzero h a s
  | .trdRaw h a row d x => Sys2Proof.Machine.execTrdRaw h a row d x s
  | .trdI32 h a row d => Sys2Proof.Machine.execTrdI32 h a row d s
  | .twrRaw h a row d => Sys2Proof.Machine.execTwrRaw h a row d s
  | .twrI32 h a row d => Sys2Proof.Machine.execTwrI32 h a row d s
  | .twrExp h a x => Sys2Proof.Machine.execTwrExp h a x s
  | .tsh h a n => Sys2Proof.Machine.execTsh h a n s
  | .tshTo h a x => Sys2Proof.Machine.execTshTo h a x s
  | .tstatSlots h x => Sys2Proof.Machine.execTstatSlots h x s
  | .tstatExp h a x => Sys2Proof.Machine.execTstatExp h a x s
  | .tstatRed h x q => Sys2Proof.Machine.execTstatRed h x q s
  | .tcvt h a row xt d rm => Sys2Proof.Machine.execTcvt h a row xt d rm s
  | .tsend h a row q => Sys2Proof.Machine.execTsend h a row q s
  | .tsendOpen h q depth => Sys2Proof.Machine.execTsendOpen h q depth s
  | .trecv h d x q => Sys2Proof.Machine.execTrecv h d x q s
  | .qbindIn h q cls => Sys2Proof.Machine.execQbindIn h q cls s
  | .qbindOut h q cls a hd => Sys2Proof.Machine.execQbindOut h q cls a hd s
  | .qbindPantry h q p => Sys2Proof.Machine.execQbindPantry h q p s
  | .qbindLarder h q a => Sys2Proof.Machine.execQbindLarder h q a s
  | .qbindCap h q a => Sys2Proof.Machine.execQbindCap h q a s
  | .qfree h q => Sys2Proof.Machine.execQfree h q s
  | .pop h d q k => Sys2Proof.Machine.execPop h d q k s
  | .vpop h d q => Sys2Proof.Machine.execVpop h d q s
  | .qpeek h d q k => Sys2Proof.Machine.execQpeek h d q k s
  | .push h q a => Sys2Proof.Machine.execPush h q a s
  | .vpush h q a => Sys2Proof.Machine.execVpush h q a s
  | .mopen h q n1 => Sys2Proof.Machine.execMopen h q n1 s
  | .mclose h q => Sys2Proof.Machine.execMclose h q s
  | .qstat h d q => Sys2Proof.Machine.execQstat h d q s
  | .clset h cls a => Sys2Proof.Machine.execClset h cls a s
  | .clget h d cls => Sys2Proof.Machine.execClget h d cls s
  | .tbind h k a => Sys2Proof.Machine.execTbind h k a s
  | .tunb h k => Sys2Proof.Machine.execTunb h k s
  | .cellar h m a => Sys2Proof.Machine.execCellar h m a s
  | .put h o => Sys2Proof.Machine.execPut h o s
  | .puts h o inc => Sys2Proof.Machine.execPuts h o inc s
  | .get h o => Sys2Proof.Machine.execGet h o s
  | .radd h op o => Sys2Proof.Machine.execRadd h op o s
  | .ramo h op o cmp => Sys2Proof.Machine.execRamo h op o cmp s
  | .dfadd h o => Sys2Proof.Machine.execDfadd h o s
  | .bread h xs xa xd xx ev he => Sys2Proof.Machine.execBread h xs xa xd xx ev he s
  | .awrite h o => Sys2Proof.Machine.execAwrite h o s
  | .aread h o => Sys2Proof.Machine.execAread h o s
  | .waits h a b => Sys2Proof.Machine.execWaits h a b s
  | .fence h sc => Sys2Proof.Machine.execFence h sc s
  | .bar h id sc => Sys2Proof.Machine.execBar h id sc s
  | .bara h id sc => Sys2Proof.Machine.execBara h id sc s
  | .barw h id sc => Sys2Proof.Machine.execBarw h id sc s
  | .evset h k => Sys2Proof.Machine.execEvset h k s
  | .evsetM h a => Sys2Proof.Machine.execEvsetM h a s
  | .evclr h k => Sys2Proof.Machine.execEvclr h k s
  | .evclrM h a => Sys2Proof.Machine.execEvclrM h a s
  | .evrd h d => Sys2Proof.Machine.execEvrd h d s
  | .hend h => Sys2Proof.Machine.execHend h s
  | .hmov h d src => Sys2Proof.Machine.execHmov h d src s
  | .hst h sz m => Sys2Proof.Machine.execHst h sz m s
  | .hadd h sz fp d m => Sys2Proof.Machine.execHadd h sz fp d m s
  | .pwait h p a => Sys2Proof.Machine.execPwait h p a s
  | .prel h p a => Sys2Proof.Machine.execPrel h p a s
  | .pcur h d p a => Sys2Proof.Machine.execPcur h d p a s
  | .pset h p a => Sys2Proof.Machine.execPset h p a s
  | .lsub h xs xa q => Sys2Proof.Machine.execLsub h xs xa q s
  | .lctlStart h a v => Sys2Proof.Machine.execLctlStart h a v s
  | .lctlRing h a v => Sys2Proof.Machine.execLctlRing h a v s
  | .lctlStop h a => Sys2Proof.Machine.execLctlStop h a s
  | .lctlCsig h a => Sys2Proof.Machine.execLctlCsig h a s
  | .deviceReset env => Sys2Proof.Machine.execDeviceReset env s
  | .patchwaitTimeout => Sys2Proof.Machine.execPatchwaitTimeout s
  | .bootgoWrite p v => Sys2Proof.Machine.execBootgoWrite p v s
  | .registerWrite sp off size v => Sys2Proof.Machine.execRegisterWrite sp off size v s
  | .eventWrite p v => Sys2Proof.Machine.execEventWrite p v s
  | .evmaskWrite p v => Sys2Proof.Machine.execEvmaskWrite p v s
  | .hsemRead who n => Sys2Proof.Machine.execHsemRead who n s
  | .hsemWrite p n v => Sys2Proof.Machine.execHsemWrite p n v s
  | .notifyWrite p slot v => Sys2Proof.Machine.execNotifyWrite p slot v s
  | .qtbaseWrite v => Sys2Proof.Machine.execQtbaseWrite v s
  | .qtlenWrite v => Sys2Proof.Machine.execQtlenWrite v s
  | .hostLinkDown p => Sys2Proof.Machine.execHostLinkDown p s
  | .hostLinkUp p => Sys2Proof.Machine.execHostLinkUp p s
  | .hostPortReset p => Sys2Proof.Machine.execHostPortReset p s
  | .wstopAssert => Sys2Proof.Machine.execWstopAssert s
  | .wstopRelease => Sys2Proof.Machine.execWstopRelease s
  | .wstatRead => Sys2Proof.Machine.execWstatRead s
  | .idataRead => Sys2Proof.Machine.execIdataRead s
  | .idataWrite v => Sys2Proof.Machine.execIdataWrite v s
  | .idataHalt => Sys2Proof.Machine.execIdataHalt s
  | .idataResume => Sys2Proof.Machine.execIdataResume s
  | .faddrWrite v => Sys2Proof.Machine.execFaddrWrite v s
  | .fdataRead => Sys2Proof.Machine.execFdataRead s
  | .fdataWrite v => Sys2Proof.Machine.execFdataWrite v s
  | .fcmdErasecfg => Sys2Proof.Machine.execFcmdErasecfg s
  | .fstatRead => Sys2Proof.Machine.execFstatRead s
  | .flashBusyEnd => Sys2Proof.Machine.execFlashBusyEnd s
  | .powerLimit => Sys2Proof.Machine.execPowerLimit s
  | .powerTrip => Sys2Proof.Machine.execPowerTrip s
  | .queueScan => Sys2Proof.Machine.execQueueScan s
  | .queueIdleUnmap slot => Sys2Proof.Machine.execQueueIdleUnmap slot s
  | .entryFetch slot => Sys2Proof.Machine.execEntryFetch slot s
  | .queueEntryCompletion k => Sys2Proof.Machine.execQueueEntryCompletion k s
  | .launch k => Sys2Proof.Machine.execLaunch k s
  | .coll k => Sys2Proof.Machine.execColl k s
  | .waitq k => Sys2Proof.Machine.execWaitq k s
  | .waitqComplete k => Sys2Proof.Machine.execWaitqComplete k s
  | .signal k => Sys2Proof.Machine.execSignal k s
  | .acopy k => Sys2Proof.Machine.execAcopy k s
  | .amapSetroot k => Sys2Proof.Machine.execAmapSetroot k s
  | .amapMap k => Sys2Proof.Machine.execAmapMap k s
  | .amapUnmap k => Sys2Proof.Machine.execAmapUnmap k s
  | .amapDrop k => Sys2Proof.Machine.execAmapDrop k s
  | .lresume k => Sys2Proof.Machine.execLresume k s
  | .preempt k => Sys2Proof.Machine.execPreempt k s
  | .queryCerts k => Sys2Proof.Machine.execQueryCerts k s
  | .queryAttest k => Sys2Proof.Machine.execQueryAttest k s
  | .querySavesize k => Sys2Proof.Machine.execQuerySavesize k s
  | .dump k => Sys2Proof.Machine.execDump k s
  | .imageLoad k => Sys2Proof.Machine.execImageLoad k s
  | .imageDrop k => Sys2Proof.Machine.execImageDrop k s
  | .regionGrant k => Sys2Proof.Machine.execRegionGrant k s
  | .launchLoadComplete num => Sys2Proof.Machine.execLaunchLoadComplete num s
  | .quiescenceSweep num => Sys2Proof.Machine.execQuiescenceSweep num s
  | .saveComplete num => Sys2Proof.Machine.execSaveComplete num s
  | .preemptBoundExpiry num => Sys2Proof.Machine.execPreemptBoundExpiry num s
  | .forecastUpdate => Sys2Proof.Machine.execForecastUpdate s
  | .sramUe prow pcol => Sys2Proof.Machine.execSramUe prow pcol s
  | .sramCorrected prow pcol addr => Sys2Proof.Machine.execSramCorrected prow pcol addr s
  | .routerFailure prow pcol => Sys2Proof.Machine.execRouterFailure prow pcol s
  | .meshHopError prow pcol out cls => Sys2Proof.Machine.execMeshHopError prow pcol out cls s
  | .retirementWave prow pcol => Sys2Proof.Machine.execRetirementWave prow pcol s
  | .poluriEnable n => Sys2Proof.Machine.execPoluriEnable n s
  | .poluriDisable n => Sys2Proof.Machine.execPoluriDisable n s
  | .poluriFrameReceive n frame => Sys2Proof.Machine.execPoluriFrameReceive n frame s
  | .poluriFlitSend n cls => Sys2Proof.Machine.execPoluriFlitSend n cls s
  | .replayTimeout n => Sys2Proof.Machine.execReplayTimeout n s
  | .poluriRetrain n => Sys2Proof.Machine.execPoluriRetrain n s
  | .trainTimeout n => Sys2Proof.Machine.execTrainTimeout n s
  | .edgeMergeContribution n => Sys2Proof.Machine.execEdgeMergeContribution n s
  | .reduceLate south => Sys2Proof.Machine.execReduceLate south s
  | .atticPortDown n => Sys2Proof.Machine.execAtticPortDown n s
  | .flitHop hop => Sys2Proof.Machine.execFlitHop hop s
  | .mergeCombine prow pcol cls => Sys2Proof.Machine.execMergeCombine prow pcol cls s
  | .renormArrival row col => Sys2Proof.Machine.execRenormArrival row col s
  | .classStall prow pcol cls => Sys2Proof.Machine.execClassStall prow pcol cls s
  | .msgDelivery row col cls => Sys2Proof.Machine.execMsgDelivery row col cls s
  | .cellarToQueue row col cls => Sys2Proof.Machine.execCellarToQueue row col cls s
  | .writeMessage row col cls => Sys2Proof.Machine.execWriteMessage row col cls s
  | .signalMessage row col cls => Sys2Proof.Machine.execSignalMessage row col cls s
  | .rdreqMessage row col cls => Sys2Proof.Machine.execRdreqMessage row col cls s
  | .rdrspMessage row col cls => Sys2Proof.Machine.execRdrspMessage row col cls s
  | .raddMessage row col cls => Sys2Proof.Machine.execRaddMessage row col cls s
  | .amoreqMessage row col cls => Sys2Proof.Machine.execAmoreqMessage row col cls s
  | .amorspMessage row col cls => Sys2Proof.Machine.execAmorspMessage row col cls s
  | .dfaddBatchClose row col addr => Sys2Proof.Machine.execDfaddBatchClose row col addr s
  | .ackMessage row col => Sys2Proof.Machine.execAckMessage row col s
  | .nackMessage row col => Sys2Proof.Machine.execNackMessage row col s
  | .drainMarker row col => Sys2Proof.Machine.execDrainMarker row col s
  | .capRead row col => Sys2Proof.Machine.execCapRead row col s
  | .capWrite row col => Sys2Proof.Machine.execCapWrite row col s
  | .capHalt row col => Sys2Proof.Machine.execCapHalt row col s
  | .capResume row col => Sys2Proof.Machine.execCapResume row col s
  | .capWake row col => Sys2Proof.Machine.execCapWake row col s
  | .pantryPush row col cls => Sys2Proof.Machine.execPantryPush row col cls s
  | .heldDeliveryResume row col cls => Sys2Proof.Machine.execHeldDeliveryResume row col cls s
  | .sramPush row col cls => Sys2Proof.Machine.execSramPush row col cls s
  | .burstDelivery row col => Sys2Proof.Machine.execBurstDelivery row col s
  | .statSink a => Sys2Proof.Machine.execStatSink a s
  | .taskDispatch row col => Sys2Proof.Machine.execTaskDispatch row col s
  | .resultWriteback row col => Sys2Proof.Machine.execResultWriteback row col s
  | .stallRelease row col => Sys2Proof.Machine.execStallRelease row col s
  | .breakpointMatch row col => Sys2Proof.Machine.execBreakpointMatch row col s
  | .barrierRelease sc id row col => Sys2Proof.Machine.execBarrierRelease sc id row col s
  | .sleepWake row col => Sys2Proof.Machine.execSleepWake row col s
  | .sleepTimeout row col => Sys2Proof.Machine.execSleepTimeout row col s
  | .startList n => Sys2Proof.Machine.execStartList n s
  | .startRing n => Sys2Proof.Machine.execStartRing n s
  | .contextStop n => Sys2Proof.Machine.execContextStop n s
  | .csig n => Sys2Proof.Machine.execCsig n s
  | .lsubAppend n => Sys2Proof.Machine.execLsubAppend n s
  | .stream n c => Sys2Proof.Machine.execStream n c s
  | .gather n c => Sys2Proof.Machine.execGather n c s
  | .wback n c => Sys2Proof.Machine.execWback n c s
  | .bcast n c => Sys2Proof.Machine.execBcast n c s
  | .larderSignal n c => Sys2Proof.Machine.execLarderSignal n c s
  | .larderEvent n c => Sys2Proof.Machine.execLarderEvent n c s
  | .waitw n c => Sys2Proof.Machine.execWaitw n c s
  | .waitc n c => Sys2Proof.Machine.execWaitc n c s
  | .larderFence n c => Sys2Proof.Machine.execLarderFence n c s
  | .larderLoop n c => Sys2Proof.Machine.execLarderLoop n c s
  | .endl n c => Sys2Proof.Machine.execEndl n c s
  | .jump n c => Sys2Proof.Machine.execJump n c s
  | .setv n c => Sys2Proof.Machine.execSetv n c s
  | .addv n c => Sys2Proof.Machine.execAddv n c s
  | .larderStop n c => Sys2Proof.Machine.execLarderStop n c s
  | .larderWaitResume n c => Sys2Proof.Machine.execLarderWaitResume n c s
  | .larderSectorIssue n c => Sys2Proof.Machine.execLarderSectorIssue n c s
  | .larderFaultEnter n c => Sys2Proof.Machine.execLarderFaultEnter n c s
  | .atticReadResponse n c => Sys2Proof.Machine.execAtticReadResponse n c s
  | .atticWriteAccept n c => Sys2Proof.Machine.execAtticWriteAccept n c s
  | .breadServiceStart n => Sys2Proof.Machine.execBreadServiceStart n s
  | .powerLoss => Sys2Proof.Machine.execPowerLoss s
  | .breadSourceBurst row col => Sys2Proof.Machine.execBreadSourceBurst row col s

end Sys2Proof.Machine
end

