-- ==== Sys2Proof/Machine/Step.lean ====
section
/-! DEFINITION. The step: one event of the agenda, or one cycle of one core. -/

namespace Sys2Proof.Machine

/-- Whether an instruction is one that a core fetches, and no event of the part. -/
def isFetched (i : Instr) : Bool := i.check.core

/-- A cycle of core k: its turn, and one cycle passes. -/
def stepCore (s : State) (k : Nat) : Host.Outcome State Fault Refusal :=
  if !inGrid k then .fault .noCore
  else
    match turnOf s k with
    | .run i s' => elapseOutcome 1 (exec i s')
    | .dispatch => elapseOutcome 1 (execTaskDispatch (rowOf k) (colOf k) { s with focus := k })
    | .idle => .next (elapse s 1)

/-- One step: what the agenda names next; with an empty agenda, the core in focus has a cycle (log entry 1). -/
def step (s : State) : Host.Outcome State Fault Refusal :=
  match s.agenda with
  | [] => stepCore s s.focus
  | .event i :: rest => if isFetched i then .next { s with agenda := rest } else exec i { s with agenda := rest }
  | .issue row col :: rest => stepCore { s with agenda := rest } (keyOf row col)
  | .elapse n :: rest => .next (elapse { s with agenda := rest } n)

/-- The state in which the next step fetches and runs the instruction whose bits are w. -/
def State.withFetchWord (s : State) (nbits w : Nat) : State := placeWord s (w % 2 ^ nbits)

end Sys2Proof.Machine
end

