-- ==== Sys2Proof/Safety.lean ====
section
/-! DEFINITION. What claims speak of: the canonical form of every memory of the machine, a core that is ready to issue, and
the state after one instruction of it. -/

namespace Sys2Proof

open Sys2Proof.Machine

/-! ## Memories -/

/-- Every byte memory of a core is in canonical form. -/
def coreMemoriesWf (c : Core) : Bool := c.sram.wf && c.istore.wf

/-- Every byte memory of the machine is in canonical form. -/
def memoriesWf (s : State) : Bool :=
  (s.cores.all fun c => coreMemoriesWf c.2) && s.attic.wf && s.port0.mem.wf && s.port1.mem.wf && s.dev.flash.wf &&
    s.dev.patchRam.wf

/-- In FATAL the wafer is stopped (R98). -/
def fatalStops (s : State) : Prop := s.dev.st = .fatal → s.dev.stopped = true

/-! ## A core that issues -/

/-- The core in focus. -/
def focused (s : State) : Core := coreAt s s.focus

/-- What the core in focus sees as it issues the instruction i from its task (R142). -/
def focusEnv (s : State) (word : Word) : Env := envOf s s.focus .main word 0

/-- A core at a still boundary: no pending result, no held trap, no watchpoint met, no breakpoint enabled, no remote
operation in flight (R103, R136, R138, R141). -/
structure Still (c : Core) : Prop where
  pending : c.pending = []
  held : c.held = none
  watch : c.watch = []
  breakpoints : ∀ n, n < 4 → (fget c.sys.dbgpc n 0).getLsbD 0 = false
  ops : c.ops = []
  breads : c.breads = []

/-- A core at a still boundary and in no gang. -/
structure Plain (c : Core) : Prop extends Still c where
  gang : c.gang = none

/-- The guard of an instruction holds (R122): it names f0, or the bit it tests is not the one it negates. -/
def guardTrue (h : Hdr) (c : Core) : Prop := h.g = 0 ∨ (readFm c h.g.toNat).getLsbD 0 ≠ h.gn

/-- The main context of the core in focus issues an instruction of header h now: it is a core of the grid at a plain
boundary, and the guard holds. -/
structure Ready (s : State) (h : Hdr) : Prop where
  grid : inGrid s.focus = true
  ctx : s.ctx = .main
  plain : Plain (focused s)
  guard : guardTrue h (focused s)

/-- The main context of the core in focus issues an instruction of header h now, with engine operations of the core in flight:
none of them holds a register that the instruction names (R138). -/
structure ReadyBusy (s : State) (h : Hdr) (refs : List RegRef) : Prop where
  grid : inGrid s.focus = true
  ctx : s.ctx = .main
  pending : (focused s).pending = []
  held : (focused s).held = none
  watch : (focused s).watch = []
  breakpoints : ∀ n, n < 4 → (fget (focused s).sys.dbgpc n 0).getLsbD 0 = false
  gang : (focused s).gang = none
  free : engineHolds (focused s) refs = false
  guard : guardTrue h (focused s)

/-- The main context of the core in focus comes to a boundary with one result pending, in no gang, and nothing else stands before its
next instruction, which has no guard (R136, R137). -/
structure Owed (s : State) (h : Hdr) (p : Pending) : Prop where
  grid : inGrid s.focus = true
  ctx : s.ctx = .main
  pending : (focused s).pending = [p]
  main : p.ctx = .main
  late : p.late = none
  held : (focused s).held = none
  watch : (focused s).watch = []
  breakpoints : ∀ n, n < 4 → (fget (focused s).sys.dbgpc n 0).getLsbD 0 = false
  gang : (focused s).gang = none
  ops : (focused s).ops = []
  breads : (focused s).breads = []
  guard : h.g = 0

/-- The state with the core in focus replaced after an instruction: one number of free values has been drawn. -/
def withFocus (s : State) (c : Core) : State := setCore { s with freeCtr := s.freeCtr + 1 } s.focus c

/-- A core whose task waits for nothing. -/
def going (c : Core) : Core := { c with wait := .run }

/-- A core past the instruction that its task stands at: its PC is next(PC) (R295). -/
def past (c : Core) : Core := advance (going c) .main c.pc

/-- A core that goes to an address after the instruction its task stands at. -/
def jumped (c : Core) (t : BitVec 16) : Core := setPc (going c) .main t

/-- A core with the results of a long-latency instruction pending (R136): its destinations, flags, counts and deferred
trap, with the window of its LA; array says that it is one of the array's (R373). -/
def owing (h : Hdr) (c : Core) (array : Bool) (dests : List DestVal) (flags : BitVec 5) (n : Counts)
    (late : Option LateTrap) : Core :=
  { c with pending := [⟨.main, c.pc, dests, h.la.toNat, h.la == 0, array, flags, n.sat, n.nan, n.ufl, late⟩] }

/-- x[r] of the core in focus; x[0] reads 0 (R120). -/
def xr (s : State) (r : Reg) : Word := readX (focused s) .main r.toNat
/-- v[r] of the core in focus. -/
def vr (s : State) (r : VReg) : BitVec 512 := readV (focused s) .main r.toNat
/-- f[r] of the core in focus; f[0] reads all ones (R120). -/
def fr (s : State) (r : FReg) : BitVec 16 := readFm (focused s) r.toNat

/-- After a short instruction of the core in focus that leaves its core as given. -/
def did (s : State) (c : Core) : State := withFocus s (past c)
/-- After a short instruction that writes x[d]: x[0] stays as it is. -/
def didX (s : State) (d : Reg) (v : Word) : State := did s (writeX (focused s) .main d.toNat v)
/-- After a short instruction that writes f[d]: f[0] stays as it is. -/
def didF (s : State) (d : Nat) (v : BitVec 16) : State := did s (writeFm (focused s) d v)
/-- After a long-latency instruction: its results are pending, with the flags it raises and the values it counts. -/
def owesC (s : State) (h : Hdr) (dests : List DestVal) (flags : BitVec 5) (n : Counts) : State :=
  did s (owing h (focused s) false dests flags n none)
/-- After a long-latency instruction that counts clamped values alone. -/
def owes (s : State) (h : Hdr) (dests : List DestVal) (flags : BitVec 5) (sat : Nat) : State :=
  owesC s h dests flags ⟨sat, 0, 0⟩
/-- After an array instruction: its tile is pending, with the clamped elements. -/
def owesTile (s : State) (h : Hdr) (a : BitVec 2) (t : Tile) (sat : Nat) : State :=
  did s (owing h (focused s) true [.a a.toNat t] 0 ⟨sat, 0, 0⟩ none)
/-- After a long-latency instruction that raises no flag: x[d] is pending. -/
def owesX (s : State) (h : Hdr) (d : Reg) (v : Word) : State := owes s h [.x d.toNat v] 0 0
/-- After a long-latency instruction that raises no flag: v[d] is pending. -/
def owesV (s : State) (h : Hdr) (d : VReg) (v : BitVec 512) : State := owes s h [.v d.toNat v] 0 0

/-- After a long-latency instruction whose result is a rounded or clamped number: x[d], its flags and its clamps are
pending. -/
def owesR (s : State) (h : Hdr) (d : Reg) (r : FRes) : State := owes s h [.x d.toNat (BitVec.ofNat 64 r.bits)] r.flags r.sat
/-- The datum of a floating-point type in the low bits of x[r] (R312). -/
def fpr (s : State) (ty : Ty) (r : Reg) : FVal := readF ty ((xr s r).toNat % 2 ^ ty.width)
/-- The address of a format M instruction: x[BASE], x[INDEX] shifted (nothing for an INDEX of 0) and DISP24 (R275, R290). -/
def memAddr (s : State) (m : MemOp) : Nat :=
  (xr s m.base + (if m.index = 0 then 0 else xr s m.index <<< m.scale.toNat) + m.disp.signExtend 64).toNat
/-- Local accesses of one size and alignment that every check of R318 passes. -/
def accessOk (s : State) (kind : AccessKind) (al n : Nat) (as : List Nat) : Prop :=
  checkAccess (focused s) kind al n as = none
/-- A local range lies within SRAM, within one valid segment where any is valid, and off the cellar (R147, R168). -/
def inBounds (c : Core) (a n : Nat) : Prop :=
  a + n ≤ 0x80000 ∧
  ((∀ i, i < 8 → (fget c.sys.seg i {}).valid = false) ∨
    ∃ i, i < 8 ∧ let g := fget c.sys.seg i {}
      g.valid = true ∧ 4096 * g.base.toNat ≤ a ∧ a + n ≤ 4096 * (g.base.toNat + g.size.toNat)) ∧
  ∀ b sz, c.cellar = some (b, sz) → rangesMeet a n b.toNat sz = false
/-- v is the first address of a list that breaks a rule. -/
def firstFails (ok : Nat → Prop) (as : List Nat) (v : Nat) : Prop :=
  ∃ pre post, as = pre ++ v :: post ∧ (∀ b, b ∈ pre → ok b) ∧ ¬ ok v
/-- Local accesses of one size and alignment that trap, with a code and the address of the first that breaks the first rule of R318
that any of them breaks: alignment, bound, or, for a store that meets no watchpoint, the source range of an operation in flight. -/
def accessTraps (c : Core) (kind : AccessKind) (al n : Nat) (as : List Nat) (code : BitVec 8) (v : Nat) : Prop :=
  (code = eAlign ∧ firstFails (fun a => a % al = 0) as v) ∨
  ((∀ a, a ∈ as → a % al = 0) ∧
    ((code = eBound ∧ firstFails (fun a => inBounds c a n) as v) ∨
     (code = eLock ∧ kind.store = true ∧
       (∀ a, a ∈ as → inBounds c a n ∧ watchHit c kind.load kind.store a n = none) ∧
       firstFails (fun a => ∀ o, o ∈ c.ops → o.src = true → rangesMeet a n o.lo o.len = false) as v)))
/-- After a short instruction that stores bytes into SRAM from an address on. -/
def didStore (s : State) (a : Nat) (bs : List Byte) : State := did s (storeBytes (focused s) a bs)

/-- After a masked vector instruction whose lane k of width w is f k: the active lanes of v[d] are pending with their flags and
clamps, the others are kept, or 0 with ZERO (R332). -/
def owesLanes (s : State) (h : Hdr) (w : Nat) (d : VReg) (m : Mask) (f : Nat → FRes) : State :=
  let r := maskResult w (fr s m.k) m.z (vr s d) ((List.range (512 / w)).map f)
  owes s h [.v d.toNat r.1] r.2.1 r.2.2
/-- The flags that the active ones of n results raise together (R182). -/
def raisedBy (n : Nat) (act : Nat → Bool) (r : Nat → FRes) : BitVec 5 :=
  ((List.range n).filter act).foldl (fun f k => f ||| (r k).flags) 0
/-- How many values the active ones of n results clamp (R192). -/
def clampedBy (n : Nat) (act : Nat → Bool) (r : Nat → FRes) : Nat :=
  ((List.range n).filter act).foldl (fun t k => t + (r k).sat) 0
/-- Lane k of v[r] at a type's width. -/
def lanev (s : State) (ty : Ty) (r : VReg) (k : Nat) : Nat := lane ty.width (vr s r) k
/-- The lanes of a type that a mask register makes active, in ascending order. -/
def liveLanes (s : State) (ty : Ty) (k : FReg) : List Nat := (List.range ty.lanes).filter fun i => (fr s k).getLsbD i

/-- After an instruction that leaves its core as given and goes to an address. -/
def goTo (s : State) (c : Core) (t : BitVec 16) : State := withFocus s (jumped c t)
/-- The word address that a branch names: its own address and eight times its offset, modulo 2^16 (R276). -/
def target (s : State) (off : BitVec 32) : BitVec 16 := BitVec.ofInt 16 ((focused s).pc.toNat + 8 * off.toInt)

/-- A trap of the task in focus, with the trapping instruction as its resume point (R141, R142). -/
def trapped (s : State) (code : BitVec 8) (val : Word) : State :=
  let a := (focused s).pc
  contextTrap { s with freeCtr := s.freeCtr + 1 } s.focus .main ⟨code, val, a, a, none, false⟩ a

/-- An outcome that goes on, in a state with a property. -/
def goesOn (o : Host.Outcome State Fault Refusal) (P : State → Prop) : Prop := ∃ t, o = .next t ∧ P t

/-! ## What the core in focus may reach -/

/-- The launch that holds the core in focus. -/
def launchHere (s : State) : Option Launch := launchOf s (rowOf s.focus) (colOf s.focus)
/-- A coordinate in the region of the core in focus. -/
def inOwn (s : State) (row col : Nat) : Prop := ∃ l, launchHere s = some l ∧ inRegion l row col = true
/-- A coordinate that a handle reaches with a right: its seal, the right's bit and its rectangle (R119). -/
def reachedBy (s : State) (hd : Word) (right row col : Nat) : Prop :=
  sealOk s.dev.sealKey hd = true ∧ hd.getLsbD right = true ∧ inRect hd row col = true
/-- After a short instruction that binds queue register q. -/
def didBind (s : State) (q : BitVec 4) (b : QBind) : State := did s (writeQ (focused s) q.toNat b)

/-- Whether the word of an instruction and the state at its issue break a rule of mode or permission, before any register's
value counts: RETT and CELLAR in user mode, a task instruction or an access of a privileged register in the other mode, a class
that the launch may not use, a barrier id that its image does not hold (R122, R142). Its E_PRIV stands before the guard. -/
def privByWord (s : State) : Instr → Bool
  | .rett _ | .cellar _ _ _ => !(focused s).sys.mode
  | .tend _ | .tyield _ | .twait _ => (focused s).sys.mode
  | .rdsys _ _ n => !(focused s).sys.mode && decide (0x012 ≤ n.toNat ∧ n.toNat ≤ 0x015)
  | .wrsys _ _ n => !(focused s).sys.mode && !([0x008#12, 0x009#12, 0x00E#12, 0x00F#12, 0x010#12].contains n)
  | .bar _ id sc | .bara _ id sc | .barw _ id sc => !holdsBarrier (launchHere s) sc id
  | .qbindIn _ _ cls => !classAllowed (launchHere s) cls.toNat && !(cls == 24 && (focused s).sys.mode)
  | .qbindOut _ _ cls _ _ | .clset _ cls _ => !classAllowed (launchHere s) cls.toNat
  | .put _ o | .puts _ o _ | .get _ o | .radd _ _ o | .ramo _ _ o _ | .dfadd _ o | .awrite _ o | .aread _ o =>
    !classAllowed (launchHere s) o.cls.toNat
  | _ => false

/-- The handle of an engine operation: none for register 0 (R398). -/
def handleOf (s : State) (o : EngOp) : Option Word := if o.handle = 0 then none else some (xr s o.handle)

/-- A core-space address, with a handle or without, whose checks of R211 all pass for a length. -/
def coreReaches (s : State) (hd : Option Word) (v : Word) (n : Nat) : Prop :=
  let t := absTarget (launchHere s) hd v
  v.getLsbD 63 = false ∧ v.extractLsb' 57 6 = 0 ∧
    (match hd with | none => inShape (launchHere s) v = true | some h => t.1 < 224 ∧ t.2 < 384 ∧ reachedBy s h 36 t.1 t.2) ∧
    unavailable s.dev t.1 t.2 = false ∧
    (v.extractLsb' 0 39).toNat < 0x80000 ∧ (v.extractLsb' 0 39).toNat + n ≤ 0x80000

/-- A core-space address that R211 refuses with a code: RANGE outside the region's shape, SEAL where a handle does not reach a core of
the grid. -/
def coreRefuses (s : State) (hd : Option Word) (v : Word) (code : Nat) : Prop :=
  let t := absTarget (launchHere s) hd v
  v.getLsbD 63 = false ∧
    match hd with
    | none => inShape (launchHere s) v = false ∧ code = 5
    | some h => v.extractLsb' 57 6 = 0 ∧ t.1 < 224 ∧ t.2 < 384 ∧ ¬ reachedBy s h 36 t.1 t.2 ∧ code = 4

/-! ## Handler contexts -/

/-- Handler context k of the core in focus issues an unguarded instruction of header h now. -/
structure ReadyIn (s : State) (h : Hdr) (k : Nat) : Prop where
  grid : inGrid s.focus = true
  ctx : s.ctx = .handler k
  pending : (focused s).pending = []
  watch : (focused s).watch = []
  breakpoints : ∀ n, n < 4 → (fget (focused s).sys.dbgpc n 0).getLsbD 0 = false
  guard : h.g = 0

/-- After an instruction of handler context k that leaves its core as given. -/
def inHandler (s : State) (k : Nat) (c : Core) : State :=
  withFocus s (setPc c (.handler k) ((handlerAt (focused s) k).pc + 8))

/-- The address of a format M instruction of handler context k. -/
def handlerAddr (s : State) (k : Nat) (m : MemOp) : Nat :=
  (readX (focused s) (.handler k) m.base.toNat +
    (if m.index = 0 then 0 else readX (focused s) (.handler k) m.index.toNat <<< m.scale.toNat) +
    m.disp.signExtend 64).toNat

/-- A core with the lanes of a vector register added into 64 bytes of its SRAM, with the flags of FP32 sums (R413). -/
def added (c : Core) (sz : StSize) (fp : Bool) (v : BitVec 512) (a : Nat) : Core :=
  let w := 8 * stBytes sz
  let old := BitVec.ofNat 512 (c.sram.readLE a 64)
  let rs := (List.range (512 / w)).map fun i => haddLane sz fp (lane w old i) (lane w v i)
  addFlags (storeBytes c a (byteSlice (packV w (rs.map (·.bits))) 0 64)) (rs.foldl (fun f r => f ||| r.flags) 0) 0 0 0

/-! ## Queue entries -/

/-- An entry has come to its end with a status, a detail and a result. -/
def endsAs (t : State) (k : EntryKey) (status detail result : Nat) : Prop :=
  (entryAt t k).map (·.st) = some (.done status detail result)

/-- As the cycle ends, the fault noted of a launch aborts it: its entry ends ABORT with the CAUSE as detail (R97). -/
def abortsWith (t : State) (l : Launch) (cause : Nat) : Prop :=
  launchNum (settleFaults t) l.num = none ∧ endsAs (settleFaults t) l.key 3 cause 0

/-- As the cycle ends, a wafer-wide fault noted leaves FATAL: the wafer is stopped, and both ports have the event (R98). -/
def goesFatal (t : State) : Prop :=
  let u := settleFaults t
  u.dev.st = .fatal ∧ u.dev.stopped = true ∧ u.port0.event.getLsbD 2 = true ∧ u.port1.event.getLsbD 2 = true

/-- The cores while the stall wire is asserted: a wait at GANG is abandoned (R100, R300). -/
def coresStopped (s : State) : FMap Core := if s.dev.stopped then s.cores else s.cores.map fun e => (e.1, abandonGang e.2)

/-! ## Messages at a core -/

/-- A whole message stands at the head of what a core has received of a class: its first flit and its data flits, and nothing
after them; the wafer runs. -/
structure Arrived (s : State) (row col cls : Nat) (f : Flit) (ds : List Flit) : Prop where
  running : s.dev.stopped = false
  grid : inGrid (keyOf row col) = true
  rx : fget (coreAt s (keyOf row col)).rx cls [] = f :: ds
  whole : ds.length + 1 = messageSize f

/-- The core once its message of a class is taken. -/
def taking (s : State) (row col cls : Nat) : Core :=
  let c := coreAt s (keyOf row col)
  { c with rx := fset c.rx cls [], verdicts := fdel c.verdicts cls, accepted := fdel c.accepted cls }

/-- The state once a message has been performed and its flits counted (R86), what is sent to a source that has become unavailable
being rejected (R115); copies of the core's own that wait to leave carry what it wrote or not (R225). -/
def taken (s : State) (row col cls : Nat) (f : Flit) (ds : List Flit) (c : Core) : State :=
  putReached s (keyOf row col)
    (refreshReady (countTaken s row col cls (keepAnswer s f (taking s row col cls) c) f (ds.length + 1)))

/-- The verdict on the message at the head of a class of a core: the code it is refused with, if any (R216). -/
def verdict (s : State) (row col cls : Nat) (f : Flit) : Option Nat :=
  verdictOn s row col cls (coreAt s (keyOf row col)) f

/-! ## Larders -/

/-- Context c of larder n executes a command now, for its launch: it runs, with no command in progress and no fault found,
and the words at its CP are the command; x is the context once they are fetched (R243). -/
def Executes (s : State) (n c : Nat) (l : Launch) (x : LCtx) (m : LCmd) : Prop :=
  ∃ (y : LCtx) (w v : Word), s.dev.stopped = false ∧ launchBound s n = some l ∧ c < 15 ∧
    (lctxAt (larderAt s n) c).st = .run ∧ (lctxAt (larderAt s n) c).found = none ∧ (lctxAt (larderAt s n) c).cmd = none ∧
    ringEmpty (lctxAt (larderAt s n) c) = false ∧ fetchCmd s l (lctxAt (larderAt s n) c) = .ok (w, v, y) ∧
    cmdOf w v = some m ∧ classOk l m = true ∧ x = { y with cmd := some (w, v) }

end Sys2Proof
end

