-- ==== Sys2Proof/Certificates/Slice0/Obligations.lean ====
section
/-! DEFINITION. The statements about the model that the provers are given. A state is stated by the vocabulary of Safety:
Ready says when the task of the core in focus issues, did, didX, didF, owes and their kin what stands after it. -/

open Sys2Proof Sys2Proof.Machine

/-! ## Decoding and the step (R270 to R281) -/

/-- Decoding the word of a well-formed instruction gives it back, for every instruction of a core and every value of its
operands. -/
def Obligations.DecodeEncode : Prop :=
  ∀ i : Instr, i.wf = true → decode (encode i) = .ok i

/-- What the decoder accepts is well formed, and the word is its encoding, so that no bit of a word is passed over; the word
of all ones is illegal, and no word decodes to an event. -/
def Obligations.EncodeDecode : Prop :=
  (∀ (w : Word) (i : Instr), decode w = .ok i → i.wf = true ∧ encode i = w ∧ isFetched i = true) ∧
  decode (BitVec.allOnes 64) = .error .illegal ∧
  (∀ w : Word, opOf w = 0 → w ≠ 0 → decode w = .error .reserved) ∧
  (∀ w : Word, formatOf (opOf w).toNat = none → decode w = .error .illegal)

/-- Words written out from the encodings of the spec decode to the instructions they stand for. -/
def Obligations.DecodeWords : Prop :=
  decode 0 = .ok .nop ∧
  decode 0x3000_1C41_5B00_0040 = .ok (.ld Hdr.plain .i64 7 ⟨4, 5, 3, 0x40⟩) ∧
  decode 0x4035_1051_8000_9000 = .ok (.vadd ⟨3, 2, true⟩ .f32 4 5 6 .rne false Mask.plain) ∧
  decode 0x0200_0C42_FFFF_FFFE = .ok (.brc Hdr.plain .lt 3 4 0xFFFF_FFFE) ∧
  decode 0x0700_2410_0000_0003 = .ok (.loop Hdr.plain true 9 3) ∧
  decode 0x8300_5300_0000_0000 = .ok (.tmma Hdr.plain 1 2 3) ∧
  decode 0xC000_0000_0000_0100 = .ok (.bar Hdr.plain 0 .quad) ∧
  decode 0xFFFF_FFFF_FFFF_FFFF = .error .illegal ∧
  decode 0x0000_0000_0000_0001 = .error .reserved

/-- A step runs the decoded instruction. With an empty agenda and a task running on the core in focus, alone, the word at its
PC is decoded: an instruction is executed, and a word that is none traps as its fate says; one cycle passes. The agenda names
an event, a core, or cycles that pass instead. The agenda is the model's choice (log entry 1), and so is that an instruction
takes the one cycle in which it issues, with no stall for latency (log entry 8). -/
def Obligations.StepRunsDecoded : Prop :=
  ∀ (s : State),
    (s.agenda = [] → inGrid s.focus = true → s.dev.stopped = false → (focused s).halted = false → (focused s).frozen = false →
      (focused s).sleep = .awake → (focused s).running.isSome = true → (focused s).gang = none →
      (focused s).resetting = false → (focused s).draining = false → (focused s).wait = .run → (∀ k, (handlerAt (focused s) k).busy = false) →
      let w := istoreWord (focused s) (focused s).pc
      let at_ := { setCore s s.focus { focused s with lastIssue := 0 } with ctx := .main }
      (∀ i, decode w = .ok i → step s = elapseOutcome 1 (exec i at_)) ∧
      (∀ f, decode w = .error f → step s = elapseOutcome 1 (exec (.undefinedInstruction w f) at_))) ∧
    (∀ (i : Instr) (rest : List Pick), s.agenda = .event i :: rest → isFetched i = false →
      step s = exec i { s with agenda := rest }) ∧
    (∀ (row col : Nat) (rest : List Pick), s.agenda = .issue row col :: rest →
      step s = stepCore { s with agenda := rest } (keyOf row col)) ∧
    (∀ (n : Nat) (rest : List Pick), s.agenda = .elapse n :: rest →
      step s = .next (elapse { s with agenda := rest } n) ∧
      (s.dev.faults = [] → goesOn (step s) fun t => t.cycle = s.cycle + n ∧ t.agenda = rest ∧ t.dev = s.dev ∧
        t.cores = s.cores.map fun e => (e.1, tickCore n (if s.dev.stopped = true then e.2 else settleBreads (readWaits s e.2)))))

/-! ## Reset, launch start and the invariant (R49, R81, R98, R117, R123) -/

/-- At reset the part is in RESET, runs nothing, holds no launch and no queue, has both ports' EVENT and EVMASK 0 and every
memory in canonical form, and meets the invariant of StoppedInFatal. That EVENT, EVMASK and the agenda are empty at this
point, before the reset of the part is taken, is the model's choice (log entry 2). -/
def Obligations.ResetState : Prop :=
  State.reset.dev.st = .reset ∧ State.reset.dev.stopped = false ∧ State.reset.cores = [] ∧ State.reset.unrid = {} ∧
  State.reset.port0.event = 0 ∧ State.reset.port1.event = 0 ∧ State.reset.port0.evmask = 0 ∧
  State.reset.port1.evmask = 0 ∧ State.reset.agenda = [] ∧
  State.reset.cycle = 0 ∧ memoriesWf State.reset = true ∧ fatalStops State.reset ∧
  step State.reset = .next (elapse State.reset 1)

/-- When a launch enters RUNNING without RESUME, every core of its region starts as R123 says: registers 0, slots free, queue
registers unbound, event flag 0 alone set and the other flags and counters 0, no segment, HAZMODE and DETMODE of the launch,
system mode, and task entries 1 to 31 empty; task 0 of a core with a role is at the TARGET of its role's code section, at
priority 0, bound to event flag 0. -/
def Obligations.StartOfACore : Prop :=
  ∀ (s : State) (num : Nat) (l : Launch) (i : Image), launchNum s num = some l → s.dev.stopped = false → l.st = .loading →
    faulted s num = false → argLost s l = false → l.img = some i → l.lflags.getLsbD 1 = false →
    l.orgCol + l.cols ≤ 384 →
    goesOn (exec (.launchLoadComplete num) s) fun t => (launchNum t num).map (·.st) = some .running ∧
      ∀ k, k ∈ regionKeys l →
        let c := coreAt t k
        (∀ n, readX c .main n = 0 ∧ readV c .main n = 0 ∧ (n ≠ 0 → readFm c n = 0) ∧ (readLc c n).count = 0 ∧
          (readAcc c n).exp = 0 ∧ (∀ e, fget (readAcc c n).el e 0 = 0) ∧ (readSlot c n).claimed = false ∧
          readQ c n = .unbound ∧ (fget c.sys.seg n {}).valid = false) ∧
        c.sys.fpflags = 0 ∧ c.sys.satcnt = 0 ∧ c.sys.nancnt = 0 ∧ c.sys.uflcnt = 0 ∧ c.sys.vecen = false ∧ c.sys.vec = 0 ∧
        c.sys.cause = 0 ∧ c.sys.trappc = 0 ∧ c.sys.trapval = 0 ∧ c.sys.evflags = 1 ∧
        c.sys.precise = l.lflags.getLsbD 0 ∧ c.sys.det = l.lflags.getLsbD 0 ∧ c.sys.mode = true ∧ c.sys.pmode = false ∧
        (∀ n, n ≠ 0 → ffind c.tasks n = none) ∧
        ∀ r sec, roleOf i (rowOf k - l.orgRow) (colOf k - l.orgCol) = some r → i.sections[r.code]? = some sec →
          ∃ x, ffind c.tasks 0 = some x ∧ x.entry = BitVec.ofNat 16 sec.target ∧ x.pc = BitVec.ofNat 16 sec.target ∧
            x.prio = 0 ∧ x.onEvent = true ∧ x.k = 0

/-- Every step keeps the wafer stopped in FATAL: from every state that does so, whatever the agenda names. -/
def Obligations.StoppedInFatal : Prop :=
  ∀ s t : State, fatalStops s → step s = .next t → fatalStops t

/-! ## Scalar integer results (R291, R303 to R311) -/

/-- AND, OR, XOR, ANDN and the four minima and maxima write x[D] with a function of the two 64-bit words at once, and change
nothing else but the PC. ADD and SUB write x[D] at once: the 64-bit sum or difference, or the low 32 bits of it sign-extended. -/
def Obligations.IntegerResults : Prop :=
  (∀ (h : Hdr) (d a b : Reg) (s : State), Ready s h →
    exec (.and h d a b) s = .next (didX s d (xr s a &&& xr s b)) ∧
    exec (.or h d a b) s = .next (didX s d (xr s a ||| xr s b)) ∧
    exec (.xor h d a b) s = .next (didX s d (xr s a ^^^ xr s b)) ∧
    exec (.andn h d a b) s = .next (didX s d (xr s a &&& ~~~ xr s b)) ∧
    exec (.min h d a b) s = .next (didX s d (if (xr s b).toInt < (xr s a).toInt then xr s b else xr s a)) ∧
    exec (.max h d a b) s = .next (didX s d (if (xr s a).toInt < (xr s b).toInt then xr s b else xr s a)) ∧
    exec (.minu h d a b) s = .next (didX s d (if (xr s b).toNat < (xr s a).toNat then xr s b else xr s a)) ∧
    exec (.maxu h d a b) s = .next (didX s d (if (xr s a).toNat < (xr s b).toNat then xr s b else xr s a))) ∧
  (∀ (h : Hdr) (d a b : Reg) (s : State), Ready s h →
    exec (.add h .i64 d a b) s = .next (didX s d (xr s a + xr s b)) ∧
    exec (.sub h .i64 d a b) s = .next (didX s d (xr s a - xr s b)) ∧
    exec (.add h .i32 d a b) s = .next (didX s d (((xr s a + xr s b).setWidth 32).signExtend 64)) ∧
    exec (.sub h .i32 d a b) s = .next (didX s d (((xr s a - xr s b).setWidth 32).signExtend 64)))

/-- MUL and MULH (R303), DIV and REM (R304) owe x[D]: the low or the high half of the exact product; the quotient truncated towards zero and
its remainder, with -1 or all ones and the dividend for a divisor of 0, and no trap on any operands. -/
def Obligations.MulDivResults : Prop :=
  ∀ (h : Hdr) (d a b : Reg) (s : State), Ready s h →
    exec (.mul h .i64 d a b) s = .next (owesX s h d (xr s a * xr s b)) ∧
    exec (.mul h .i32 d a b) s = .next (owesX s h d (((xr s a * xr s b).setWidth 32).signExtend 64)) ∧
    exec (.mulh h .i64 d a b) s = .next (owesX s h d (BitVec.ofInt 64 ((xr s a).toInt * (xr s b).toInt / 2 ^ 64))) ∧
    exec (.mulh h .n64 d a b) s = .next (owesX s h d (BitVec.ofNat 64 ((xr s a).toNat * (xr s b).toNat / 2 ^ 64))) ∧
    exec (.div h .i64 d a b) s =
      .next (owesX s h d (if xr s b = 0 then BitVec.allOnes 64 else BitVec.ofInt 64 ((xr s a).toInt.tdiv (xr s b).toInt))) ∧
    exec (.div h .n64 d a b) s =
      .next (owesX s h d (if xr s b = 0 then BitVec.allOnes 64 else BitVec.ofNat 64 ((xr s a).toNat / (xr s b).toNat))) ∧
    exec (.rem h .i64 d a b) s =
      .next (owesX s h d (if xr s b = 0 then xr s a else BitVec.ofInt 64 ((xr s a).toInt.tmod (xr s b).toInt))) ∧
    exec (.rem h .n64 d a b) s =
      .next (owesX s h d (if xr s b = 0 then xr s a else BitVec.ofNat 64 ((xr s a).toNat % (xr s b).toNat))) ∧
    let p : BitVec 32 := (xr s a).setWidth 32
    let q : BitVec 32 := (xr s b).setWidth 32
    exec (.div h .i32 d a b) s = .next (owesX s h d
      ((if q = 0 then BitVec.allOnes 32 else BitVec.ofInt 32 (p.toInt.tdiv q.toInt)).signExtend 64)) ∧
    exec (.div h .n32 d a b) s = .next (owesX s h d
      ((if q = 0 then BitVec.allOnes 32 else BitVec.ofNat 32 (p.toNat / q.toNat)).setWidth 64)) ∧
    exec (.rem h .i32 d a b) s = .next (owesX s h d
      ((if q = 0 then p else BitVec.ofInt 32 (p.toInt.tmod q.toInt)).signExtend 64)) ∧
    exec (.rem h .n32 d a b) s = .next (owesX s h d
      ((if q = 0 then p else BitVec.ofNat 32 (p.toNat % q.toNat)).setWidth 64))

/-- The shifts take their count modulo the width (R303). The bit instructions write a function of the low w bits of x[S1],
zero-extended: how many bits lead or trail the ones, or how many are ones, the bits in reverse order, the bytes in reverse
order (R305). Each writes x[D] at once. -/
def Obligations.ShiftBitResults : Prop :=
  ∀ (h : Hdr) (d a b : Reg) (s : State), Ready s h →
    (∀ ty : Ty, ty.isI = true →
      exec (.shl h ty d a b) s =
        .next (didX s d (extendI ty (((xr s a).toNat * 2 ^ ((xr s b).toNat % ty.width) : Nat)))) ∧
      exec (.shr h ty d a b) s =
        .next (didX s d (extendI ty (((xr s a).toNat % 2 ^ ty.width / 2 ^ ((xr s b).toNat % ty.width) : Nat)))) ∧
      exec (.sar h ty d a b) s =
        .next (didX s d (extendI ty (tyReadInt ty (xr s a).toNat / 2 ^ ((xr s b).toNat % ty.width)))) ∧
      exec (.rotr h ty d a b) s = .next (didX s d (extendI ty (shiftN .rotr ty.width (xr s a).toNat (xr s b).toNat : Nat)))) ∧
    (∀ ty : Ty, ty = .i64 ∨ ty = .n32 →
      exec (.clz h ty d a) s = .next (didX s d (BitVec.ofNat 64 (clzN ty.width ((xr s a).toNat % 2 ^ ty.width)))) ∧
      exec (.ctz h ty d a) s = .next (didX s d (BitVec.ofNat 64 (ctzN ty.width ((xr s a).toNat % 2 ^ ty.width)))) ∧
      exec (.popc h ty d a) s = .next (didX s d (BitVec.ofNat 64 (popcN ty.width ((xr s a).toNat % 2 ^ ty.width)))) ∧
      exec (.brev h ty d a) s = .next (didX s d (BitVec.ofNat 64 (brevN ty.width ((xr s a).toNat % 2 ^ ty.width)))) ∧
      exec (.bswap h ty d a) s =
        .next (didX s d (BitVec.ofNat 64 (bswapN (ty.width / 8) ((xr s a).toNat % 2 ^ ty.width)))) ∧
      let w := ty.width
      let v := xr s a
      (∃ n : Nat, exec (.clz h ty d a) s = .next (didX s d (BitVec.ofNat 64 n)) ∧ n ≤ w ∧
        (∀ i, w - n ≤ i → i < w → v.getLsbD i = false) ∧ (n < w → v.getLsbD (w - 1 - n) = true)) ∧
      (∃ n : Nat, exec (.ctz h ty d a) s = .next (didX s d (BitVec.ofNat 64 n)) ∧ n ≤ w ∧
        (∀ i, i < n → v.getLsbD i = false) ∧ (n < w → v.getLsbD n = true)) ∧
      exec (.popc h ty d a) s = .next (didX s d (BitVec.ofNat 64 ((List.range w).filter fun i => v.getLsbD i).length)) ∧
      (∃ r : Word, exec (.brev h ty d a) s = .next (didX s d r) ∧
        ∀ i, i < 64 → r.getLsbD i = (decide (i < w) && v.getLsbD (w - 1 - i))) ∧
      (∃ r : Word, exec (.bswap h ty d a) s = .next (didX s d r) ∧
        ∀ i, i < 64 → r.getLsbD i = (decide (i < w) && v.getLsbD (8 * (w / 8 - 1 - i / 8) + i % 8))))

/-- The immediate forms use IMM32 sign-extended to 64 bits (R306); LI writes it, LI.hi puts it in the high half and keeps the
low half (R307); CMP, CMPI and SEL write 1 or 0, all ones or zeros, or one of two registers (R308, R306, R309). MOV copies between
the register files, a narrower source zero-extended and a wider one cut (R310); EXT reads and INS replaces a bit field (R311). -/
def Obligations.ImmediateAndMoveResults : Prop :=
  (∀ (h : Hdr) (d a b : Reg) (imm : BitVec 32) (s : State), Ready s h →
    exec (.addi h d a imm) s = .next (didX s d (xr s a + imm.signExtend 64)) ∧
    exec (.andi h d a imm) s = .next (didX s d (xr s a &&& imm.signExtend 64)) ∧
    exec (.ori h d a imm) s = .next (didX s d (xr s a ||| imm.signExtend 64)) ∧
    exec (.xori h d a imm) s = .next (didX s d (xr s a ^^^ imm.signExtend 64)) ∧
    (∀ n : BitVec 6,
      exec (.shi h .shl d a n) s = .next (didX s d (xr s a <<< n.toNat)) ∧
      exec (.shi h .shr d a n) s = .next (didX s d (xr s a >>> n.toNat)) ∧
      exec (.shi h .sar d a n) s = .next (didX s d ((xr s a).sshiftRight n.toNat)) ∧
      exec (.shi h .rotr d a n) s = .next (didX s d ((xr s a).rotateRight n.toNat))) ∧
    exec (.li h d imm) s = .next (didX s d (imm.signExtend 64)) ∧
    exec (.liHi h d imm) s = .next (didX s d (imm ++ (xr s d).setWidth 32)) ∧
    (∀ cc : Cond,
      exec (.cmpi h cc d a imm) s = .next (didX s d (if condHolds cc (xr s a) (imm.signExtend 64) then 1 else 0)) ∧
      exec (.cmp h cc false d a b) s = .next (didX s d (if condHolds cc (xr s a) (xr s b) then 1 else 0)) ∧
      exec (.cmp h cc true d a b) s = .next (didF s d.toNat (if condHolds cc (xr s a) (xr s b) then 0xFFFF else 0))) ∧
    (∀ c : Reg, exec (.sel h d a b c) s = .next (didX s d (if xr s c = 0 then xr s b else xr s a)))) ∧
  (∀ (h : Hdr) (d a : Reg) (s : State), Ready s h →
    exec (.mov h .xx d a) s = .next (didX s d (xr s a)) ∧
    exec (.mov h .fx d a) s = .next (didF s d.toNat ((xr s a).setWidth 16)) ∧
    exec (.mov h .xf d a) s = .next (didX s d ((readFm (focused s) a.toNat).setWidth 64)) ∧
    exec (.mov h .ff d a) s = .next (didF s d.toNat (readFm (focused s) a.toNat)) ∧
    exec (.mov h .xlc d a) s = .next (didX s d ((readLc (focused s) a.toNat).count.setWidth 64)) ∧
    exec (.mov h .lcx d a) s =
      .next (did s (writeLc (focused s) d.toNat
        { readLc (focused s) d.toNat with count := (xr s a).setWidth 32 })) ∧
    ∀ pos len1 : BitVec 6, pos.toNat + len1.toNat + 1 ≤ 64 →
      exec (.ext h false d a pos len1) s = .next (didX s d ((xr s a >>> pos.toNat).setWidth (len1.toNat + 1) |>.setWidth 64)) ∧
      exec (.ext h true d a pos len1) s =
        .next (didX s d ((xr s a >>> pos.toNat).setWidth (len1.toNat + 1) |>.signExtend 64)) ∧
      ∃ v : Word, exec (.ins h d a pos len1) s = .next (didX s d v) ∧
        ∀ i, i < 64 → v.getLsbD i =
          if pos.toNat ≤ i ∧ i ≤ pos.toNat + len1.toNat then (xr s a).getLsbD (i - pos.toNat) else (xr s d).getLsbD i)

/-! ## Scalar floating point (R312 to R316) -/

/-- The floating-point arithmetic instructions owe x[D]: the sum, difference, product, quotient, root, fused product, minimum
or maximum rounded once, with the flags it raises. FCMP owes x[D] as 1 or 0, or f[D] as all ones or zeros; a NaN makes every
comparison but the unordered one false. FCVT owes the converted value, an integer result extended by its type. -/
def Obligations.FloatResults : Prop :=
  (∀ (h : Hdr) (ty : Ty) (d a b c : Reg) (rm : RM) (s : State), Ready s h →
    exec (.fadd h ty d a b rm) s = .next (owesR s h d (addF ty rm (fpr s ty a) (fpr s ty b))) ∧
    exec (.fsub h ty d a b rm) s = .next (owesR s h d (addF ty rm (fpr s ty a) (fpr s ty b).flip)) ∧
    exec (.fmul h ty d a b rm) s = .next (owesR s h d (mulF ty rm (fpr s ty a) (fpr s ty b))) ∧
    exec (.fdiv h ty d a b rm) s = .next (owesR s h d (divF ty rm (fpr s ty a) (fpr s ty b))) ∧
    exec (.fsqrt h ty d a rm) s = .next (owesR s h d (sqrtF ty rm (fpr s ty a))) ∧
    exec (.ffma h ty d a b c rm) s = .next (owesR s h d (fmaF ty rm (fpr s ty a) (fpr s ty b) (fpr s ty c))) ∧
    exec (.fmin h ty d a b) s =
      .next (owesR s h d (minmaxF ty false ((xr s a).toNat % 2 ^ ty.width) ((xr s b).toNat % 2 ^ ty.width))) ∧
    exec (.fmax h ty d a b) s =
      .next (owesR s h d (minmaxF ty true ((xr s a).toNat % 2 ^ ty.width) ((xr s b).toNat % 2 ^ ty.width)))) ∧
  (∀ (h : Hdr) (ty : Ty) (d a b : Reg) (s : State), Ready s h →
    (∀ op : FCmpOp,
      let r := fcmpRes op (fpr s ty a) (fpr s ty b)
      let fl : BitVec 5 := if r.2 then flagNV else 0
      exec (.fcmp h op ty false d a b) s = .next (owes s h [.x d.toNat (if r.1 then 1 else 0)] fl 0) ∧
      exec (.fcmp h op ty true d a b) s = .next (owes s h [.f d.toNat (if r.1 then 0xFFFF else 0)] fl 0) ∧
      (((fpr s ty a).isNan = true ∨ (fpr s ty b).isNan = true) → (r.1 = true ↔ op = .un))) ∧
    ∀ (src : Ty) (rm : RM) (sat : Bool),
      exec (.fcvt h ty src d a rm sat) s =
        .next (owesR s h d (cvtBits ty (convert ty src rm sat ((xr s a).toNat % 2 ^ src.width)))))

/-! ## Local memory (R317 to R322) -/

/-- LD owes x[D] the extended little-endian value at its address, LDP a pair of words; a load changes no byte. ST writes the
low bytes of x[DR] and STP two words, least significant byte first, from the computed address on. -/
def Obligations.LoadAndStoreResults : Prop :=
  (∀ (h : Hdr) (d : Reg) (m : MemOp) (s : State), Ready s h →
    (∀ sz : MemSize, accessOk s loads (memBytes sz) (memBytes sz) [memAddr s m] →
      exec (.ld h sz d m) s = .next (owesX s h d (
        let v := (focused s).sram.readLE (memAddr s m) (memBytes sz)
        if memSigned sz then (BitVec.ofNat (8 * memBytes sz) v).signExtend 64 else BitVec.ofNat 64 v))) ∧
    (groupBase 2 d.toNat = true → accessOk s loads 16 16 [memAddr s m] →
      anyClash (pairGroups d m) = false →
      exec (.ldp h d m) s =
        .next (owes s h [.x d.toNat ((focused s).sram.word (memAddr s m)),
          .x (d.toNat + 1) ((focused s).sram.word (memAddr s m + 8))] 0 0))) ∧
  (∀ (h : Hdr) (d : Reg) (m : MemOp) (s : State), Ready s h →
    (∀ sz : StSize, accessOk s stores (stBytes sz) (stBytes sz) [memAddr s m] →
      exec (.st h sz d m) s = .next (didStore s (memAddr s m) (leBytes (xr s d).toNat (stBytes sz)))) ∧
    (groupBase 2 d.toNat = true → accessOk s stores 16 16 [memAddr s m] → anyClash (pairGroups d m) = false →
      exec (.stp h d m) s = .next (didStore s (memAddr s m)
        (leBytes (xr s d).toNat 8 ++ leBytes (readX (focused s) .main (d.toNat + 1)).toNat 8))))

/-- A store changes no byte of the core's SRAM outside the bytes it stores, and those hold the value stored. The address is
the one that memAddr computes, with 64-bit wrap. -/
def Obligations.StoreFrame : Prop :=
  ∀ (h : Hdr) (sz : StSize) (d : Reg) (m : MemOp) (s t : State), Ready s h →
    accessOk s stores (stBytes sz) (stBytes sz) [memAddr s m] → exec (.st h sz d m) s = .next t →
    (∀ a, a < memAddr s m ∨ memAddr s m + stBytes sz ≤ a → (focused t).sram.read a = (focused s).sram.read a) ∧
    (∀ k, k < stBytes sz → (focused t).sram.read (memAddr s m + k) = (xr s d).extractLsb' (8 * k) 8) ∧
    (∀ k, k ≠ s.focus → coreAt t k = coreAt s k) ∧
    (focused t).regs.x = (focused s).regs.x ∧ (focused t).regs.v = (focused s).regs.v ∧
    (focused t).regs.f = (focused s).regs.f ∧ (focused t).regs.a = (focused s).regs.a ∧
    (focused t).regs.t = (focused s).regs.t ∧ (focused t).regs.q = (focused s).regs.q ∧
    (focused t).sys = (focused s).sys ∧ (focused t).istore = (focused s).istore ∧
    t.routers = s.routers ∧ t.larders = s.larders ∧ t.links = s.links ∧ t.attic = s.attic ∧ t.port0 = s.port0 ∧
    t.port1 = s.port1 ∧ t.dev = s.dev ∧ t.unrid = s.unrid ∧ t.cycle = s.cycle ∧ t.live = s.live

/-- AMO reads the word at x[S1], stores its function of the old value and x[S2], and owes x[D] the old value; CAS stores x[S3]
where the old value equals x[S2], and owes the old value either way. -/
def Obligations.AtomicResults : Prop :=
  ∀ (h : Hdr) (ty : Ty) (d a b e : Reg) (s : State), Ready s h → ty.isI = true →
    accessOk s updates (ty.width / 8) (ty.width / 8) [(xr s a).toNat] →
    let old := (focused s).sram.readLE (xr s a).toNat (ty.width / 8)
    let put := fun v : Nat => storeBytes (focused s) (xr s a).toNat (leBytes v (ty.width / 8))
    let low := fun r : Reg => (xr s r).toNat % 2 ^ ty.width
    let owed := fun c : Core => did s (owing h c false [.x d.toNat (extendI ty (old : Nat))] 0 {} none)
    (∀ op : AmoOp, exec (.amo h op ty d a b) s = .next (owed (put (amoNew op ty old (low b))))) ∧
    exec (.cas h ty d a b e) s = .next (owed (if old = low b then put (low e) else focused s))

/-- Local accesses trap before they have any effect, with the address: E_ALIGN for one that is no multiple of the size, E_BOUND for
one beyond SRAM, outside every valid segment where any is valid, or over the cellar, and E_LOCK for a store into the source range of
an operation in flight, in this order; the vector forms that access several addresses check each step over all their active lanes.
SEG writes a valid descriptor where its range has 1 to 128 units, ends by the end of SRAM and meets no other valid descriptor,
and traps with E_BOUND at its base otherwise; SEG.off clears it. -/
def Obligations.MisalignmentAndSegments : Prop :=
  (∀ (c : Core) (a n : Nat), boundOk c a n = true ↔ inBounds c a n) ∧
  (∀ (h : Hdr) (d : Reg) (m : MemOp) (s : State) (code : BitVec 8) (v : Nat),
    let traps := fun (kind : AccessKind) (n : Nat) (i : Instr) =>
      accessTraps (focused s) kind n n [memAddr s m] code v → exec i s = .next (trapped s code (BitVec.ofNat 64 v))
    (ReadyBusy s h (memRefs m ++ [.x d.toNat]) →
      (∀ sz : MemSize, traps loads (memBytes sz) (.ld h sz d m)) ∧
      (∀ sz : StSize, traps stores (stBytes sz) (.st h sz d m))) ∧
    (ReadyBusy s h (memRefs m ++ xpair d) → anyClash (pairGroups d m) = false →
      traps loads 16 (.ldp h d m) ∧ traps stores 16 (.stp h d m)) ∧
    (ReadyBusy s h (memRefs m) → ∀ r : VReg, traps loads 64 (.vld h r m) ∧ traps stores 64 (.vst h r m))) ∧
  (∀ (h : Hdr) (ty : Ty) (d a b e : Reg) (s : State) (code : BitVec 8) (v : Nat), ReadyBusy s h (xs [a, b, e, d]) → ty.isI = true →
    accessTraps (focused s) updates (ty.width / 8) (ty.width / 8) [(xr s a).toNat] code v →
    (∀ op : AmoOp, exec (.amo h op ty d a b) s = .next (trapped s code (BitVec.ofNat 64 v))) ∧
    exec (.cas h ty d a b e) s = .next (trapped s code (BitVec.ofNat 64 v))) ∧
  (∀ (h : Hdr) (ty : Ty) (d off : VReg) (x y : Reg) (sc : BitVec 2) (m : Mask) (s : State) (code : BitVec 8) (v : Nat),
    ReadyBusy s h (xs [x, y]) →
    let k := ty.width / 8
    let traps := fun (kind : AccessKind) (ea : Nat → Nat) (i : Instr) =>
      accessTraps (focused s) kind k k ((liveLanes s ty m.k).map ea) code v →
        exec i s = .next (trapped s code (BitVec.ofNat 64 v))
    let strided := fun i : Nat => (xr s x + BitVec.ofNat 64 i * xr s y).toNat
    let indexed := fun i : Nat => ((xr s x).toNat + lanev s ty off i * 2 ^ sc.toNat) % 2 ^ 64
    traps loads strided (.vlds h ty d x y m) ∧ traps stores strided (.vsts h ty d x y m) ∧
    traps loads indexed (.vgath h ty d x off sc m) ∧ traps stores indexed (.vscat h ty d x off sc m)) ∧
  (∀ (h : Hdr) (n : BitVec 3) (base : BitVec 7) (size : BitVec 8) (span : BitVec 3) (s : State), Ready s h →
    (segmentOk (focused s) n.toNat ⟨true, base, size, span⟩ = true →
      exec (.seg h n base size span) s = .next (did s (setSegment (focused s) n.toNat ⟨true, base, size, span⟩))) ∧
    (segmentOk (focused s) n.toNat ⟨true, base, size, span⟩ = false →
      exec (.seg h n base size span) s = .next (trapped s eBound (BitVec.ofNat 64 (4096 * base.toNat)))) ∧
    exec (.segOff h n) s = .next (did s (setSegment (focused s) n.toNat {})))

/-! ## Control flow (R122, R292 to R297) -/

/-- NOP goes on with no effect. BR and CALL go to the target, CALL with the next address in x62; BRC, BRF and GBR (outside a
gang) go to the target when the condition holds, and on when it does not. JMP goes to x[S1] and RET to x62: E_ALIGN with the
value where it is no multiple of 8, E_BOUND where it lies beyond the instruction store, and else the PC is the value. LOOP
arms its counter with the low 32 bits of x[S1], the next address and the end address, and enters the body; for a count of 0 it
sets the counter's count to 0 and goes on after the end address. -/
def Obligations.BranchAndLoopResults : Prop :=
  (∀ (h : Hdr) (a b : Reg) (off : BitVec 32) (s : State),
    (Ready s Hdr.plain → exec .nop s = .next (did s (focused s))) ∧
    (Ready s h →
      exec (.br h off) s = .next (goTo s (focused s) (target s off)) ∧
      exec (.call h off) s =
        .next (goTo s (writeX (focused s) .main 62 (((focused s).pc + 8).setWidth 64)) (target s off)) ∧
      (∀ cc : Cond,
        let next := if condHolds cc (xr s a) (xr s b) then goTo s (focused s) (target s off) else did s (focused s)
        exec (.brc h cc a b off) s = .next next ∧ ∀ all : Bool, exec (.gbr h all cc a b off) s = .next next) ∧
      (∀ f : FReg,
        exec (.brf h .any f off) s =
          .next (if fr s f ≠ 0 then goTo s (focused s) (target s off) else did s (focused s)) ∧
        exec (.brf h .all f off) s =
          .next (if fr s f = 0xFFFF then goTo s (focused s) (target s off) else did s (focused s)) ∧
        exec (.brf h .none f off) s =
          .next (if fr s f = 0 then goTo s (focused s) (target s off) else did s (focused s))))) ∧
  (∀ (h : Hdr) (a : Reg) (s : State), Ready s h →
    let go := fun v : Word =>
      if v.toNat % 8 ≠ 0 then trapped s eAlign v
      else if 65536 ≤ v.toNat then trapped s eBound v
      else goTo s (focused s) (v.setWidth 16)
    exec (.jmp h a) s = .next (go (xr s a)) ∧ exec (.ret h) s = .next (go (xr s 62))) ∧
  (∀ (h : Hdr) (lc : Bool) (a : Reg) (off : BitVec 32) (s : State), Ready s h →
    let n := if lc then 1 else 0
    let count : BitVec 32 := (xr s a).setWidth 32
    exec (.loop h lc a off) s = .next (
      if count = 0 then
        goTo s (writeLc (focused s) n { readLc (focused s) n with count := 0 }) (target s off + 8)
      else goTo s (writeLc (focused s) n ⟨count, (focused s).pc + 8, target s off⟩) ((focused s).pc + 8)))

/-- After an instruction that transfers no control a task goes on at next(PC): at the end address of lc1, then of lc0, a count
above 1 falls by one and the PC goes to the counter's start, and a count of 1 becomes 0; else the PC goes on by 8. An
instruction whose guard is false, whichever it is, does that and nothing else, unless it breaks a rule of mode or permission by
its word, the mode and the launch's sets of classes and barrier ids alone: then it traps with E_PRIV as with its guard true. -/
def Obligations.NextAddress : Prop :=
  (∀ (c : Core),
    let l1 := readLc c 1
    let l0 := readLc c 0
    ((past c).pc, readLc (past c) 1, readLc (past c) 0) =
      (if l1.count ≠ 0 ∧ c.pc = l1.stop ∧ 1 < l1.count.toNat then (l1.start, { l1 with count := l1.count - 1 }, l0)
       else
        let m1 := if l1.count ≠ 0 ∧ c.pc = l1.stop then { l1 with count := 0 } else l1
        if l0.count ≠ 0 ∧ c.pc = l0.stop then
          if 1 < l0.count.toNat then (l0.start, m1, { l0 with count := l0.count - 1 })
          else (c.pc + 8, m1, { l0 with count := 0 })
        else (c.pc + 8, m1, l0)) ∧
    (past c).regs.x = c.regs.x ∧ (past c).sram = c.sram ∧ (past c).sys = c.sys) ∧
  (∀ (i : Instr) (s : State), i.wf = true → inGrid s.focus = true → s.ctx = .main → Plain (focused s) →
    ¬ guardTrue (hdrOf (encode i)) (focused s) →
    exec i s = .next (if privByWord s i = true then trapped s ePriv (encode i) else did s (focused s)))

/-! ## Exceptions and system registers (R119, R124 to R126, R141, R142, R324, R325, R327) -/

/-- A trap taken in user mode with the vector enabled: TRAPCAUSE holds the address of the cause in bits 31 to 16 and the code
in bits 7 to 0, TRAPPC the resume point, TRAPVAL the value; PMODE becomes 0 and MODE 1; the PC goes to 8 times VEC. Nothing
else of the core changes. A trap in system mode, or with no vector, is a fatal fault of the region instead, of cause 5. A trap in a
handler context ends the context and is held, unless one is; the main context takes it before its next issue, whatever stands there,
with HND and the context's number in TRAPCAUSE and the handler's PC as its cause. A deferred trap of a long-latency instruction is taken
once its window is over, or at a trap of another instruction, with the results pending written and DEF set. A trap in a member of a gang
dissolves it: the member takes its own, and every other member E_GANG with TRAPVAL 0 at the same instruction. -/
def Obligations.TrapEntry : Prop :=
  (∀ (s : State) (code : BitVec 8) (val : Word), Plain (focused s) → (focused s).sys.mode = false →
    (focused s).sys.vecen = true →
    trapped s code val = withFocus s { focused s with
      wait := .run
      pc := BitVec.ofNat 16 (8 * (focused s).sys.vec.toNat)
      sys := { (focused s).sys with
        cause := BitVec.ofNat 64 (65536 * (focused s).pc.toNat + code.toNat)
        trappc := (focused s).pc
        trapval := val
        pmode := false
        mode := true } }) ∧
  (∀ (s : State) (code : BitVec 8) (val : Word), Plain (focused s) →
    (focused s).sys.mode = true ∨ (focused s).sys.vecen = false →
    trapped s code val = coreRegionFault (withFocus s (focused s)) s.focus 5) ∧
  (∀ (s : State) (k : Nat) (t : TrapInfo) (a : BitVec 16), (focused s).pending = [] → (focused s).bursts = [] →
    let x := handlerAt (focused s) k
    let ended := setHandler (focused s) k { x with busy := false }
    let held := fun (c : Core) => setCore s s.focus
      { c with held := if (focused s).held.isSome then (focused s).held else some ⟨t.code, t.val, k, x.pc⟩ }
    (ffind (focused s).breads x.tag = none → contextTrap s s.focus (.handler k) t a = held ended) ∧
    (∀ b, ffind (focused s).breads x.tag = some b → contextTrap s s.focus (.handler k) t a = held { ended with
      breads := fset (focused s).breads x.tag { b with handled := b.handled + 1, code := if b.code = 0 then 6 else b.code } })) ∧
  (∀ (h : Hdr) (s : State) (k : Nat) (w : Word), ReadyIn s Hdr.plain k →
    let a := (handlerAt (focused s) k).pc
    exec (.undefinedInstruction w .illegal) s = .next (contextTrap { s with freeCtr := s.freeCtr + 1 } s.focus (.handler k)
      ⟨eIllegal, w, a, a, none, false⟩ a) ∧
    (ReadyIn s h k → exec (.rett h) s = .next (contextTrap { s with freeCtr := s.freeCtr + 1 } s.focus (.handler k)
      ⟨if (focused s).sys.mode then eHandler else ePriv, encode (.rett h), a, a, none, false⟩ a))) ∧
  (∀ (i : Instr) (s : State), i.wf = true → inGrid s.focus = true → s.ctx = .main → (focused s).gang = none →
    (focused s).sys.mode = false → (focused s).sys.vecen = true →
    let c := focused s
    let taken := fun (c : Core) (cause : Nat) (val : Word) => Host.Outcome.next (withFocus s { c with
      wait := .run
      pc := BitVec.ofNat 16 (8 * c.sys.vec.toNat)
      sys := { c.sys with cause := BitVec.ofNat 64 cause, trappc := (focused s).pc, trapval := val, pmode := false, mode := true } })
    (∀ t : HeldTrap, c.held = some t → c.pending = [] → (∀ n, n < 4 → (fget c.sys.dbgpc n 0).getLsbD 0 = false) → t.hctx < 8 →
      exec i s = taken { c with held := none } (65536 * t.fpc.toNat + 512 * t.hctx + 256 + t.code.toNat) t.val) ∧
    (∀ (p : Pending) (l : LateTrap), (pendingOf c .main).find? (·.late.isSome) = some p → p.late = some l →
      let deferred := taken (flushPending c .main) (65536 * p.fpc.toNat + 4096 + l.code.toNat) l.val
      (p.whole = true ∨ p.left = 0 → exec i s = deferred) ∧
      ∀ t : TrapInfo,
        Host.Outcome.next (contextTrap { s with freeCtr := s.freeCtr + 1 } s.focus .main t c.pc) = deferred)) ∧
  (∀ (h : Hdr) (sz : MemSize) (d : Reg) (m : MemOp) (s : State) (g : GangSt), inGrid s.focus = true → s.ctx = .main →
    (focused s).gang = some g → (gangKeys g).Nodup →
    (∀ k, k ∈ gangKeys g → Still (coreAt s k) ∧ guardTrue h (coreAt s k) ∧ (coreAt s k).sys.mode = false ∧
      (coreAt s k).sys.vecen = true) →
    let n := memBytes sz
    let addr := fun k => memAddr { s with focus := k } m
    let a := (coreAt s (keyOf g.row g.col)).pc
    (∀ k, k ∈ gangKeys g → addr k % n = 0 → checkAccess (coreAt s k) loads n n [addr k] = none) →
    (∃ k, k ∈ gangKeys g ∧ addr k % n ≠ 0) →
    goesOn (exec (.ld h sz d m) s) fun t => ∀ k, k ∈ gangKeys g →
      coreAt t k = enterVector { coreAt s k with gang := none, pc := a, lastIssue := 0 }
        (if addr k % n ≠ 0 then ⟨eAlign, BitVec.ofNat 64 (addr k), a, a, none, false⟩ else ⟨eGang, 0, a, a, none, false⟩))

/-- TRAP and BRK trap after themselves: the entry saves the next address as the resume point, their immediate as TRAPVAL and
E_TRAP or E_BREAK as the code. A word that is no instruction traps at itself with E_ILLEGAL or E_RSV and the word. RETT in
system mode sets MODE to PMODE and the PC to TRAPPC and changes nothing else; in user mode it traps with E_PRIV and its word. -/
def Obligations.RequestedTrapsAndReturn : Prop :=
  (∀ (h : Hdr) (imm : BitVec 32) (k : BitVec 5) (s : State), Ready s h → (focused s).sys.mode = false →
    (focused s).sys.vecen = true →
    let n := nextPc (focused s) .main (focused s).pc
    let entry := fun (code : BitVec 8) (v : Word) =>
      withFocus s (enterVector n.1 ⟨code, v, (focused s).pc, n.2, none, false⟩)
    exec (.trap h imm) s = .next (entry eTrap (imm.setWidth 64)) ∧
    exec (.brk h k) s = .next (entry eBreak (k.setWidth 64)) ∧
    (Ready s Hdr.plain → ∀ w : Word,
      exec (.undefinedInstruction w .illegal) s = .next (trapped s eIllegal w) ∧
      exec (.undefinedInstruction w .reserved) s = .next (trapped s eRsv w))) ∧
  (∀ (h : Hdr) (s : State), Ready s h →
    ((focused s).sys.mode = true →
      exec (.rett h) s = .next (goTo s { focused s with sys := { (focused s).sys with mode := (focused s).sys.pmode } }
        (focused s).sys.trappc)) ∧
    ((focused s).sys.mode = false → exec (.rett h) s = .next (trapped s ePriv (encode (.rett h)))))

/-- RDSYS writes x[D] with the register's word in the current cycle; reading ECCCNT clears it and no other read changes a
system register; SSCRATCH0 to SSCRATCH3 trap with E_PRIV in user mode. CAPNAR writes x[D] with the narrowed handle where the
seal is right and the new rectangle and rights lie within the handle's, and traps with E_SEAL and the handle otherwise. What
it writes carries the key's seal and the old generation. -/
def Obligations.SystemRegisterReads : Prop :=
  (∀ (h : Hdr) (d : Reg) (n : BitVec 12) (s : State), Ready s h →
    let privileged := 0x012 ≤ n.toNat ∧ n.toNat ≤ 0x015
    ((focused s).sys.mode = true ∨ ¬ privileged → n ≠ 0x011 →
      exec (.rdsys h d n) s = .next (didX s d (readSys (focused s) s.cycle n.toNat))) ∧
    (exec (.rdsys h d 0x011) s = .next (did s (writeX
      { focused s with sys := { (focused s).sys with ecccnt := 0 } } .main d.toNat ((focused s).sys.ecccnt.setWidth 64)))) ∧
    ((focused s).sys.mode = false → privileged → exec (.rdsys h d n) s = .next (trapped s ePriv (encode (.rdsys h d n)))) ∧
    readSys (focused s) s.cycle 0x007 = BitVec.ofNat 64 s.cycle ∧
    (readSys (focused s) s.cycle 0x000).getLsbD 0 = (focused s).sys.mode ∧
    (readSys (focused s) s.cycle 0x000).getLsbD 1 = (focused s).sys.pmode) ∧
  (∀ (h : Hdr) (d a b : Reg) (s : State), Ready s h →
    (∀ v, narrow s.dev.sealKey (xr s a) (xr s b) = some v →
      exec (.capnar h d a b) s = .next (didX s d v) ∧ sealOk s.dev.sealKey v = true ∧
      v.extractLsb' 24 12 = (xr s a).extractLsb' 24 12 ∧
      v.extractLsb' 36 4 &&& ~~~ (xr s a).extractLsb' 36 4 = 0) ∧
    (narrow s.dev.sealKey (xr s a) (xr s b) = none → exec (.capnar h d a b) s = .next (trapped s eSeal (xr s a))) ∧
    (sealOk s.dev.sealKey (xr s a) = false → narrow s.dev.sealKey (xr s a) (xr s b) = none))

/-- WRSYS in system mode gives each writable register its new value, with reserved bits ignored, and leaves the registers that
only hardware writes as they are. A segment register takes its value unless its descriptor would be valid and break the rules of
segments, which traps with E_BOUND and the new base, or its SPAN is the reserved code, which traps with E_RSV in either mode.
What lands in the same cycle from elsewhere, an event flag set or another context's flags and counts, is applied after the
write. In user mode WRSYS writes FPFLAGS, HAZMODE and the three counters, and traps with E_PRIV for every other register. -/
def Obligations.SystemRegisterWrites : Prop :=
  ∀ (h : Hdr) (a : Reg) (s : State), Ready s h →
    let v := xr s a
    let y := (focused s).sys
    let wrote := fun z : Sys => Host.Outcome.next (did s { focused s with sys := z })
    ((focused s).sys.mode = true →
      exec (.wrsys h a 0x000) s = wrote { y with pmode := v.getLsbD 1 } ∧
      exec (.wrsys h a 0x001) s = wrote { y with vecen := v.getLsbD 0, vec := v.extractLsb' 3 13 } ∧
      exec (.wrsys h a 0x003) s = .next (did s (refreshReady { focused s with sys :=
        { y with evflags := v.setWidth 32 ||| (landedNow (focused s)).sets } })) ∧
      exec (.wrsys h a 0x004) s = wrote { y with cause := v &&& 0xFFFF1FFF } ∧
      exec (.wrsys h a 0x005) s = wrote { y with trappc := v.extractLsb' 3 13 ++ 0#3 } ∧
      exec (.wrsys h a 0x006) s = wrote { y with trapval := v } ∧
      (∀ k : Fin 4, exec (.wrsys h a (BitVec.ofNat 12 (0x012 + k))) s = wrote { y with scratch := fset y.scratch k v }) ∧
      (∀ k : Fin 4, exec (.wrsys h a (BitVec.ofNat 12 (0x028 + k))) s =
        wrote { y with dbgpc := fset y.dbgpc k (v.setWidth 23) }) ∧
      (∀ k : Fin 2, exec (.wrsys h a (BitVec.ofNat 12 (0x02C + k))) s =
        wrote { y with dbgwa := fset y.dbgwa k (v.setWidth 25) }) ∧
      (∀ k : Fin 8,
        let g := fget y.seg k {}
        let put := fun g : Segment => Host.Outcome.next (
          if g.valid = true ∧ segmentOk (focused s) k g = false then trapped s eBound (BitVec.ofNat 64 (4096 * g.base.toNat))
          else did s (setSegment (focused s) k g))
        exec (.wrsys h a (BitVec.ofNat 12 (0x018 + k))) s = put { g with valid := v.getLsbD 0, base := v.extractLsb' 12 7 } ∧
        (v.extractLsb' 32 3 ≠ 7 → exec (.wrsys h a (BitVec.ofNat 12 (0x020 + k))) s =
          put { g with size := v.extractLsb' 12 8, span := v.extractLsb' 32 3 })) ∧
      (∀ n : BitVec 12, n ∈ [0x002#12, 0x007#12, 0x00A#12, 0x00B#12, 0x00C#12, 0x00D#12, 0x011#12] →
        exec (.wrsys h a n) s = .next (did s (focused s)))) ∧
    (v.extractLsb' 32 3 = 7 → ∀ k : Fin 8, exec (.wrsys h a (BitVec.ofNat 12 (0x020 + k))) s =
      .next (trapped s eRsv (encode (.wrsys h a (BitVec.ofNat 12 (0x020 + k)))))) ∧
    exec (.wrsys h a 0x008) s = wrote { y with fpflags := v.setWidth 5 ||| landedFlags (focused s) } ∧
    (y.det = false ∨ v.getLsbD 0 = true → exec (.wrsys h a 0x009) s = wrote { y with precise := v.getLsbD 0 }) ∧
    (y.det = true → v.getLsbD 0 = false → exec (.wrsys h a 0x009) s = .next (trapped s eDet (encode (.wrsys h a 0x009)))) ∧
    exec (.wrsys h a 0x00E) s = wrote { y with satcnt := bump32 (v.setWidth 32) (landedCount (focused s) (·.1)) } ∧
    exec (.wrsys h a 0x00F) s = wrote { y with nancnt := bump32 (v.setWidth 32) (landedCount (focused s) (·.2.1)) } ∧
    exec (.wrsys h a 0x010) s = wrote { y with uflcnt := bump32 (v.setWidth 32) (landedCount (focused s) (·.2.2)) } ∧
    (landedNow (focused s) = { cycle := (focused s).stamp } →
      (landedNow (focused s)).sets = 0 ∧ landedFlags (focused s) = 0 ∧
      ∀ f, landedCount (focused s) f = 0 ∧ ∀ w, bump32 w (landedCount (focused s) f) = w) ∧
    ((focused s).sys.mode = false → ∀ n : BitVec 12, n.toNat < 0x016 ∨ (0x018 ≤ n.toNat ∧ n.toNat < 0x02E) →
      n ∉ [0x008#12, 0x009#12, 0x00E#12, 0x00F#12, 0x010#12] →
      (0x020 ≤ n.toNat → n.toNat ≤ 0x027 → v.extractLsb' 32 3 ≠ 7) →
      exec (.wrsys h a n) s = .next (trapped s ePriv (encode (.wrsys h a n))))

/-- WRSYS of 0 to HAZMODE in a deterministic region traps with E_DET. A write in system mode to SEGBASE_n or SEGSIZE_n that would
leave descriptor n valid is checked: its SIZE is 1 to 128, it ends within 128, and it meets no other valid descriptor, its own
previous range not counting. One that breaks this traps with E_BOUND, with TRAPVAL the new base · 4,096, and leaves every descriptor
as it was; one that does not, or that leaves the descriptor invalid, is performed. -/
def Obligations.SegmentRegisterRules : Prop :=
  ∀ (h : Hdr) (a : Reg) (s : State), Ready s h →
    let v := xr s a
    let y := (focused s).sys
    (y.det = true → v.getLsbD 0 = false → exec (.wrsys h a 0x009) s = .next (trapped s eDet (encode (.wrsys h a 0x009)))) ∧
    (y.mode = true → ∀ (k : Fin 8) (n : BitVec 12) (g : Segment),
      (n = BitVec.ofNat 12 (0x018 + k) ∧ g = { fget y.seg k {} with valid := v.getLsbD 0, base := v.extractLsb' 12 7 }) ∨
      (n = BitVec.ofNat 12 (0x020 + k) ∧ v.extractLsb' 32 3 ≠ 7 ∧
        g = { fget y.seg k {} with size := v.extractLsb' 12 8, span := v.extractLsb' 32 3 }) →
      let keeps := 1 ≤ g.size.toNat ∧ g.size.toNat ≤ 128 ∧ g.base.toNat + g.size.toNat ≤ 128 ∧
        ∀ j, j < 8 → j ≠ k → let o := fget y.seg j {}
          o.valid = true → g.base.toNat + g.size.toNat ≤ o.base.toNat ∨ o.base.toNat + o.size.toNat ≤ g.base.toNat
      let bound := trapped s eBound (BitVec.ofNat 64 (4096 * g.base.toNat))
      (g.valid = true → ¬keeps → exec (.wrsys h a n) s = .next bound ∧ (coreAt bound s.focus).sys.seg = y.seg) ∧
      (g.valid = false ∨ keeps → exec (.wrsys h a n) s =
        .next (did s { focused s with sys := { y with seg := fset y.seg k g } })))

/-! ## Tasks, gangs and sleep (R127 to R134, R298 to R302, R328) -/

/-- TEND, TYIELD and TWAIT in user mode, with no message open, give up the core: no task runs, and the task's entry keeps
where it goes on, its entry point for TEND and the next address for the others; TYIELD makes it ready again. In system mode
each traps with E_PRIV and its word. A core with no running task, awake, not halted, not frozen or draining and in no gang,
dispatches the first ready task in the order of R129: it runs from its saved PC, and an event-bound task's flag is cleared,
unless a set of it lands in the same cycle. -/
def Obligations.TasksAndDispatch : Prop :=
  (∀ (h : Hdr) (s : State) (k : Nat) (t : Task), Ready s h → (focused s).running = some k →
    ffind (focused s).tasks k = some t →
    let n := nextPc (focused s) .main (focused s).pc
    let left := fun (c : Core) (t : Task) => Host.Outcome.next (withFocus s
      (refreshReady { c with running := none, wait := .run, tasks := fset c.tasks k t }))
    ((focused s).sys.mode = false → (focused s).opens = [] →
      exec (.tend h) s = left (focused s) { t with pc := t.entry, again := false } ∧
      exec (.tyield h) s = left n.1 { t with pc := n.2, again := true } ∧
      exec (.twait h) s = left n.1 { t with pc := n.2, again := false }) ∧
    ((focused s).sys.mode = true →
      exec (.tend h) s = .next (trapped s ePriv (encode (.tend h))) ∧
      exec (.tyield h) s = .next (trapped s ePriv (encode (.tyield h))) ∧
      exec (.twait h) s = .next (trapped s ePriv (encode (.twait h))))) ∧
  (∀ (row col : Nat) (s : State) (n : Nat) (t : Task),
    let c := refreshReady (coreAt s (keyOf row col))
    c.running = none → c.halted = false → c.resetting = false → c.frozen = false → c.draining = false → c.gang = none → c.sleep = .awake →
    s.dev.stopped = false → nextTask c = some (n, t) →
    ∃ u, exec (.taskDispatch row col) s = .next u ∧
      (coreAt u (keyOf row col)).running = some n ∧ (coreAt u (keyOf row col)).pc = t.pc ∧
      (coreAt u (keyOf row col)).regs = c.regs ∧ (coreAt u (keyOf row col)).sram = c.sram ∧
      (coreAt u (keyOf row col)).sys.evflags =
        (if t.onEvent = true ∧ setWins c t = false then c.sys.evflags &&& ~~~(1#32 <<< t.k.toNat) else c.sys.evflags) ∧
      (setWins c t = true → (landedNow c).sets.getLsbD t.k.toNat = true) ∧
      (∀ k, k ≠ keyOf row col → coreAt u k = coreAt s k))

/-- GANG makes its core wait while another core of its quad or block has not executed GANG; when the last one does, with no trap
held at another, every core of the group is in the gang, at the address after the leader's GANG, and the north-west core leads. SPLIT issued by a gang
whose members can all issue takes every member out of the gang, at the address after the leader's SPLIT. -/
def Obligations.GangsFormAndDissolve : Prop :=
  (∀ (h : Hdr) (block : Bool) (s : State), Ready s h →
    let g := groupOf s.focus block
    let ks := gangKeys g
    let num := fun k => (launchOf s (rowOf k) (colOf k)).map (·.num)
    (∀ k, k ∈ gangKeys (groupOf s.focus true) → k ≠ s.focus → atOther block (coreAt s k) = false) →
    (∀ k, k ∈ ks → num k = num s.focus) →
    ((∃ k, k ∈ ks ∧ k ≠ s.focus ∧ (coreAt s k).wait ≠ .gang block) →
      exec (.gang h block) s = .next (withFocus s { focused s with wait := .gang block })) ∧
    ((∀ k, k ∈ ks → k ≠ s.focus → (coreAt s k).wait = .gang block ∧ (heldBoundary (coreAt s k) .main (coreAt s k).pc).isTrap = false) →
      ∃ t, exec (.gang h block) s = .next t ∧
        ∀ k, k ∈ ks → (coreAt t k).gang = some { g with leader := decide (k = keyOf g.row g.col) } ∧
          (coreAt t k).wait = .run ∧
          (coreAt t k).pc = (nextPc (coreAt s (keyOf g.row g.col)) .main (coreAt s (keyOf g.row g.col)).pc).2)) ∧
  (∀ (h : Hdr) (s : State) (g : GangSt), inGrid s.focus = true → s.ctx = .main → (focused s).gang = some g →
    (∀ k, k ∈ gangKeys g → Still (coreAt s k) ∧ guardTrue h (coreAt s k) ∧ (coreAt s k).gang.isSome = true) →
    let lead := coreAt s (keyOf g.row g.col)
    ∃ t, exec (.split h) s = .next t ∧
      ∀ k, k ∈ gangKeys g → (coreAt t k).gang = none ∧ (coreAt t k).pc = (nextPc lead .main lead.pc).2)

/-! ## Waits, fences, barriers and events (R230 to R233, R406 to R410) -/

/-- SLEEP with nothing outstanding, no message open and no wake condition gates the core from this cycle with x[S1] as its
timeout; with a wake condition it goes on awake. WAITS goes on when the signal word reaches x[S2], or did as it was read
in an earlier cycle of the wait, and waits at its own address otherwise; FENCE goes on when no write or capability request of the core within its scope is unanswered, and stalls while one
is, whatever else the core has in flight. -/
def Obligations.SleepWaitsAndFences : Prop :=
  (∀ (h : Hdr) (a : Reg) (s : State), Ready s h → (focused s).opens = [] → nothingOutstanding (focused s) = true →
    delivering (focused s) = false →
    (wakes (focused s) = false →
      exec (.sleep h a) s = .next (did s { focused s with sleep := .gated s.cycle (xr s a).toNat })) ∧
    (wakes (focused s) = true → exec (.sleep h a) s = .next (did s (focused s)))) ∧
  (∀ (h : Hdr) (a b : Reg) (s : State), Ready s h → (focused s).opens = [] →
    (accessOk s loads 8 8 [(xr s a).toNat] →
      exec (.waits h a b) s = .next (
        if (focused s).wait = .met ∨ (xr s b).toNat ≤ ((focused s).sram.word (xr s a).toNat).toNat then did s (focused s)
        else withFocus s { focused s with wait := .instr }))) ∧
  (∀ (h : Hdr) (sc : Scope) (s : State), ReadyBusy s h [] →
    let waits := (∃ o, o ∈ (focused s).ops ∧
        ((o.kind ∈ [EngKind.put, .puts, .radd, .ramo, .dfadd] ∧ inScope sc s.focus (keyOf o.drow o.dcol) = true) ∨
          (o.kind = .awrite ∧ sc ∈ [Scope.wafer, .pod]))) ∨
      ∃ x, x ∈ (focused s).caps ∧ inScope sc s.focus x.2 = true
    (¬waits → exec (.fence h sc) s = .next (did s (focused s))) ∧
    (waits → exec (.fence h sc) s = .next { s with freeCtr := s.freeCtr + 1 }))

/-- BARA arrives: it sets the core's bit of the barrier. BAR arrives and waits; once its bit has cleared it goes on and does
not arrive again. BARW waits while the bit is set. An arrival counts once the fence at its scope is satisfied: while a write or request
that it waits for is unanswered, the core has not arrived. EVSET and EVCLR set and clear event flags, by number or by the mask in
x[S1]; EVRD writes x[D] with EVFLAGS. A flag that is set or cleared readies or unreadies the tasks bound to it. -/
def Obligations.BarriersAndEventFlags : Prop :=
  (∀ (h : Hdr) (id : BitVec 3) (sc : Scope) (s : State), ReadyBusy s h [] → (focused s).opens = [] →
    holdsBarrier (launchOf s (rowOf s.focus) (colOf s.focus)) sc id = true →
    let n := barBit sc id
    let tags := fenceTags sc s.focus (focused s)
    let arrived : Core := { focused s with
      arrivals := (focused s).arrivals ||| (1#24 <<< n)
      fencing := if tags = [] then fdel (focused s).fencing n else fset (focused s).fencing n tags }
    ((focused s).runsCode = true → (hasArrived sc id arrived = true ↔ tags = [])) ∧
    ((focused s).arrivals.getLsbD n = false →
      exec (.bara h id sc) s = .next (did s arrived) ∧
      exec (.barw h id sc) s = .next (did s (focused s)) ∧
      exec (.bar h id sc) s = .next (
        if (focused s).wait = .barrier sc id then did s (focused s)
        else withFocus s { arrived with wait := .barrier sc id })) ∧
    ((focused s).arrivals.getLsbD n = true →
      exec (.barw h id sc) s = .next (withFocus s { focused s with wait := .barrier sc id }) ∧
      exec (.bara h id sc) s = .next { s with freeCtr := s.freeCtr + 1 })) ∧
  (∀ (h : Hdr) (d a : Reg) (k : BitVec 5) (s : State), Ready s h →
    let flags := (focused s).sys.evflags
    let put := fun m : BitVec 32 =>
      Host.Outcome.next (did s (refreshReady { focused s with sys := { (focused s).sys with evflags := m } }))
    exec (.evset h k) s = put (flags ||| (1#32 <<< k.toNat)) ∧
    exec (.evclr h k) s = put (flags &&& ~~~(1#32 <<< k.toNat)) ∧
    exec (.evsetM h a) s = put (flags ||| (xr s a).setWidth 32) ∧
    exec (.evclrM h a) s = put (flags &&& ~~~((xr s a).setWidth 32)) ∧
    exec (.evrd h d) s = .next (didX s d (flags.setWidth 64)) ∧
    ((focused s).sys.mode = true →
      exec (.wrsys h a 0x003) s = put ((xr s a).setWidth 32 ||| (landedNow (focused s)).sets)))

/-! ## Vector instructions (R331 to R354) -/

/-- What a masked result holds, lane by lane: an active lane its result, another lane its old value, or 0 with ZERO. The
arithmetic lane instructions owe v[D], lane by lane: the exact integer result wrapped or clamped at its type, or the
floating-point result rounded once, with the flags and clamps of the active lanes. -/
def Obligations.VectorArithmetic : Prop :=
  (∀ (w : Nat) (mask : BitVec 16) (z : Bool) (old : BitVec 512) (f : Nat → FRes), w = 32 ∨ w = 64 →
    ∀ k, k < 512 / w →
      lane w (maskResult w mask z old ((List.range (512 / w)).map f)).1 k =
        if mask.getLsbD k then (f k).bits % 2 ^ w else if z then 0 else lane w old k) ∧
  (∀ (h : Hdr) (ty : Ty) (d a b c : VReg) (rm : RM) (sat : Bool) (m : Mask) (s : State), Ready s h →
    let x := lanev s ty a
    let y := lanev s ty b
    let int := fun (f : Int → Int → Int) (k : Nat) => intLane ty sat (f (tyReadInt ty (x k)) (tyReadInt ty (y k)))
    let flt := fun (f : FVal → FVal → FRes) (k : Nat) => f (readF ty (x k)) (readF ty (y k))
    let owe := fun (f : Nat → FRes) => Host.Outcome.next (owesLanes s h ty.width d m f)
    (ty.isInt = true →
      exec (.vadd h ty d a b rm sat m) s = owe (int fun p q => p + q) ∧
      exec (.vsub h ty d a b rm sat m) s = owe (int fun p q => p - q) ∧
      exec (.vmul h ty d a b rm sat m) s = owe (int fun p q => p * q)) ∧
    (ty.isInt = false →
      exec (.vadd h ty d a b rm sat m) s = owe (flt (addF ty rm)) ∧
      exec (.vsub h ty d a b rm sat m) s = owe (flt fun p q => addF ty rm p q.flip) ∧
      exec (.vmul h ty d a b rm sat m) s = owe (flt (mulF ty rm))) ∧
    exec (.vfma h ty d a b c rm m) s =
      owe (fun k => fmaF ty rm (readF ty (x k)) (readF ty (y k)) (readF ty (lanev s ty c k))) ∧
    exec (.vdiv h ty d a b rm m) s = owe (flt (divF ty rm)) ∧
    exec (.vsqrt h ty d a rm m) s = owe (fun k => sqrtF ty rm (readF ty (x k))) ∧
    exec (.vrcp h ty d a rm m) s = owe (fun k => divF ty rm (.fin false 1 0) (readF ty (x k))) ∧
    (∀ isMax : Bool,
      exec (.vminmax h isMax ty d a b m) s = owe (fun k =>
        if ty.isInt then
          laneVal (if decide (tyReadInt ty (x k) < tyReadInt ty (y k)) == isMax then y k else x k)
        else minmaxF ty isMax (x k) (y k))) ∧
    (∀ op : AbsNegOp, exec (.vabsneg h op ty d a sat m) s = owe (fun k => absnegLane op ty sat (x k))) ∧
    exec (.vexp2 h d a rm m) s =
      .next (owesLanes s h 32 d m fun k => exp2F rm (readF .f32 (lanev s .f32 a k))))

/-- The bitwise lane instructions owe v[D]: logic, shifts by the lane of the other source modulo the width, bit counts,
classes and selections; VCMP owes f[D] one bit per lane, with NV where the comparison of an active lane is invalid, VCVT the
converted elements of its slice, with the flags and the clamps of the active ones. -/
def Obligations.VectorBits : Prop :=
  ∀ (h : Hdr) (ty : Ty) (d a b : VReg) (m : Mask) (s : State), Ready s h →
    let x := lanev s ty a
    let y := lanev s ty b
    let owe := fun (f : Nat → Nat) => Host.Outcome.next (owesLanes s h ty.width d m fun k => laneVal (f k))
    exec (.vlogic h .and ty d a b m) s = owe (fun k => x k &&& y k) ∧
    exec (.vlogic h .or ty d a b m) s = owe (fun k => x k ||| y k) ∧
    exec (.vlogic h .xor ty d a b m) s = owe (fun k => x k ^^^ y k) ∧
    exec (.vlogic h .andn ty d a b m) s = owe (fun k => x k &&& (y k ^^^ (2 ^ ty.width - 1))) ∧
    exec (.vlogic h .not ty d a b m) s = owe (fun k => x k ^^^ (2 ^ ty.width - 1)) ∧
    (∀ op : ShiftOp, exec (.vshift h op ty d a b m) s = owe (fun k => shiftN op ty.width (x k) (y k))) ∧
    (∀ op : BitsOp, exec (.vbits h op ty d a m) s = owe (fun k => bitsN op ty.width (x k))) ∧
    exec (.vclass h ty d a m) s = owe (fun k => classBits ty (x k)) ∧
    (∀ c : FReg, exec (.vsel h ty d a b c m) s = owe (fun k => if (fr s c).getLsbD k then x k else y k)) ∧
    (∀ (op : VCmpOp) (e : FReg), ∃ v : BitVec 16,
      exec (.vcmp h op ty e a b m) s = .next (owes s h [.f e.toNat v]
        (raisedBy (512 / ty.width) (fr s m.k).getLsbD fun k =>
          ⟨0, if (vcmpLane op ty (x k) (y k)).2 then flagNV else 0, 0⟩) 0) ∧
      ∀ k, k < 16 → v.getLsbD k = (decide (k < 512 / ty.width) &&
        if (fr s m.k).getLsbD k then (vcmpLane op ty (x k) (y k)).1 else !m.z && (fr s e).getLsbD k)) ∧
    (∀ (src : Ty) (slice : BitVec 4) (rm : RM) (sat : Bool),
      let n := 512 / max src.width ty.width
      let lo := if src.width ≤ ty.width then 0 else slice.toNat * n
      let act := fun j => (fr s m.k).getLsbD (if n ≤ 16 then j else 16 * j / n)
      let r := fun j => convert ty src rm sat
        (lane src.width (vr s a) (if ty.width ≤ src.width then j else slice.toNat * n + j))
      ∃ v, exec (.vcvt h ty src d a slice rm sat m) s =
          .next (owes s h [.v d.toNat v] (raisedBy n act r) (clampedBy n act r)) ∧
        ∀ k, k < 512 / ty.width → lane ty.width v k =
          if lo ≤ k ∧ k < lo + n then
            if act (k - lo) then (r (k - lo)).bits % 2 ^ ty.width else if m.z then 0 else lanev s ty d k
          else lanev s ty d k)

/-- VRED owes x[D] the fixed tree over the active lanes, an inactive lane standing for the identity; VSCAN owes the inclusive
prefixes. The moves and permutes owe v[D] lanes of their sources: broadcast, copy, permutation and shuffle by index lanes,
slide, index sequences; VEXTR owes x[D] one lane, VINSR v[D] with one lane replaced. -/
def Obligations.VectorReductionsAndMoves : Prop :=
  (∀ (h : Hdr) (ty : Ty) (d : VReg) (e : Reg) (a : VReg) (rm : RM) (m : Mask) (k : FReg) (s : State), Ready s h →
    (∀ op : RedOp, exec (.vred h op ty e a rm k) s =
      .next (owesR s h e (cvtBits ty (redTree op ty rm 5
        ((List.range (512 / ty.width)).map fun i =>
          if (fr s k).getLsbD i then lanev s ty a i else redIdentity op ty) 0)))) ∧
    (∀ op : ScanOp, ∃ rs : List FRes,
      rs = scanLanes (scanRed op) ty rm (fr s m.k) (lanesOf ty.width (vr s a)) 0 (redIdentity (scanRed op) ty) ∧
      exec (.vscan h op ty d a rm m) s =
        .next (let r := maskResult ty.width (fr s m.k) m.z (vr s d) rs
               owes s h [.v d.toNat r.1] r.2.1 r.2.2))) ∧
  (∀ (h : Hdr) (ty : Ty) (d a b c : VReg) (x y : Reg) (k : BitVec 5) (m : Mask) (s : State), Ready s h →
    let n := 512 / ty.width
    let owe := fun (f : Nat → Nat) => Host.Outcome.next (owesLanes s h ty.width d m fun i => laneVal (f i))
    let pair := fun j => if j < n then lanev s ty a j else lanev s ty b (j - n)
    exec (.vbcast h ty d x m) s = owe (fun _ => (xr s x).toNat % 2 ^ ty.width) ∧
    exec (.vmov h ty d a m) s = owe (lanev s ty a) ∧
    exec (.vperm h ty d a b m) s = owe (fun i => lanev s ty a (lanev s ty b i % n)) ∧
    exec (.vshuf h ty d a b c m) s = owe (fun i => pair (lanev s ty c i % (2 * n))) ∧
    exec (.vslide h ty d a b k m) s = owe (fun i => pair (i + k.toNat)) ∧
    exec (.viota h ty d x y m) s = owe (fun i => ((xr s x).toNat + i * (xr s y).toNat) % 2 ^ ty.width) ∧
    exec (.vextr h ty x a k) s = .next (owesR s h x (cvtBits ty (laneVal (lanev s ty a k.toNat)))) ∧
    exec (.vinsr h ty d x k) s = .next (owesV s h d (packV ty.width ((List.range n).map fun i =>
      if i = k.toNat then (xr s x).toNat % 2 ^ ty.width else lanev s ty d i))))

/-- VMASK owes f[D] a function of two mask registers, or x[D] the number of set bits or the index of the lowest. VLD owes v[D]
64 bytes and VST stores them; the strided and indexed forms touch the active lanes alone, each at its own address, once every
address has passed its checks. -/
def Obligations.MasksAndVectorMemory : Prop :=
  (∀ (h : Hdr) (d : Reg) (a b : FReg) (s : State), Ready s h →
    let owe := fun v : BitVec 16 => Host.Outcome.next (owes s h [.f d.toNat v] 0 0)
    exec (.vmask h .and d a b) s = owe (fr s a &&& fr s b) ∧
    exec (.vmask h .or d a b) s = owe (fr s a ||| fr s b) ∧
    exec (.vmask h .xor d a b) s = owe (fr s a ^^^ fr s b) ∧
    exec (.vmask h .andn d a b) s = owe (fr s a &&& ~~~ fr s b) ∧
    exec (.vmask h .not d a b) s = owe (~~~ fr s a) ∧
    exec (.vmask h .popc d a b) s = .next (owesX s h d (BitVec.ofNat 64 (popcN 16 (fr s a).toNat))) ∧
    exec (.vmask h .first d a b) s = .next (owesX s h d (BitVec.ofNat 64 (ctzN 16 (fr s a).toNat)))) ∧
  (∀ (h : Hdr) (ty : Ty) (d off : VReg) (x y : Reg) (sc : BitVec 2) (m : Mask) (mo : MemOp) (s : State), Ready s h →
    let k := ty.width / 8
    let live := liveLanes s ty m.k
    let load := fun ea : Nat → Nat => Host.Outcome.next (owesLanes s h ty.width d m fun i =>
      laneVal (if (fr s m.k).getLsbD i then (focused s).sram.readLE (ea i) k else 0))
    let store := fun ea : Nat → Nat => Host.Outcome.next (did s { focused s with
      sram := live.foldl (fun mem i => mem.writeLE (ea i) k (lanev s ty d i)) (focused s).sram })
    let strided := fun i : Nat => (xr s x + BitVec.ofNat 64 i * xr s y).toNat
    let indexed := fun i : Nat => ((xr s x).toNat + lanev s ty off i * 2 ^ sc.toNat) % 2 ^ 64
    (accessOk s loads 64 64 [memAddr s mo] →
      exec (.vld h d mo) s = .next (owesV s h d (BitVec.ofNat 512 ((focused s).sram.readLE (memAddr s mo) 64)))) ∧
    (accessOk s stores 64 64 [memAddr s mo] →
      exec (.vst h d mo) s = .next (didStore s (memAddr s mo) (leBytes (vr s d).toNat 64))) ∧
    (accessOk s loads k k (live.map strided) → exec (.vlds h ty d x y m) s = load strided) ∧
    (accessOk s stores k k (live.map strided) → exec (.vsts h ty d x y m) s = store strided) ∧
    (accessOk s loads k k (live.map indexed) → exec (.vgath h ty d x off sc m) s = load indexed) ∧
    (accessOk s stores k k (live.map indexed) → exec (.vscat h ty d x off sc m) s = store indexed))

/-- VDOT owes four dot products of sixteen FP8 elements in lanes 0 to 3 and 0 in the others, with the flags of the active four;
VDOTI adds to each 32-bit lane the sum of four byte products; DMMA owes A · B + C in a register pair, with the flags of every fused
step of its sixteen elements; VRNG owes ten Philox rounds of each lane-quad. VDOT, DMMA and VRNG clamp nothing, and VRNG raises no
flag. -/
def Obligations.DotProducts : Prop :=
  ∀ (h : Hdr) (d a b c : VReg) (k : Reg) (m : Mask) (rm : RM) (s : State), Ready s h →
    (∀ e5 : Bool,
      let r := fun i => dot16 (if e5 then .e5m2 else .e4m3) ((List.range 16).map fun e => lane 8 (vr s a) (16 * i + e))
        ((List.range 16).map fun e => lane 8 (vr s b) (16 * i + e))
      ∃ v, exec (.vdot h e5 d a b m) s = .next (owes s h [.v d.toNat v] (raisedBy 4 (fr s m.k).getLsbD r) 0) ∧
        (∀ i, i < 4 → lane 32 v i =
          if (fr s m.k).getLsbD i then (r i).bits % 2 ^ 32 else if m.z then 0 else lane 32 (vr s d) i) ∧
        ∀ i, 4 ≤ i → i < 16 → lane 32 v i = 0) ∧
    (∀ uns sat : Bool,
      let ty : Ty := if uns then .n32 else .i32
      let ety : Ty := if uns then .n8 else .i8
      let el := fun (r : VReg) (j : Nat) => tyReadInt ety (lane 8 (vr s r) j)
      exec (.vdoti h uns sat d a b c m) s = .next (owesLanes s h 32 d m fun i =>
        intLane ty sat (tyReadInt ty (lane 32 (vr s c) i) +
          (el a (4 * i) * el b (4 * i) + el a (4 * i + 1) * el b (4 * i + 1) + el a (4 * i + 2) * el b (4 * i + 2) +
            el a (4 * i + 3) * el b (4 * i + 3))))) ∧
    (anyClash [vgroup 2 d, vgroup 2 a, vgroup 2 b, vgroup 2 c] = false →
      let el := fun (r : VReg) (i j : Nat) => lane 64 (readV (focused s) .main (r.toNat + i / 2)) (4 * (i % 2) + j)
      let r := fun i j => fmaChain rm ((List.range 4).map fun n => (el a i n, el b n j)) ⟨el c i j, 0, 0⟩
      ∃ v w, exec (.dmma h d a b c rm) s = .next (owes s h [.v d.toNat v, .v (d.toNat + 1) w]
          (raisedBy 16 (fun _ => true) fun k => r (k / 4) (k % 4)) 0) ∧
        ∀ i j, i < 4 → j < 4 → lane 64 (if i < 2 then v else w) (4 * (i % 2) + j) = (r i j).bits % 2 ^ 64) ∧
    (∃ v, exec (.vrng h d k c) s = .next (owesV s h d v) ∧
      ∀ j, j < 4 →
        let r := philox 10 (lane 32 (vr s c) (4 * j)) (lane 32 (vr s c) (4 * j + 1)) (lane 32 (vr s c) (4 * j + 2))
          (lane 32 (vr s c) (4 * j + 3)) ((xr s k).toNat % 2 ^ 32) ((xr s k).toNat / 2 ^ 32)
        lane 32 v (4 * j) = r.1 % 2 ^ 32 ∧ lane 32 v (4 * j + 1) = r.2.1 % 2 ^ 32 ∧
        lane 32 v (4 * j + 2) = r.2.2.1 % 2 ^ 32 ∧ lane 32 v (4 * j + 3) = r.2.2.2 % 2 ^ 32)

/-! ## Blocks (R188 to R193, R356 to R365) -/

/-- BCVT owes one register per block of 32 elements: the blocks of the source group under the table's exponent or the one that
dynamic mode chooses; a table exponent of 0 or 255 traps with E_FORMAT. BEXP owes x[D] that exponent. BUNP, BSAT and BALIGN on
a block whose exponent is not 255: BUNP owes 32 FP32 values in two registers, BSAT the magnitudes rounded to its planes,
BALIGN the block under the exponent of x[S2], its magnitudes cut for a larger exponent and clamped for a smaller one, with what
clamps and what becomes 0 counted; a zero block stays as it is. A block's exponent of 255 traps with E_FORMAT in all three, and
so does, in BALIGN and first, an exponent of 0 or 255 in x[S2]. -/
def Obligations.BlockConversion : Prop :=
  (∀ (h : Hdr) (src : Ty) (g : GroupSize) (d a : VReg) (x : Reg) (s : State), Ready s h →
    let w := xr s x
    let etab := wfield w 8 8
    let bits := groupBits (focusEnv s 0) (focused s) a (blockSrcRegs src g)
    let data := groupData src bits g.count
    let owe := fun r : List Block × Counts => Host.Outcome.next
      (owesC s h (r.1.zipIdx.map fun b => .v (d.toNat + b.2) (b.1.setWidth 512)) 0 r.2)
    (src ≠ .e2m1 →
      exec (.bcvt h src g false d a x) s = owe (blocksOf (dynE data) (wfield w 0 8) (g.count / 32) data) ∧
      (etab ≠ 0 → etab ≠ 255 →
        exec (.bcvt h src g true d a x) s = owe (blocksOf etab (wfield w 0 8) (g.count / 32) data))) ∧
    (src = .e2m1 → exec (.bcvt h src g false d a x) s =
      (let m := mxBlock (wfield w 16 8) (wfield w 0 8) (groupCodes src bits 32)
       owe ([m.1], m.2))) ∧
    (etab = 0 ∨ etab = 255 →
      exec (.bcvt h src g true d a x) s = .next (trapped s eFormat (BitVec.ofNat 64 (2 ^ 63 + etab)))) ∧
    ∀ e : Reg, exec (.bexp h src g e a) s = .next (owesX s h e (BitVec.ofNat 64 (dynE data)))) ∧
  (∀ (h : Hdr) (p : Planes) (d a : VReg) (x : Reg) (s : State), Ready s h →
    let b := blockIn (vr s a)
    let e := wfield (xr s x) 0 8
    let clash := anyClash [[.v a.toNat], vgroup 2 d]
    (b.E ≠ 255 →
      (clash = false → exec (.bunp h p d a) s =
        .next (owes s h [.v d.toNat (packV 32 ((List.range 16).map fun i => unpackElem b (planeCount p) i)),
          .v (d.toNat + 1) (packV 32 ((List.range 16).map fun i => unpackElem b (planeCount p) (16 + i)))] 0 0)) ∧
      (b.E = 0 →
        exec (.bsat h p d a) s = .next (owesV s h d (b.setWidth 512)) ∧
        (e ≠ 0 → e ≠ 255 → exec (.balign h d a x) s = .next (owesV s h d (b.setWidth 512)))) ∧
      (b.E ≠ 0 →
        let ms := b.mags.map (roundMag (planeCount p))
        exec (.bsat h p d a) s =
          .next (owes s h [.v d.toNat ((b.withMags b.E (ms.map fun m => m.1.toNat)).setWidth 512)] 0
            (ms.foldl (fun n m => n + m.2) 0)) ∧
        (e ≠ 0 → e ≠ 255 →
          (b.E ≤ e → exec (.balign h d a x) s =
            .next (owesC s h [.v d.toNat ((b.withMags e (b.mags.map fun m => m / 2 ^ (e - b.E))).setWidth 512)] 0
              ⟨0, 0, (b.mags.filter fun m => m ≠ 0 ∧ m / 2 ^ (e - b.E) = 0).length⟩)) ∧
          (e < b.E → exec (.balign h d a x) s =
            .next (owesC s h [.v d.toNat ((b.withMags e (b.mags.map fun m => min 255 (m * 2 ^ (b.E - e)))).setWidth 512)] 0
              ⟨(b.mags.filter fun m => 255 < m * 2 ^ (b.E - e)).length, 0, 0⟩))))) ∧
    (b.E = 255 →
      (clash = false → exec (.bunp h p d a) s = .next (trapped s eFormat (BitVec.ofNat 64 (2 ^ 63 + 15)))) ∧
      exec (.bsat h p d a) s = .next (trapped s eFormat (BitVec.ofNat 64 (2 ^ 63 + 15))) ∧
      (e ≠ 0 → e ≠ 255 → exec (.balign h d a x) s = .next (trapped s eFormat (BitVec.ofNat 64 (2 ^ 63 + 15))))) ∧
    (e = 0 ∨ e = 255 → exec (.balign h d a x) s = .next (trapped s eFormat (BitVec.ofNat 64 (2 ^ 63 + e)))))

/-! ## Tensor instructions (R366 to R380) -/

/-- BCHK goes on where a header's serial is the one expected, traps with E_SKEW and both serials where it is not, and with
E_FORMAT for an exponent of 255. BNORM owes the FP32 values of sixteen partial sums. BSTAT sends the three counters as they
stand before any result written in its cycle and clears them, what such a result adds applied after it, where the class-30 output of
its router towards the sink can accept a flit, and stalls where it cannot. TCLM claims a free slot
and empties it, and traps with E_SLOT on a claimed one; TREL frees a claimed slot. Every use of a slot that is not claimed, by
TREL, TLD, TMMA or TMMI, traps with E_SLOT and the lowest such slot. -/
def Obligations.BlockChecksAndSlots : Prop :=
  (∀ (h : Hdr) (d c : VReg) (a b : Reg) (m : Mask) (s : State), Ready s h →
    let found := wfield (xr s a) 24 8
    let want := wfield (xr s b) 0 8
    (wfield (xr s a) 0 8 ≠ 255 → exec (.bchk h a b) s = .next (
      if found = want then did s (focused s) else trapped s eSkew (BitVec.ofNat 64 (found + 256 * want)))) ∧
    (wfield (xr s a) 0 8 = 255 →
      exec (.bchk h a b) s = .next (trapped s eFormat (BitVec.ofNat 64 (2 ^ 63 + 15)))) ∧
    (anyClash [vgroup 2 c, [.v d.toNat]] = false →
      let bits := groupBits (focusEnv s 0) (focused s) c 2
      exec (.bnorm h d c a m) s = .next (owesLanes s h 32 d m fun l =>
        resolveLane (fieldN bits (64 * l) 32) (fieldN bits (64 * l + 32) 32) (sext (wfield (xr s a) 0 10) 10))) ∧
    (statRoom s s.focus = true →
      exec (.bstat h) s = .next (did s { send (focused s) 30 (statFlit (focusEnv s (encode (.bstat h))) (focused s)) with
        sys := clearCounts (focused s) })) ∧
    ((landedNow (focused s)).results = [] →
      clearCounts (focused s) = { (focused s).sys with satcnt := 0, nancnt := 0, uflcnt := 0 } ∧
      countsBefore (focused s) = ((focused s).sys.satcnt, (focused s).sys.nancnt, (focused s).sys.uflcnt)) ∧
    (statRoom s s.focus = false → exec (.bstat h) s = .next { s with freeCtr := s.freeCtr + 1 })) ∧
  (∀ (h : Hdr) (t u : BitVec 3) (a : BitVec 2) (s : State), Ready s h →
    let sl := readSlot (focused s) t.toNat
    let other := readSlot (focused s) u.toNat
    (sl.claimed = false →
      exec (.tclm h t) s = .next (did s (writeSlot (focused s) t.toNat { claimed := true, i8 := false, planes := .p8, rows := [] })) ∧
      exec (.trel h t) s = .next (trapped s eSlot (t.setWidth 64)) ∧
      (∀ (p : Planes) (xa xb : Reg) (fmt : Ty) (tr tab chk : Bool),
        exec (.tld h t p xa xb fmt tr tab chk) s = .next (trapped s eSlot (t.setWidth 64)))) ∧
    (∀ n : BitVec 3, (n = t ∧ sl.claimed = false ∧ (other.claimed = true ∨ t.toNat ≤ u.toNat)) ∨
        (n = u ∧ other.claimed = false ∧ (sl.claimed = true ∨ u.toNat ≤ t.toNat)) →
      exec (.tmma h a t u) s = .next (trapped s eSlot (n.setWidth 64)) ∧
      ∀ sat : Bool, exec (.tmmi h sat a t u) s = .next (trapped s eSlot (n.setWidth 64))) ∧
    (sl.claimed = true →
      exec (.tclm h t) s = .next (trapped s eSlot (t.setWidth 64)) ∧
      exec (.trel h t) s = .next (did s (writeSlot (focused s) t.toNat { sl with claimed := false }))))

/-- TLD into a claimed slot, in a form it accepts and with every read passing its checks and every row valid, owes the slot
sixteen rows: blocks as they stand in SRAM, bytes, or blocks converted from the elements, and counts what the conversions of the
sixteen rows clamp, what they read as NaN and what becomes 0: nothing for rows of blocks and of bytes. -/
def Obligations.TileLoad : Prop :=
  ∀ (h : Hdr) (t : BitVec 3) (p : Planes) (xa xb : Reg) (fmt : Ty) (tr tab chk : Bool) (s : State), Ready s h →
    let src : TileSrc := ⟨fmt, tr, tab, chk, planeCount p, xr s xa, xr s xb⟩
    (readSlot (focused s) t.toNat).claimed = true → tldFmtOk fmt = true → checkReads (focused s) src.reads = none →
    src.late (focused s) = none →
    let total := fun f : Counts → Nat => ((List.range 16).map fun i => f (src.row (focused s) i).2).sum
    ∃ sl, exec (.tld h t p xa xb fmt tr tab chk) s =
        .next (owesC s h [.t t.toNat sl] 0 ⟨total (·.sat), total (·.nan), total (·.ufl)⟩) ∧
      (fmt = .nb ∨ fmt = .i8 → total (·.sat) = 0 ∧ total (·.nan) = 0 ∧ total (·.ufl) = 0) ∧
      sl.claimed = true ∧ sl.i8 = decide (fmt = .i8) ∧ sl.planes = (if fmt = .i8 then .p8 else p) ∧
      (∀ i, i < 16 → slotRow sl i = (src.row (focused s) i).1) ∧
      (fmt = .nb → ∀ i, i < 16 →
        (slotRow sl i).toNat % 2 ^ 64 = (focused s).sram.readLE (wfield (xr s xa) 0 19 + 8 * wfield (xr s xb) 0 16 * i) 8)

/-- TMMA and TMMI on two claimed slots in their form owe the tile: TMMA the exact sum of the tile and 256 block products under
one exponent, TMMI each element plus the product of its row and column, at 32 bits. TMMA counts the elements that it clamps, none
unless the exponent is 511; TMMI.sat counts each element whose sum lies outside 32 bits, and TMMI.wrap counts none. A slot in the
other form traps with E_FORMAT. -/
def Obligations.ArrayProducts : Prop :=
  ∀ (h : Hdr) (a : BitVec 2) (ta tb : BitVec 3) (s : State), Ready s h →
    let sa := readSlot (focused s) ta.toNat
    let sb := readSlot (focused s) tb.toNat
    let acc := readAcc (focused s) a.toNat
    sa.claimed = true → sb.claimed = true →
    (sa.i8 = false → sb.i8 = false →
      let r := accumulate (tileElems acc) acc.exp.toInt ((List.range 256).map fun k =>
        contribution (slotRow sa (k / 16)) (slotRow sb (k % 16)) (planeCount sa.planes) (planeCount sb.planes))
      exec (.tmma h a ta tb) s = .next (owesTile s h a (tileOf r.1 r.2.1) r.2.2) ∧ (r.2.2 ≠ 0 → r.2.1 = 511)) ∧
    (sa.i8 = true → sb.i8 = true → ∃ t,
      exec (.tmmi h false a ta tb) s = .next (owesTile s h a t 0) ∧ t.exp = acc.exp ∧
      ∀ k, k < 256 → fget t.el k 0 = ((BitVec.ofInt 32 ((fget acc.el k 0).toInt +
        byteSum (slotRow sa (k / 16)) (slotRow sb (k % 16)))).signExtend 48)) ∧
    (sa.i8 = true → sb.i8 = true →
      let sum := fun k => ((fget acc.el k 0).setWidth 32).toInt + byteSum (slotRow sa (k / 16)) (slotRow sb (k % 16))
      ∃ t, exec (.tmmi h true a ta tb) s = .next (owesTile s h a t
          ((List.range 256).filter fun k => decide (sum k < -(2 ^ 31) ∨ 2 ^ 31 - 1 < sum k)).length) ∧ t.exp = acc.exp ∧
        ∀ k, k < 256 → (fget t.el k 0).toInt = max (-(2 ^ 31)) (min (2 ^ 31 - 1) (sum k))) ∧
    (sa.i8 = true ∨ sb.i8 = true →
      exec (.tmma h a ta tb) s = .next (trapped s eFormat (BitVec.ofNat 64 (2 ^ 63 + 3)))) ∧
    (sa.i8 = false ∨ sb.i8 = false → ∀ sat : Bool,
      exec (.tmmi h sat a ta tb) s = .next (trapped s eFormat (BitVec.ofNat 64 (2 ^ 63 + 15))))

/-- The instructions that read and write a tile row or its exponent: TZERO, TRD, TWR, TSH and TSTAT owe the tile, vector
registers or x[D] as their entries say. TCVT owes the elements of a row scaled by the exponent, each fused with the factor and
term that stand for its column in the table at x[XT], rounded once, with the flags of the sixteen, and clamps nothing. TSTAT.red owes the chunk, floor and depth of a binding's
class. -/
def Obligations.TileAccess : Prop :=
  (∀ (h : Hdr) (a : BitVec 2) (row : BitVec 4) (d : VReg) (x : Reg) (n : BitVec 6) (s : State), Ready s h →
    let t := readAcc (focused s) a.toNat
    let el := fun j => (fget t.el (16 * row.toNat + j) 0)
    let oweA := fun u : Tile => Host.Outcome.next (owes s h [.a a.toNat u] 0 0)
    exec (.tzero h a) s = oweA {} ∧
    (∃ v w, exec (.trdRaw h a row d x) s =
        .next (owes s h [.v d.toNat v, .v (d.toNat + 1) w, .x x.toNat (t.exp.signExtend 64)] 0 0) ∧
      ∀ j, j < 8 → lane 64 v j = ((el j).signExtend 64).toNat ∧ lane 64 w j = ((el (8 + j)).signExtend 64).toNat) ∧
    (∃ v, exec (.trdI32 h a row d) s = .next (owesV s h d v) ∧
      ∀ j, j < 16 → lane 32 v j = (el j).toNat % 2 ^ 32) ∧
    (∃ u, exec (.twrRaw h a row d) s = oweA u ∧ u.exp = t.exp ∧
      ∀ k, k < 256 → fget u.el k 0 =
        if k / 16 = row.toNat then
          BitVec.ofNat 48 (lane 64 (readV (focused s) .main (d.toNat + k % 16 / 8)) (k % 8))
        else fget t.el k 0) ∧
    (∃ u, exec (.twrI32 h a row d) s = oweA u ∧ u.exp = t.exp ∧
      ∀ k, k < 256 → fget u.el k 0 =
        if k / 16 = row.toNat then (BitVec.ofNat 32 (lane 32 (vr s d) (k % 16))).signExtend 48 else fget t.el k 0) ∧
    exec (.twrExp h a x) s = oweA { t with exp := (xr s x).setWidth 10 } ∧
    (∃ u, exec (.tsh h a n) s = oweA u ∧
      let m := min (n.toNat : Int) (511 - t.exp.toInt)
      u.exp.toInt = t.exp.toInt + m ∧ ∀ k, k < 256 → (fget u.el k 0).toInt = (fget t.el k 0).toInt / 2 ^ m.toNat) ∧
    (t.exp.toInt < ((xr s x).setWidth 10).toInt → ∃ u, exec (.tshTo h a x) s = oweA u ∧
      u.exp = (xr s x).setWidth 10 ∧
      ∀ k, k < 256 → (fget u.el k 0).toInt =
        (fget t.el k 0).toInt / 2 ^ (((xr s x).setWidth 10).toInt - t.exp.toInt).toNat) ∧
    (((xr s x).setWidth 10).toInt ≤ t.exp.toInt → exec (.tshTo h a x) s = oweA t) ∧
    exec (.tstatExp h a x) s = .next (owesX s h x (t.exp.signExtend 64)) ∧
    exec (.tstatSlots h x) s = .next (owesX s h x (BitVec.ofNat 64 (slotsWord (focused s))))) ∧
  (∀ (h : Hdr) (a : BitVec 2) (row : BitVec 4) (xt x : Reg) (d : VReg) (rm : RM) (q : BitVec 4) (s : State), Ready s h →
    let t := readAcc (focused s) a.toNat
    let base := (xr s xt).toNat
    (accessOk s loads 8 8 ((List.range 16).map fun j => base + 8 * j) →
      let r := fun j : Nat =>
        let e := (fget t.el (16 * row.toNat + j) 0).toInt
        let w := (focused s).sram.readLE (base + 8 * j) 8
        fmaF .f32 rm (.fin (decide (e < 0)) e.natAbs t.exp.toInt) (readF .f32 (w % 2 ^ 32)) (readF .f32 (w / 2 ^ 32))
      ∃ v, exec (.tcvt h a row xt d rm) s = .next (owes s h [.v d.toNat v] (raisedBy 16 (fun _ => true) r) 0) ∧
        ∀ j, j < 16 → lane 32 v j = (r j).bits % 2 ^ 32) ∧
    (∀ cls, readQ (focused s) q.toNat = .inQ cls →
      exec (.tstatRed h x q) s = .next (owesX s h x (BitVec.ofNat 64 (redWord (focused s) cls.toNat)))) ∧
    (readQ (focused s) q.toNat = .unbound → exec (.tstatRed h x q) s = .next (trapped s eQueue (q.setWidth 64))))

/-! ## Queue registers, routing entries, tasks and the cellar (R383 to R386, R394 to R397) -/

/-- QBIND binds a register that no open message and no unanswered capability request holds: to a class the launch may use (or
class 24 in system mode), to a core in the region's shape or in a handle's reach, to a valid inbound pantry, to a larder the
launch binds, or to a sealed handle. QFREE unbinds it and QSTAT reads 0 from it then. A register held so traps with E_QUEUE.
CLSET gives a class of the launch its routing entry, unless the entry is reserved (E_RSV), has MODE ADAPT in a deterministic
region (E_DET) or leads out of the region (E_SEAL); CLGET reads it. TBIND enters a task at an aligned entry point, TUNB removes
it. CELLAR in system mode, with the cellar empty, moves it to an aligned range off every pantry, or removes it. QBIND.out traps
with E_BOUND and its operand where WAFER is not 0 or the core named lies outside the shape, beyond the grid or is unavailable;
QBIND.larder does for a larder above 47, and traps with E_PRIV for one not bound; CELLAR in system mode traps with E_QUEUE while the
cellar holds a flit, with E_ALIGN for a base that is not 4 KiB aligned, and with E_BOUND beyond SRAM or over a pantry. That
QBIND.out without a handle ignores bit 63 of its operand (log entry 49) and that CELLAR clears the valid bit alone of each stamp
(log entry 48) are the model's choices. -/
def Obligations.BindingsAndEntries : Prop :=
  (∀ (h : Hdr) (q : BitVec 4) (s : State), Ready s h →
    (mayRebind (focused s) q.toNat = true →
      (∀ cls : BitVec 5,
        (classAllowed (launchHere s) cls.toNat = true ∨ cls = 24 ∧ (focused s).sys.mode = true →
          exec (.qbindIn h q cls) s = .next (didBind s q (.inQ cls))) ∧
        (classAllowed (launchHere s) cls.toNat = false → cls ≠ 24 ∨ (focused s).sys.mode = false →
          exec (.qbindIn h q cls) s = .next (trapped s ePriv (encode (.qbindIn h q cls))))) ∧
      (∀ (cls : BitVec 5) (a : Reg), classAllowed (launchHere s) cls.toNat = true →
        let v := xr s a
        let t := absTarget (launchHere s) none v
        v.extractLsb' 57 6 = 0 → inShape (launchHere s) v = true → t.1 < 224 → t.2 < 384 →
        unavailable s.dev t.1 t.2 = false →
          exec (.qbindOut h q cls a 0) s = .next (didBind s q (.outQ cls t.1 t.2 0))) ∧
      (∀ (cls : BitVec 5) (a hd : Reg), classAllowed (launchHere s) cls.toNat = true →
        let v := xr s a
        let t := absTarget (launchHere s) (if hd = 0 then none else some (xr s hd)) v
        (hd = 0 ∨ reachedBy s (xr s hd) 36 t.1 t.2) →
        v.extractLsb' 57 6 ≠ 0 ∨ (hd = 0 ∧ inShape (launchHere s) v = false) ∨ 224 ≤ t.1 ∨ 384 ≤ t.2 ∨
          unavailable s.dev t.1 t.2 = true →
          exec (.qbindOut h q cls a hd) s = .next (trapped s eBound v)) ∧
      (∀ (cls : BitVec 5) (a hd : Reg), classAllowed (launchHere s) cls.toNat = false →
        exec (.qbindOut h q cls a hd) s = .next (trapped s ePriv (encode (.qbindOut h q cls a hd)))) ∧
      (∀ (cls : BitVec 5) (a hd : Reg), classAllowed (launchHere s) cls.toNat = true → hd ≠ 0 →
        let v := xr s a
        let t := absTarget (launchHere s) (some (xr s hd)) v
        (reachedBy s (xr s hd) 36 t.1 t.2 → v.extractLsb' 57 6 = 0 → t.1 < 224 → t.2 < 384 →
          unavailable s.dev t.1 t.2 = false →
          exec (.qbindOut h q cls a hd) s = .next (didBind s q (.outQ cls t.1 t.2 (xr s hd)))) ∧
        (¬ reachedBy s (xr s hd) 36 t.1 t.2 → exec (.qbindOut h q cls a hd) s = .next (trapped s eSeal (xr s hd)))) ∧
      (∀ p : BitVec 3,
        exec (.qbindPantry h q p) s = .next (
          if (pantryAt (focused s) p.toNat).valid = true ∧ (pantryAt (focused s) p.toNat).outbound = false then
            didBind s q (.pantry p.toNat 0)
          else trapped s eBound ((pantryAt (focused s) p.toNat).base.setWidth 64))) ∧
      (∀ a : Reg,
        let n := ((xr s a).extractLsb' 0 6).toNat
        exec (.qbindLarder h q a) s = .next (
          if 47 < n then trapped s eBound (xr s a)
          else if bindsLarder (launchHere s) n = true then didBind s q (.larder n ((xr s a).extractLsb' 8 4).toNat)
          else trapped s ePriv (encode (.qbindLarder h q a)))) ∧
      (∀ a : Reg,
        exec (.qbindCap h q a) s = .next (
          if sealOk s.dev.sealKey (xr s a) = true then didBind s q (.cap (xr s a)) else trapped s eSeal (xr s a))) ∧
      exec (.qfree h q) s = .next (didBind s q .unbound)) ∧
    (mayRebind (focused s) q.toNat = false →
      exec (.qfree h q) s = .next (trapped s eQueue (q.setWidth 64)) ∧
      (∀ p : BitVec 3, exec (.qbindPantry h q p) s = .next (trapped s eQueue (q.setWidth 64))) ∧
      (∀ a : Reg, exec (.qbindCap h q a) s = .next (trapped s eQueue (q.setWidth 64))) ∧
      (∀ cls : BitVec 5, classAllowed (launchHere s) cls.toNat = true →
        exec (.qbindIn h q cls) s = .next (trapped s eQueue (q.setWidth 64)) ∧
        ∀ a hd : Reg, exec (.qbindOut h q cls a hd) s = .next (trapped s eQueue (q.setWidth 64)))) ∧
    (∀ d : Reg, exec (.qstat h d q) s = .next (didX s d (BitVec.ofNat 64 (qstatWord (focused s) q.toNat)))) ∧
    (readQ (focused s) q.toNat = .unbound → qstatWord (focused s) q.toNat = 0)) ∧
  (∀ (h : Hdr) (a d : Reg) (s : State), Ready s h →
    let v := xr s a
    let e : BitVec 32 := v.setWidth 32
    (∀ cls : BitVec 5, classAllowed (launchHere s) cls.toNat = true → routeReserved e = false →
      ((focused s).sys.det = false ∨ e.extractLsb' 0 2 ≠ 2) →
      let out := fun w : Word => (List.range 5).any fun i => (List.range 4).any fun o =>
        (routeOut e i).getLsbD o && leadsOut (focusEnv s w) o
      exec (.clset h cls a) s = .next (
        if out (encode (.clset h cls a)) = true then trapped s eSeal 0 else did s (setRoute (focused s) cls.toNat e))) ∧
    (∀ cls : BitVec 5, classAllowed (launchHere s) cls.toNat = true →
      (routeReserved e = true → exec (.clset h cls a) s = .next (trapped s eRsv (encode (.clset h cls a)))) ∧
      (routeReserved e = false → (focused s).sys.det = true → e.extractLsb' 0 2 = 2 →
        exec (.clset h cls a) s = .next (trapped s eDet (encode (.clset h cls a))))) ∧
    (∀ cls : BitVec 5, exec (.clget h d cls) s = .next (didX s d ((routeEntry (focused s) cls.toNat).setWidth 64))) ∧
    (∀ k : BitVec 5,
      (v.getLsbD 18 = true ∨ classAllowed (launchHere s) (v.extractLsb' 19 5).toNat = true →
        let t : Task := { entry := v.setWidth 16, pc := v.setWidth 16, prio := v.extractLsb' 16 2,
                          onEvent := v.getLsbD 18, k := v.extractLsb' 19 5 }
        exec (.tbind h k a) s = .next (
          if v.toNat % 8 ≠ 0 then trapped s eAlign ((v.setWidth 16 : BitVec 16).setWidth 64)
          else did s (refreshReady { focused s with tasks := fset (focused s).tasks k.toNat t }))) ∧
      exec (.tunb h k) s = .next (did s { focused s with tasks := fdel (focused s).tasks k.toNat })) ∧
    (∀ m : BitVec 5,
      let base : BitVec 19 := v.setWidth 19
      ((focused s).sys.mode = true → cellarEntries (focused s) = [] →
        (m = 0 → exec (.cellar h m a) s = .next (did s { focused s with cellar := none })) ∧
        (m ≠ 0 → base.toNat % 4096 = 0 → base.toNat + 4096 * m.toNat ≤ 0x80000 →
          overPantry (focused s) base.toNat (4096 * m.toNat) = false →
          exec (.cellar h m a) s = .next (did s { focused s with
            cellar := some (base, 4096 * m.toNat)
            sram := clearStamps (focused s).sram base.toNat (28 * m.toNat) })) ∧
        (m ≠ 0 → base.toNat % 4096 ≠ 0 → exec (.cellar h m a) s = .next (trapped s eAlign (base.setWidth 64))) ∧
        (m ≠ 0 → base.toNat % 4096 = 0 →
          0x80000 < base.toNat + 4096 * m.toNat ∨ overPantry (focused s) base.toNat (4096 * m.toNat) = true →
          exec (.cellar h m a) s = .next (trapped s eBound (base.setWidth 64)))) ∧
      ((focused s).sys.mode = true → cellarEntries (focused s) ≠ [] →
        exec (.cellar h m a) s = .next (trapped s eQueue 0)) ∧
      ((focused s).sys.mode = false → exec (.cellar h m a) s = .next (trapped s ePriv (encode (.cellar h m a))))))

/-! ## Messages (R166, R167, R378 to R380, R387 to R393) -/

/-- With no message open, POP takes the head flit of the class bound and writes x[D] with 8 bytes of its payload, VPOP writes
v[D] and v[D+1] with all of it, TRECV those and x[X] with EXP and CHUNK of a PSUM flit; each waits while the class is empty.
QPEEK reads the head and leaves it, 0 where there is none. From a pantry, POP reads the next 8 bytes and VPOP the next four
sectors. -/
def Obligations.Receiving : Prop :=
  ∀ (h : Hdr) (d : Reg) (q : BitVec 4) (s : State), Ready s h →
    (∀ cls : BitVec 5, readQ (focused s) q.toNat = .inQ cls → (focused s).opens = [] →
      (popFlit (focused s) cls.toNat = none →
        (∀ k, exec (.pop h d q k) s = .next (withFocus s { focused s with wait := .instr })) ∧
        (∀ v, exec (.vpop h v q) s = .next (withFocus s { focused s with wait := .instr })) ∧
        (∀ k, exec (.qpeek h d q k) s = .next (didX s d 0))) ∧
      (∀ (f : Flit) (c : Core), popFlit (focused s) cls.toNat = some (f, c) → c.pending = [] → c.pc = (focused s).pc →
        (∀ k : BitVec 4,
          exec (.pop h d q k) s =
            .next (did s (writeX (refreshReady c) .main d.toNat (f.payload.extractLsb' (64 * k.toNat) 64)))) ∧
        (∀ v : VReg, v.toNat % 2 = 0 → exec (.vpop h v q) s = .next (did s (writeV (writeV (refreshReady c) .main v.toNat
          (f.payload.extractLsb' 0 512)) .main (v.toNat + 1) (f.payload.extractLsb' 512 512)))) ∧
        (∀ k : BitVec 5, k.toNat < 16 →
          exec (.qpeek h d q k) s = .next (didX s d (f.payload.extractLsb' (64 * k.toNat) 64))) ∧
        exec (.qpeek h d q 16) s = .next (didX s d f.side) ∧
        (∀ v : VReg, flitKind f = 10 → v.toNat % 2 = 0 →
          exec (.trecv h v d q) s = .next (did s (writeX (writeV (writeV (refreshReady c) .main v.toNat
            (f.payload.extractLsb' 0 512)) .main (v.toNat + 1) (f.payload.extractLsb' 512 512)) .main d.toNat
            (((flitChunk f).setWidth 48 : BitVec 48) ++ (BitVec.ofInt 16 (flitExp f) &&& 0x3FF)))))) ∧
      (∀ (f : Flit) (fs : List Flit), queueOf (focused s) cls.toNat = f :: fs →
        popFlit (focused s) cls.toNat = some (f, setQueue (focused s) cls.toNat fs))) ∧
    (∀ (p o : Nat), readQ (focused s) q.toNat = .pantry p o → (focused s).opens = [] →
      let x := pantryAt (focused s) p
      x.valid = true → x.outbound = false →
        (0 < (x.fill - x.cur).toNat →
          exec (.pop h d q 0) s = .next (did s (writeX (writeQ (setPantry (focused s) p
            { x with cur := if o = 3 then x.cur + 1 else x.cur }) q.toNat (.pantry p ((o + 1) % 4))) .main d.toNat
            ((focused s).sram.word (sectorAddr x x.cur + 8 * o))))) ∧
        (∀ v : VReg, v.toNat % 2 = 0 → o = 0 → 4 ≤ pantryW x → 4 ≤ (x.fill - x.cur).toNat →
          let b := bitsOfBytes 1024 ((List.range 4).flatMap fun i =>
            (focused s).sram.readBytes (sectorAddr x (x.cur + BitVec.ofNat 32 i)) 32)
          exec (.vpop h v q) s = .next (did s (writeV (writeV (setPantry (focused s) p { x with cur := x.cur + 4 }) .main
            v.toNat (b.extractLsb' 0 512)) .main (v.toNat + 1) (b.extractLsb' 512 512)))))

/-- On an OUT binding whose destination is allowed and whose router input has room, PUSH and VPUSH with no message open send
one flit; MOPEN opens a message of the length given, PUSH and VPUSH append to it, a flit that they complete being sent, and MCLOSE
sends what is left as zeros, as many flits as the input has room for, and stays at its address while more are left. What waits behind
the message follows it. VPUSH
on a CAP binding sends one request with the lowest free tag: a flit of kind CAP to the core that the handle and the operand name,
with this core as its source, FOREIGN outside the region and with the handle's GEN. TSEND sends one PSUM flit with a row's sums and
the chunk number, which TSEND.open sets to 0. That what a core sends on the class of a message it has open waits behind that message,
and that TSEND stalls while two flits wait so, is the model's reading (log entry 77). -/
def Obligations.Sending : Prop :=
  ∀ (h : Hdr) (a : Reg) (w : VReg) (q : BitVec 4) (s : State), Ready s h →
    (∀ (cls : BitVec 5) (row col : Nat), readQ (focused s) q.toNat = .outQ cls row col 0 →
      otherOpen (focused s) q.toNat cls = none → (egressOf (focused s) cls.toNat).length < 2 → inOwn s row col →
      unavailable s.dev row col = false →
      let flit := fun (p : BitVec 1024) (i n : Nat) => msgFlit (focusEnv s 0) cls.toNat row col i n false p
      (ffind (focused s).opens q.toNat = none →
        exec (.push h q a) s =
          .next (did s (sendNow (focused s) cls.toNat [flit ((xr s a).setWidth 1024) 0 1])) ∧
        (w.toNat % 2 = 0 → exec (.vpush h q w) s =
          .next (did s (sendNow (focused s) cls.toNat [flit (readV (focused s) .main (w.toNat + 1) ++ vr s w) 0 1]))) ∧
        (∀ n : BitVec 5, exec (.mopen h q n) s =
          .next (did s { focused s with opens := fset (focused s).opens q.toNat ⟨n.toNat + 1, 0, 0⟩ })) ∧
        exec (.mclose h q) s = .next (trapped s eQueue (q.setWidth 64))) ∧
      (∀ o : OpenMsg, ffind (focused s).opens q.toNat = some o →
        (let joined := fun (len v : Nat) =>
           let all := o.part.toNat + v * 2 ^ (8 * (o.cursor % 128))
           let full := 128 ≤ o.cursor % 128 + len
           let left := { o with cursor := o.cursor + len, part := BitVec.ofNat 1024 (if full then all / 2 ^ 1024 else all) }
           let c := if full then sendNow (focused s) cls.toNat [flit (BitVec.ofNat 1024 all) (o.cursor / 128) o.flits] else focused s
           Host.Outcome.next (did s (sendBehind { c with opens := fset (focused s).opens q.toNat left } cls.toNat))
         (o.cursor + 8 ≤ 128 * o.flits → exec (.push h q a) s = joined 8 (xr s a).toNat) ∧
         (o.cursor + 128 ≤ 128 * o.flits → w.toNat % 2 = 0 → exec (.vpush h q w) s =
           joined 128 (readV (focused s) .main (w.toNat + 1) ++ vr s w).toNat)) ∧
        (o.cursor = 128 * o.flits →
          exec (.mclose h q) s = .next (did s { focused s with opens := fdel (focused s).opens q.toNat })) ∧
        (let i := o.cursor / 128
         let room := 2 - (egressOf (focused s) cls.toNat).length
         let sent := fun n : Nat => sendNow (focused s) cls.toNat ((List.range n).map fun j =>
           flit (if j = 0 then o.part else 0) (i + j) o.flits)
         (i < o.flits → o.flits - i ≤ room → exec (.mclose h q) s =
            .next (did s (sendBehind { sent (o.flits - i) with opens := fdel (focused s).opens q.toNat } cls.toNat))) ∧
         (room < o.flits - i → exec (.mclose h q) s = .next (withFocus s { sent room with
            wait := .run
            opens := fset (focused s).opens q.toNat { o with cursor := 128 * (i + room), part := 0 } })))) ∧
      (∀ (k : BitVec 2) (row' : BitVec 4),
        let t := readAcc (focused s) k.toNat
        let ch := fget (focused s).chunk cls.toNat 0
        let r := rowSums (tileRow t row'.toNat) t.exp.toInt (floorAt (fget (focused s).sendFloor cls.toNat []) ch)
        (behindOf (focused s) cls.toNat).length < 2 → exec (.tsend h k row' q) s = .next (did s (addFlags (send
          { focused s with chunk := fset (focused s).chunk cls.toNat (ch + 1) } cls.toNat
          [{ payload := BitVec.ofNat 1024 (packNat 64 (r.1.map (truncZ · 32))),
             side := sidePsum cls.toNat row col false r.2.1 ch.toNat }]) 0 r.2.2 0 0))) ∧
      (∀ n : BitVec 8, exec (.tsendOpen h q n) s = .next (did s { focused s with
        chunk := fset (focused s).chunk cls.toNat 0
        sendFloor := fdel (focused s).sendFloor cls.toNat
        depth := if isRoot (routeOf (focused s) cls.toNat) = true then fset (focused s).depth cls.toNat n.toNat
                 else (focused s).depth }))) ∧
    (∀ hd : Word, readQ (focused s) q.toNat = .cap hd → w.toNat % 2 = 0 →
      let v := (readV (focused s) .main (w.toNat + 1) ++ vr s w : BitVec 1024)
      let row := (hd.extractLsb' 56 8).toNat + (v.extractLsb' 208 16).toNat
      let col := (hd.extractLsb' 47 9).toNat + (v.extractLsb' 224 16).toNat
      (v.extractLsb' 64 8).toNat ∈ [1, 2] → reachedBy s hd 39 row col → (focused s).caps = [] →
      queueOf (focused s) 27 = [] → (egressOf (focused s) 25).length < 2 → unavailable s.dev row col = false →
        let f : Flit :=
          { payload := (v.extractLsb' 240 784 ++ 0#48 ++ v.extractLsb' 64 128 ++ hd : BitVec 1024)
            side := sideFirst 25 14 row col (isForeign (focusEnv s 0) hd row col) 0 (rowOf s.focus) (colOf s.focus)
            gen := hd.extractLsb' 24 12 }
        exec (.vpush h q w) s = .next (did s { send (focused s) 25 [f] with caps := [(0, keyOf row col)] }) ∧
        (row < 512 → col < 512 → flitCls f = 25 ∧ flitKind f = 14 ∧ flitDrow f = row ∧ flitDcol f = col ∧
          flitSrow f = rowOf s.focus ∧ flitScol f = colOf s.focus ∧
          (flitForeign f = true ↔ hd ≠ 0 ∧ ¬ inOwn s row col)))

/-! ## Engine operations (R208 to R216, R262 to R266, R398 to R405, R414) -/

/-- A PUT, PUTS, GET or RADD whose addresses and length are multiples of 32 and whose local range passes the checks of a local
access enters the engine: its first tag, the sectors it holds, one message for every 3,968 bytes, all on the class named and to the
target, which a handle's rectangle gives where there is a handle; outside the region they are FOREIGN, with the handle's GEN. It writes
the status word at once, RANGE where the target lies outside the region's shape and SEAL where the handle does not reach it. A
transfer whose local address, length or remote address is no multiple of 32 traps with E_ALIGN and that value, and so does a PUTS whose
signal word is no multiple of 8; RADD.f32 traps with E_DET in a deterministic region. That a PUTS takes tags and messages for its data
alone, its SIGNAL using its first tag again (log entry 29), that a flit carries the GEN of its handle beside its sideband (log entry
12), and that a FOREIGN flit counts at once as delivered out of its region (log entry 15) are the model's choices. -/
def Obligations.Transfers : Prop :=
  (∀ (h : Hdr) (o : EngOp) (s : State), Ready s h → classAllowed (launchHere s) o.cls.toNat = true →
    let hd := handleOf s o
    let n := ((xr s o.xx).extractLsb' 0 32).toNat
    let a := xr s o.xd
    let v := xr s o.xa
    let t := absTarget (launchHere s) hd v
    let e : EngineOp :=
      { kind := .put, xs := o.xs.toNat, xd := 0, tag := tagFirst (focused s).nextTag ((n + 3967) / 3968),
        msgs := (n + 3967) / 3968, answers := [], cls := o.cls, drow := t.1, dcol := t.2, handle := hd.getD 0, lo := a.toNat,
        len := n, src := true, signal := none }
    let flits := fun (e : EngineOp) (kind op ex : Nat) =>
      transferFlits (focusEnv s 0) (focused s) ⟨e.kind, o, hd, v, n, e.src, a.toNat, e.msgs⟩ kind op ex e.src
    let sent := fun (e : EngineOp) (kind op ex : Nat) =>
      did s (send (enterEngine (focused s) e) o.cls.toNat (flits e kind op ex))
    let det := fun (op : RaddOp) => (focused s).sys.det = false ∨ op ≠ .addF32
    a.toNat % 32 = 0 → n % 32 = 0 → n ≠ 0 → v.toNat % 32 = 0 → boundOk (focused s) a.toNat n = true →
      (coreReaches s hd v n →
        exec (.put h o) s = .next (sent e 1 0 0) ∧
        (∀ inc : Reg, (xr s o.xx).extractLsb' 32 3 = 0 → exec (.puts h o inc) s =
          .next (sent { e with kind := .puts, signal := some ⟨(xr s o.xx).extractLsb' 32 19, xr s inc, false⟩ } 1 0 0)) ∧
        exec (.get h o) s = .next (sent { e with kind := .get, src := false } 3 0 0) ∧
        (∀ op : RaddOp, det op → (op = .addSum ∨ (xr s o.xx).extractLsb' 32 10 = 0) →
          exec (.radd h op o) s = .next (sent { e with kind := .radd } 5 (raddCode op)
            (if op = .addSum then ((xr s o.xx).extractLsb' 32 10).toNat else 0))) ∧
        (t.1 < 512 → t.2 < 512 → ∀ (e : EngineOp) (kind op ex : Nat) (f : Flit), f ∈ flits e kind op ex →
          flitCls f = o.cls.toNat ∧ flitDrow f = t.1 ∧ flitDcol f = t.2 ∧
          (flitForeign f = true ↔ (xr s o.handle ≠ 0 ∧ o.handle ≠ 0) ∧ ¬ inOwn s t.1 t.2) ∧
          (flitForeign f = true → f.gen = (xr s o.handle).extractLsb' 24 12))) ∧
      (∀ code : Nat, coreRefuses s hd v code →
        let refused := Host.Outcome.next (did s (writeX (focused s) .main o.xs.toNat (statusOf code 0)))
        exec (.put h o) s = refused ∧ exec (.get h o) s = refused ∧
        (∀ inc : Reg, (xr s o.xx).extractLsb' 32 3 = 0 → exec (.puts h o inc) s = refused) ∧
        ∀ op : RaddOp, det op → exec (.radd h op o) s = refused)) ∧
  (∀ (h : Hdr) (o : EngOp) (inc : Reg) (s : State), Ready s h → classAllowed (launchHere s) o.cls.toNat = true →
    let n : BitVec 32 := (xr s o.xx).extractLsb' 0 32
    let word : BitVec 19 := (xr s o.xx).extractLsb' 32 19
    let good := (xr s o.xd).toNat % 32 = 0 ∧ n.toNat % 32 = 0 ∧ n ≠ 0 ∧ (xr s o.xa).toNat % 32 = 0
    (∀ val : Word,
      ((xr s o.xd).toNat % 32 ≠ 0 ∧ val = xr s o.xd) ∨
      ((xr s o.xd).toNat % 32 = 0 ∧ (n.toNat % 32 ≠ 0 ∨ n = 0) ∧ val = n.setWidth 64) ∨
      ((xr s o.xd).toNat % 32 = 0 ∧ n.toNat % 32 = 0 ∧ n ≠ 0 ∧ (xr s o.xa).toNat % 32 ≠ 0 ∧ val = xr s o.xa) →
      exec (.put h o) s = .next (trapped s eAlign val) ∧ exec (.puts h o inc) s = .next (trapped s eAlign val) ∧
      exec (.get h o) s = .next (trapped s eAlign val) ∧
      (∀ op : RaddOp, (focused s).sys.det = false ∨ op ≠ .addF32 → exec (.radd h op o) s = .next (trapped s eAlign val)) ∧
      exec (.awrite h o) s = .next (trapped s eAlign val) ∧ exec (.aread h o) s = .next (trapped s eAlign val)) ∧
    (good → word.toNat % 8 ≠ 0 → exec (.puts h o inc) s = .next (trapped s eAlign (word.setWidth 64))) ∧
    ((focused s).sys.det = true →
      exec (.radd h .addF32 o) s = .next (trapped s eDet (encode (.radd h .addF32 o)))))

/-- RAMO and DFADD on an aligned word that the region or a handle reaches enter the engine with one request, kind 6, of the
operation's code and operands; refused, they write the status word, and 0 in their destination; on one that is no multiple of 8 they
trap with E_ALIGN. RAMO traps with E_DET in a deterministic region. AWRITE and AREAD enter it with one message for every 3,968 bytes to
their home larder, WRITEs with the data or RDREQs; where the launch binds no larder they write the status word of RANGE. The layout of
the descriptor of such a message, which the spec does not give, is the model's choice (log entry 40). -/
def Obligations.RemoteAtomicsAndAttic : Prop :=
  ∀ (h : Hdr) (o : EngOp) (s : State), Ready s h → classAllowed (launchHere s) o.cls.toNat = true →
    let hd := handleOf s o
    let v := xr s o.xa
    let t := absTarget (launchHere s) hd v
    let e : EngineOp :=
      { kind := .ramo, xs := o.xs.toNat, xd := o.xd.toNat, tag := tagFirst (focused s).nextTag 1, msgs := 1, answers := [],
        cls := o.cls, drow := t.1, dcol := t.2, handle := hd.getD 0, lo := 0, len := 0, src := true, signal := none }
    let asked := fun (e : EngineOp) (op : Nat) (val1 val2 : Word) =>
      did s (send (enterEngine (focused s) e) o.cls.toNat (coreMessage (focusEnv s 0) o.cls.toNat 6 t hd
        (fun gen => descPayload (v.extractLsb' 0 39).toNat 0 0 e.tag.toNat op val1.toNat val2.toNat gen 0) []))
    (v.toNat % 8 = 0 → coreReaches s hd v 8 →
      ((focused s).sys.det = false → ∀ cmp : Reg,
        exec (.ramo h .add o cmp) s = .next (asked e 1 (xr s o.xx) 0) ∧
        exec (.ramo h .swap o cmp) s = .next (asked e 2 (xr s o.xx) 0) ∧
        exec (.ramo h .cas o cmp) s = .next (asked e 3 (xr s cmp) (xr s o.xx))) ∧
      exec (.dfadd h o) s = .next (asked { e with kind := .dfadd } 4 (xr s o.xx) 0)) ∧
    (v.toNat % 8 = 0 → ∀ code : Nat, coreRefuses s hd v code →
      let refused := Host.Outcome.next
        (did s (writeX (writeX (focused s) .main o.xd.toNat 0) .main o.xs.toNat (statusOf code 0)))
      ((focused s).sys.det = false → ∀ (op : RamoOp) (cmp : Reg), exec (.ramo h op o cmp) s = refused) ∧
      exec (.dfadd h o) s = refused) ∧
    (v.toNat % 8 ≠ 0 →
      ((focused s).sys.det = false → ∀ (op : RamoOp) (cmp : Reg), exec (.ramo h op o cmp) s = .next (trapped s eAlign v)) ∧
      exec (.dfadd h o) s = .next (trapped s eAlign v)) ∧
    ((focused s).sys.det = true → ∀ (op : RamoOp) (cmp : Reg),
      exec (.ramo h op o cmp) s = .next (trapped s eDet (encode (.ramo h op o cmp)))) ∧
    (let n := ((xr s o.xx).extractLsb' 0 32).toNat
     let a := xr s o.xd
     a.toNat % 32 = 0 → n % 32 = 0 → n ≠ 0 → v.toNat % 32 = 0 → boundOk (focused s) a.toNat n = true →
      (∀ k : Nat, (launchHere s).bind homeLarder = some k → v.getLsbD 63 = true → v.extractLsb' 48 15 = 0 →
        let msgs := (n + 3967) / 3968
        let sent := fun (kind : EngKind) (write : Bool) =>
          did s (send (enterEngine (focused s) { e with
              kind := kind, xd := 0, tag := tagFirst (focused s).nextTag msgs, msgs := msgs, drow := larderRow k,
              dcol := larderCol k, handle := 0, lo := a.toNat, len := n, src := write }) o.cls.toNat
            (atticFlits (focusEnv s 0) (focused s) o.cls.toNat k write (v.setWidth 48 : BitVec 48).toNat a.toNat n))
        exec (.awrite h o) s = .next (sent .awrite true) ∧ exec (.aread h o) s = .next (sent .aread false)) ∧
      ((launchHere s).bind homeLarder = none →
        let refused := did s (writeX (focused s) .main o.xs.toNat (statusOf 5 0))
        exec (.awrite h o) s = .next refused ∧ exec (.aread h o) s = .next refused))

/-- BREAD reads a descriptor of 48 bytes at x[D]: out of its limits, it completes with RANGE, with a source that a check refuses,
with that check's code, with no burst to come, with OK, each time with its event flag; else it holds the lowest tag, and its source
core, or for a source in the attic its home larder, has it to serve. In its direct form it traps with E_BOUND and the destination where
the bytes it fills fail the bound of a local access. LSUB, with its register bound
to a larder's context, sends the command at x[A]. Each traps with E_ALIGN or E_BOUND and the address of what it reads at issue where
that is not aligned, or lies out of bounds. That a bulk read which completes as it issues sets its flag whatever its status
(log entry 51) and the layout of a class-29 flit (log entry 14) are the model's choices. -/
def Obligations.BulkReadsAndCommands : Prop :=
  ∀ (h : Hdr) (sr xa xd xx : Reg) (ev : BitVec 5) (he : BitVec 16) (s : State), Ready s h →
    let v := xr s xa
    let at_ := (xr s xd).toNat
    (accessOk s loads 8 48 [at_] →
      let atOnce := fun code : Nat =>
        did s (writeX (setEvents (focused s) (1#32 <<< ev.toNat)) .main sr.toNat (statusOf code 0))
      (readDesc (focused s).sram at_ = none → exec (.bread h sr xa xd xx ev he) s = .next (atOnce 5)) ∧
      (∀ d : BreadDesc, readDesc (focused s).sram at_ = some d →
        let dr := directRange d
        let u := did s { focused s with
          breads := [(0, ⟨sr.toNat, ev, he, xr s xx, v, d, burstTotal d, 0, 0, 0, 0, false⟩)] }
        (d.direct = true → dr.2 ≠ 0 → ¬ inBounds (focused s) dr.1 dr.2 →
          exec (.bread h sr xa xd xx ev he) s = .next (trapped s eBound (BitVec.ofNat 64 d.dest))) ∧
        ((d.direct = true → dr.2 ≠ 0 → inBounds (focused s) dr.1 dr.2) →
          (∀ code : Nat, breadStatus (focusEnv s 0) v d = some code →
            exec (.bread h sr xa xd xx ev he) s = .next (atOnce code)) ∧
          (breadStatus (focusEnv s 0) v d = none →
            (burstTotal d = 0 → exec (.bread h sr xa xd xx ev he) s = .next (atOnce 0)) ∧
            (burstTotal d ≠ 0 → v.getLsbD 63 = false →
              let t := absTarget (launchHere s) none v
              exec (.bread h sr xa xd xx ev he) s = .next (modCore u (keyOf t.1 t.2) fun c =>
                { c with sources := c.sources ++
                  [⟨rowOf s.focus, colOf s.focus, 0, (v.extractLsb' 0 39).toNat, d, 0⟩] })) ∧
            (∀ (l : Launch) (k : Nat), burstTotal d ≠ 0 → v.getLsbD 63 = true → launchHere s = some l → homeLarder l = some k →
              exec (.bread h sr xa xd xx ev he) s = .next (setLarder u k { larderAt u k with
                waiting := (larderAt u k).waiting ++
                  [⟨l.num, 0, ev, v, rowOf s.focus, colOf s.focus, d, xr s xx, he, 0, 0⟩] })))))) ∧
    (∀ (code : BitVec 8) (w : Nat), accessTraps (focused s) loads 8 48 [at_] code w →
      exec (.bread h sr xa xd xx ev he) s = .next (trapped s code (BitVec.ofNat 64 w))) ∧
    (∀ (q : BitVec 4) (n k w : Nat) (code : BitVec 8), readQ (focused s) q.toNat = .larder n k →
      accessTraps (focused s) loads 16 16 [(xr s xa).toNat] code w →
        exec (.lsub h sr xa q) s = .next (trapped s code (BitVec.ofNat 64 w))) ∧
    (∀ (q : BitVec 4) (n k : Nat), readQ (focused s) q.toNat = .larder n k → (egressOf (focused s) 29).length < 2 →
      let c := (xr s xa).toNat
      accessOk s loads 16 16 [c] →
      let tag := tagFirst (focused s).nextTag 1
      exec (.lsub h sr xa q) s = .next (did s (send
        (enterEngine (focused s) ⟨.lsub, sr.toNat, 0, tag, 1, [], 29, larderRow n, larderCol n, 0, 0, 0, true, none, []⟩) 29
        (larderFlits (focusEnv s 0) n (larderPayload 4 k 0 tag.toNat 0 ((focused s).sram.readLE c 8)
          ((focused s).sram.readLE (c + 8) 8)))))) ∧
    (∀ q : BitVec 4, readQ (focused s) q.toNat = .unbound →
      exec (.lsub h sr xa q) s = .next (trapped s eQueue (q.setWidth 64)))

/-! ## Handlers, pantries and larder control (R130, R258 to R261, R411 to R415) -/

/-- In a handler context HMOV reads a coordinate of the burst into y[D], HST stores the burst's valid bytes, and HEND ends the
context and counts its burst as handled; a burst that waits starts in the context then, with the bulk read's argument in y0. The last
burst of a bulk read handled, its status word and its event flag are set as the cycle ends, or, with the wafer stopped, not before its
release. There and in a task, HADD adds the lanes of v[D] into 64 bytes of SRAM. In a task
HEND, HMOV and HST trap with E_HANDLER. -/
def Obligations.HandlerInstructions : Prop :=
  ∀ (h : Hdr) (d : Reg) (m : MemOp) (s : State),
    (∀ k : Nat, ReadyIn s h k →
      let x := handlerAt (focused s) k
      (∀ src : BurstCoord, d.toNat < 16 → exec (.hmov h d src) s = .next (inHandler s k (writeX (focused s) (.handler k) d.toNat
        (match src with
         | .bix => x.bix.setWidth 64
         | .bxc => x.bxc.setWidth 64
         | .byc => x.byc.setWidth 64
         | .bcnt => x.bcnt.setWidth 64)))) ∧
      (∀ (sz : StSize) (fp : Bool) (v : VReg), m.base.toNat < 16 → m.index.toNat < 16 →
        let a := handlerAddr s k m
        let w := stBytes sz
        let bits := (readV (focused s) (.handler k) 0).toNat + (readV (focused s) (.handler k) 1).toNat * 2 ^ 512
        (checkAccess (focused s) stores w w ((List.range (x.bcnt.toNat / w)).map fun i => a + w * i) = none →
          exec (.hst h sz m) s = .next (inHandler s k (storeBytes (focused s) a (leBytes bits x.bcnt.toNat)))) ∧
        (checkAccess (focused s) updates 64 64 [a] = none → v.toNat < 2 →
          exec (.hadd h sz fp v m) s = .next (inHandler s k (added (focused s) sz fp (readV (focused s) (.handler k) v.toNat) a)))) ∧
      (let freed := setHandler (focused s) k { x with busy := false }
       let ended := match ffind (focused s).breads x.tag with
         | none => freed
         | some b => { freed with breads := fset (focused s).breads x.tag { b with handled := b.handled + 1 } }
       ((focused s).bursts = [] → exec (.hend h) s = .next (withFocus s ended)) ∧
       (∀ (w : Burst) (ws : List Burst) (br : Bread), (focused s).bursts = w :: ws → k < 8 →
         (∀ j, j < 8 → j ≠ k → (handlerAt (focused s) j).busy = true) → ffind ended.breads w.tag = some br →
         exec (.hend h) s = .next (withFocus s (setHandler { ended with bursts := ws } k (startHandler w br.he br.arg)))) ∧
       (∀ b, (focused s).bursts = [] → (focused s).breads = [(x.tag, b)] → breadOver { b with handled := b.handled + 1 } = true →
         s.dev.faults = [] → goesOn (elapseOutcome 1 (exec (.hend h) s)) fun t =>
           if s.dev.stopped = true then ffind (focused t).breads x.tag = some { b with handled := b.handled + 1 }
           else (focused t).breads = [] ∧ (focused t).sys.evflags.getLsbD b.ev.toNat = true ∧
             (b.xs ≠ 0 → readX (focused t) .main b.xs = statusOf b.code b.sectors)))) ∧
    (Ready s h →
      (∀ (sz : StSize) (fp : Bool) (v : VReg), accessOk s updates 64 64 [memAddr s m] →
        exec (.hadd h sz fp v m) s = .next (did s (added (focused s) sz fp (vr s v) (memAddr s m)))) ∧
      exec (.hend h) s = .next (trapped s eHandler (encode (.hend h))) ∧
      (∀ src : BurstCoord, exec (.hmov h d src) s = .next (trapped s eHandler (encode (.hmov h d src)))) ∧
      ∀ sz : StSize, exec (.hst h sz m) s = .next (trapped s eHandler (encode (.hst h sz m))))

/-- PWAIT goes on once the count it names is there, and waits before; PREL releases sectors behind the cursor and PCUR moves
it over filled ones, giving the local address it stood at; on an outbound pantry PREL publishes free sectors. Counts that the
window cannot give trap with E_BOUND and the base. PSET sets a window of a legal size, aligned, off the others, and traps with
E_PRIV in user mode on a pantry that an earlier launch has left. Each LCTL form sends one class-29 flit to a larder that the
launch binds, with its operation, context and operands; on one that it does not bind it traps with E_PRIV in user mode and has no
effect in system mode. That PSET in user mode traps on a valid pantry which no PSET of the present launch has set (log entry 5), that
it checks alignment, size and overlap whether VALID is set or not (log entry 47) and the layout of
a class-29 flit (log entry 14) are the model's choices. -/
def Obligations.PantriesAndLarderControl : Prop :=
  (∀ (h : Hdr) (p : BitVec 3) (d a : Reg) (s : State), Ready s h →
    let x := pantryAt (focused s) p.toNat
    let n := ((xr s a).extractLsb' 0 32).toNat
    let n32 : BitVec 32 := (xr s a).extractLsb' 0 32
    let bad := trapped s eBound (x.base.setWidth 64)
    (x.valid = false →
      exec (.prel h p a) s = .next bad ∧ exec (.pcur h d p a) s = .next bad ∧
      ((focused s).opens = [] → exec (.pwait h p a) s = .next bad)) ∧
    (x.valid = true → x.outbound = false →
      exec (.prel h p a) s = .next (
        if (x.cur - x.rel).toNat < n then bad
        else did s (setPantry (focused s) p.toNat { x with rel := x.rel + n32 })) ∧
      exec (.pcur h d p a) s = .next (
        if (x.fill - x.cur).toNat < n then bad
        else did s (writeX (setPantry (focused s) p.toNat { x with cur := x.cur + n32 }) .main d.toNat
          (BitVec.ofNat 64 (sectorAddr x x.cur)))) ∧
      ((focused s).opens = [] → exec (.pwait h p a) s = .next (
        if pantryW x < n then bad
        else if n ≤ (x.fill - x.cur).toNat then did s (focused s)
        else withFocus s { focused s with wait := .instr }))) ∧
    (x.valid = true → x.outbound = true →
      exec (.prel h p a) s = .next (
        if pantryW x - (x.rel - x.fill).toNat < n then bad
        else did s (setPantry (focused s) p.toNat { x with rel := x.rel + n32 })) ∧
      exec (.pcur h d p a) s = .next (
        if n ≠ 0 then bad else didX s d (BitVec.ofNat 64 (sectorAddr x x.rel))) ∧
      ((focused s).opens = [] → exec (.pwait h p a) s = .next (
        if pantryW x < n then bad
        else if n ≤ pantryW x - (x.rel - x.fill).toNat then did s (focused s)
        else withFocus s { focused s with wait := .instr }))) ∧
    (let base : BitVec 19 := (xr s a).setWidth 19
     let lz := ((xr s a).extractLsb' 20 3).toNat
     let earlier := x.valid = true ∧ (focused s).own.getLsbD p.toNat = false
     ((focused s).sys.mode = false → earlier → exec (.pset h p a) s = .next (trapped s ePriv (encode (.pset h p a)))) ∧
     ((focused s).sys.mode = true ∨ ¬ earlier → exec (.pset h p a) s = .next (
      if lz = 7 then trapped s eBound (base.setWidth 64)
      else if base.toNat % 2 ^ (lz + 12) ≠ 0 then trapped s eAlign (base.setWidth 64)
      else if windowTaken (focused s) p.toNat base.toNat (2 ^ (lz + 12)) = true then trapped s eBound (base.setWidth 64)
      else did s (resetPantry { focused s with own := (focused s).own ||| (1#8 <<< p.toNat) } p.toNat
        ⟨base, lz + 12, (xr s a).getLsbD 25, (xr s a).getLsbD 24, 0, 0, 0, x.sets + 1⟩))))) ∧
  (∀ (h : Hdr) (a b : Reg) (s : State), Ready s h →
    let v := xr s a
    let n := (v.extractLsb' 0 6).toNat
    let va := ((xr s b).extractLsb' 0 48).toNat
    let sent := fun (op va : Nat) => did s (send (focused s) 29 (larderFlits (focusEnv s 0) n
      (larderPayload op (v.extractLsb' 8 4).toNat (v.extractLsb' 16 4).toNat 0 va 0 0)))
    (n ≤ 47 → bindsLarder (launchHere s) n = true → (egressOf (focused s) 29).length < 2 →
      exec (.lctlStart h a b) s = .next (sent 0 va) ∧ exec (.lctlRing h a b) s = .next (sent 1 va) ∧
      exec (.lctlStop h a) s = .next (sent 2 0) ∧ exec (.lctlCsig h a) s = .next (sent 3 0)) ∧
    (n ≤ 47 → bindsLarder (launchHere s) n = false → ∀ i, i ∈ [Instr.lctlStart h a b, .lctlRing h a b, .lctlStop h a, .lctlCsig h a] →
      exec i s = .next (if (focused s).sys.mode = true then did s (focused s) else trapped s ePriv (encode i))) ∧
    (47 < n → ∀ i, i ∈ [Instr.lctlStart h a b, .lctlRing h a b, .lctlStop h a, .lctlCsig h a] →
      exec i s = .next (trapped s eBound v)))

/-! ## Boot, host ports and the management port (R23, R30, R43 to R49, R54, R67, R68, R100 to R108) -/

/-- A device reset with every router sound ends in PATCHWAIT with the wafer running and keeps attic and host memories, with no
core failed the flash too; with a router failed it ends in FATAL. A loss of power keeps the flash and host memory alone. The
patch window ends, with no patch and no notify recorded, by time or by BOOTGO from the port that owns HSEM0: STATE is READY
and BOOT_DONE sets at both ports; a BOOTGO from another port is ignored. That a whole boot up to the patch window is one step, with
no STATE seen between (log 24), the failures that boot finds (log 25), the values of registers that the spec gives no reset value
(log 2) and what the memories then hold (log 3) are the model's choices. -/
def Obligations.BootEvents : Prop :=
  ∀ (s : State),
    (∀ env : BootEnv,
      (env.failedRouters = [] → ∃ t, exec (.deviceReset env) s = .next t ∧ t.dev.st = .patchwait) ∧
      (env.failedRouters = [] → env.failedCores = [] → ∃ t, exec (.deviceReset env) s = .next t ∧ t.dev.stopped = false ∧
        t.cores = [] ∧ t.unrid = {} ∧ t.attic = s.attic ∧ t.port0.mem = s.port0.mem ∧ t.port1.mem = s.port1.mem ∧
        t.dev.flash = s.dev.flash ∧ t.cycle = 0) ∧
      (env.failedRouters ≠ [] → ∃ t, exec (.deviceReset env) s = .next t ∧ t.dev.st = .fatal)) ∧
    (s.dev.failing = [] → ∃ t, exec .powerLoss s = .next t ∧ t.cores = [] ∧ t.unrid = {} ∧ t.dev = { flash := s.dev.flash } ∧
      t.port0.mem = s.port0.mem ∧ t.port1.mem = s.port1.mem) ∧
    (s.dev.st = .patchwait → s.dev.patchLen = 0 → s.unrid.notifies = [] →
      let booted := raiseEvent { s with dev := { s.dev with st := .ready } } 7
      (190000000 ≤ s.cycle → exec .patchwaitTimeout s = .next booted) ∧
      (∀ p : HostPort,
        ((semAt s 0).owner.toNat = portId p → exec (.bootgoWrite p 1) s = .next booted) ∧
        ((semAt s 0).owner.toNat ≠ portId p → exec (.bootgoWrite p 1) s = .next s)) ∧
      booted.port0.event.getLsbD 7 = true ∧ booted.port1.event.getLsbD 7 = true)

/-- Writes of EVENT clear the bits written as 1, but for one whose event occurs in the same cycle, which stays set; EVMASK takes
its value, with one message on vector 0, held while that vector is masked, where it uncovers a set event. A semaphore read while
free goes to its reader, who reads 0; both ports reading it in one cycle, the one that lost the last tie wins, port 0 the first; its
owner frees it by writing its PORTID, and a reset or a link down of the port does. A link down cuts off every mapped queue whose
ring or record lies behind the port. A write of a plain register of BAR0 or of the management port leaves its value; offsets that
are no multiple of 8 and sizes other than 8 bytes change nothing. The first 8 bytes of page s of BAR2 are the notify register of
slot s, and the rest of a page ignores writes. PATCHADDR and PATCHLEN take a value only from the port that owns HSEM0. QTBASE is
written only while QTLEN is 0, and QTLEN above 1,024 is ignored; where QTLEN starts anew, every ENABLE copy is 0. The model's
choices here: which bits of EVMASK, QTBASE, PATCHADDR, PATCHLEN, ICOORD and ISPACE are kept, that all 64 bits of a value written to
HSEM and QTLEN count, the pages of 4 KiB (log 64), and the space of the MSI-X masks (log 63). -/
def Obligations.PortRegisters : Prop :=
  (∀ (s : State) (p : HostPort) (v : Word) (n : BitVec 4),
    (let x := portAt s p
     let fell := if x.events.cycle = s.cycle then x.events.occurred else 0
     goesOn (exec (.eventWrite p v) s) fun t => (portAt t p).event = x.event &&& ~~~(v.setWidth 9 &&& ~~~fell) ∧
       t = setPort s p { x with event := (portAt t p).event, events := (portAt t p).events }) ∧
    (∀ e, e < 9 → goesOn (exec (.eventWrite p v) (raiseEvent s e)) fun t => (portAt t p).event.getLsbD e = true) ∧
    (let x := portAt s p
     let fresh := x.event &&& (v &&& ~~~x.evmask).setWidth 9
     let masked := x.msixMaskAll || x.msixMask.getLsbD 0
     (fresh = 0 ∨ x.up = false → exec (.evmaskWrite p v) s = .next (setPort s p { x with evmask := v })) ∧
     (fresh ≠ 0 → x.up = true → masked = false →
        exec (.evmaskWrite p v) s = .next (setPort s p { x with evmask := v, msix := x.msix ++ [0] })) ∧
     (fresh ≠ 0 → x.up = true → masked = true →
        exec (.evmaskWrite p v) s = .next (setPort s p { x with evmask := v, msixPending := x.msixPending ||| 1 }))) ∧
    (let m := semAt s n.toNat
     let took := fun (s : State) (p : HostPort) (lost : Bool) =>
       { s with dev := { s.dev with hsem := fset s.dev.hsem n.toNat ⟨BitVec.ofNat 2 (portId p), lost⟩ } }
     (m.owner ≠ 0 → exec (.hsemRead (.one p) n) s = .next (setPort s p { portAt s p with readData := m.owner.setWidth 64 })) ∧
     (m.owner = 0 →
        exec (.hsemRead (.one p) n) s = .next (took (setPort s p { portAt s p with readData := 0 }) p m.lastTieLost1) ∧
        (m.lastTieLost1 = false → exec (.hsemRead .both n) s = .next (took
          (setPort (setPort s .p0 { s.port0 with readData := 0 }) .p1 { s.port1 with readData := 1 }) .p0 true)) ∧
        (m.lastTieLost1 = true → exec (.hsemRead .both n) s = .next (took
          (setPort (setPort s .p1 { s.port1 with readData := 0 }) .p0 { s.port0 with readData := 2 }) .p1 false))) ∧
     (m.owner.toNat = portId p → exec (.hsemWrite p n (BitVec.ofNat 64 (portId p))) s =
        .next { s with dev := { s.dev with hsem := fset s.dev.hsem n.toNat { m with owner := 0 } } }) ∧
     (m.owner.toNat ≠ portId p → exec (.hsemWrite p n v) s = .next s)) ∧
    (∃ t, exec (.hostPortReset p) s = .next t ∧ (∀ k, k < 16 → (semAt t k).owner =
      if (semAt s k).owner.toNat = portId p then 0 else (semAt s k).owner) ∧ t.unrid = s.unrid) ∧
    ((portAt s p).up = true → ∃ t, exec (.hostLinkDown p) s = .next t ∧ (portAt t p).up = false ∧
      (portAt t p).event.getLsbD 6 = true ∧ (∀ k, k < 16 → (semAt t k).owner.toNat ≠ portId p) ∧
      t.unrid.entries = s.unrid.entries ∧ ∀ m x, ffind s.unrid.slots m = some x → portOf x.ring = p ∨ portOf s.unrid.qtbase = p →
        (ffind t.unrid.slots m).map (·.cut) = some true) ∧
    ((portAt s p).up = true → portOf s.unrid.qtbase = p → goesOn (exec (.hostLinkDown p) s) fun t =>
      ∀ q, q < s.unrid.qtlen.toNat → queueSlot s q = none → (keepAt t q).cut.isSome = true) ∧
    (portOf s.unrid.qtbase ≠ p ∨ s.unrid.keep = [] →
      exec (.hostLinkUp p) s = .next (setPort s p { portAt s p with up := true }))) ∧
  (∀ (s : State) (p : HostPort) (v : Word),
    let wrote := fun (off : Nat) => exec (.registerWrite (.bar0 p) off 8 v) s
    (∀ off size : Nat, (size ≠ 8 ∨ off % 8 ≠ 0) → exec (.registerWrite (.bar0 p) off size v) s = .next s) ∧
    (∀ n : BitVec 6, exec (.registerWrite (.bar2 p) (4096 * n.toNat) 8 v) s = exec (.notifyWrite p n v) s) ∧
    (∀ off size : Nat, (size ≠ 8 ∨ off % 4096 ≠ 0 ∨ 64 * 4096 ≤ off) → exec (.registerWrite (.bar2 p) off size v) s = .next s) ∧
    ((semAt s 0).owner.toNat = portId p →
      wrote 0x40 = .next { s with dev := { s.dev with patchAddr := v } } ∧
      wrote 0x48 = .next { s with dev := { s.dev with patchLen := v } }) ∧
    ((semAt s 0).owner.toNat ≠ portId p → wrote 0x40 = .next s ∧ wrote 0x48 = .next s) ∧
    wrote 0x58 = .next (setPort s p { portAt s p with dumpbuf := v &&& ~~~0xFFF#64 }) ∧
    wrote 0x60 = .next (setPort s p { portAt s p with dumplen := v }) ∧
    (1900 ≤ (v.extractLsb' 0 32).toNat → (v.extractLsb' 0 32).toNat ≤ 1900000 →
      wrote 0x1810 = .next { s with unrid := { s.unrid with qscan := v.extractLsb' 0 32 } }) ∧
    exec (.registerWrite .i3c 0x20 8 v) s = .next { s with dev := { s.dev with icoord := v &&& 0x01FF_01FF } } ∧
    exec (.registerWrite .i3c 0x28 8 v) s = .next { s with dev := { s.dev with ispace := v &&& 0xFFFF_FF0F } } ∧
    (s.unrid.qtlen = 0 →
      exec (.qtbaseWrite v) s = .next { s with unrid := { s.unrid with qtbase := v &&& 0xFFFF_FFFF_FFFF_F001 } } ∧
      (v ≠ 0 → v.toNat ≤ 1024 → exec (.qtlenWrite v) s = .next { s with unrid := { s.unrid with
        qtlen := v.setWidth 11
        keep := s.unrid.keep.map fun k => (k.1, { cut := if hostUp s (portOf s.unrid.qtbase) = true then none else k.2.cut }) } })) ∧
    (s.unrid.qtlen ≠ 0 → exec (.qtbaseWrite v) s = .next s ∧
      (v ≠ 0 → exec (.qtlenWrite v) s = .next s)) ∧
    (s.unrid.slots ≠ [] → exec (.qtlenWrite 0) s = .next { s with unrid := { s.unrid with qtstop := true } }) ∧
    (1024 < v.toNat → exec (.qtlenWrite v) s = .next s))

/-- WSTOP stops the wafer within 80 cycles, abandoning waits at GANG, and its release starts it again, except in FATAL, where it
stays stopped, and during waves, which hold the release. WSTAT reads STOPPED, IERR and the stop's cycles and clears IERR. IDATA reads
the word of an inspection space, ECCCNT clearing by it, and 0 with IERR outside the space (what a pending word reads as is free, log
26); a write needs a halted core or a stopped wafer, HALT and RESUME none. FADDR takes an
address that is a multiple of 8, and any other sets ERR. While the flash is not busy, FDATA reads the word at FADDR and a
write to the boot configuration clears bits there, each with FADDR moved on by 8, and ERASECFG sets every byte of it to 0xFF;
while it is busy each sets ERR. A write outside the boot configuration sets REFUSED. FSTAT reads BUSY, ERR and REFUSED and
clears the last two. The power limit is reported at both ports and the management port; a power trip stops the wafer and is noted as
a wafer-wide fault, which leaves FATAL as the cycle ends (that faults are acted on then is the model's choice, log 71). -/
def Obligations.StopInspectionAndFlash : Prop :=
  (∀ (s : State) (v : Word),
    (s.dev.stopped = true → exec .wstopAssert s =
      .next { s with dev := { s.dev with stopHost := true, releaseHeld := false } }) ∧
    (s.dev.stopped = false → goesOn (exec .wstopAssert s) fun t => t.dev.stopped = true ∧ t.dev.stopHost = true ∧
      t.dev.stopCycles.toNat ≤ 80 ∧ t.dev.stopAt = s.cycle ∧ t.cores = coresStopped s) ∧
    exec .wstopRelease s = .next (
      if s.dev.st = .fatal then s
      else if inWaves s.dev = true then { s with dev := { s.dev with releaseHeld := true } }
      else { s with dev := { s.dev with stopped := false, stopHost := false } }) ∧
    exec .wstatRead s = .next { s with dev := { s.dev with
      i3cData := BitVec.ofNat 64 (s.dev.stopped.toNat + 2 * s.dev.ierr.toNat + 256 * s.dev.stopCycles.toNat)
      ierr := false } } ∧
    (let k := keyOf (s.dev.icoord.extractLsb' 0 9).toNat (s.dev.icoord.extractLsb' 16 9).toNat
     let space := (s.dev.ispace.extractLsb' 0 4).toNat
     let i := (s.dev.ispace.extractLsb' 8 24).toNat
     let refused := { s with dev := { s.dev with ierr := true } }
     (inGrid k = true → i < spaceWords space → ¬(space = 2 ∧ i = 0x11) → exec .idataRead s = .next { s with
        dev := { s.dev with i3cData := inspectRead (coreAt s k) s.cycle space i (Config.freeWord s.freeCtr) }
        freeCtr := s.freeCtr + 1 }) ∧
     (inGrid k = true → space = 2 → i = 0x11 → goesOn (exec .idataRead s) fun t =>
        t.dev.i3cData = (coreAt s k).sys.ecccnt.setWidth 64 ∧ (coreAt t k).sys.ecccnt = 0) ∧
     (inGrid k = false ∨ spaceWords space ≤ i →
        exec .idataRead s = .next { s with dev := { s.dev with ierr := true, i3cData := 0 } }) ∧
     (inGrid k = false → exec (.idataWrite v) s = .next refused) ∧
     (inGrid k = true → space ≠ 7 → space ≠ 8 → i < spaceWords space →
        ((coreAt s k).halted = true ∨ s.dev.stopped = true →
          exec (.idataWrite v) s = .next (setCore s k (refreshReady (inspectWrite (coreAt s k) space i v)))) ∧
        ((coreAt s k).halted = false → s.dev.stopped = false → exec (.idataWrite v) s = .next refused)) ∧
     (inGrid k = true →
        (space = 7 → exec .idataHalt s = .next (setCore s k (haltCore (coreAt s k)))) ∧
        (space = 8 → exec .idataResume s = .next (setCore s k { coreAt s k with halted := false }))))) ∧
  (∀ (s : State) (v : Word),
    exec (.faddrWrite v) s = .next { s with dev :=
      if v.toNat % 8 = 0 then { s.dev with faddr := v.setWidth 26 } else { s.dev with ferr := true } } ∧
    (s.dev.fbusy = false →
      (s.dev.faddr.toNat < 0x20_0000 → exec .fdataRead s = .next { s with dev := { s.dev with
        i3cData := s.dev.flash.word s.dev.faddr.toNat, faddr := s.dev.faddr + 8 } }) ∧
      (s.dev.faddr.toNat < 0x10_0000 → exec (.fdataWrite v) s = .next { s with dev := { s.dev with
        flash := s.dev.flash.writeLE s.dev.faddr.toNat 8 (s.dev.flash.word s.dev.faddr.toNat &&& v).toNat
        faddr := s.dev.faddr + 8
        fbusy := true } }) ∧
      (0x10_0000 ≤ s.dev.faddr.toNat → exec (.fdataWrite v) s = .next { s with dev := { s.dev with frefused := true } }) ∧
      ∃ t, exec .fcmdErasecfg s = .next t ∧ t.dev.fbusy = true ∧
        (s.dev.flash.fill = .const 0xFF → ∀ a, a < 0x10_0000 → t.dev.flash.read a = 0xFF) ∧
        (∀ a, 0x10_0000 ≤ a → t.dev.flash.read a = s.dev.flash.read a)) ∧
    (s.dev.fbusy = true →
      exec (.fdataWrite v) s = .next { s with dev := { s.dev with ferr := true } } ∧
      exec .fcmdErasecfg s = .next { s with dev := { s.dev with ferr := true } } ∧
      exec .fdataRead s = .next { s with dev := { s.dev with ferr := true, i3cData := 0 } }) ∧
    exec .fstatRead s = .next { s with dev := { s.dev with
      i3cData := BitVec.ofNat 64 (s.dev.fbusy.toNat + 2 * s.dev.ferr.toNat + 4 * s.dev.frefused.toNat)
      ferr := false
      frefused := false } } ∧
    exec .flashBusyEnd s = .next { s with dev := { s.dev with fbusy := false } } ∧
    (∃ t, exec .powerLimit s = .next t ∧ t.port0.event.getLsbD 0 = true ∧ t.port1.event.getLsbD 0 = true ∧
      t.dev = { s.dev with ibi := s.dev.ibi ++ [1] } ∧ t.cores = s.cores) ∧
    (s.dev.st ≠ .fatal → ∃ t, exec .powerTrip s = .next t ∧ t.port0.event.getLsbD 1 = true ∧
      t.port1.event.getLsbD 1 = true ∧ t.dev.stopped = true ∧ t.dev.stopHost = true ∧ t.dev.ibi = s.dev.ibi ++ [2] ∧
      t.dev.faults = joinFault s.dev.faults ⟨none, causePower, 0xFFFF, 0xFFFF, s.cycle⟩ ∧ goesFatal t))

/-! ## User queues and commands (R61, R62, R65 to R78, R98) -/

/-- A scheduler run reads every queue of the table, beginning after the last one mapped. Of a queue in no slot whose record can be
read: one with ENABLE 0 is disabled; one whose record is not sound gets ERROR; one whose TAIL is not its HEAD, or whose PENDNOTIFY is
set, is mapped while a slot is free, with TAIL read again and SLOT written, HEAD and SEQ being 0 where ENABLE has gone from 0 to 1;
the others stay unmapped. A queue to be unmapped leaves its slot, with HEAD, SEQ, STATE and SLOT 0xFF in its record. The entry after
HEAD is fetched as 64 bytes of its ring, and ends BAD_ENTRY where it is not well formed; an entry that has ended leaves the table
with its completion word in the ring, its sequence number, where it follows SEQ, as the new SEQ. A notify for a mapped queue moves
its TAIL; of two in one cycle port 1's stays. That an accepted notify restarts the 190,000 cycles also where it repeats the present
TAIL, that a queue whose ENABLE has read 0 is fetched from until it is unmapped, and where a run begins once QTLEN is smaller are the
model's choices (log entry 76). -/
def Obligations.QueueEvents : Prop :=
  ∀ (s : State),
    (∀ q, q < s.unrid.qtlen.toNat → ∃ before after, scanOrder s = before ++ q :: after) ∧
    (0 < s.unrid.qtlen.toNat → (scanOrder s).head? = some ((s.unrid.lastMapped + 1) % s.unrid.qtlen.toNat)) ∧
    (∀ (q : Nat) (before after : List Nat), unridRuns s = true → s.unrid.qtstop = false → scanOrder s = before ++ q :: after →
      queueSlot s q = none → (keepAt s q).cut = none → hostUp s (recordPlace s q).1 = true →
      (portAt s (recordPlace s q).1).mem.wf = true →
      let same := (keepAt s q).enable
      let head := if same then recordField s q 0x14 4 else 0
      let seq := if same then recordField s q 0x18 8 else 0
      (recordField s q 9 1 ≠ 1 → goesOn (exec .queueScan s) fun t => (keepAt t q).enable = false ∧ queueSlot t q = none) ∧
      (recordField s q 9 1 = 1 → recordSound s q = false → goesOn (exec .queueScan s) fun t =>
        (keepAt t q).enable = true ∧ queueSlot t q = none ∧ recordField t q 0xC 1 / 2 % 2 = 1) ∧
      (recordField s q 9 1 = 1 → recordSound s q = true → hostUp s (portOf (BitVec.ofNat 64 (recordField s q 0 8))) = true →
        ((recordField s q 0x10 4 ≠ head ∨ (same = true ∧ recordField s q 0xC 1 % 2 = 1)) →
          before.length < ((List.range 64).filter fun n => (ffind s.unrid.slots n).isNone).length →
          goesOn (exec .queueScan s) fun t => ∃ n x, ffind t.unrid.slots n = some x ∧ x.queue = q ∧
            x.tail = BitVec.ofNat 32 (recordField s q 0x10 4) ∧ x.head = BitVec.ofNat 32 head ∧ x.seq = BitVec.ofNat 64 seq ∧
            recordField t q 0xB 1 = n) ∧
        (recordField s q 0x10 4 = head → (same = true → recordField s q 0xC 1 % 2 = 0) →
          goesOn (exec .queueScan s) fun t => queueSlot t q = none))) ∧
    (∀ (n : BitVec 6) (x : QSlot), ffind s.unrid.slots n.toNat = some x →
      (unmaps s x = true → goesOn (exec (.queueIdleUnmap n) s) fun t => ffind t.unrid.slots n.toNat = none ∧
        (hostUp s (recordPlace s x.queue).1 = true → (portAt s (recordPlace s x.queue).1).mem.wf = true →
          recordField t x.queue 0x14 4 = x.head.toNat ∧ recordField t x.queue 0x18 8 = x.seq.toNat ∧
          recordField t x.queue 0xC 1 = queueSlotState s x ∧ recordField t x.queue 0xB 1 = 0xFF)) ∧
      (unmaps s x = false → exec (.queueIdleUnmap n) s = .next s) ∧
      (mayFetch s x = true →
        let seq := x.seq.toNat + (x.head - x.seq.setWidth 32).toNat + 1
        let bytes := hostRead s (portOf x.ring) (hostPage x.ring + 64 * ((seq - 1) % 2 ^ x.logsize)) 64
        let e : Entry := ⟨⟨x.queue, seq⟩, bytes, .fetched⟩
        ∃ t y, exec (.entryFetch n) s = .next t ∧
          t.unrid.entries = s.unrid.entries ++ [if entryOk s e then e else { e with st := .done 1 0 0 }] ∧
          ffind t.unrid.slots n.toNat = some y ∧ y.head = x.head + 1 ∧ y.queue = x.queue ∧ y.seq = x.seq) ∧
      (∀ (p : HostPort) (v : Word), unridRuns s = true → (v.extractLsb' 32 10).toNat = x.queue → x.cut = false →
        v.extractLsb' 42 22 = 0 → (v.setWidth 32 - x.head : BitVec 32).toNat ≤ 2 ^ x.logsize →
        (p = .p1 ∨ x.notified ≠ some (s.cycle, .p1) → exec (.notifyWrite p n v) s =
          .next (setSlot s n.toNat { x with tail := v.setWidth 32, since := s.live, notified := some (s.cycle, p) })) ∧
        (p = .p0 → x.notified = some (s.cycle, .p1) → exec (.notifyWrite p n v) s = .next s))) ∧
    (∀ (k : EntryKey) (e : Entry) (n : Nat) (x : QSlot) (status detail result : Nat), entryAt s k = some e →
      e.st = .done status detail result → queueSlot s k.queue = some (n, x) → (keepAt s k.queue).ahead = [] →
      ∃ t, exec (.queueEntryCompletion k) s = .next t ∧
        t.unrid.entries = s.unrid.entries.filter (fun y => y.key ≠ k) ∧
        (k.seq = x.seq.toNat + 1 → ∃ y, ffind t.unrid.slots n = some y ∧ y.seq = BitVec.ofNat 64 k.seq) ∧
        (hostUp s (portOf x.ring) = true → portOf x.ring ≠ portOf s.unrid.qtbase →
          (portAt s (portOf x.ring)).mem.wf = true →
          hostLE t (portOf x.ring) (hostPage x.ring + 64 * ((k.seq - 1) % 2 ^ x.logsize) + 0x38) 8 =
            (2 ^ 63 + status * 2 ^ 56 + detail % 256 * 2 ^ 48 + result % 2 ^ 32) % 2 ^ 64))

/-- WAITQ waits until the queue it names has reached its value and then ends OK. SIGNAL writes or adds 8 bytes of host memory,
and ends ABORT while the port's link is down. ACOPY copies page by page and ends OK, or FAULT at the first page with a fault,
with its kind and index. LRESUME puts a context from FAULT back to RUN. QUERY writes the certificates of the device and of the
intermediate, with result 35,280, a report that holds the nonce read at HADDR, SERIAL, CYCLE and the hash of the boot configuration,
or gives the size of a save in KiB; DUMP ends OK with the wafer as it was but for waits at GANG, STATE included. The model's choices:
ATTEST's result 0 and the keys that sign (log 44), the hash and signature schemes as their standards give them (log 62), the bytes
that a faulting copy leaves (log 11) and STATE after a DUMP in FATAL (log 66). -/
def Obligations.PlainCommands : Prop :=
  ∀ (s : State) (k : EntryKey) (e : Entry), entryAt s k = some e →
    (startable s k 3 = some e → goesOn (exec (.waitq k) s) fun t => (entryAt t k).map (·.st) = some .active) ∧
    (entryOp e = 3 → e.st = .active → ∀ n, seqOf s (entryField e 8 2) = some n →
      (entryField e 0x10 8 ≤ n → goesOn (exec (.waitqComplete k) s) fun t => endsAs t k 0 0 0) ∧
      (n < entryField e 0x10 8 → exec (.waitqComplete k) s = .next s)) ∧
    (startable s k 4 = some e →
      let a := entryWord e 8
      let v := (entryWord e 0x10).toNat
      let old := hostLE s (portOf a) (hostByte a) 8
      (hostUp s (portOf a) = true → exec (.signal k) s = .next (endEntry (hostPut s (portOf a) (hostByte a) 8
        (if entryField e 0x18 1 = 1 then (old + v) % 2 ^ 64 else v)) k 0 0 0)) ∧
      (hostUp s (portOf a) = false → goesOn (exec (.signal k) s) fun t => endsAs t k 3 0 0)) ∧
    (startable s k 5 = some e → s.dev.st ≠ .fatal → s.dev.stopped = false →
      let h := entryWord e 8
      let r := copyAll (entryField e 0x20 2) (entryField e 0x22 1 == 1) (portOf h) (hostByte h) s 0
        (copyParts ((entryWord e 0x10).extractLsb' 0 48).toNat (entryField e 0x18 8))
      (hostUp s (portOf h) = false → goesOn (exec (.acopy k) s) fun t => endsAs t k 3 0 0) ∧
      (hostUp s (portOf h) = true → r.2 = none → exec (.acopy k) s = .next (endEntry r.1 k 0 0 0)) ∧
      (hostUp s (portOf h) = true → ∀ f i, r.2 = some (f, i) →
        exec (.acopy k) s = .next (endEntry r.1 k 5 (lkindCode f) i))) ∧
    (startable s k 7 = some e → s.dev.st ≠ .fatal → s.dev.stopped = false →
      let n := entryField e 8 1
      let c := entryField e 9 1
      let x := lctxAt (larderAt s n) c
      (∀ l, launchBound s n = some l → l.st = .running → x.st = .fault →
        exec (.lresume k) s = .next (endEntry (setLarder s n (setLctx (larderAt s n) c
          { x with st := .run, kind := .none, resumed := some (s.cycle, x.kind) })) k 0 0 0)) ∧
      (launchBound s n = none → goesOn (exec (.lresume k) s) fun t => endsAs t k 2 1 0)) ∧
    (startable s k 9 = some e →
      let p := portOf (entryWord e 0x10)
      let up := hostUp s p
      (entryField e 8 2 = 1 → 35280 ≤ entryField e 0x18 4 → up = true →
        goesOn (exec (.queryCerts k) s) fun t => endsAs t k 0 0 35280 ∧ ((portAt s p).mem.wf = true →
          hostRead t p (hostByte (entryWord e 0x10)) 35280 = certificate true ++ certificate false)) ∧
      (entryField e 8 2 = 1 → entryField e 0x18 4 < 35280 → goesOn (exec (.queryCerts k) s) fun t => endsAs t k 2 1 0) ∧
      (entryField e 8 2 = 2 → 16768 ≤ entryField e 0x18 4 → up = true →
        let report := reportBody s (hostRead s p (hostByte (entryWord e 0x10)) 32)
        goesOn (exec (.queryAttest k) s) fun t => endsAs t k 0 0 0 ∧ ((portAt s p).mem.wf = true →
          hostRead t p (hostByte (entryWord e 0x10)) 16768 = report ++ reportSigs s.cycle report)) ∧
      (entryField e 8 2 = 3 → goesOn (exec (.querySavesize k) s) fun t =>
        endsAs t k 0 0 (100 + 640 * entryField e 0x1C 2 * entryField e 0x1E 2) ∧ t.port0 = s.port0 ∧ t.port1 = s.port1)) ∧
    (startable s k 10 = some e → goesOn (exec (.dump k) s) fun t =>
      endsAs t k 0 0 0 ∧ t.dev.stopped = s.dev.stopped ∧ t.dev.st = s.dev.st ∧
      t.cores = coresStopped s) ∧
    (∀ nonce : List Byte, nonce.length = 32 → let b := reportBody s nonce
      b.length = 0xA0 ∧ fieldOf b 0 4 = 0x5454_4158 ∧ sliceOf b 8 32 = nonce ∧ fieldOf b 0x30 8 = Config.serial.toNat ∧
      sliceOf b 0x68 48 = sha384 s.dev.cfg.raw ∧ fieldOf b 0x98 8 = s.cycle % 2 ^ 64)

/-- SETROOT gives an attic context its pool, MAP adds a leaf and the tables on its path while the pool has room, UNMAP takes
the leaf away and DROP the context. Refused, they change no context: SETROOT of a context that has a pool with detail 4, of a pool over
the undercroft with 2, of one that names no memory with 7, over another pool with 8; MAP with 1 where the pool has no table left, 2 where
the page is over the undercroft, 6 over a leaf of another size; DROP with 3 while a launch uses the context; MAP, UNMAP and DROP of a
context that is not there with 5. IMAGE loads an image
into the lowest free number or is refused with the loader's code, or with detail 11 where no number is free; a sound one waits while
the wafer is stopped; dropped while a launch of it runs, it is refused with detail 12. LAUNCH of a sound entry waits for its region;
PREEMPT of a running launch makes it drain, of no launch it is refused with detail 1. The model's choices: the order in which
AMAP's refusals are judged (log 43), the codes of corners that R58's table does not name (log 41), and that a launch keeps
its own copy of an image that is dropped (log 65). -/
def Obligations.TableCommands : Prop :=
  ∀ (s : State) (k : EntryKey) (e : Entry), entryAt s k = some e →
    (startable s k 6 = some e →
      let n := entryField e 8 2
      let va := entryField e 0x10 8
      let pa := entryField e 0x18 8
      let code := entryField e 0x20 1
      let no := fun (o : Host.Outcome State Fault Refusal) (d : Nat) => goesOn o fun t => endsAs t k 2 d 0 ∧ t.unrid.ctxs = s.unrid.ctxs
      (entryField e 0xA 1 = 1 → atticCtx s n = none → overUndercroft s va pa = false → rangeNames s va pa = true →
        (s.unrid.ctxs.any fun c => spansMeet va pa c.2.pool c.2.len) = false →
        goesOn (exec (.amapSetroot k) s) fun t => endsAs t k 0 0 0 ∧ atticCtx t n = some ⟨va, pa, [], []⟩) ∧
      (∀ x : AtticCtx, atticCtx s n = some x →
        let fresh := (pathTables va code).filter fun t => !x.tables.contains t
        (entryField e 0xA 1 = 1 → no (exec (.amapSetroot k) s) 4) ∧
        (entryField e 0xA 1 = 2 →
          (x.len / 4096 < 1 + x.tables.length + fresh.length → no (exec (.amapMap k) s) 1) ∧
          (1 + x.tables.length + fresh.length ≤ x.len / 4096 → overUndercroft s pa (pageBytes code) = true →
            no (exec (.amapMap k) s) 2) ∧
          (1 + x.tables.length + fresh.length ≤ x.len / 4096 → overUndercroft s pa (pageBytes code) = false →
            (x.leaves.any fun l => l.2.1 != code && spansMeet va (pageBytes code) l.1 (pageBytes l.2.1)) = true →
            no (exec (.amapMap k) s) 6)) ∧
        (entryField e 0xA 1 = 4 → (s.unrid.launches.any fun l => launchHasRegion l && l.actx == n) = true →
          no (exec (.amapDrop k) s) 3) ∧
        (entryField e 0xA 1 = 2 → 1 + x.tables.length + fresh.length ≤ x.len / 4096 →
          overUndercroft s pa (pageBytes code) = false →
          (x.leaves.any fun l => l.2.1 != code && spansMeet va (pageBytes code) l.1 (pageBytes l.2.1)) = false →
          goesOn (exec (.amapMap k) s) fun t => endsAs t k 0 0 0 ∧ atticCtx t n = some { x with
            tables := x.tables ++ fresh, leaves := (x.leaves.filter fun l => l.1 != va) ++ [(va, code, pa)] }) ∧
        (entryField e 0xA 1 = 3 → goesOn (exec (.amapUnmap k) s) fun t => endsAs t k 0 0 0 ∧ atticCtx t n =
          some { x with leaves := x.leaves.filter fun l => !(l.1 == va && l.2.1 == code) }) ∧
        (entryField e 0xA 1 = 4 → (s.unrid.launches.any fun l => launchHasRegion l && l.actx == n) = false →
          goesOn (exec (.amapDrop k) s) fun t => endsAs t k 0 0 0 ∧ atticCtx t n = none)) ∧
      (atticCtx s n = none →
        (entryField e 0xA 1 = 1 →
          (overUndercroft s va pa = true → no (exec (.amapSetroot k) s) 2) ∧
          (overUndercroft s va pa = false → rangeNames s va pa = false → no (exec (.amapSetroot k) s) 7) ∧
          (overUndercroft s va pa = false → rangeNames s va pa = true →
            (s.unrid.ctxs.any fun c => spansMeet va pa c.2.pool c.2.len) = true → no (exec (.amapSetroot k) s) 8)) ∧
        (entryField e 0xA 1 = 2 → no (exec (.amapMap k) s) 5) ∧
        (entryField e 0xA 1 = 3 → no (exec (.amapUnmap k) s) 5) ∧
        (entryField e 0xA 1 = 4 → no (exec (.amapDrop k) s) 5))) ∧
    (startable s k 11 = some e →
      let h := entryWord e 8
      let m := (portAt s (portOf h)).mem
      let c := imageCode s m (hostByte h) (entryField e 0x10 8)
      let i := entryField e 0x20 2
      (h ≠ 0 → s.dev.st ≠ .fatal → hostUp s (portOf h) = true →
        (c ≠ 0 → goesOn (exec (.imageLoad k) s) fun t => endsAs t k 2 c 0) ∧
        (c = 0 → freeImage s = none → goesOn (exec (.imageLoad k) s) fun t => endsAs t k 2 11 0) ∧
        (c = 0 → freeImage s ≠ none → s.dev.stopped = true → exec (.imageLoad k) s = .next s) ∧
        (c = 0 → s.dev.stopped = false → ∀ j, freeImage s = some j →
          let head := imageHead m (hostByte h) (entryField e 0x10 8)
          rangeNames s (entryField e 0x18 8) (imageLength head) = true →
          goesOn (exec (.imageLoad k) s) fun t => endsAs t k 0 0 j ∧
            ffind t.unrid.images j = some (imageOf head (entryField e 0x18 8)))) ∧
      (h = 0 → (ffind s.unrid.images i).isSome = true →
        ((s.unrid.launches.any fun l => launchHasRegion l && l.image == i) = true → goesOn (exec (.imageDrop k) s) fun t => endsAs t k 2 12 0) ∧
        ((s.unrid.launches.any fun l => launchHasRegion l && l.image == i) = false →
          goesOn (exec (.imageDrop k) s) fun t => endsAs t k 0 0 0 ∧ ffind t.unrid.images i = none))) ∧
    (startable s k 1 = some e →
      (badLaunch s e = true → goesOn (exec (.launch k) s) fun t => endsAs t k 1 0 0) ∧
      (badLaunch s e = false → s.dev.st ≠ .fatal → ∃ i, ffind s.unrid.images (entryField e 8 2) = some i ∧
        goesOn (exec (.launch k) s) fun t => t.unrid.launches = s.unrid.launches ++ [launchOfEntry s e i] ∧
          (entryAt t k).map (·.st) = some .active)) ∧
    (startable s k 8 = some e → s.dev.st ≠ .fatal →
      let found := s.unrid.launches.find? fun l => l.key = ⟨entryField e 8 2, entryField e 0x10 8⟩
      (found = none → goesOn (exec (.preempt k) s) fun t => endsAs t k 2 1 0) ∧
      (∀ l, found = some l → l.st = .running → goesOn (exec (.preempt k) s) fun t =>
        (entryAt t k).map (·.st) = some .active ∧ (launchNum t l.num).map (·.st) = some .draining) ∧
      (∀ l, found = some l → l.st = .draining ∨ l.st = .saving →
        goesOn (exec (.preempt k) s) fun t => endsAs t k 2 2 0))

/-! ## Launches (R78, R79, R83 to R95) -/

/-- A waiting launch that no other launch blocks gets its region, its number and its larders, and loads; a region with an
unavailable core refuses it with detail 13. Once loaded it runs, each core with its role's sections. Two sweeps in a row with
every core quiet and equal sums end it OK, the second in the cycle of a PREEMPT too, which is then refused with detail 1. A save
ends it PREEMPTED; a drain that passes its bound is a region fault, which stops the region's cores and aborts it as the cycle ends. A
field whose cores are quiet, with no launch about to be active, is forecast at 0. The model's choices: the order of grants and of
their refusals (log 42), that sweeps may come at any time (log 46), what a core keeps of an earlier launch (log 5), that a launch goes on from
its own copy of an image that is dropped meanwhile (log 65), and that faults are acted on as the cycle ends (log 71). -/
def Obligations.LaunchFlow : Prop :=
  ∀ (s : State),
    (∀ (k : EntryKey) (l : Launch), s.dev.st ≠ .fatal →
      (s.unrid.launches.find? fun l => l.key = k ∧ l.st = .waitRegion) = some l →
      (mayGrant s l = false → exec (.regionGrant k) s = .next s) ∧
      (mayGrant s l = true → grantRefusal s l = none → goesOn (exec (.regionGrant k) s) fun t =>
        t.unrid.lastNum = nextNumber s ∧
        t.unrid.launches = (s.unrid.launches.map fun x =>
          if x.key = k then { x with st := .loading, num := nextNumber s } else x) ∧
        ∀ i, i ∈ boundLarders l → (larderAt t i).launch = some (nextNumber s)) ∧
      (mayGrant s l = true → (∃ c, c ∈ regionKeys l ∧ unavailable s.dev (rowOf c) (colOf c) = true) →
        ∀ e, entryAt s k = some e → e.st = .active → goesOn (exec (.regionGrant k) s) fun t =>
          endsAs t k 2 13 0 ∧ t.unrid.launches = s.unrid.launches.filter fun x => x.key ≠ k)) ∧
    (∀ (num : Nat) (l : Launch), launchNum s num = some l → s.dev.stopped = false → faulted s num = false →
      (∀ i, l.st = .loading → argLost s l = false → l.img = some i → l.lflags.getLsbD 1 = false →
        l.orgCol + l.cols ≤ 384 → goesOn (exec (.launchLoadComplete num) s) fun t =>
          (launchNum t num).map (·.st) = some .running ∧
          ∀ k, k ∈ regionKeys l → coreAt t k = loadCore s l i k (coreAt s k)) ∧
      (l.st = .running →
        let quiet := ((regionKeys l).all fun k => isQuiet s (coreAt s k)) && lardersDone s l &&
          (regionSums s l).1 == (regionSums s l).2
        (quiet = false → exec (.quiescenceSweep num) s = .next (modLaunch s num fun l => { l with sweep := none })) ∧
        (quiet = true → l.sweep ≠ some (regionSums s l) →
          exec (.quiescenceSweep num) s = .next (modLaunch s num fun l => { l with sweep := some (regionSums s l) })) ∧
        (quiet = true → l.sweep = some (regionSums s l) → l.preemptKey = none → ∀ e, entryAt s l.key = some e →
          e.st = .active → goesOn (exec (.quiescenceSweep num) s) fun t =>
            launchNum t num = none ∧ endsAs t l.key 0 (quietDetail s l) 0)) ∧
      (l.st = .draining → quietFirst s l = true → ∀ pk e u, l.preemptKey = some pk → pk ≠ l.key → entryAt s l.key = some e →
        e.st = .active → entryAt s pk = some u → u.st = .active → goesOn (exec (.quiescenceSweep num) s) fun t =>
          launchNum t num = none ∧ endsAs t l.key 0 (quietDetail s l) 0 ∧ endsAs t pk 2 1 0) ∧
      (l.st = .saving → l.preemptKey = none → ∀ e, entryAt s l.key = some e → e.st = .active →
        (writeSave s l (saveImage s l) (saveSize l.rows l.cols / 4)).isSome = true →
        goesOn (exec (.saveComplete num) s) fun t =>
          launchNum t num = none ∧ endsAs t l.key 6 0 (100 + 640 * l.rows * l.cols)) ∧
      (l.st = .draining → l.preemptKey = none → s.live < l.drainAt + l.preemptLim →
        exec (.preemptBoundExpiry num) s = .next s) ∧
      (l.st = .draining → l.preemptKey = none → l.drainAt + l.preemptLim ≤ s.live → ∀ e, entryAt s l.key = some e →
        e.st = .active → s.dev.st ≠ .fatal → goesOn (exec (.preemptBoundExpiry num) s) fun t =>
          (∀ k, k ∈ regionKeys l → (coreAt t k).resetting = true) ∧
          (s.dev.faults = [] → inWaves s.dev = false → abortsWith t l causePreempt))) ∧
    goesOn (exec .forecastUpdate s) fun t => ∀ b c, b < 7 → c < 12 →
      fget t.dev.forecast (12 * b + c) 0 = forecastOf s b c ∧
      ((∀ k, k ∈ fieldKeys b c → isQuiet s (coreAt s k) = true) → (∀ l, l ∈ s.unrid.launches → soonActive s l = false) →
        forecastOf s b c = 0)

/-! ## Faults and retirement (R95 to R99, R109 to R112, R174) -/

/-- An SRAM error that is not corrected stops the cores of its region and aborts the region as the cycle ends, and leaves the core to be
retired; in no region it only clears its residency. A corrected one counts in ECCCNT. A router's failure, and the ninth failed try of
a hop, are wafer-wide: stopped at once, and as the cycle ends FATAL, and FATAL raised. A wave begins with the stop and the next
MAPGEN, once no fault waits, and ends with the lines renumbered, and the stop gone unless the host or a fault holds it. That faults
are acted on as the cycle ends (log 71) and that no step shows the time between the beginning of a wave and its end (log 1) are the
model's choices. -/
def Obligations.FaultEvents : Prop :=
  ∀ (s : State) (prow pcol : Nat),
    (∀ row col : Nat, logicalOf s.dev prow pcol = some (row, col) →
      let c := coreAt s (keyOf row col)
      (launchOf s row col = none → exec (.sramUe prow pcol) s = .next (noteFailing
        (setCore s (keyOf row col) { c with resident := [] }) prow pcol 3)) ∧
      (∀ l, launchOf s row col = some l → launchNum s l.num = some l → l.preemptKey = none → ∀ e, entryAt s l.key = some e → e.st = .active →
        s.dev.st ≠ .fatal → goesOn (exec (.sramUe prow pcol) s) fun t =>
          t.dev.failing = s.dev.failing ++ [⟨prow, pcol, 3, s.cycle, inWaves s.dev⟩] ∧
          (∀ k, k ∈ regionKeys l → (coreAt t k).resetting = true) ∧
          (s.dev.faults = [] → inWaves s.dev = false → abortsWith t l causeSram)) ∧
      (∀ addr : BitVec 19, c.eccLast = none →
        exec (.sramCorrected prow pcol addr) s = .next (setCore s (keyOf row col) { c with
          eccLast := some (addr, s.cycle)
          sys := { c.sys with ecccnt := if c.sys.ecccnt = 0xFFFF then 0xFFFF else c.sys.ecccnt + 1 } }))) ∧
    (s.dev.st ≠ .fatal → inWafer (keyOf prow pcol) = true → goesOn (exec (.routerFailure prow pcol) s) fun t =>
      t.dev.stopped = true ∧ t.cores = coresStopped s ∧ goesFatal t) ∧
    (∀ (out : Dir) (cls : BitVec 5),
      let k := keyOf prow pcol
      let r := routerAt s k
      let j := 32 * dirCode out + cls.toNat
      s.dev.stopped = false → out ≠ .l → fget r.out j [] ≠ [] →
      (fget r.retries j 0 < 8 → exec (.meshHopError prow pcol out cls) s =
        .next (setRouter s k { r with retries := fset r.retries j (fget r.retries j 0 + 1) })) ∧
      (8 ≤ fget r.retries j 0 → s.dev.st ≠ .fatal → goesOn (exec (.meshHopError prow pcol out cls) s) fun t =>
        t.dev.stopped = true ∧ goesFatal t)) ∧
    (∀ (reason cycle : Nat) (late : Bool), s.dev.st ≠ .fatal → s.dev.wave = none →
      s.dev.failing = [⟨prow, pcol, reason, cycle, late⟩] → (s.dev.faults = [] ∨ inWaves s.dev = true) → coreRetired s.dev prow pcol = false → spareFree s.dev.retiredRows prow = true → s.dev.mapgen.toNat < 0xFFFF →
      (freeSlot s.dev.flash).isSome = true → goesOn (exec (.retirementWave prow pcol) s) fun t =>
        t.dev.stopped = true ∧ t.dev.wave = some ⟨⟨true, prow⟩, prow, pcol, s.cycle⟩ ∧ t.dev.failing = [] ∧
        t.dev.mapgen = s.dev.mapgen + 1 ∧ t.cores = coresStopped s) ∧
    (∀ w : Wave, s.dev.st ≠ .fatal → s.dev.wave = some w → w.prow = prow → w.pcol = pcol → s.dev.failing = [] →
      goesOn (exec (.retirementWave prow pcol) s) fun t =>
        t.dev.stopped = (s.dev.stopHost && !s.dev.releaseHeld) ∧ t.dev.wave = none ∧ inWaves t.dev = false ∧ t.dev.retiredRows = (retireMaps s.dev w.line).retiredRows ∧
        t.dev.retiredCols = (retireMaps s.dev w.line).retiredCols)

/-! ## Poluri links and cross-wafer reductions (R28, R31 to R42, R177) -/

/-- Enabled, a port that is DOWN trains, with its sequence numbers 0, eight credits a class and a CTRL frame sent; disabled, it is
DOWN. An agreeing CTRL frame within 190,000 cycles makes it ACTIVE; training that has not ended by then fails. An ACTIVE port with a
credit sends the first flit of a class in a frame that it keeps; 3,800 cycles without an acknowledgement repeat what it keeps, before a
frame that comes later, and the sixteenth repeat makes it retrain. A good FLIT frame of the number expected brings its flit in, a BARRIER frame its signal, and one of
another number, or for which a class's eight places are full, is discarded. COLL begins a step on the unit of its ports. A port's
flit of the step's class joins it, and the flit index that it completes is merged in ascending port order and written at DEST + 128 k
by messages of the class; the last index ends the entry OK with the count merged, after the status block. Too late, by REDUCE_LATE or at the
contribution that comes late, the step ends REDUCE_LATE, or, where it may, begins again. An attic port that goes down serves no address. The model's choices: what CTRL frames
say, when both ends agree, and a FLIT without a credit (log 21), how a step's words travel and what its status block's messages are
(log 22), the receive buffer at enabling (log 67) and the flits that wait to be sent (log 69). -/
def Obligations.PoluriAndReductions : Prop :=
  (∀ (s : State) (n : BitVec 6),
    let l := linkAt s n.toNat
    (l.st = .down → goesOn (exec (.poluriEnable n) s) fun t => let u := linkAt t n.toNat
      u.st = .train ∧ u.sendSeq = 0 ∧ u.expect = 0 ∧ u.replay = [] ∧ u.rx = [] ∧ (∀ c, c < 32 → fget u.credits c 0 = 8) ∧
      u.wire = l.wire ++ [makeFrame ⟨2, 0, 0 - 1, 0, 0, 0⟩ 0 (Config.ctrlPayload s.freeCtr)] ∧ t.cores = s.cores) ∧
    exec (.poluriDisable n) s = .next (setLink s n.toNat { l with st := .down }) ∧
    (l.st = .train → l.since + 190000 ≤ s.cycle → exec (.trainTimeout n) s = .next (setLink s n.toNat { l with st := .failed })) ∧
    (l.st = .retrain → l.since + 190000 ≤ s.cycle → goesOn (exec (.trainTimeout n) s) fun t => (linkAt t n.toNat).st = .failed) ∧
    (l.st = .train ∨ l.st = .retrain → ∀ f : BitVec 1280, frameGood f = true → (frameHead f).type = 2 →
      (s.cycle < l.since + 190000 → goesOn (exec (.poluriFrameReceive n f) s) fun t =>
        (linkAt t n.toNat).st = (if Config.trainAgrees s.freeCtr = true then .active else l.st) ∧
        (linkAt t n.toNat).credits = l.credits ∧ (linkAt t n.toNat).replay = l.replay) ∧
      (l.since + 190000 ≤ s.cycle → goesOn (exec (.poluriFrameReceive n f) s) fun t => (linkAt t n.toNat).st = .failed)) ∧
    (l.st = .active →
      (∀ (cls : BitVec 5) (f : Flit) (rest : List Flit), fget l.tx cls.toNat [] = f :: rest → s.dev.stopped = false →
        fget l.credits cls.toNat 0 ≠ 0 → l.replay.length < 1024 →
        let frame := makeFrame ⟨1, l.sendSeq, l.expect - 1, 1, 0, 0⟩ f.side f.payload
        goesOn (exec (.poluriFlitSend n cls) s) fun t => let u := linkAt t n.toNat
          u.wire = l.wire ++ [frame] ∧ u.replay = l.replay ++ [frame] ∧ u.sendSeq = l.sendSeq + 1 ∧
          fget u.tx cls.toNat [] = rest ∧ fget u.credits cls.toNat 0 = fget l.credits cls.toNat 0 - 1) ∧
      (l.replay ≠ [] → l.lastAck + 3800 ≤ s.cycle →
        let back : Link := { l with wire := l.wire ++ l.replay, replays := l.replays + 1, lastAck := s.cycle }
        (l.replays < 15 → exec (.replayTimeout n) s = .next (setLink s n.toNat back) ∧
          ∀ f : BitVec 1280, exec (.poluriFrameReceive n f) s = exec (.poluriFrameReceive n f) (setLink s n.toNat back)) ∧
        (l.replays = 15 → l.retrains = [] → goesOn (exec (.replayTimeout n) s) fun t => let u := linkAt t n.toNat
          u.st = .retrain ∧ u.replay = l.replay ∧ u.credits = l.credits ∧ u.replays = 0 ∧ u.retrains = [s.cycle] ∧
          u.wire = l.wire ++ l.replay ++ [makeFrame ⟨2, 0, l.expect - 1, 0, 0, 0⟩ 0 (Config.ctrlPayload s.freeCtr)])) ∧
      (16 ≤ l.replays → l.retrains = [] → goesOn (exec (.poluriRetrain n) s) fun t =>
        (linkAt t n.toNat).st = .retrain ∧ (linkAt t n.toNat).replay = l.replay ∧ (linkAt t n.toNat).credits = l.credits) ∧
      (l.replay = [] ∨ s.cycle < l.lastAck + 3800 → ∀ f : BitVec 1280, frameGood f = true → (frameHead f).type = 1 →
        let cls := ((frameSide f).extractLsb' 0 5).toNat
        ((frameHead f).seq = l.expect → (fget l.rx cls []).length < 8 → goesOn (exec (.poluriFrameReceive n f) s) fun t =>
          let u := linkAt t n.toNat
          fget u.rx cls [] = fget l.rx cls [] ++ [{ payload := framePayload f, side := frameSide f }] ∧
          u.expect = l.expect + 1) ∧
        ((frameHead f).seq ≠ l.expect ∨ 8 ≤ (fget l.rx cls []).length → goesOn (exec (.poluriFrameReceive n f) s) fun t =>
          (linkAt t n.toNat).rx = l.rx ∧ (linkAt t n.toNat).expect = l.expect)) ∧
      (l.replay = [] ∨ s.cycle < l.lastAck + 3800 → ∀ f : BitVec 1280, frameGood f = true → (frameHead f).type = 3 →
        ((frameHead f).seq = l.expect → goesOn (exec (.poluriFrameReceive n f) s) fun t => let u := linkAt t n.toNat
          u.barIn = l.barIn ++ [framePayload f] ∧ u.rx = l.rx ∧ u.expect = l.expect + 1) ∧
        ((frameHead f).seq ≠ l.expect → goesOn (exec (.poluriFrameReceive n f) s) fun t =>
          (linkAt t n.toNat).barIn = l.barIn ∧ (linkAt t n.toNat).expect = l.expect)) ∧
      (l.replay = [] ∨ s.cycle < l.lastAck + 3800 → ∀ f : BitVec 1280, frameGood f = false → goesOn (exec (.poluriFrameReceive n f) s) fun t =>
        (linkAt t n.toNat).rx = l.rx ∧ (linkAt t n.toNat).expect = l.expect ∧ (linkAt t n.toNat).nackSent = true))) ∧
  (∀ (s : State),
    (∀ (k : EntryKey) (e : Entry), startable s k 2 = some e → s.dev.st ≠ .fatal → s.dev.stopped = false →
      let u := if (entryWord e 8).toNat % 2 ^ 32 = 0 then 1 else 0
      ffind s.unrid.steps u = none → goesOn (exec (.coll k) s) fun t => ∃ m, ffind t.unrid.steps u = some m ∧ m.key = k ∧
        m.ports = entryWord e 8 ∧ m.nflits = entryField e 0x14 4 ∧ m.k = 0 ∧ m.bufs = [] ∧
        (entryAt t k).map (·.st) = some .active) ∧
    (∀ (n : BitVec 6) (m : MergeStep) (f : Flit) (rest : List Flit), s.dev.stopped = false →
      ffind s.unrid.steps (n.toNat / 32) = some m → m.ports.getLsbD n.toNat = true →
      fget (linkAt s n.toNat).rx m.cls.toNat [] = f :: rest → flitDwaf f = s.dev.wafer.toNat →
      fget s.unrid.stale (32 * n.toNat + m.cls.toNat) 0 = 0 → contributed m n.toNat < m.nflits →
      (fget m.bufs n.toNat []).length < 64 → (∀ a, firstArrival m = some a → s.live < a + 380000) →
      exec (.edgeMergeContribution n) s = .next (advanceStep
        (setLink s n.toNat (takeRx (linkAt s n.toNat) m.cls.toNat)) (n.toNat / 32)
        { m with bufs := fmod m.bufs n.toNat [] (· ++ [(s.live, f)]) })) ∧
    (∀ (n : BitVec 6) (m : MergeStep) (f : Flit) (rest : List Flit) (a : Nat), s.dev.stopped = false →
      ffind s.unrid.steps (n.toNat / 32) = some m → m.ports.getLsbD n.toNat = true →
      fget (linkAt s n.toNat).rx m.cls.toNat [] = f :: rest → flitDwaf f = s.dev.wafer.toNat →
      fget s.unrid.stale (32 * n.toNat + m.cls.toNat) 0 = 0 → firstArrival m = some a → a + 380000 ≤ s.live →
      exec (.edgeMergeContribution n) s = exec (.reduceLate (decide (n.toNat / 32 = 1))) s) ∧
    (∀ (u : Nat) (m : MergeStep) (n : Nat) (f : Flit), n < 64 → stepPorts m = [n] → m.bufs = [(n, [(s.live, f)])] →
      m.k + 1 = m.nflits → ∀ e, entryAt s m.key = some e → e.st = .active →
        let t := advanceStep s u m
        let place := fun (a : Word) => ((a.extractLsb' 48 9).toNat, (a.extractLsb' 39 9).toNat)
        let inside := fun (a : Word) (len : Nat) => a.getLsbD 63 = false ∧ (a.extractLsb' 57 6).toNat = s.dev.wafer.toNat ∧
          inGrid (keyOf (place a).1 (place a).2) = true ∧ unavailable s.dev (place a).1 (place a).2 = false ∧
          (a.extractLsb' 0 39).toNat + len ≤ 0x80000
        let writes := fun (a : Word) (bs : List Byte) =>
          unridWrites m.cls.toNat (place a).1 (place a).2 (a.extractLsb' 0 39).toNat bs
        let a := m.dest + BitVec.ofNat 64 (128 * m.k)
        let block := leBytes (2 ^ 63 + m.nflits) 8 ++ leBytes (2 ^ m.nflits - 1) (8 * ((m.nflits + 63) / 64))
        ffind t.unrid.steps u = none ∧ endsAs t m.key 0 0 m.nflits ∧
        (inside a 128 → inside m.status block.length → m.nflits ≤ 65536 → fget t.unrid.egress m.cls.toNat [] =
          fget s.unrid.egress m.cls.toNat [] ++ writes a (byteSlice (combineFlits m.op [f]) 0 128) ++ writes m.status block)) ∧
    (∀ (south : Bool) (m : MergeStep) (a : Nat), s.dev.stopped = false →
      ffind s.unrid.steps (if south then 1 else 0) = some m → firstArrival m = some a → a + 380000 ≤ s.live →
      (m.retry = false → ∀ e, entryAt s m.key = some e → e.st = .active → goesOn (exec (.reduceLate south) s) fun t =>
        ffind t.unrid.steps (if south then 1 else 0) = none ∧ endsAs t m.key 4 0 m.k) ∧
      (m.retry = true → goesOn (exec (.reduceLate south) s) fun t => ffind t.unrid.steps (if south then 1 else 0) =
        some { m with retry := false, k := 0, bufs := [] })) ∧
    (∀ (n : BitVec 6) (x : Expander), ffind s.expanders n.toNat = some x → x.up = true → n.toNat < 48 →
      goesOn (exec (.atticPortDown n) s) fun t => ∀ a, a / 2 ^ 42 = n.toNat → namesMemory t a = false))

/-! ## The fabric (R151 to R170, R193, R197 to R201) -/

/-- An output grants the input that arbitration picks. A flit crosses a link into the input of the next router while that has
room, and none is lost or changed on the way; an attachment's flit enters the router beside it. A merge node combines the
heads of all its inputs, after the RENORMs for the chunk that wait there, and reports those that do not match. A RENORM that reaches
a core joins the floors of its node. A class that has not moved for the launch's stall limit is reported and its count starts again.
A STAT flit one of whose counts passes its threshold (SATTHR, NANTHR, UFLTHR) raises CALIB_ALARM, another raises nothing, and it
leaves the larder. -/
def Obligations.FabricEvents : Prop :=
  (∀ (s : State), s.dev.stopped = false →
    (∀ (r c : Nat) (o : Dir) (cls d : Nat) (f : Flit),
      let k := keyOf r c
      ((classOrder (fget (routerAt s k).lastCls (dirCode o) 31)).findSome? fun cls =>
        (inputFor s k (placeOf s k) (dirCode o) cls).map fun x => (cls, x)) = some (cls, d, f) →
      exec (.flitHop (.grant r c o)) s = .next (grantOut s k (placeOf s k) (dirCode o) cls d f)) ∧
    (∀ (r c : Nat) (o : Dir) (cls : BitVec 5) (f : Flit) (k' : Nat),
      let k := keyOf r c
      o ≠ .l → outFlits (routerAt s k) (dirCode o) cls.toNat = [f] → leadOf s.dev k (dirCode o) = .router k' → k' ≠ k →
      (inputFlits s k' (placeOf s k') (facing (dirCode o)) cls.toNat).length < 2 →
      goesOn (exec (.flitHop (.link r c o cls)) s) fun t =>
        outFlits (routerAt t k) (dirCode o) cls.toNat = [] ∧
        inputFlits t k' (placeOf t k') (facing (dirCode o)) cls.toNat =
          inputFlits s k' (placeOf s k') (facing (dirCode o)) cls.toNat ++ [f]) ∧
    (∀ (n : Nat) (cls : BitVec 5) (f : Flit) (rest : List Flit) (k d : Nat), n < 48 →
      fget (larderAt s n).egress cls.toNat [] = f :: rest → entryRouter s.dev (.larder n) = some (k, d) →
      (inputFlits s k (placeOf s k) d cls.toNat).length < 2 →
      goesOn (exec (.flitHop (.enter (.larder n) cls)) s) fun t =>
        fget (larderAt t n).egress cls.toNat [] = rest ∧
        inputFlits t k (placeOf t k) d cls.toNat = inputFlits s k (placeOf s k) d cls.toNat ++ [f]) ∧
    (∀ (prow pcol row col : Nat) (cls : BitVec 5) (e : BitVec 32) (fs : List Flit),
      let k := keyOf prow pcol
      placeOf s k = some (row, col) → mergeEntry s k (some (row, col)) row col cls.toNat = some e →
      mergeHeads s k (some (row, col)) row col cls.toNat e = some fs →
      (mergeable e fs = true →
        exec (.mergeCombine prow pcol cls) s = .next (combine (renormFirst s k row col cls.toNat
          (flitChunk (fs.headD ⟨0, 0, 0, false⟩))) k row col cls.toNat e fs)) ∧
      (mergeable e fs = false →
        exec (.mergeCombine prow pcol cls) s = .next (reportStall s row col cls.toNat 1)))) ∧
  (∀ (s : State), s.dev.stopped = false →
    (∀ (row col k d : Nat) (f : Flit) (more : List (Nat × Flit)), routerOf s.dev row col = some k →
      renormsAt s k (some (row, col)) = (d, f) :: more →
      let cls := flitField f 0 1
      goesOn (exec (.renormArrival row col) s) fun t =>
        fget (coreAt t (keyOf row col)).nodeFloor cls [] = fget (coreAt s (keyOf row col)).nodeFloor cls [] ++
          [⟨BitVec.ofNat 15 (flitField f 4 2), sext (flitField f 2 2) 10⟩]) ∧
    (∀ (prow pcol row col : Nat) (cls : BitVec 5) (l : Launch) (a : Nat),
      let k := keyOf prow pcol
      placeOf s k = some (row, col) → launchOf s row col = some l → ffind (routerAt s k).waiting cls.toNat = some a →
      l.classMask.getLsbD cls.toNat = true →
      (l.stallLim ≤ s.live - a → exec (.classStall prow pcol cls) s = .next (reportStall (setRouter s k
        { routerAt s k with waiting := fset (routerAt s k).waiting cls.toNat s.live }) row col cls.toNat 0)) ∧
      (s.live - a < l.stallLim → exec (.classStall prow pcol cls) s = .next s)) ∧
    (∀ (n : Nat) (f : Flit) (rest : List Flit), fget (larderAt s n).rx 30 [] = f :: rest →
      goesOn (exec (.statSink (.larder n)) s) fun t => fget (larderAt t n).rx 30 [] = rest ∧
        let g := s.dev.cfg
        let passes := (g.satThr ≠ 0 ∧ g.satThr < flitField f 0 4) ∨ (g.nanThr ≠ 0 ∧ g.nanThr < flitField f 4 4) ∨
          (g.uflThr ≠ 0 ∧ g.uflThr < flitField f 8 4)
        (passes → t.port0.event.getLsbD 4 = true ∧ t.port1.event.getLsbD 4 = true) ∧
        (¬passes → t.port0 = s.port0 ∧ t.port1 = s.port1)))

/-! ## Messages at a core (R166, R167, R213 to R217, R229, R235, R236, R252, R259, R264 to R266, R400 to R405) -/

/-- A whole message of kinds 1 to 6 that no check refuses is performed: WRITE and SIGNAL change SRAM and are acknowledged,
RDREQ answers with the words it reads, RADD adds lane by lane, AMOREQ answers with the old word. Refused, it is answered with
the check's code and changes nothing else; the verdict falls as the first flit arrives, in R216's order. What comes back to a
requester: RDRSP writes its words and answers its operation, an AREAD's that is cut short waiting for its NACK, AMORSP completes one
with the old word, ACK and NACK answer one with their code. The last answer of an operation writes its status word. A DFADD batch
that is 256 cycles old leaves its word increased by every request. Copies of a core's own source that wait to leave carry the words as
they were or as written (R225), by bits that are free. The model's choices: how the answer to a larder's message and to an attic access
is laid out (logs 14, 40); that RDRSP is performed with no acknowledgement (log entry 30); that SIGNAL, AMOREQ and RDRSP are remote
writes for a watchpoint (log entry 27). -/
def Obligations.Messages : Prop :=
  (∀ (s : State) (row col : Nat) (cls : BitVec 5) (f : Flit) (ds : List Flit), Arrived s row col cls.toNat f ds →
    let c := taking s row col cls.toNat
    let done := fun c => Host.Outcome.next (taken s row col cls.toNat f ds c)
    let data := dataBytes ds (dLen f)
    let word := c.sram.readLE (dToff f) 8
    (flitKind f = 1 → verdict s row col cls.toNat f = none → exec (.writeMessage row col cls) s =
      done (answer row col (deliverBytes c (dToff f) data) f (dTag f) 0 (dLen f / 32))) ∧
    (flitKind f = 2 → verdict s row col cls.toNat f = none → exec (.signalMessage row col cls) s =
      done (answer row col (deliverBytes c (dToff f) (leBytes ((word + flitField f 16 8) % 2 ^ 64) 8)) f (dTag f) 0 0)) ∧
    (flitKind f = 3 → verdict s row col cls.toNat f = none → exec (.rdreqMessage row col cls) s =
      done (sendReply s row col c f cls.toNat (messageFlits cls.toNat 4 (flitSrow f) (flitScol f) false row col
        (payloadOf [(0, flitField f 4 4), (8, dLen f), (12, dTag f)] ::
          payloads ((dLen f + 127) / 128) (c.sram.readBytes (dToff f) (dLen f)))))) ∧
    (flitKind f = 5 → verdict s row col cls.toNat f = none →
      (dOp f = 0 ∨ 6 < dOp f → exec (.raddMessage row col cls) s = done (answer row col c f (dTag f) 5 0)) ∧
      (1 ≤ dOp f → dOp f ≤ 6 → goesOn (exec (.raddMessage row col cls) s) fun t =>
        (coreAt t (keyOf row col)).sram = (List.range (dLen f / raddWidth (dOp f))).foldl (fun m i =>
          let w := raddWidth (dOp f)
          m.writeLE (dToff f + w * i) w
            (raddLane (dOp f) (m.readLE (dToff f + w * i) w) (leNat ((data.drop (w * i)).take w)))) c.sram)) ∧
    (flitKind f = 6 → verdict s row col cls.toNat f = none →
      (1 ≤ dOp f → dOp f ≤ 3 →
        let new := ramoNew (dOp f) word (flitField f 16 8) (flitField f 24 8)
        exec (.amoreqMessage row col cls) s = done (sendReply s row col (deliverBytes c (dToff f) (leBytes new 8)) f cls.toNat
          [amorsp row col cls.toNat (flitSrow f) (flitScol f) (dTag f) word])) ∧
      (dOp f = 4 → ∀ u, joinBatch s.live cls c f = some u → exec (.amoreqMessage row col cls) s = done u)) ∧
    (∀ code : Nat, verdict s row col cls.toNat f = some code → ∀ i, (flitKind f, i) ∈ [(1, Instr.writeMessage row col cls),
      (2, .signalMessage row col cls), (3, .rdreqMessage row col cls), (5, .raddMessage row col cls), (6, .amoreqMessage row col cls)] →
      exec i s = done (answer row col c f (dTag f) code 0)) ∧
    (ffind (coreAt s (keyOf row col)).verdicts cls.toNat = none →
      let x := coreAt s (keyOf row col)
      let stale := flitForeign f = true ∧ flitField f 32 2 ≠ ownGen x
      let halts := flitForeign f = true ∧ (x.frozen = true ∨ isSaving s row col = true)
      (stale → verdict s row col cls.toNat f = some 4) ∧
      (¬stale → x.resetting = true → verdict s row col cls.toNat f = some 2) ∧
      (¬stale → x.resetting = false → halts → verdict s row col cls.toNat f = some 3) ∧
      (¬stale → x.resetting = false → ¬halts → x.sleep ≠ .awake → verdict s row col cls.toNat f = some 1) ∧
      (¬stale → x.resetting = false → ¬halts → x.sleep = .awake → unavailable s.dev row col = false → descClean f = true →
        verdict s row col cls.toNat f = if 0x80000 < dToff f + reachOf f then some 5 else none))) ∧
  (∀ (s : State) (row col : Nat) (f : Flit) (ds : List Flit), row < 510 →
    (∀ cls : BitVec 5, Arrived s row col cls.toNat f ds →
      let c := taking s row col cls.toNat
      let done := fun c => Host.Outcome.next (taken s row col cls.toNat f ds c)
      ∀ (o : EngineOp) (i : Nat), opOfTag c (dTag f) = some (o, i) →
        let filled := deliverBytes c (dToff f) (dataBytes ds (dLen f))
        (flitKind f = 4 → verdict s row col cls.toNat f = none →
          (isCutShort o i (dLen f) = false →
            exec (.rdrspMessage row col cls) s = done (answerOp s row col filled o i 0 (dLen f / 32))) ∧
          (isCutShort o i (dLen f) = true → exec (.rdrspMessage row col cls) s = done { filled with
            ops := filled.ops.map fun p => if p.tag = o.tag then { p with cutShort := p.cutShort ++ [(i, dLen f / 32)] } else p })) ∧
        (flitKind f = 7 → verdict s row col cls.toNat f = none → exec (.amorspMessage row col cls) s =
          done (completeOp (writeX c .main o.xd (BitVec.ofNat 64 (flitField f 16 8))) o 0 0)) ∧
        (∀ code : Nat, verdict s row col cls.toNat f = some code →
          (flitKind f = 4 → exec (.rdrspMessage row col cls) s = done (answerOp s row col c o i code 0)) ∧
          (flitKind f = 7 → exec (.amorspMessage row col cls) s = done (answerOp s row col c o i code 0)))) ∧
    (Arrived s row col 27 f ds →
      let c := taking s row col 27
      let done := fun c => Host.Outcome.next (taken s row col 27 f ds c)
      (∀ (o : EngineOp) (i : Nat), 4 ≤ flitField f 0 2 → opOfTag c (flitField f 0 2) = some (o, i) →
        awaitsData o i (flitField f 4 4) = false →
        (flitKind f = 8 → exec (.ackMessage row col) s = done (answerOp s row col c o i (flitField f 2 1) (flitField f 4 4))) ∧
        (flitKind f = 9 → exec (.nackMessage row col) s = done (answerOp s row col c o i (flitField f 2 1) (flitField f 4 4)))) ∧
      (flitField f 0 2 < 4 → (c.caps.any fun x => x.1 == flitField f 0 2) = true → flitKind f = 8 →
        exec (.ackMessage row col) s = done (capAnswer c (flitField f 0 2) f))) ∧
    (∀ (c : Core) (o : EngineOp) (code count : Nat), o.msgs = 1 → o.answers = [] → o.signal = none → o.xd = 0 → o.xs ≠ 0 →
      readX (answerOp s row col c o 0 code count) .main o.xs = statusOf code count) ∧
    (∀ (addr : BitVec 19) (b : DfBatch), s.dev.stopped = false →
      ((coreAt s (keyOf row col)).batches.find? fun b => b.addr = addr) = some b → b.opened + 256 ≤ s.live →
      goesOn (exec (.dfaddBatchClose row col addr) s) fun t =>
        (coreAt t (keyOf row col)).sram = (coreAt s (keyOf row col)).sram.writeLE addr.toNat 8
          (((coreAt s (keyOf row col)).sram.readLE addr.toNat 8 + (b.reqs.map fun q => q.inc.toNat).sum) % 2 ^ 64) ∧
        (coreAt t (keyOf row col)).batches = (coreAt s (keyOf row col)).batches.filter fun x => x.addr ≠ addr))

/-- Deliveries: a MSG flit that its core takes joins the queue of its class while that has room, and one in the cellar moves up as the
queue has room; one that the core does not take is discarded. A PUSH fills its pantry at FILL, is held while that has no room and
goes on later, by the descriptor it was accepted under where a PSET has come since; one of FORM 1 writes SRAM; a burst of a bulk read
takes a handler context. A source core sends its bursts in order, and no further one once a handler of the read has trapped. A
capability request of the region's own launch is performed at its target and answered on class 27: READ with the word inspected,
which clears ECCCNT where it reads it (a pending word reads as a free one, log 26), WRITE only while the target is halted, HALT and
RESUME, and WAKE with the event flag set. The model's choices: that a larder's PUSH is answered under its SRCID (log entry 14), that a
source core asleep still sends every burst but the first (log entry 30), and that a burst is a remote write for a watchpoint (log entry
27). -/
def Obligations.DeliveriesAndCapabilities : Prop :=
  (∀ (s : State) (row col : Nat), s.dev.stopped = false → inGrid (keyOf row col) = true →
    let key := keyOf row col
    let c := coreAt s key
    (∀ (cls : BitVec 5) (k : Nat) (f : Flit) (rest : List Flit), routerOf s.dev row col = some k →
      outFlits (routerAt s k) 4 cls.toNat = f :: rest → flitKind f = 0 → flitCls f = cls.toNat → takesFlit s row col c f = true →
      (queueOf c cls.toNat).length < 4 → spilled c cls.toNat = false →
      goesOn (exec (.msgDelivery row col cls) s) fun t => queueOf (coreAt t key) cls.toNat = queueOf c cls.toNat ++ [f] ∧
        outFlits (routerAt t k) 4 cls.toNat = rest) ∧
    (∀ (cls : BitVec 5) (k : Nat) (f : Flit) (rest : List Flit), routerOf s.dev row col = some k →
      outFlits (routerAt s k) 4 cls.toNat = f :: rest → (flitKind f = 0 ∨ flitKind f = 10) → takesFlit s row col c f = false →
      goesOn (exec (.msgDelivery row col cls) s) fun t => (coreAt t key).queues = c.queues ∧ (coreAt t key).cellar = c.cellar ∧
        outFlits (routerAt t k) 4 cls.toNat = rest) ∧
    (∀ (cls : BitVec 5) (f : Flit) (u : Core), (queueOf c cls.toNat).length < 4 → takeSpilled c cls.toNat = some (f, u) →
      exec (.cellarToQueue row col cls) s = .next (setCore s key (setQueue u cls.toNat (queueOf u cls.toNat ++ [f])))) ∧
    (c.sleep = .awake → ∀ (cls : BitVec 5) (f : Flit) (ds : List Flit), Arrived s row col cls.toNat f ds → flitKind f = 15 →
      let w := taking s row col cls.toNat
      let p := flitField f 5 1
      let x := pantryAt w p
      let n := dLen f / 32
      let by_ := match ffind c.accepted cls.toNat with | some a => a.2 | none => x
      (pForm f = 0 → pushRefused w f = false → p < 8 →
        (ffind c.pushed cls.toNat = none →
          (by_.valid = false ∨ by_.outbound = true → goesOn (exec (.pantryPush row col cls) s) fun t =>
            pantryAt (coreAt t key) p = x ∧ fget (coreAt t key).rx cls.toNat [] = [] ∧ (coreAt t key).sram = c.sram) ∧
          (by_.valid = true → by_.outbound = false → by_.sets = x.sets →
            ((x.fill - x.rel).toNat = pantryW x → 0 < n → ds.length * 128 ≥ dLen f →
              goesOn (exec (.pantryPush row col cls) s) fun t =>
                fget (coreAt t key).rx cls.toNat [] = fget c.rx cls.toNat [] ∧ (coreAt t key).sram = c.sram ∧
                (ffind (coreAt t key).pushed cls.toNat).isSome = true) ∧
            (n = 1 → ds.length = 1 → (x.fill - x.rel).toNat < pantryW x → goesOn (exec (.pantryPush row col cls) s) fun t =>
              pantryAt (coreAt t key) p = { x with fill := x.fill + 1 } ∧ fget (coreAt t key).rx cls.toNat [] = [] ∧
              (coreAt t key).sram = c.sram.writeBytes (sectorAddr x x.fill) (dataBytes ds 32))) ∧
          (by_.valid = true → by_.outbound = false → by_.sets ≠ x.sets → n = 1 → ds.length = 1 →
            goesOn (exec (.pantryPush row col cls) s) fun t =>
              pantryAt (coreAt t key) p = x ∧ fget (coreAt t key).rx cls.toNat [] = [] ∧
              (coreAt t key).sram = c.sram.writeBytes (sectorAddr by_ by_.fill) (dataBytes ds 32))) ∧
        (∀ y, ffind c.pushed cls.toNat = some (0, y) → n = 1 → ds.length = 1 →
          (y.sets = x.sets → (x.fill - x.rel).toNat < pantryW x → goesOn (exec (.heldDeliveryResume row col cls) s) fun t =>
            pantryAt (coreAt t key) p = { x with fill := x.fill + 1 } ∧ fget (coreAt t key).rx cls.toNat [] = []) ∧
          (y.sets ≠ x.sets → goesOn (exec (.heldDeliveryResume row col cls) s) fun t =>
            pantryAt (coreAt t key) p = x ∧ fget (coreAt t key).rx cls.toNat [] = [] ∧
            (coreAt t key).sram = c.sram.writeBytes (sectorAddr y y.fill) (dataBytes ds 32)))) ∧
      (pForm f = 1 → pushRefused w f = false → exec (.sramPush row col cls) s = .next (taken s row col cls.toNat f ds
        (pushAnswer row col (deliverBytes w (dToff f) (dataBytes ds (dLen f))) f 0 n))) ∧
      (pForm f = 2 → cls = 24 → ∀ b, ffind c.breads (dTag f) = some b → b.desc.direct = false → c.bursts = [] →
        c.handlers = [] → goesOn (exec (.burstDelivery row col) s) fun t =>
          handlerAt (coreAt t key) 0 = startHandler (burstOf f ds) b.he b.arg)) ∧
    (∀ (b : BreadSource) (rest : List BreadSource) (y lo hi : Nat), c.sources = b :: rest → (b.next ≠ 0 ∨ c.sleep = .awake) →
      breadStopped s b.rrow b.rcol b.tag = false → (egressOf c 24).length < 2 → burstSpan b.desc (burstIndex b.desc b.next) = some (y, lo, hi) →
      let a := (b.off : Int) + y * b.desc.stride + lo
      exec (.breadSourceBurst row col) s = .next (setCore s key { send c 24 (burstFlits row col b.rrow b.rcol b.tag (2 ^ 15) b.desc
        (burstIndex b.desc b.next) y lo (hi - lo) (c.sram.readBytes a.toNat (hi - lo))) with
          sources := (if b.next + 1 < burstTotal b.desc then [{ b with next := b.next + 1 }] else []) ++ rest })) ∧
    (∀ (b : BreadSource) (rest : List BreadSource), c.sources = b :: rest → (b.next ≠ 0 ∨ c.sleep = .awake) →
      breadStopped s b.rrow b.rcol b.tag = true → goesOn (exec (.breadSourceBurst row col) s) fun t =>
        (coreAt t key).sources = rest ∧ egressOf (coreAt t key) 24 = egressOf c 24)) ∧
  (∀ (s : State) (row col : Nat) (f : Flit) (ds : List Flit), Arrived s row col 25 f ds → flitKind f = 14 →
    let c := taking s row col 25
    let done := fun (c : Core) (code data : Nat) => Host.Outcome.next (taken s row col 25 f ds
      (send c 27 [answerFlit row col f (flitField f 24 2) code 0 data]))
    let space := flitField f 9 1
    let i := flitField f 12 4
    flitField f 3 2 % 4096 = ownGen c → capInvalid f = false →
      (flitField f 8 1 = 1 → exec (.capRead row col) s = .next { taken s row col 25 f ds (send
          (if space = 2 ∧ i = 0x11 then { c with sys := { c.sys with ecccnt := 0 } } else c) 27
          [answerFlit row col f (flitField f 24 2) 0 0 (inspectRead c s.cycle space i (Config.freeWord s.freeCtr)).toNat]) with
        freeCtr := s.freeCtr + 1 }) ∧
      (flitField f 8 1 = 2 → exec (.capWrite row col) s =
        if c.halted then done (inspectWrite c space i (BitVec.ofNat 64 (flitField f 16 8))) 0 0 else done c 4 0) ∧
      (flitField f 8 1 = 3 → exec (.capHalt row col) s = done (haltCore c) 0 0) ∧
      (flitField f 8 1 = 4 → exec (.capResume row col) s = done { c with halted := false } 0 0) ∧
      (flitField f 8 1 = 5 → exec (.capWake row col) s = done (setEvents c (1#32 <<< flitField f 16 8)) 0 0))

/-! ## Core events (R90, R100, R103, R128, R135, R136, R328, R409) -/

/-- An instruction that names no register on which a result is pending issues, and the window has one fewer to come. One that names
such a register stalls while the result is written where the window is over, and in the window traps with E_HAZARD and the register
with HAZMODE 1, or, with HAZMODE 0, sees each register old or new, and one of the two writes stands; with an LA of 0 every
instruction stalls while it is written. That a result cannot be pending on x0 is deduced (log entry 79).
The oldest pending result of a core is written, and noted as landing in this cycle. A stall ends once what it waits for is there,
but in a gang as a whole only, and not on a core that a drain holds at its switch point; a barrier wait goes on past its instruction
once the barrier has released. A breakpoint about to issue has its action. A barrier that every participant has reached clears its
bit in all of them, at pod scope once the tree of the pod releases it (the tree's shape and its signals are the model's choice, log
17). A gated core wakes as a wake condition holds or its timeout has passed. A drain marker is kept and wakes its core. -/
def Obligations.CoreEvents : Prop :=
  (∀ (h : Hdr) (d a b : Reg) (s : State) (p : Pending), Owed s h p →
    let c := focused s
    let refs : List RegRef := [.x a.toNat, .x b.toNat, .x d.toNat]
    let named := fun x : DestVal => x.ref ∈ refs ∧ x.ref ≠ .x 0
    let fresh := writeback { c with pending := [] } p
    let shorter := { c with pending := [{ p with left := p.left - 1 }] }
    let both := fun u : State =>
      exec (.and h d a b) s = .next u ∧ exec (.mul h .i64 d a b) s = .next u
    (p.whole = true → both (withFocus s fresh)) ∧
    (p.whole = false → (∀ x, x ∈ p.dests → ¬ named x) →
      exec (.and h d a b) s = .next (did s (writeX shorter .main d.toNat (xr s a &&& xr s b))) ∧
      exec (.mul h .i64 d a b) s = .next (did s { shorter with
        pending := shorter.pending ++ (owing h c false [.x d.toNat (xr s a * xr s b)] 0 {} none).pending })) ∧
    (p.whole = false → (∃ x, x ∈ p.dests ∧ named x) →
      (p.left = 0 → both (withFocus s fresh)) ∧
      (p.left ≠ 0 → c.sys.precise = true → ∀ (pre post : List DestVal) (x : DestVal), p.dests = pre ++ x :: post →
        (∀ y, y ∈ pre → ¬ named y) → named x → both (trapped s eHazard (hazardVal x.ref))) ∧
      (p.left ≠ 0 → c.sys.precise = false → (p.dests.map DestVal.ref).Nodup → ∃ va vb : Word,
        (va = xr s a ∨ va = readX fresh .main a.toNat) ∧ (vb = xr s b ∨ vb = readX fresh .main b.toNat) ∧ (a = b → va = vb) ∧
        goesOn (exec (.and h d a b) s) fun t => let u := focused t
          (∀ r, r ≠ d.toNat → readX u .main r = readX c .main r) ∧
          (((d ≠ 0 → readX u .main d.toNat = va &&& vb) ∧ u.pending =
              [{ p with left := p.left - 1, dests := p.dests.filter fun x => decide (x.ref ≠ .x d.toNat) }]) ∨
            (RegRef.x d.toNat ∈ p.dests.map DestVal.ref ∧ u.pending = [{ p with left := p.left - 1 }]))))) ∧
  ∀ (s : State) (row col : Nat), inGrid (keyOf row col) = true →
    let key := keyOf row col
    let c := coreAt s key
    (∀ (p : Pending) (ps : List Pending), c.pending = p :: ps → p.late = none →
      exec (.resultWriteback row col) s = .next (setCore s key (writeback { noteResult c p with pending := ps } p))) ∧
    (s.dev.stopped = false →
      (c.draining = true ∨ c.frozen = true ∨ c.gang.isSome = true → exec (.stallRelease row col) s = .next (setCore s key c)) ∧
      (c.draining = false → c.frozen = false → c.gang = none →
        (c.wait = .instr → waitOver c (fetchAt c .main) = true →
          exec (.stallRelease row col) s = .next (setCore s key { c with wait := releasedWait (fetchAt c .main) })) ∧
        (c.wait = .instr → waitOver c (fetchAt c .main) = false → exec (.stallRelease row col) s = .next (setCore s key c)) ∧
        (∀ sc id, c.wait = .barrier sc id →
          exec (.stallRelease row col) s = .next (setCore s key
            (if c.arrivals.getLsbD (barBit sc id) = true then c
             else { advance (countIssue c .main) .main c.pc with wait := .run })))) ∧
      (∀ (x : Ctx) (b : Boundary), coreMayIssue s c = true → breakpointCtx s c = some (x, b) →
        exec (.breakpointMatch row col) s = .next (applyBoundary s key x b)) ∧
      (∀ (sc : Scope) (id : BitVec 3) (l : Launch), launchOf s row col = some l → holdsBarrier (some l) sc id = true →
        (∀ k, k ∈ participants l sc key → hasArrived sc id (coreAt s k) = true) → l.orgCol + l.cols ≤ 384 →
        if sc = .pod ∧ (podStep s id).2 = false then exec (.barrierRelease sc id row col) s = .next (podStep s id).1
        else goesOn (exec (.barrierRelease sc id row col) s) fun t => ∀ k,
          (k ∈ participants l sc key → coreAt t k = releaseBit sc id (coreAt s k)) ∧
          (k ∉ participants l sc key → coreAt t k = coreAt s k)) ∧
      (∀ a b : Nat, c.sleep = .gated a b →
        (wakes c = true → exec (.sleepWake row col) s = .next (setCore s key { c with sleep := .awake })) ∧
        (wakes c = false → exec (.sleepWake row col) s = .next (setCore s key c)) ∧
        (b ≠ 0 → a + b ≤ s.cycle → exec (.sleepTimeout row col) s = .next (setCore s key { c with sleep := .awake })) ∧
        (b = 0 ∨ s.cycle < a + b → exec (.sleepTimeout row col) s = .next (setCore s key c))) ∧
      (∀ (k cls : Nat) (f : Flit), routerOf s.dev row col = some k → markerClass s k = some (cls, f) →
        goesOn (exec (.drainMarker row col) s) fun t =>
          (coreAt t key).markers = c.markers ++ [(flitField f 0 1, flitField f 1 1)] ∧ (coreAt t key).sleep = .awake))

/-! ## Larders (R239 to R257, R266 to R268, R405) -/

/-- A class-29 operation of a core of the launch is taken in order: START.list and START.ring begin a context that is IDLE,
STOPPED or ENDED at an aligned address, STOP ends a waiting one in STOPPED, CSIG counts up to its maximum, and LSUB appends
its command at TAIL of a ring with room, or is answered ABORT. The service context takes the oldest bulk read that waits. A
command that sets a larder register, jumps, loops, signals, writes an event, stops or waits has its effect as it is executed,
and the context goes on to the command after it, to the address the command gives, or, waiting, nowhere until its condition
holds; a SIGNAL waits for what is still on its way to its core. The model's choices: how a larder's messages name their context and
kind (log 14), and the addresses and counts that a context shows between commands (log 37). -/
def Obligations.LarderControlEvents : Prop :=
  (∀ (s : State) (n : Nat) (f : Flit) (rest : List Flit) (l : Launch), s.dev.stopped = false → launchBound s n = some l →
    (fget (larderAt s n).rx 29 [] = f :: rest → inRegion l (flitSrow f) (flitScol f) = true →
      let t := setLarder s n { larderAt s n with rx := fset (larderAt s n).rx 29 rest }
      let c := flitField f 1 1
      let x := lctxAt (larderAt s n) c
      let va := BitVec.ofNat 48 (flitField f 8 6)
      let kept := x.reads.map fun r => { r with mine := false }
      (c < 15 → x.st = .idle ∨ x.st = .stopped ∨ x.st = .ended → va.toNat % 16 = 0 →
        (flitField f 0 1 = 0 → exec (.startList n) s = .next (putLctx t n c
          { st := .run, cp := va, reads := kept, nextId := x.nextId })) ∧
        (flitField f 0 1 = 1 → 4 ≤ flitField f 2 1 → flitField f 2 1 ≤ 15 → exec (.startRing n) s = .next (putLctx t n c
          { st := .wait, cp := va, ring := true, ringva := va, logn := flitField f 2 1, reads := kept,
            nextId := x.nextId }))) ∧
      (c < 15 → x.st = .run → flitField f 0 1 = 0 → exec (.startList n) s = .next t) ∧
      (c < 15 → flitField f 0 1 = 2 → x.found = none →
        (x.st = .run ∨ x.st = .wait → exec (.contextStop n) s = .next (putLctx t n c (stopCtx t l x))) ∧
        (x.st = .fault → exec (.contextStop n) s = .next (putLctx t n c { x with st := .stopped }))) ∧
      (c < 15 → flitField f 0 1 = 3 → exec (.csig n) s = .next (putLctx t n c
        { x with csig := if x.csig = 0xFFFF then 0xFFFF else x.csig + 1 })) ∧
      (flitField f 0 1 = 4 →
        let a := x.ringva.toNat + 16 * (x.tail.toNat % 2 ^ x.logn)
        let bytes := leBytes (flitField f 16 8 + 2 ^ 64 * flitField f 24 8) 16
        (∀ pa, c < 15 → x.ring = true → (x.tail - x.head).toNat ≠ 2 ^ x.logn → lookup t l a = .ok pa →
          exec (.lsubAppend n) s =
            .next (larderAnswer (putLctx (atticWrite t pa bytes) n c { x with tail := x.tail + 1 }) n f (flitField f 4 2) 0)) ∧
        (c < 15 → x.ring = false → exec (.lsubAppend n) s = .next (larderAnswer t n f (flitField f 4 2) 6)))) ∧
    (∀ (v : Serving) (more : List Serving), (larderAt s n).serving = none → (larderAt s n).waiting = v :: more →
      l.st = .running → goesOn (exec (.breadServiceStart n) s) fun t => (larderAt t n).serving = some v ∧
        (larderAt t n).waiting = more ∧ (lctxAt (larderAt t n) 15).st = .run)) ∧
  (∀ (s : State) (n c : Nat) (l : Launch) (x : LCtx) (m : LCmd), Executes s n c l x m →
    let next := fun (x : LCtx) => Host.Outcome.next (putLctx s n c x)
    (∀ g v, m = .setv g v → exec (.setv n c) s = next (doneCmd { x with g := fset x.g g v })) ∧
    (∀ g v, m = .addv g v → exec (.addv n c) s = next (doneCmd { x with g := fset x.g g (gOf x g + v) })) ∧
    (∀ va, m = .jump va → x.ring = false → exec (.jump n c) s = next (doneAt x (BitVec.ofNat 48 va))) ∧
    (∀ lv count, m = .loop lv count → x.ring = false → (levelOf x lv).1 = false → count ≠ 0 →
      exec (.larderLoop n c) s = next (doneCmd (setLevel x lv (true, BitVec.ofNat 32 count, x.cp + 16)))) ∧
    (∀ lv, m = .endl lv → x.ring = false → (levelOf x lv).1 = true →
      let v := levelOf x lv
      (v.2.1 = 1 → exec (.endl n c) s = next (doneCmd (setLevel x lv (false, 0, v.2.2)))) ∧
      (v.2.1 ≠ 1 → exec (.endl n c) s = next (doneAt (setLevel x lv (true, v.2.1 - 1, v.2.2)) v.2.2))) ∧
    (m = .stop → exec (.larderStop n c) s = next { x with st := .stopped, cmd := none, step := 0 }) ∧
    (∀ cls addr v key, m = .signal cls addr v → oneTarget l x = some key →
      (larderFree s n cls = true → aheadOf x key = false → exec (.larderSignal n c) s = .next (putLctx
        (sendMessage s n cls 2 key [payloadOf [(0, addr), (12, srcId n c + 2 ^ 13), (16, v.toNat)]]) n c (doneCmd (addRead x
          { what := .signal, va := 0, pas := [], data := some [], cls := cls, cores := [], waits := [key], mine := false })))) ∧
      (larderFree s n cls = false ∨ aheadOf x key = true → exec (.larderSignal n c) s = .next s)) ∧
    (∀ add v t, m = .event add 0 v → hostSignal s (gOf x 4) v add = some t →
      exec (.larderEvent n c) s = .next (putLctx t n c (doneCmd x))) ∧
    (∀ p k key, m = .waitw p k → oneTarget l x = some key →
      (k ≤ freeSectors (coreAt s key) p → exec (.waitw n c) s = next (doneCmd x)) ∧
      (freeSectors (coreAt s key) p < k → exec (.waitw n c) s = next { x with st := .wait })) ∧
    (∀ consume k, m = .waitc consume k →
      (k ≤ x.csig.toNat → exec (.waitc n c) s =
        next (if consume then doneCmd { x with csig := x.csig - BitVec.ofNat 16 k } else doneCmd x)) ∧
      (x.csig.toNat < k → exec (.waitc n c) s = next { x with st := .wait })) ∧
    (m = .fence →
      (x.reads = [] → exec (.larderFence n c) s = next (doneCmd x)) ∧
      (x.reads ≠ [] → exec (.larderFence n c) s = next { x with st := .wait })))

/-- A data command within its limits begins its walk; one whose target set leaves the region is a RANGE fault. Each sector
read goes to its core as a PUSH, and each sector of WBACK to the attic. A waiting context resumes as its condition holds. A
fault that has been found is taken once nothing is under way, and the context is in FAULT or ENDED with its kind and address. The
model's choices: that one sector, or one burst, moves in a step (log 36), and the places that a record shows (log 37). -/
def Obligations.LarderTransfers : Prop :=
  ∀ (s : State) (n c : Nat) (l : Launch),
    (∀ (x : LCtx) (m : LCmd), Executes s n c l x m → gLimits x m = true →
      let begun := fun (i : Instr) (one : Bool) =>
        let y := if x.whole = true then freshCmd x else x
        ((targets l x one).isSome = true → exec i s = .next (putLctx s n c { y with step := sectorOf y m, whole := false })) ∧
        (targets l x one = none → exec i s = .next (putLctx s n c { findFault x .range x.cp.toNat with cmd := none }))
      (∀ h k p cls serial dc pstr pb npl pp, m = .stream h k p cls serial dc pstr pb npl pp → begun (.stream n c) false) ∧
      (∀ p cls dc count len, m = .gather p cls dc count len → begun (.gather n c) false) ∧
      (∀ sram p cls len, m = .wback sram p cls len → begun (.wback n c) true) ∧
      (∀ p cls len, m = .bcast p cls len → begun (.bcast n c) false)) ∧
    (s.dev.stopped = false → launchBound s n = some l →
      let x := lctxAt (larderAt s n) c
      (∀ (m : LCmd) (ts : List Nat) (pa : Nat), c < 15 → x.st = .run → x.found = none → outstanding x < 64 →
        currentCmd x = some m → x.step < cmdTotal x m →
        ∀ p cls serial dc pstr pb npl pp, m = .stream false false p cls serial dc pstr pb npl pp → targets l x false = some ts →
          let va := truncZ ((gOf x 4).toNat + stepOffset x false x.step) 48
          lookup s l va = .ok pa → exec (.larderSectorIssue n c) s = .next (putLctx s n c (issued x m
            { what := .push p, va := BitVec.ofNat 48 va, pas := [pa], data := none, cls := cls,
              cores := [ts.getD (dealtTo m x.step ts.length) 0], waits := [], mine := true } 1))) ∧
      (∀ (pre post : List LRead) (r : LRead) (p key pa : Nat), c < 15 → l.st = .running →
        firstToSend x.reads = some (pre, r, post) → r.what = .push p →
        r.cores = [key] → r.data = none → r.pas = [pa] → poisoned s pa = false → larderFree s n r.cls = true →
        let bs := s.attic.readBytes pa 32
        exec (.atticReadResponse n c) s = .next (putLctx
          (sendMessage s n r.cls 15 key
            [payloadOf [(4, 0), (5, p), (6, srcId n c), (8, 32)], bitsOfBytes 1024 bs]) n c
          { x with reads := pre ++ { r with data := some bs, cores := [], waits := r.waits ++ [key] } :: post })) ∧
      (∀ (r : LRead) (rs : List LRead) (key pa : Nat) (bs : List Byte), c < 15 → x.reads = r :: rs → r.what = .wback none →
        r.data = some bs → r.pas = [pa] → r.waits = [key] → exec (.atticWriteAccept n c) s =
          .next (putLctx (atticWrite s pa bs) n c { x with reads := rs, elem := if r.mine then x.elem + 1 else x.elem })) ∧
      (x.st = .wait → ∀ m, currentCmd x = some m →
        (waitMet s l x m = true → exec (.larderWaitResume n c) s = .next (putLctx s n c (endWait x m))) ∧
        (waitMet s l x m = false → exec (.larderWaitResume n c) s = .next s)) ∧
      (x.st = .wait → currentCmd x = none → ringEmpty x = false →
        exec (.larderWaitResume n c) s = .next (putLctx s n c { x with st := .run })) ∧
      (∀ k va, c < 15 → x.found = some (k, va) → x.reads = [] → goesOn (exec (.larderFaultEnter n c) s) fun t =>
        let y := lctxAt (larderAt t n) c
        y.st = (if k ≠ .xlate then .ended else if x.stopAsked then .stopped else .fault) ∧ y.kind = k ∧
        (k ≠ .poison → k ≠ .range → y.fva = va) ∧ y.found = none ∧ t.port0.event.getLsbD 3 = true ∧ t.port1.event.getLsbD 3 = true))
end

