-- ==== Sys2Proof/Laws/Arith.lean ====
section
/-! SUPPORT. The integer helpers of Flags as bit-vector operations: sext, truncZ, tyReadInt and extendI. -/

namespace Sys2Proof.Laws

open Sys2Proof Sys2Proof.Machine

/-- sext reads the low bits of a number as a signed bit vector. -/
theorem sext_eq {v n : Nat} (hn : 0 < n) : sext v n = (BitVec.ofNat n v).toInt := by
  have h2 : 2 * 2 ^ (n - 1) = 2 ^ n := by rw [← Nat.pow_succ']; congr 1; omega
  unfold sext
  rw [if_neg (by omega), BitVec.toInt_eq_toNat_cond, BitVec.toNat_ofNat]
  split <;> split <;> first | rfl | omega

/-- truncZ is the number of the bit vector of an integer. -/
theorem truncZ_eq (v : Int) (n : Nat) : truncZ v n = (BitVec.ofInt n v).toNat := by
  simp [truncZ, BitVec.toNat_ofInt]

/-- A signed type is extended from its sign bit. -/
theorem extendI_signed {t : Ty} (h : t.isSigned = true) (v : Int) :
    extendI t v = (BitVec.ofInt t.width v).signExtend 64 := by
  have hw : 0 < t.width := by cases t <;> decide
  unfold extendI
  rw [if_pos h, sext_eq hw, truncZ_eq, BitVec.ofNat_toNat, BitVec.setWidth_eq, BitVec.signExtend]

/-- An unsigned type is extended with zeros. -/
theorem extendI_unsigned {t : Ty} (h : t.isSigned = false) (v : Int) :
    extendI t v = (BitVec.ofInt t.width v).setWidth 64 := by
  unfold extendI
  rw [if_neg (by simp [h]), truncZ_eq, BitVec.setWidth, BitVec.ofNat_toNat]
  split <;> simp_all

/-- A signed type reads the low bits of a number as a signed bit vector. -/
theorem tyReadInt_signed {t : Ty} (h : t.isSigned = true) (v : Nat) : tyReadInt t v = (BitVec.ofNat t.width v).toInt := by
  have hw : 0 < t.width := by cases t <;> decide
  simp [tyReadInt, h, sext_eq hw]

/-- An unsigned type reads the low bits of a number. -/
theorem tyReadInt_unsigned {t : Ty} (h : t.isSigned = false) (v : Nat) : tyReadInt t v = (v % 2 ^ t.width : Nat) := by
  simp [tyReadInt, h]

/-- A 64-bit signed result is the integer's bit vector. -/
theorem extendI_i64 (v : Int) : extendI .i64 v = BitVec.ofInt 64 v := by
  rw [extendI_signed rfl]; exact BitVec.signExtend_eq ..

/-- A 64-bit unsigned result is the integer's bit vector. -/
theorem extendI_n64 (v : Int) : extendI .n64 v = BitVec.ofInt 64 v := by
  rw [extendI_unsigned rfl]; exact BitVec.setWidth_eq ..

/-- A 32-bit signed result is sign-extended. -/
theorem extendI_i32 (v : Int) : extendI .i32 v = (BitVec.ofInt 32 v).signExtend 64 := extendI_signed rfl v

/-- A 64-bit register read as a signed 64-bit type. -/
theorem tyReadInt_i64 (x : Word) : tyReadInt .i64 x.toNat = x.toInt := by
  rw [tyReadInt_signed rfl]; simp [Ty.width]

/-- A 64-bit register read as an unsigned 64-bit type. -/
theorem tyReadInt_n64 (x : Word) : tyReadInt .n64 x.toNat = x.toNat := by
  have := x.isLt
  rw [tyReadInt_unsigned rfl, Nat.mod_eq_of_lt (by simpa [Ty.width] using this)]

/-- A 64-bit register read as a signed 32-bit type. -/
theorem tyReadInt_i32 (x : Word) : tyReadInt .i32 x.toNat = (x.setWidth 32).toInt := by
  rw [tyReadInt_signed rfl, BitVec.setWidth]; rfl

end Sys2Proof.Laws
end

