-- ==== Sys2Proof/Laws/Frames.lean ====
section
/-! SUPPORT. Laws of the frames of a Poluri link: where its fields and its CRC stand, and that a frame made with its CRC is
good. -/

namespace Sys2Proof.Laws

open Sys2Proof Sys2Proof.Machine

/-- The bits of a frame: its header, sideband and payload, then its CRC. -/
theorem frame_bits (v : Nat) (hv : v < 2 ^ 1248) (c : BitVec 32) (i : Nat) :
    (BitVec.ofNat 1280 (v + 2 ^ 1248 * c.toNat)).getLsbD i = if i < 1248 then v.testBit i else c.getLsbD (i - 1248) := by
  rw [BitVec.getLsbD_ofNat, Nat.add_comm, Nat.testBit_two_pow_mul_add _ hv]
  by_cases h : i < 1248
  · rw [if_pos h, if_pos h, decide_eq_true (by omega), Bool.true_and]
  · rw [if_neg h, if_neg h, BitVec.testBit_toNat]
    by_cases h2 : i < 1280
    · rw [decide_eq_true h2, Bool.true_and]
    · rw [decide_eq_false h2, Bool.false_and, BitVec.getLsbD_of_ge c _ (by omega)]
theorem frame_low (v : Nat) (hv : v < 2 ^ 1248) (c : BitVec 32) (a n : Nat) (h : a + n ≤ 1248) :
    (BitVec.ofNat 1280 (v + 2 ^ 1248 * c.toNat)).extractLsb' a n = (BitVec.ofNat 1280 v).extractLsb' a n := by
  apply BitVec.eq_of_getLsbD_eq
  intro i hi
  rw [BitVec.getLsbD_extractLsb', BitVec.getLsbD_extractLsb', frame_bits v hv, if_pos (by omega), BitVec.getLsbD_ofNat,
    decide_eq_true (show a + i < 1280 by omega), Bool.true_and]
theorem frame_crc (v : Nat) (hv : v < 2 ^ 1248) (c : BitVec 32) :
    (BitVec.ofNat 1280 (v + 2 ^ 1248 * c.toNat)).extractLsb' 1248 32 = c := by
  apply BitVec.eq_of_getLsbD_eq
  intro i hi
  rw [BitVec.getLsbD_extractLsb', frame_bits v hv, if_neg (by omega), decide_eq_true hi, Bool.true_and]
  rw [Nat.add_sub_cancel_left]
theorem leBytes_mod (x y n : Nat) (h : x % 2 ^ (8 * n) = y % 2 ^ (8 * n)) : leBytes x n = leBytes y n := by
  induction n generalizing x y with
  | zero => rfl
  | succ n ih =>
    simp only [leBytes]
    have h1 : x % 256 = y % 256 := by
      have := congrArg (· % 256) h
      simpa [Nat.mod_mod_of_dvd _ (show 256 ∣ 2 ^ (8 * (n + 1)) from ⟨2 ^ (8 * n), by rw [Nat.mul_succ, Nat.pow_add]; ring⟩)] using this
    have h2 : x / 256 % 2 ^ (8 * n) = y / 256 % 2 ^ (8 * n) := by
      have e : ∀ z : Nat, z / 256 % 2 ^ (8 * n) = z % 2 ^ (8 * (n + 1)) / 256 := fun z => by
        rw [Nat.mul_succ, Nat.pow_add, Nat.mul_comm (2 ^ (8 * n)), Nat.mod_mul_right_div_self]
      rw [e, e, h]
    rw [ih _ _ h2, BitVec.toNat_inj.mp (by simpa using h1 : (BitVec.ofNat 8 x).toNat = (BitVec.ofNat 8 y).toNat)]
theorem frame_body (v : Nat) (hv : v < 2 ^ 1248) (c : BitVec 32) :
    byteSlice (BitVec.ofNat 1280 (v + 2 ^ 1248 * c.toNat)) 0 156 = byteSlice (BitVec.ofNat 1280 v) 0 156 := by
  apply leBytes_mod
  have e : ∀ x : BitVec 1280, (x.toNat >>> (8 * 0)) % 2 ^ (8 * 156) = (x.extractLsb' 0 1248).toNat := fun x => by
    rw [BitVec.extractLsb'_toNat]
  rw [e, e, frame_low v hv c 0 1248 (Nat.le_refl _)]
theorem frame_head (v : Nat) (hv : v < 2 ^ 1248) (c : BitVec 32) :
    frameHead (BitVec.ofNat 1280 (v + 2 ^ 1248 * c.toNat)) = frameHead (BitVec.ofNat 1280 v) := by
  have f : ∀ a n, a + n ≤ 1248 → (BitVec.ofNat 1280 (v + 2 ^ 1248 * c.toNat)).extractLsb' a n = (BitVec.ofNat 1280 v).extractLsb' a n :=
    fun a n h => frame_low v hv c a n h
  unfold frameHead
  rw [f 0 4 (by decide), f 4 12 (by decide), f 16 12 (by decide), f 28 2 (by decide), f 30 5 (by decide), f 35 4 (by decide)]
/-- A frame that carries the CRC of its first 156 bytes is good where its TYPE and ACKKIND are not reserved. -/
theorem frame_good (v : Nat) (hv : v < 2 ^ 1248) (ht : (frameHead (BitVec.ofNat 1280 v)).type < 4)
    (hk : (frameHead (BitVec.ofNat 1280 v)).ackKind < 3) :
    frameGood (BitVec.ofNat 1280 (v + 2 ^ 1248 * (frameCrc (BitVec.ofNat 1280 v)).toNat)) = true := by
  have hc : frameCrc (BitVec.ofNat 1280 (v + 2 ^ 1248 * (frameCrc (BitVec.ofNat 1280 v)).toNat)) = frameCrc (BitVec.ofNat 1280 v) :=
    congrArg crc32 (frame_body v hv _)
  unfold frameGood
  rw [frame_head v hv, frame_crc v hv, hc]
  simp [ht, hk]

end Sys2Proof.Laws
end

