-- ==== Sys2Proof/Laws/Memory.lean ====
section
/-! SUPPORT. Laws of the sparse maps and of the byte memories: reading after writing, what a write leaves alone, and that
every memory operation keeps the canonical form. -/

namespace Sys2Proof.Laws
open Sys2Proof.Machine

/-! ## Maps -/

@[simp] theorem ffind_fset_self {α : Type} (m : FMap α) (k : Nat) (v : α) : ffind (fset m k v) k = some v := by
  induction m with
  | nil => simp [fset, ffind]
  | cons e m ih =>
    obtain ⟨k', v'⟩ := e
    simp only [fset]
    split
    · simp [ffind]
    · split <;> simp_all [ffind]

theorem ffind_fset_ne {α : Type} (m : FMap α) {k j : Nat} (v : α) (h : j ≠ k) : ffind (fset m k v) j = ffind m j := by
  induction m with
  | nil => simp [fset, ffind, h.symm]
  | cons e m ih =>
    obtain ⟨k', v'⟩ := e
    simp only [fset]
    split
    · subst_vars; simp [ffind, h.symm]
    · split
      · simp [ffind, h.symm]
      · simp only [ffind, ih]

@[simp] theorem fget_fset_self {α : Type} (m : FMap α) (k : Nat) (v d : α) : fget (fset m k v) k d = v := by simp [fget]

theorem fget_fset_ne {α : Type} (m : FMap α) {k j : Nat} (v d : α) (h : j ≠ k) : fget (fset m k v) j d = fget m j d := by
  simp [fget, ffind_fset_ne m v h]

@[simp] theorem ffind_fdel_self {α : Type} (m : FMap α) (k : Nat) : ffind (fdel m k) k = none := by
  induction m with
  | nil => rfl
  | cons e m ih =>
    obtain ⟨k', v'⟩ := e
    by_cases h : k' = k
    · subst h; simpa [fdel] using ih
    · have h1 : (k' != k) = true := by simpa using h
      simpa [fdel, h1, ffind, h] using ih

theorem ffind_fdel_ne {α : Type} (m : FMap α) {k j : Nat} (h : j ≠ k) : ffind (fdel m k) j = ffind m j := by
  induction m with
  | nil => rfl
  | cons e m ih =>
    obtain ⟨k', v'⟩ := e
    by_cases h1 : k' = k
    · subst h1; simpa [fdel, ffind, h.symm] using ih
    · have h2 : (k' != k) = true := by simpa using h1
      simp only [fdel, List.filter_cons, h2, ite_true, ffind] at ih ⊢
      rw [ih]

/-! ## Cells -/

theorem cellFind_below {lo a : Nat} {cs : List Host.Cell} (h : cellsRise lo cs = true) (ha : a < lo) : cellFind cs a = none := by
  induction cs generalizing lo with
  | nil => rfl
  | cons e cs ih =>
    obtain ⟨a', b⟩ := e
    simp only [cellsRise, Bool.and_eq_true, decide_eq_true_eq] at h
    have h1 : a' ≠ a := by omega
    simp only [cellFind, h1, ite_false]
    exact ih h.2 (by omega)

theorem cellFind_set_self (cs : List Host.Cell) (a : Nat) (b : Byte) : cellFind (cellSet cs a b) a = some b := by
  induction cs with
  | nil => simp [cellSet, cellFind]
  | cons e cs ih =>
    obtain ⟨a', b'⟩ := e
    simp only [cellSet]
    split
    · simp [cellFind]
    · split <;> simp_all [cellFind]

theorem cellFind_set_ne (cs : List Host.Cell) {a c : Nat} (b : Byte) (h : c ≠ a) :
    cellFind (cellSet cs a b) c = cellFind cs c := by
  induction cs with
  | nil => simp [cellSet, cellFind, h.symm]
  | cons e cs ih =>
    obtain ⟨a', b'⟩ := e
    simp only [cellSet]
    split
    · subst_vars; simp [cellFind, h.symm]
    · split
      · simp [cellFind, h.symm]
      · simp only [cellFind, ih]

theorem cellFind_del_self {lo : Nat} {cs : List Host.Cell} (h : cellsRise lo cs = true) (a : Nat) :
    cellFind (cellDel cs a) a = none := by
  induction cs generalizing lo with
  | nil => rfl
  | cons e cs ih =>
    obtain ⟨a', b'⟩ := e
    simp only [cellsRise, Bool.and_eq_true, decide_eq_true_eq] at h
    simp only [cellDel]
    split
    · rename_i h1; subst h1; exact cellFind_below h.2 (by omega)
    · rename_i h1; simp only [cellFind, h1, ite_false]; exact ih h.2

theorem cellFind_del_ne (cs : List Host.Cell) {a c : Nat} (h : c ≠ a) : cellFind (cellDel cs a) c = cellFind cs c := by
  induction cs with
  | nil => rfl
  | cons e cs ih =>
    obtain ⟨a', b'⟩ := e
    simp only [cellDel]
    split
    · subst_vars; simp [cellFind, h.symm]
    · simp only [cellFind, ih]

theorem cellsRise_set {lo : Nat} {cs : List Host.Cell} (h : cellsRise lo cs = true) {a : Nat} (b : Byte) (ha : lo ≤ a) :
    cellsRise lo (cellSet cs a b) = true := by
  induction cs generalizing lo with
  | nil => simp [cellSet, cellsRise, ha]
  | cons e cs ih =>
    obtain ⟨a', b'⟩ := e
    simp only [cellsRise, Bool.and_eq_true, decide_eq_true_eq] at h
    simp only [cellSet]
    split
    · rename_i h1; subst h1; simp [cellsRise, ha, h.2]
    · split
      · rename_i h1; simp only [cellsRise, Bool.and_eq_true, decide_eq_true_eq]; exact ⟨ha, by omega, h.2⟩
      · simp only [cellsRise, Bool.and_eq_true, decide_eq_true_eq]; exact ⟨h.1, ih h.2 (by omega)⟩

theorem cellsRise_mono {lo lo' : Nat} {cs : List Host.Cell} (h : cellsRise lo cs = true) (hl : lo' ≤ lo) :
    cellsRise lo' cs = true := by
  cases cs with
  | nil => rfl
  | cons e cs => simp only [cellsRise, Bool.and_eq_true, decide_eq_true_eq] at h ⊢; exact ⟨by omega, h.2⟩

theorem cellsRise_del {lo : Nat} {cs : List Host.Cell} (h : cellsRise lo cs = true) (a : Nat) :
    cellsRise lo (cellDel cs a) = true := by
  induction cs generalizing lo with
  | nil => rfl
  | cons e cs ih =>
    obtain ⟨a', b'⟩ := e
    simp only [cellsRise, Bool.and_eq_true, decide_eq_true_eq] at h
    simp only [cellDel]
    split
    · exact cellsRise_mono h.2 (by omega)
    · simp only [cellsRise, Bool.and_eq_true, decide_eq_true_eq]; exact ⟨h.1, ih h.2⟩

theorem mem_cellSet {cs : List Host.Cell} {a : Nat} {b : Byte} {c : Host.Cell} (h : c ∈ cellSet cs a b) : c = (a, b) ∨ c ∈ cs := by
  induction cs with
  | nil => simp [cellSet] at h; exact .inl h
  | cons e cs ih =>
    obtain ⟨a', b'⟩ := e
    simp only [cellSet] at h
    split at h
    · simp at h; rcases h with h | h <;> simp [h]
    · split at h
      · simp at h; rcases h with h | h | h <;> simp [h]
      · simp at h; rcases h with h | h
        · simp [h]
        · rcases ih h with h | h <;> simp [h]

theorem mem_cellDel {cs : List Host.Cell} {a : Nat} {c : Host.Cell} (h : c ∈ cellDel cs a) : c ∈ cs := by
  induction cs with
  | nil => exact h
  | cons e cs ih =>
    obtain ⟨a', b'⟩ := e
    simp only [cellDel] at h
    split at h
    · exact List.mem_cons_of_mem _ h
    · simp at h; rcases h with h | h
      · simp [h]
      · exact List.mem_cons_of_mem _ (ih h)

/-! ## Bytes -/

theorem read_write_ne (m : Memory) {a c : Nat} (b : Byte) (h : c ≠ a) : (m.write a b).read c = m.read c := by
  simp only [Memory.write, Memory.read]
  split
  · rw [cellFind_del_ne _ h]
  · rw [cellFind_set_ne _ _ h]

theorem read_write_self {m : Memory} (hm : m.wf = true) (a : Nat) (b : Byte) : (m.write a b).read a = b := by
  simp only [Memory.wf, Bool.and_eq_true] at hm
  simp only [Memory.write, Memory.read]
  split
  · rename_i h
    rw [cellFind_del_self hm.1]
    cases hf : m.fill with
    | const c => rw [hf] at h; simpa [Fill.drops, Fill.byte] using h
    | free n => rw [hf] at h; simp [Fill.drops] at h
  · rw [cellFind_set_self]; rfl

/-- A write keeps the canonical form. -/
theorem write_wf {m : Memory} (hm : m.wf = true) (a : Nat) (b : Byte) : (m.write a b).wf = true := by
  simp only [Memory.wf, Bool.and_eq_true, List.all_eq_true] at hm ⊢
  simp only [Memory.write]
  split
  · exact ⟨cellsRise_del hm.1 a, fun c hc => hm.2 c (mem_cellDel hc)⟩
  · rename_i h
    refine ⟨cellsRise_set hm.1 b (by omega), fun c hc => ?_⟩
    rcases mem_cellSet hc with rfl | h1
    · simpa using h
    · exact hm.2 c h1

theorem writeBytes_wf {m : Memory} (hm : m.wf = true) (a : Nat) (bs : List Byte) : (m.writeBytes a bs).wf = true := by
  induction bs generalizing m a with
  | nil => exact hm
  | cons b bs ih => exact ih (write_wf hm a b) (a + 1)

theorem writeLE_wf {m : Memory} (hm : m.wf = true) (a n v : Nat) : (m.writeLE a n v).wf = true := writeBytes_wf hm a _

/-- A string of bytes changes no byte outside it. -/
theorem read_writeBytes_ne (m : Memory) (a c : Nat) (bs : List Byte) (h : c < a ∨ a + bs.length ≤ c) :
    (m.writeBytes a bs).read c = m.read c := by
  induction bs generalizing m a with
  | nil => rfl
  | cons b bs ih =>
    simp only [List.length_cons] at h
    simp only [Memory.writeBytes]
    rw [ih _ _ (by omega), read_write_ne _ _ (by omega)]

/-- A string of bytes is there after it is written. -/
theorem readBytes_writeBytes {m : Memory} (hm : m.wf = true) (a : Nat) (bs : List Byte) :
    (m.writeBytes a bs).readBytes a bs.length = bs := by
  induction bs generalizing m a with
  | nil => rfl
  | cons b bs ih =>
    simp only [Memory.writeBytes, List.length_cons, Memory.readBytes]
    rw [ih (write_wf hm a b), read_writeBytes_ne _ _ _ _ (by omega), read_write_self hm]

@[simp] theorem leBytes_length (v n : Nat) : (leBytes v n).length = n := by
  induction n generalizing v with
  | zero => rfl
  | succ n ih => simp [leBytes, ih]

theorem leNat_leBytes (v n : Nat) : leNat (leBytes v n) = v % 256 ^ n := by
  induction n generalizing v with
  | zero => simp [leBytes, leNat, Nat.mod_one]
  | succ n ih =>
    have h : 256 ^ (n + 1) = 256 * 256 ^ n := by ring
    simp only [leBytes, leNat, ih, BitVec.toNat_ofNat, h, Nat.mod_mul]

/-- A value of n bytes is read back as it was written, modulo 256^n. -/
theorem readLE_writeLE {m : Memory} (hm : m.wf = true) (a n v : Nat) : (m.writeLE a n v).readLE a n = v % 256 ^ n := by
  have h := readBytes_writeBytes hm a (leBytes v n)
  simp only [leBytes_length] at h
  simp [Memory.readLE, Memory.writeLE, h, leNat_leBytes]

theorem read_writeLE_ne (m : Memory) (a n v c : Nat) (h : c < a ∨ a + n ≤ c) : (m.writeLE a n v).read c = m.read c :=
  read_writeBytes_ne m a c _ (by simpa using h)

/-- Writing what a memory lists nowhere and reads anyway changes no byte. -/
theorem empty_wf : Memory.empty.wf = true := rfl

theorem erased_wf : Memory.erased.wf = true := rfl

/-- Every memory of the machine right after reset has its canonical form. -/
theorem reset_memoriesWf : memoriesWf State.reset := by decide

end Sys2Proof.Laws
end

