-- ==== Sys2Proof/Laws/State.lean ====
section
/-! SUPPORT. What each update of the state and of a core leaves as it was, one lemma a field, and what it changes, so that no
proof takes an update apart. -/

namespace Sys2Proof.Laws
open Sys2Proof Sys2Proof.Machine

/-! ## Updates of the state -/

@[simp] theorem setCore_routers (s : State) (k : Nat) (c : Core) : (setCore s k c).routers = s.routers := rfl
@[simp] theorem setCore_larders (s : State) (k : Nat) (c : Core) : (setCore s k c).larders = s.larders := rfl
@[simp] theorem setCore_links (s : State) (k : Nat) (c : Core) : (setCore s k c).links = s.links := rfl
@[simp] theorem setCore_attic (s : State) (k : Nat) (c : Core) : (setCore s k c).attic = s.attic := rfl
@[simp] theorem setCore_expanders (s : State) (k : Nat) (c : Core) : (setCore s k c).expanders = s.expanders := rfl
@[simp] theorem setCore_port0 (s : State) (k : Nat) (c : Core) : (setCore s k c).port0 = s.port0 := rfl
@[simp] theorem setCore_port1 (s : State) (k : Nat) (c : Core) : (setCore s k c).port1 = s.port1 := rfl
@[simp] theorem setCore_dev (s : State) (k : Nat) (c : Core) : (setCore s k c).dev = s.dev := rfl
@[simp] theorem setCore_unrid (s : State) (k : Nat) (c : Core) : (setCore s k c).unrid = s.unrid := rfl
@[simp] theorem setCore_cycle (s : State) (k : Nat) (c : Core) : (setCore s k c).cycle = s.cycle := rfl
@[simp] theorem setCore_live (s : State) (k : Nat) (c : Core) : (setCore s k c).live = s.live := rfl
@[simp] theorem setCore_focus (s : State) (k : Nat) (c : Core) : (setCore s k c).focus = s.focus := rfl
@[simp] theorem setCore_ctx (s : State) (k : Nat) (c : Core) : (setCore s k c).ctx = s.ctx := rfl
@[simp] theorem setCore_agenda (s : State) (k : Nat) (c : Core) : (setCore s k c).agenda = s.agenda := rfl
@[simp] theorem setCore_freeCtr (s : State) (k : Nat) (c : Core) : (setCore s k c).freeCtr = s.freeCtr := rfl

@[simp] theorem setRouter_cores (s : State) (k : Nat) (r : Router) : (setRouter s k r).cores = s.cores := rfl
@[simp] theorem setRouter_larders (s : State) (k : Nat) (r : Router) : (setRouter s k r).larders = s.larders := rfl
@[simp] theorem setRouter_links (s : State) (k : Nat) (r : Router) : (setRouter s k r).links = s.links := rfl
@[simp] theorem setRouter_attic (s : State) (k : Nat) (r : Router) : (setRouter s k r).attic = s.attic := rfl
@[simp] theorem setRouter_expanders (s : State) (k : Nat) (r : Router) : (setRouter s k r).expanders = s.expanders := rfl
@[simp] theorem setRouter_port0 (s : State) (k : Nat) (r : Router) : (setRouter s k r).port0 = s.port0 := rfl
@[simp] theorem setRouter_port1 (s : State) (k : Nat) (r : Router) : (setRouter s k r).port1 = s.port1 := rfl
@[simp] theorem setRouter_dev (s : State) (k : Nat) (r : Router) : (setRouter s k r).dev = s.dev := rfl
@[simp] theorem setRouter_unrid (s : State) (k : Nat) (r : Router) : (setRouter s k r).unrid = s.unrid := rfl
@[simp] theorem setRouter_cycle (s : State) (k : Nat) (r : Router) : (setRouter s k r).cycle = s.cycle := rfl
@[simp] theorem setRouter_live (s : State) (k : Nat) (r : Router) : (setRouter s k r).live = s.live := rfl
@[simp] theorem setRouter_focus (s : State) (k : Nat) (r : Router) : (setRouter s k r).focus = s.focus := rfl
@[simp] theorem setRouter_ctx (s : State) (k : Nat) (r : Router) : (setRouter s k r).ctx = s.ctx := rfl
@[simp] theorem setRouter_agenda (s : State) (k : Nat) (r : Router) : (setRouter s k r).agenda = s.agenda := rfl
@[simp] theorem setRouter_freeCtr (s : State) (k : Nat) (r : Router) : (setRouter s k r).freeCtr = s.freeCtr := rfl

@[simp] theorem setLarder_cores (s : State) (n : Nat) (l : Larder) : (setLarder s n l).cores = s.cores := rfl
@[simp] theorem setLarder_routers (s : State) (n : Nat) (l : Larder) : (setLarder s n l).routers = s.routers := rfl
@[simp] theorem setLarder_links (s : State) (n : Nat) (l : Larder) : (setLarder s n l).links = s.links := rfl
@[simp] theorem setLarder_attic (s : State) (n : Nat) (l : Larder) : (setLarder s n l).attic = s.attic := rfl
@[simp] theorem setLarder_expanders (s : State) (n : Nat) (l : Larder) : (setLarder s n l).expanders = s.expanders := rfl
@[simp] theorem setLarder_port0 (s : State) (n : Nat) (l : Larder) : (setLarder s n l).port0 = s.port0 := rfl
@[simp] theorem setLarder_port1 (s : State) (n : Nat) (l : Larder) : (setLarder s n l).port1 = s.port1 := rfl
@[simp] theorem setLarder_dev (s : State) (n : Nat) (l : Larder) : (setLarder s n l).dev = s.dev := rfl
@[simp] theorem setLarder_unrid (s : State) (n : Nat) (l : Larder) : (setLarder s n l).unrid = s.unrid := rfl
@[simp] theorem setLarder_cycle (s : State) (n : Nat) (l : Larder) : (setLarder s n l).cycle = s.cycle := rfl
@[simp] theorem setLarder_live (s : State) (n : Nat) (l : Larder) : (setLarder s n l).live = s.live := rfl
@[simp] theorem setLarder_focus (s : State) (n : Nat) (l : Larder) : (setLarder s n l).focus = s.focus := rfl
@[simp] theorem setLarder_ctx (s : State) (n : Nat) (l : Larder) : (setLarder s n l).ctx = s.ctx := rfl
@[simp] theorem setLarder_agenda (s : State) (n : Nat) (l : Larder) : (setLarder s n l).agenda = s.agenda := rfl
@[simp] theorem setLarder_freeCtr (s : State) (n : Nat) (l : Larder) : (setLarder s n l).freeCtr = s.freeCtr := rfl

@[simp] theorem setLink_cores (s : State) (n : Nat) (l : Link) : (setLink s n l).cores = s.cores := rfl
@[simp] theorem setLink_routers (s : State) (n : Nat) (l : Link) : (setLink s n l).routers = s.routers := rfl
@[simp] theorem setLink_larders (s : State) (n : Nat) (l : Link) : (setLink s n l).larders = s.larders := rfl
@[simp] theorem setLink_attic (s : State) (n : Nat) (l : Link) : (setLink s n l).attic = s.attic := rfl
@[simp] theorem setLink_expanders (s : State) (n : Nat) (l : Link) : (setLink s n l).expanders = s.expanders := rfl
@[simp] theorem setLink_port0 (s : State) (n : Nat) (l : Link) : (setLink s n l).port0 = s.port0 := rfl
@[simp] theorem setLink_port1 (s : State) (n : Nat) (l : Link) : (setLink s n l).port1 = s.port1 := rfl
@[simp] theorem setLink_dev (s : State) (n : Nat) (l : Link) : (setLink s n l).dev = s.dev := rfl
@[simp] theorem setLink_unrid (s : State) (n : Nat) (l : Link) : (setLink s n l).unrid = s.unrid := rfl
@[simp] theorem setLink_cycle (s : State) (n : Nat) (l : Link) : (setLink s n l).cycle = s.cycle := rfl
@[simp] theorem setLink_live (s : State) (n : Nat) (l : Link) : (setLink s n l).live = s.live := rfl
@[simp] theorem setLink_focus (s : State) (n : Nat) (l : Link) : (setLink s n l).focus = s.focus := rfl
@[simp] theorem setLink_ctx (s : State) (n : Nat) (l : Link) : (setLink s n l).ctx = s.ctx := rfl
@[simp] theorem setLink_agenda (s : State) (n : Nat) (l : Link) : (setLink s n l).agenda = s.agenda := rfl
@[simp] theorem setLink_freeCtr (s : State) (n : Nat) (l : Link) : (setLink s n l).freeCtr = s.freeCtr := rfl

@[simp] theorem modDev_cores (s : State) (g : Device → Device) : (modDev s g).cores = s.cores := rfl
@[simp] theorem modDev_routers (s : State) (g : Device → Device) : (modDev s g).routers = s.routers := rfl
@[simp] theorem modDev_larders (s : State) (g : Device → Device) : (modDev s g).larders = s.larders := rfl
@[simp] theorem modDev_links (s : State) (g : Device → Device) : (modDev s g).links = s.links := rfl
@[simp] theorem modDev_attic (s : State) (g : Device → Device) : (modDev s g).attic = s.attic := rfl
@[simp] theorem modDev_expanders (s : State) (g : Device → Device) : (modDev s g).expanders = s.expanders := rfl
@[simp] theorem modDev_port0 (s : State) (g : Device → Device) : (modDev s g).port0 = s.port0 := rfl
@[simp] theorem modDev_port1 (s : State) (g : Device → Device) : (modDev s g).port1 = s.port1 := rfl
@[simp] theorem modDev_unrid (s : State) (g : Device → Device) : (modDev s g).unrid = s.unrid := rfl
@[simp] theorem modDev_cycle (s : State) (g : Device → Device) : (modDev s g).cycle = s.cycle := rfl
@[simp] theorem modDev_live (s : State) (g : Device → Device) : (modDev s g).live = s.live := rfl
@[simp] theorem modDev_focus (s : State) (g : Device → Device) : (modDev s g).focus = s.focus := rfl
@[simp] theorem modDev_ctx (s : State) (g : Device → Device) : (modDev s g).ctx = s.ctx := rfl
@[simp] theorem modDev_agenda (s : State) (g : Device → Device) : (modDev s g).agenda = s.agenda := rfl
@[simp] theorem modDev_freeCtr (s : State) (g : Device → Device) : (modDev s g).freeCtr = s.freeCtr := rfl

@[simp] theorem modUnrid_cores (s : State) (g : Unrid → Unrid) : (modUnrid s g).cores = s.cores := rfl
@[simp] theorem modUnrid_routers (s : State) (g : Unrid → Unrid) : (modUnrid s g).routers = s.routers := rfl
@[simp] theorem modUnrid_larders (s : State) (g : Unrid → Unrid) : (modUnrid s g).larders = s.larders := rfl
@[simp] theorem modUnrid_links (s : State) (g : Unrid → Unrid) : (modUnrid s g).links = s.links := rfl
@[simp] theorem modUnrid_attic (s : State) (g : Unrid → Unrid) : (modUnrid s g).attic = s.attic := rfl
@[simp] theorem modUnrid_expanders (s : State) (g : Unrid → Unrid) : (modUnrid s g).expanders = s.expanders := rfl
@[simp] theorem modUnrid_port0 (s : State) (g : Unrid → Unrid) : (modUnrid s g).port0 = s.port0 := rfl
@[simp] theorem modUnrid_port1 (s : State) (g : Unrid → Unrid) : (modUnrid s g).port1 = s.port1 := rfl
@[simp] theorem modUnrid_dev (s : State) (g : Unrid → Unrid) : (modUnrid s g).dev = s.dev := rfl
@[simp] theorem modUnrid_cycle (s : State) (g : Unrid → Unrid) : (modUnrid s g).cycle = s.cycle := rfl
@[simp] theorem modUnrid_live (s : State) (g : Unrid → Unrid) : (modUnrid s g).live = s.live := rfl
@[simp] theorem modUnrid_focus (s : State) (g : Unrid → Unrid) : (modUnrid s g).focus = s.focus := rfl
@[simp] theorem modUnrid_ctx (s : State) (g : Unrid → Unrid) : (modUnrid s g).ctx = s.ctx := rfl
@[simp] theorem modUnrid_agenda (s : State) (g : Unrid → Unrid) : (modUnrid s g).agenda = s.agenda := rfl
@[simp] theorem modUnrid_freeCtr (s : State) (g : Unrid → Unrid) : (modUnrid s g).freeCtr = s.freeCtr := rfl

@[simp] theorem setPort_cores (s : State) (p : HostPort) (x : Port) : (setPort s p x).cores = s.cores := by cases p <;> rfl
@[simp] theorem setPort_routers (s : State) (p : HostPort) (x : Port) : (setPort s p x).routers = s.routers := by cases p <;> rfl
@[simp] theorem setPort_larders (s : State) (p : HostPort) (x : Port) : (setPort s p x).larders = s.larders := by cases p <;> rfl
@[simp] theorem setPort_links (s : State) (p : HostPort) (x : Port) : (setPort s p x).links = s.links := by cases p <;> rfl
@[simp] theorem setPort_attic (s : State) (p : HostPort) (x : Port) : (setPort s p x).attic = s.attic := by cases p <;> rfl
@[simp] theorem setPort_expanders (s : State) (p : HostPort) (x : Port) : (setPort s p x).expanders = s.expanders := by cases p <;> rfl
@[simp] theorem setPort_dev (s : State) (p : HostPort) (x : Port) : (setPort s p x).dev = s.dev := by cases p <;> rfl
@[simp] theorem setPort_unrid (s : State) (p : HostPort) (x : Port) : (setPort s p x).unrid = s.unrid := by cases p <;> rfl
@[simp] theorem setPort_cycle (s : State) (p : HostPort) (x : Port) : (setPort s p x).cycle = s.cycle := by cases p <;> rfl
@[simp] theorem setPort_live (s : State) (p : HostPort) (x : Port) : (setPort s p x).live = s.live := by cases p <;> rfl
@[simp] theorem setPort_focus (s : State) (p : HostPort) (x : Port) : (setPort s p x).focus = s.focus := by cases p <;> rfl
@[simp] theorem setPort_ctx (s : State) (p : HostPort) (x : Port) : (setPort s p x).ctx = s.ctx := by cases p <;> rfl
@[simp] theorem setPort_agenda (s : State) (p : HostPort) (x : Port) : (setPort s p x).agenda = s.agenda := by cases p <;> rfl
@[simp] theorem setPort_freeCtr (s : State) (p : HostPort) (x : Port) : (setPort s p x).freeCtr = s.freeCtr := by cases p <;> rfl

@[simp] theorem modDev_dev (s : State) (g : Device → Device) : (modDev s g).dev = g s.dev := rfl
@[simp] theorem modUnrid_unrid (s : State) (g : Unrid → Unrid) : (modUnrid s g).unrid = g s.unrid := rfl
@[simp] theorem portAt_setPort_self (s : State) (p : HostPort) (x : Port) : portAt (setPort s p x) p = x := by cases p <;> rfl
theorem portAt_setPort_ne (s : State) {p q : HostPort} (x : Port) (h : q ≠ p) : portAt (setPort s p x) q = portAt s q := by
  cases p <;> cases q <;> first | rfl | exact absurd rfl h

@[simp] theorem coreAt_setCore_self (s : State) (k : Nat) (c : Core) : coreAt (setCore s k c) k = c := fget_fset_self _ _ _ _
theorem coreAt_setCore_ne (s : State) {k j : Nat} (c : Core) (h : j ≠ k) : coreAt (setCore s k c) j = coreAt s j := fget_fset_ne _ _ _ h
@[simp] theorem routerAt_setRouter_self (s : State) (k : Nat) (r : Router) : routerAt (setRouter s k r) k = r := fget_fset_self _ _ _ _
theorem routerAt_setRouter_ne (s : State) {k j : Nat} (r : Router) (h : j ≠ k) : routerAt (setRouter s k r) j = routerAt s j := fget_fset_ne _ _ _ h
@[simp] theorem larderAt_setLarder_self (s : State) (n : Nat) (l : Larder) : larderAt (setLarder s n l) n = l := fget_fset_self _ _ _ _
theorem larderAt_setLarder_ne (s : State) {n j : Nat} (l : Larder) (h : j ≠ n) : larderAt (setLarder s n l) j = larderAt s j := fget_fset_ne _ _ _ h
@[simp] theorem linkAt_setLink_self (s : State) (n : Nat) (l : Link) : linkAt (setLink s n l) n = l := fget_fset_self _ _ _ _
theorem linkAt_setLink_ne (s : State) {n j : Nat} (l : Link) (h : j ≠ n) : linkAt (setLink s n l) j = linkAt s j := fget_fset_ne _ _ _ h
@[simp] theorem routerAt_setCore (s : State) (k : Nat) (c : Core) (j : Nat) : routerAt (setCore s k c) j = routerAt s j := rfl
@[simp] theorem larderAt_setCore (s : State) (k : Nat) (c : Core) (j : Nat) : larderAt (setCore s k c) j = larderAt s j := rfl
@[simp] theorem linkAt_setCore (s : State) (k : Nat) (c : Core) (j : Nat) : linkAt (setCore s k c) j = linkAt s j := rfl
@[simp] theorem coreAt_setRouter (s : State) (k : Nat) (r : Router) (j : Nat) : coreAt (setRouter s k r) j = coreAt s j := rfl
@[simp] theorem larderAt_setRouter (s : State) (k : Nat) (r : Router) (j : Nat) : larderAt (setRouter s k r) j = larderAt s j := rfl
@[simp] theorem linkAt_setRouter (s : State) (k : Nat) (r : Router) (j : Nat) : linkAt (setRouter s k r) j = linkAt s j := rfl
@[simp] theorem coreAt_setLarder (s : State) (n : Nat) (l : Larder) (j : Nat) : coreAt (setLarder s n l) j = coreAt s j := rfl
@[simp] theorem routerAt_setLarder (s : State) (n : Nat) (l : Larder) (j : Nat) : routerAt (setLarder s n l) j = routerAt s j := rfl
@[simp] theorem linkAt_setLarder (s : State) (n : Nat) (l : Larder) (j : Nat) : linkAt (setLarder s n l) j = linkAt s j := rfl
@[simp] theorem coreAt_setLink (s : State) (n : Nat) (l : Link) (j : Nat) : coreAt (setLink s n l) j = coreAt s j := rfl
@[simp] theorem routerAt_setLink (s : State) (n : Nat) (l : Link) (j : Nat) : routerAt (setLink s n l) j = routerAt s j := rfl
@[simp] theorem larderAt_setLink (s : State) (n : Nat) (l : Link) (j : Nat) : larderAt (setLink s n l) j = larderAt s j := rfl
@[simp] theorem coreAt_modDev (s : State) (g : Device → Device) (j : Nat) : coreAt (modDev s g) j = coreAt s j := rfl
@[simp] theorem routerAt_modDev (s : State) (g : Device → Device) (j : Nat) : routerAt (modDev s g) j = routerAt s j := rfl
@[simp] theorem larderAt_modDev (s : State) (g : Device → Device) (j : Nat) : larderAt (modDev s g) j = larderAt s j := rfl
@[simp] theorem linkAt_modDev (s : State) (g : Device → Device) (j : Nat) : linkAt (modDev s g) j = linkAt s j := rfl
@[simp] theorem coreAt_modUnrid (s : State) (g : Unrid → Unrid) (j : Nat) : coreAt (modUnrid s g) j = coreAt s j := rfl
@[simp] theorem routerAt_modUnrid (s : State) (g : Unrid → Unrid) (j : Nat) : routerAt (modUnrid s g) j = routerAt s j := rfl
@[simp] theorem larderAt_modUnrid (s : State) (g : Unrid → Unrid) (j : Nat) : larderAt (modUnrid s g) j = larderAt s j := rfl
@[simp] theorem linkAt_modUnrid (s : State) (g : Unrid → Unrid) (j : Nat) : linkAt (modUnrid s g) j = linkAt s j := rfl

@[simp] theorem focused_withFocus (s : State) (c : Core) : focused (withFocus s c) = c := coreAt_setCore_self _ _ _

/-! ## Updates of a core -/

@[simp] theorem setHandler_regs (c : Core) (k : Nat) (h : Handler) : (setHandler c k h).regs = c.regs := rfl
@[simp] theorem setHandler_sys (c : Core) (k : Nat) (h : Handler) : (setHandler c k h).sys = c.sys := rfl
@[simp] theorem setHandler_pc (c : Core) (k : Nat) (h : Handler) : (setHandler c k h).pc = c.pc := rfl
@[simp] theorem setHandler_running (c : Core) (k : Nat) (h : Handler) : (setHandler c k h).running = c.running := rfl
@[simp] theorem setHandler_wait (c : Core) (k : Nat) (h : Handler) : (setHandler c k h).wait = c.wait := rfl
@[simp] theorem setHandler_halted (c : Core) (k : Nat) (h : Handler) : (setHandler c k h).halted = c.halted := rfl
@[simp] theorem setHandler_gang (c : Core) (k : Nat) (h : Handler) : (setHandler c k h).gang = c.gang := rfl
@[simp] theorem setHandler_tasks (c : Core) (k : Nat) (h : Handler) : (setHandler c k h).tasks = c.tasks := rfl
@[simp] theorem setHandler_stamp (c : Core) (k : Nat) (h : Handler) : (setHandler c k h).stamp = c.stamp := rfl
@[simp] theorem setHandler_landed (c : Core) (k : Nat) (h : Handler) : (setHandler c k h).landed = c.landed := rfl
@[simp] theorem setHandler_bursts (c : Core) (k : Nat) (h : Handler) : (setHandler c k h).bursts = c.bursts := rfl
@[simp] theorem setHandler_lastIssue (c : Core) (k : Nat) (h : Handler) : (setHandler c k h).lastIssue = c.lastIssue := rfl
@[simp] theorem setHandler_pending (c : Core) (k : Nat) (h : Handler) : (setHandler c k h).pending = c.pending := rfl
@[simp] theorem setHandler_held (c : Core) (k : Nat) (h : Handler) : (setHandler c k h).held = c.held := rfl
@[simp] theorem setHandler_watch (c : Core) (k : Nat) (h : Handler) : (setHandler c k h).watch = c.watch := rfl
@[simp] theorem setHandler_sram (c : Core) (k : Nat) (h : Handler) : (setHandler c k h).sram = c.sram := rfl
@[simp] theorem setHandler_istore (c : Core) (k : Nat) (h : Handler) : (setHandler c k h).istore = c.istore := rfl
@[simp] theorem setHandler_runsCode (c : Core) (k : Nat) (h : Handler) : (setHandler c k h).runsCode = c.runsCode := rfl
@[simp] theorem setHandler_resident (c : Core) (k : Nat) (h : Handler) : (setHandler c k h).resident = c.resident := rfl
@[simp] theorem setHandler_queues (c : Core) (k : Nat) (h : Handler) : (setHandler c k h).queues = c.queues := rfl
@[simp] theorem setHandler_cellar (c : Core) (k : Nat) (h : Handler) : (setHandler c k h).cellar = c.cellar := rfl
@[simp] theorem setHandler_pantries (c : Core) (k : Nat) (h : Handler) : (setHandler c k h).pantries = c.pantries := rfl
@[simp] theorem setHandler_own (c : Core) (k : Nat) (h : Handler) : (setHandler c k h).own = c.own := rfl
@[simp] theorem setHandler_opens (c : Core) (k : Nat) (h : Handler) : (setHandler c k h).opens = c.opens := rfl
@[simp] theorem setHandler_caps (c : Core) (k : Nat) (h : Handler) : (setHandler c k h).caps = c.caps := rfl
@[simp] theorem setHandler_routes (c : Core) (k : Nat) (h : Handler) : (setHandler c k h).routes = c.routes := rfl
@[simp] theorem setHandler_nodeFloor (c : Core) (k : Nat) (h : Handler) : (setHandler c k h).nodeFloor = c.nodeFloor := rfl
@[simp] theorem setHandler_sendFloor (c : Core) (k : Nat) (h : Handler) : (setHandler c k h).sendFloor = c.sendFloor := rfl
@[simp] theorem setHandler_depth (c : Core) (k : Nat) (h : Handler) : (setHandler c k h).depth = c.depth := rfl
@[simp] theorem setHandler_merged (c : Core) (k : Nat) (h : Handler) : (setHandler c k h).merged = c.merged := rfl
@[simp] theorem setHandler_chunk (c : Core) (k : Nat) (h : Handler) : (setHandler c k h).chunk = c.chunk := rfl
@[simp] theorem setHandler_egress (c : Core) (k : Nat) (h : Handler) : (setHandler c k h).egress = c.egress := rfl
@[simp] theorem setHandler_behind (c : Core) (k : Nat) (h : Handler) : (setHandler c k h).behind = c.behind := rfl
@[simp] theorem setHandler_rx (c : Core) (k : Nat) (h : Handler) : (setHandler c k h).rx = c.rx := rfl
@[simp] theorem setHandler_verdicts (c : Core) (k : Nat) (h : Handler) : (setHandler c k h).verdicts = c.verdicts := rfl
@[simp] theorem setHandler_resetting (c : Core) (k : Nat) (h : Handler) : (setHandler c k h).resetting = c.resetting := rfl
@[simp] theorem setHandler_accepted (c : Core) (k : Nat) (h : Handler) : (setHandler c k h).accepted = c.accepted := rfl
@[simp] theorem setHandler_pushed (c : Core) (k : Nat) (h : Handler) : (setHandler c k h).pushed = c.pushed := rfl
@[simp] theorem setHandler_nextTag (c : Core) (k : Nat) (h : Handler) : (setHandler c k h).nextTag = c.nextTag := rfl
@[simp] theorem setHandler_ops (c : Core) (k : Nat) (h : Handler) : (setHandler c k h).ops = c.ops := rfl
@[simp] theorem setHandler_breads (c : Core) (k : Nat) (h : Handler) : (setHandler c k h).breads = c.breads := rfl
@[simp] theorem setHandler_sources (c : Core) (k : Nat) (h : Handler) : (setHandler c k h).sources = c.sources := rfl
@[simp] theorem setHandler_batches (c : Core) (k : Nat) (h : Handler) : (setHandler c k h).batches = c.batches := rfl
@[simp] theorem setHandler_arrivals (c : Core) (k : Nat) (h : Handler) : (setHandler c k h).arrivals = c.arrivals := rfl
@[simp] theorem setHandler_fencing (c : Core) (k : Nat) (h : Handler) : (setHandler c k h).fencing = c.fencing := rfl
@[simp] theorem setHandler_sleep (c : Core) (k : Nat) (h : Handler) : (setHandler c k h).sleep = c.sleep := rfl
@[simp] theorem setHandler_frozen (c : Core) (k : Nat) (h : Handler) : (setHandler c k h).frozen = c.frozen := rfl
@[simp] theorem setHandler_draining (c : Core) (k : Nat) (h : Handler) : (setHandler c k h).draining = c.draining := rfl
@[simp] theorem setHandler_markers (c : Core) (k : Nat) (h : Handler) : (setHandler c k h).markers = c.markers := rfl
@[simp] theorem setHandler_injected (c : Core) (k : Nat) (h : Handler) : (setHandler c k h).injected = c.injected := rfl
@[simp] theorem setHandler_delivered (c : Core) (k : Nat) (h : Handler) : (setHandler c k h).delivered = c.delivered := rfl
@[simp] theorem setHandler_eccLast (c : Core) (k : Nat) (h : Handler) : (setHandler c k h).eccLast = c.eccLast := rfl

@[simp] theorem writeX_sys (c : Core) (x : Ctx) (n : Nat) (v : Word) : (writeX c x n v).sys = c.sys := by
  unfold writeX; split
  · split <;> rfl
  · rfl
@[simp] theorem writeX_pc (c : Core) (x : Ctx) (n : Nat) (v : Word) : (writeX c x n v).pc = c.pc := by
  unfold writeX; split
  · split <;> rfl
  · rfl
@[simp] theorem writeX_running (c : Core) (x : Ctx) (n : Nat) (v : Word) : (writeX c x n v).running = c.running := by
  unfold writeX; split
  · split <;> rfl
  · rfl
@[simp] theorem writeX_wait (c : Core) (x : Ctx) (n : Nat) (v : Word) : (writeX c x n v).wait = c.wait := by
  unfold writeX; split
  · split <;> rfl
  · rfl
@[simp] theorem writeX_halted (c : Core) (x : Ctx) (n : Nat) (v : Word) : (writeX c x n v).halted = c.halted := by
  unfold writeX; split
  · split <;> rfl
  · rfl
@[simp] theorem writeX_gang (c : Core) (x : Ctx) (n : Nat) (v : Word) : (writeX c x n v).gang = c.gang := by
  unfold writeX; split
  · split <;> rfl
  · rfl
@[simp] theorem writeX_tasks (c : Core) (x : Ctx) (n : Nat) (v : Word) : (writeX c x n v).tasks = c.tasks := by
  unfold writeX; split
  · split <;> rfl
  · rfl
@[simp] theorem writeX_stamp (c : Core) (x : Ctx) (n : Nat) (v : Word) : (writeX c x n v).stamp = c.stamp := by
  unfold writeX; split
  · split <;> rfl
  · rfl
@[simp] theorem writeX_landed (c : Core) (x : Ctx) (n : Nat) (v : Word) : (writeX c x n v).landed = c.landed := by
  unfold writeX; split
  · split <;> rfl
  · rfl
@[simp] theorem writeX_bursts (c : Core) (x : Ctx) (n : Nat) (v : Word) : (writeX c x n v).bursts = c.bursts := by
  unfold writeX; split
  · split <;> rfl
  · rfl
@[simp] theorem writeX_lastIssue (c : Core) (x : Ctx) (n : Nat) (v : Word) : (writeX c x n v).lastIssue = c.lastIssue := by
  unfold writeX; split
  · split <;> rfl
  · rfl
@[simp] theorem writeX_pending (c : Core) (x : Ctx) (n : Nat) (v : Word) : (writeX c x n v).pending = c.pending := by
  unfold writeX; split
  · split <;> rfl
  · rfl
@[simp] theorem writeX_held (c : Core) (x : Ctx) (n : Nat) (v : Word) : (writeX c x n v).held = c.held := by
  unfold writeX; split
  · split <;> rfl
  · rfl
@[simp] theorem writeX_watch (c : Core) (x : Ctx) (n : Nat) (v : Word) : (writeX c x n v).watch = c.watch := by
  unfold writeX; split
  · split <;> rfl
  · rfl
@[simp] theorem writeX_sram (c : Core) (x : Ctx) (n : Nat) (v : Word) : (writeX c x n v).sram = c.sram := by
  unfold writeX; split
  · split <;> rfl
  · rfl
@[simp] theorem writeX_istore (c : Core) (x : Ctx) (n : Nat) (v : Word) : (writeX c x n v).istore = c.istore := by
  unfold writeX; split
  · split <;> rfl
  · rfl
@[simp] theorem writeX_runsCode (c : Core) (x : Ctx) (n : Nat) (v : Word) : (writeX c x n v).runsCode = c.runsCode := by
  unfold writeX; split
  · split <;> rfl
  · rfl
@[simp] theorem writeX_resident (c : Core) (x : Ctx) (n : Nat) (v : Word) : (writeX c x n v).resident = c.resident := by
  unfold writeX; split
  · split <;> rfl
  · rfl
@[simp] theorem writeX_queues (c : Core) (x : Ctx) (n : Nat) (v : Word) : (writeX c x n v).queues = c.queues := by
  unfold writeX; split
  · split <;> rfl
  · rfl
@[simp] theorem writeX_cellar (c : Core) (x : Ctx) (n : Nat) (v : Word) : (writeX c x n v).cellar = c.cellar := by
  unfold writeX; split
  · split <;> rfl
  · rfl
@[simp] theorem writeX_pantries (c : Core) (x : Ctx) (n : Nat) (v : Word) : (writeX c x n v).pantries = c.pantries := by
  unfold writeX; split
  · split <;> rfl
  · rfl
@[simp] theorem writeX_own (c : Core) (x : Ctx) (n : Nat) (v : Word) : (writeX c x n v).own = c.own := by
  unfold writeX; split
  · split <;> rfl
  · rfl
@[simp] theorem writeX_opens (c : Core) (x : Ctx) (n : Nat) (v : Word) : (writeX c x n v).opens = c.opens := by
  unfold writeX; split
  · split <;> rfl
  · rfl
@[simp] theorem writeX_caps (c : Core) (x : Ctx) (n : Nat) (v : Word) : (writeX c x n v).caps = c.caps := by
  unfold writeX; split
  · split <;> rfl
  · rfl
@[simp] theorem writeX_routes (c : Core) (x : Ctx) (n : Nat) (v : Word) : (writeX c x n v).routes = c.routes := by
  unfold writeX; split
  · split <;> rfl
  · rfl
@[simp] theorem writeX_nodeFloor (c : Core) (x : Ctx) (n : Nat) (v : Word) : (writeX c x n v).nodeFloor = c.nodeFloor := by
  unfold writeX; split
  · split <;> rfl
  · rfl
@[simp] theorem writeX_sendFloor (c : Core) (x : Ctx) (n : Nat) (v : Word) : (writeX c x n v).sendFloor = c.sendFloor := by
  unfold writeX; split
  · split <;> rfl
  · rfl
@[simp] theorem writeX_depth (c : Core) (x : Ctx) (n : Nat) (v : Word) : (writeX c x n v).depth = c.depth := by
  unfold writeX; split
  · split <;> rfl
  · rfl
@[simp] theorem writeX_merged (c : Core) (x : Ctx) (n : Nat) (v : Word) : (writeX c x n v).merged = c.merged := by
  unfold writeX; split
  · split <;> rfl
  · rfl
@[simp] theorem writeX_chunk (c : Core) (x : Ctx) (n : Nat) (v : Word) : (writeX c x n v).chunk = c.chunk := by
  unfold writeX; split
  · split <;> rfl
  · rfl
@[simp] theorem writeX_egress (c : Core) (x : Ctx) (n : Nat) (v : Word) : (writeX c x n v).egress = c.egress := by
  unfold writeX; split
  · split <;> rfl
  · rfl
@[simp] theorem writeX_behind (c : Core) (x : Ctx) (n : Nat) (v : Word) : (writeX c x n v).behind = c.behind := by
  unfold writeX; split
  · split <;> rfl
  · rfl
@[simp] theorem writeX_rx (c : Core) (x : Ctx) (n : Nat) (v : Word) : (writeX c x n v).rx = c.rx := by
  unfold writeX; split
  · split <;> rfl
  · rfl
@[simp] theorem writeX_verdicts (c : Core) (x : Ctx) (n : Nat) (v : Word) : (writeX c x n v).verdicts = c.verdicts := by
  unfold writeX; split
  · split <;> rfl
  · rfl
@[simp] theorem writeX_resetting (c : Core) (x : Ctx) (n : Nat) (v : Word) : (writeX c x n v).resetting = c.resetting := by
  unfold writeX; split
  · split <;> rfl
  · rfl
@[simp] theorem writeX_accepted (c : Core) (x : Ctx) (n : Nat) (v : Word) : (writeX c x n v).accepted = c.accepted := by
  unfold writeX; split
  · split <;> rfl
  · rfl
@[simp] theorem writeX_pushed (c : Core) (x : Ctx) (n : Nat) (v : Word) : (writeX c x n v).pushed = c.pushed := by
  unfold writeX; split
  · split <;> rfl
  · rfl
@[simp] theorem writeX_nextTag (c : Core) (x : Ctx) (n : Nat) (v : Word) : (writeX c x n v).nextTag = c.nextTag := by
  unfold writeX; split
  · split <;> rfl
  · rfl
@[simp] theorem writeX_ops (c : Core) (x : Ctx) (n : Nat) (v : Word) : (writeX c x n v).ops = c.ops := by
  unfold writeX; split
  · split <;> rfl
  · rfl
@[simp] theorem writeX_breads (c : Core) (x : Ctx) (n : Nat) (v : Word) : (writeX c x n v).breads = c.breads := by
  unfold writeX; split
  · split <;> rfl
  · rfl
@[simp] theorem writeX_sources (c : Core) (x : Ctx) (n : Nat) (v : Word) : (writeX c x n v).sources = c.sources := by
  unfold writeX; split
  · split <;> rfl
  · rfl
@[simp] theorem writeX_batches (c : Core) (x : Ctx) (n : Nat) (v : Word) : (writeX c x n v).batches = c.batches := by
  unfold writeX; split
  · split <;> rfl
  · rfl
@[simp] theorem writeX_arrivals (c : Core) (x : Ctx) (n : Nat) (v : Word) : (writeX c x n v).arrivals = c.arrivals := by
  unfold writeX; split
  · split <;> rfl
  · rfl
@[simp] theorem writeX_fencing (c : Core) (x : Ctx) (n : Nat) (v : Word) : (writeX c x n v).fencing = c.fencing := by
  unfold writeX; split
  · split <;> rfl
  · rfl
@[simp] theorem writeX_sleep (c : Core) (x : Ctx) (n : Nat) (v : Word) : (writeX c x n v).sleep = c.sleep := by
  unfold writeX; split
  · split <;> rfl
  · rfl
@[simp] theorem writeX_frozen (c : Core) (x : Ctx) (n : Nat) (v : Word) : (writeX c x n v).frozen = c.frozen := by
  unfold writeX; split
  · split <;> rfl
  · rfl
@[simp] theorem writeX_draining (c : Core) (x : Ctx) (n : Nat) (v : Word) : (writeX c x n v).draining = c.draining := by
  unfold writeX; split
  · split <;> rfl
  · rfl
@[simp] theorem writeX_markers (c : Core) (x : Ctx) (n : Nat) (v : Word) : (writeX c x n v).markers = c.markers := by
  unfold writeX; split
  · split <;> rfl
  · rfl
@[simp] theorem writeX_injected (c : Core) (x : Ctx) (n : Nat) (v : Word) : (writeX c x n v).injected = c.injected := by
  unfold writeX; split
  · split <;> rfl
  · rfl
@[simp] theorem writeX_delivered (c : Core) (x : Ctx) (n : Nat) (v : Word) : (writeX c x n v).delivered = c.delivered := by
  unfold writeX; split
  · split <;> rfl
  · rfl
@[simp] theorem writeX_eccLast (c : Core) (x : Ctx) (n : Nat) (v : Word) : (writeX c x n v).eccLast = c.eccLast := by
  unfold writeX; split
  · split <;> rfl
  · rfl

@[simp] theorem writeV_sys (c : Core) (x : Ctx) (n : Nat) (v : BitVec 512) : (writeV c x n v).sys = c.sys := by cases x <;> rfl
@[simp] theorem writeV_pc (c : Core) (x : Ctx) (n : Nat) (v : BitVec 512) : (writeV c x n v).pc = c.pc := by cases x <;> rfl
@[simp] theorem writeV_running (c : Core) (x : Ctx) (n : Nat) (v : BitVec 512) : (writeV c x n v).running = c.running := by cases x <;> rfl
@[simp] theorem writeV_wait (c : Core) (x : Ctx) (n : Nat) (v : BitVec 512) : (writeV c x n v).wait = c.wait := by cases x <;> rfl
@[simp] theorem writeV_halted (c : Core) (x : Ctx) (n : Nat) (v : BitVec 512) : (writeV c x n v).halted = c.halted := by cases x <;> rfl
@[simp] theorem writeV_gang (c : Core) (x : Ctx) (n : Nat) (v : BitVec 512) : (writeV c x n v).gang = c.gang := by cases x <;> rfl
@[simp] theorem writeV_tasks (c : Core) (x : Ctx) (n : Nat) (v : BitVec 512) : (writeV c x n v).tasks = c.tasks := by cases x <;> rfl
@[simp] theorem writeV_stamp (c : Core) (x : Ctx) (n : Nat) (v : BitVec 512) : (writeV c x n v).stamp = c.stamp := by cases x <;> rfl
@[simp] theorem writeV_landed (c : Core) (x : Ctx) (n : Nat) (v : BitVec 512) : (writeV c x n v).landed = c.landed := by cases x <;> rfl
@[simp] theorem writeV_bursts (c : Core) (x : Ctx) (n : Nat) (v : BitVec 512) : (writeV c x n v).bursts = c.bursts := by cases x <;> rfl
@[simp] theorem writeV_lastIssue (c : Core) (x : Ctx) (n : Nat) (v : BitVec 512) : (writeV c x n v).lastIssue = c.lastIssue := by cases x <;> rfl
@[simp] theorem writeV_pending (c : Core) (x : Ctx) (n : Nat) (v : BitVec 512) : (writeV c x n v).pending = c.pending := by cases x <;> rfl
@[simp] theorem writeV_held (c : Core) (x : Ctx) (n : Nat) (v : BitVec 512) : (writeV c x n v).held = c.held := by cases x <;> rfl
@[simp] theorem writeV_watch (c : Core) (x : Ctx) (n : Nat) (v : BitVec 512) : (writeV c x n v).watch = c.watch := by cases x <;> rfl
@[simp] theorem writeV_sram (c : Core) (x : Ctx) (n : Nat) (v : BitVec 512) : (writeV c x n v).sram = c.sram := by cases x <;> rfl
@[simp] theorem writeV_istore (c : Core) (x : Ctx) (n : Nat) (v : BitVec 512) : (writeV c x n v).istore = c.istore := by cases x <;> rfl
@[simp] theorem writeV_runsCode (c : Core) (x : Ctx) (n : Nat) (v : BitVec 512) : (writeV c x n v).runsCode = c.runsCode := by cases x <;> rfl
@[simp] theorem writeV_resident (c : Core) (x : Ctx) (n : Nat) (v : BitVec 512) : (writeV c x n v).resident = c.resident := by cases x <;> rfl
@[simp] theorem writeV_queues (c : Core) (x : Ctx) (n : Nat) (v : BitVec 512) : (writeV c x n v).queues = c.queues := by cases x <;> rfl
@[simp] theorem writeV_cellar (c : Core) (x : Ctx) (n : Nat) (v : BitVec 512) : (writeV c x n v).cellar = c.cellar := by cases x <;> rfl
@[simp] theorem writeV_pantries (c : Core) (x : Ctx) (n : Nat) (v : BitVec 512) : (writeV c x n v).pantries = c.pantries := by cases x <;> rfl
@[simp] theorem writeV_own (c : Core) (x : Ctx) (n : Nat) (v : BitVec 512) : (writeV c x n v).own = c.own := by cases x <;> rfl
@[simp] theorem writeV_opens (c : Core) (x : Ctx) (n : Nat) (v : BitVec 512) : (writeV c x n v).opens = c.opens := by cases x <;> rfl
@[simp] theorem writeV_caps (c : Core) (x : Ctx) (n : Nat) (v : BitVec 512) : (writeV c x n v).caps = c.caps := by cases x <;> rfl
@[simp] theorem writeV_routes (c : Core) (x : Ctx) (n : Nat) (v : BitVec 512) : (writeV c x n v).routes = c.routes := by cases x <;> rfl
@[simp] theorem writeV_nodeFloor (c : Core) (x : Ctx) (n : Nat) (v : BitVec 512) : (writeV c x n v).nodeFloor = c.nodeFloor := by cases x <;> rfl
@[simp] theorem writeV_sendFloor (c : Core) (x : Ctx) (n : Nat) (v : BitVec 512) : (writeV c x n v).sendFloor = c.sendFloor := by cases x <;> rfl
@[simp] theorem writeV_depth (c : Core) (x : Ctx) (n : Nat) (v : BitVec 512) : (writeV c x n v).depth = c.depth := by cases x <;> rfl
@[simp] theorem writeV_merged (c : Core) (x : Ctx) (n : Nat) (v : BitVec 512) : (writeV c x n v).merged = c.merged := by cases x <;> rfl
@[simp] theorem writeV_chunk (c : Core) (x : Ctx) (n : Nat) (v : BitVec 512) : (writeV c x n v).chunk = c.chunk := by cases x <;> rfl
@[simp] theorem writeV_egress (c : Core) (x : Ctx) (n : Nat) (v : BitVec 512) : (writeV c x n v).egress = c.egress := by cases x <;> rfl
@[simp] theorem writeV_behind (c : Core) (x : Ctx) (n : Nat) (v : BitVec 512) : (writeV c x n v).behind = c.behind := by cases x <;> rfl
@[simp] theorem writeV_rx (c : Core) (x : Ctx) (n : Nat) (v : BitVec 512) : (writeV c x n v).rx = c.rx := by cases x <;> rfl
@[simp] theorem writeV_verdicts (c : Core) (x : Ctx) (n : Nat) (v : BitVec 512) : (writeV c x n v).verdicts = c.verdicts := by cases x <;> rfl
@[simp] theorem writeV_resetting (c : Core) (x : Ctx) (n : Nat) (v : BitVec 512) : (writeV c x n v).resetting = c.resetting := by cases x <;> rfl
@[simp] theorem writeV_accepted (c : Core) (x : Ctx) (n : Nat) (v : BitVec 512) : (writeV c x n v).accepted = c.accepted := by cases x <;> rfl
@[simp] theorem writeV_pushed (c : Core) (x : Ctx) (n : Nat) (v : BitVec 512) : (writeV c x n v).pushed = c.pushed := by cases x <;> rfl
@[simp] theorem writeV_nextTag (c : Core) (x : Ctx) (n : Nat) (v : BitVec 512) : (writeV c x n v).nextTag = c.nextTag := by cases x <;> rfl
@[simp] theorem writeV_ops (c : Core) (x : Ctx) (n : Nat) (v : BitVec 512) : (writeV c x n v).ops = c.ops := by cases x <;> rfl
@[simp] theorem writeV_breads (c : Core) (x : Ctx) (n : Nat) (v : BitVec 512) : (writeV c x n v).breads = c.breads := by cases x <;> rfl
@[simp] theorem writeV_sources (c : Core) (x : Ctx) (n : Nat) (v : BitVec 512) : (writeV c x n v).sources = c.sources := by cases x <;> rfl
@[simp] theorem writeV_batches (c : Core) (x : Ctx) (n : Nat) (v : BitVec 512) : (writeV c x n v).batches = c.batches := by cases x <;> rfl
@[simp] theorem writeV_arrivals (c : Core) (x : Ctx) (n : Nat) (v : BitVec 512) : (writeV c x n v).arrivals = c.arrivals := by cases x <;> rfl
@[simp] theorem writeV_fencing (c : Core) (x : Ctx) (n : Nat) (v : BitVec 512) : (writeV c x n v).fencing = c.fencing := by cases x <;> rfl
@[simp] theorem writeV_sleep (c : Core) (x : Ctx) (n : Nat) (v : BitVec 512) : (writeV c x n v).sleep = c.sleep := by cases x <;> rfl
@[simp] theorem writeV_frozen (c : Core) (x : Ctx) (n : Nat) (v : BitVec 512) : (writeV c x n v).frozen = c.frozen := by cases x <;> rfl
@[simp] theorem writeV_draining (c : Core) (x : Ctx) (n : Nat) (v : BitVec 512) : (writeV c x n v).draining = c.draining := by cases x <;> rfl
@[simp] theorem writeV_markers (c : Core) (x : Ctx) (n : Nat) (v : BitVec 512) : (writeV c x n v).markers = c.markers := by cases x <;> rfl
@[simp] theorem writeV_injected (c : Core) (x : Ctx) (n : Nat) (v : BitVec 512) : (writeV c x n v).injected = c.injected := by cases x <;> rfl
@[simp] theorem writeV_delivered (c : Core) (x : Ctx) (n : Nat) (v : BitVec 512) : (writeV c x n v).delivered = c.delivered := by cases x <;> rfl
@[simp] theorem writeV_eccLast (c : Core) (x : Ctx) (n : Nat) (v : BitVec 512) : (writeV c x n v).eccLast = c.eccLast := by cases x <;> rfl

@[simp] theorem writeFm_sys (c : Core) (n : Nat) (v : BitVec 16) : (writeFm c n v).sys = c.sys := by
  unfold writeFm; split <;> rfl
@[simp] theorem writeFm_pc (c : Core) (n : Nat) (v : BitVec 16) : (writeFm c n v).pc = c.pc := by
  unfold writeFm; split <;> rfl
@[simp] theorem writeFm_running (c : Core) (n : Nat) (v : BitVec 16) : (writeFm c n v).running = c.running := by
  unfold writeFm; split <;> rfl
@[simp] theorem writeFm_wait (c : Core) (n : Nat) (v : BitVec 16) : (writeFm c n v).wait = c.wait := by
  unfold writeFm; split <;> rfl
@[simp] theorem writeFm_halted (c : Core) (n : Nat) (v : BitVec 16) : (writeFm c n v).halted = c.halted := by
  unfold writeFm; split <;> rfl
@[simp] theorem writeFm_gang (c : Core) (n : Nat) (v : BitVec 16) : (writeFm c n v).gang = c.gang := by
  unfold writeFm; split <;> rfl
@[simp] theorem writeFm_tasks (c : Core) (n : Nat) (v : BitVec 16) : (writeFm c n v).tasks = c.tasks := by
  unfold writeFm; split <;> rfl
@[simp] theorem writeFm_stamp (c : Core) (n : Nat) (v : BitVec 16) : (writeFm c n v).stamp = c.stamp := by
  unfold writeFm; split <;> rfl
@[simp] theorem writeFm_landed (c : Core) (n : Nat) (v : BitVec 16) : (writeFm c n v).landed = c.landed := by
  unfold writeFm; split <;> rfl
@[simp] theorem writeFm_handlers (c : Core) (n : Nat) (v : BitVec 16) : (writeFm c n v).handlers = c.handlers := by
  unfold writeFm; split <;> rfl
@[simp] theorem writeFm_bursts (c : Core) (n : Nat) (v : BitVec 16) : (writeFm c n v).bursts = c.bursts := by
  unfold writeFm; split <;> rfl
@[simp] theorem writeFm_lastIssue (c : Core) (n : Nat) (v : BitVec 16) : (writeFm c n v).lastIssue = c.lastIssue := by
  unfold writeFm; split <;> rfl
@[simp] theorem writeFm_pending (c : Core) (n : Nat) (v : BitVec 16) : (writeFm c n v).pending = c.pending := by
  unfold writeFm; split <;> rfl
@[simp] theorem writeFm_held (c : Core) (n : Nat) (v : BitVec 16) : (writeFm c n v).held = c.held := by
  unfold writeFm; split <;> rfl
@[simp] theorem writeFm_watch (c : Core) (n : Nat) (v : BitVec 16) : (writeFm c n v).watch = c.watch := by
  unfold writeFm; split <;> rfl
@[simp] theorem writeFm_sram (c : Core) (n : Nat) (v : BitVec 16) : (writeFm c n v).sram = c.sram := by
  unfold writeFm; split <;> rfl
@[simp] theorem writeFm_istore (c : Core) (n : Nat) (v : BitVec 16) : (writeFm c n v).istore = c.istore := by
  unfold writeFm; split <;> rfl
@[simp] theorem writeFm_runsCode (c : Core) (n : Nat) (v : BitVec 16) : (writeFm c n v).runsCode = c.runsCode := by
  unfold writeFm; split <;> rfl
@[simp] theorem writeFm_resident (c : Core) (n : Nat) (v : BitVec 16) : (writeFm c n v).resident = c.resident := by
  unfold writeFm; split <;> rfl
@[simp] theorem writeFm_queues (c : Core) (n : Nat) (v : BitVec 16) : (writeFm c n v).queues = c.queues := by
  unfold writeFm; split <;> rfl
@[simp] theorem writeFm_cellar (c : Core) (n : Nat) (v : BitVec 16) : (writeFm c n v).cellar = c.cellar := by
  unfold writeFm; split <;> rfl
@[simp] theorem writeFm_pantries (c : Core) (n : Nat) (v : BitVec 16) : (writeFm c n v).pantries = c.pantries := by
  unfold writeFm; split <;> rfl
@[simp] theorem writeFm_own (c : Core) (n : Nat) (v : BitVec 16) : (writeFm c n v).own = c.own := by
  unfold writeFm; split <;> rfl
@[simp] theorem writeFm_opens (c : Core) (n : Nat) (v : BitVec 16) : (writeFm c n v).opens = c.opens := by
  unfold writeFm; split <;> rfl
@[simp] theorem writeFm_caps (c : Core) (n : Nat) (v : BitVec 16) : (writeFm c n v).caps = c.caps := by
  unfold writeFm; split <;> rfl
@[simp] theorem writeFm_routes (c : Core) (n : Nat) (v : BitVec 16) : (writeFm c n v).routes = c.routes := by
  unfold writeFm; split <;> rfl
@[simp] theorem writeFm_nodeFloor (c : Core) (n : Nat) (v : BitVec 16) : (writeFm c n v).nodeFloor = c.nodeFloor := by
  unfold writeFm; split <;> rfl
@[simp] theorem writeFm_sendFloor (c : Core) (n : Nat) (v : BitVec 16) : (writeFm c n v).sendFloor = c.sendFloor := by
  unfold writeFm; split <;> rfl
@[simp] theorem writeFm_depth (c : Core) (n : Nat) (v : BitVec 16) : (writeFm c n v).depth = c.depth := by
  unfold writeFm; split <;> rfl
@[simp] theorem writeFm_merged (c : Core) (n : Nat) (v : BitVec 16) : (writeFm c n v).merged = c.merged := by
  unfold writeFm; split <;> rfl
@[simp] theorem writeFm_chunk (c : Core) (n : Nat) (v : BitVec 16) : (writeFm c n v).chunk = c.chunk := by
  unfold writeFm; split <;> rfl
@[simp] theorem writeFm_egress (c : Core) (n : Nat) (v : BitVec 16) : (writeFm c n v).egress = c.egress := by
  unfold writeFm; split <;> rfl
@[simp] theorem writeFm_behind (c : Core) (n : Nat) (v : BitVec 16) : (writeFm c n v).behind = c.behind := by
  unfold writeFm; split <;> rfl
@[simp] theorem writeFm_rx (c : Core) (n : Nat) (v : BitVec 16) : (writeFm c n v).rx = c.rx := by
  unfold writeFm; split <;> rfl
@[simp] theorem writeFm_verdicts (c : Core) (n : Nat) (v : BitVec 16) : (writeFm c n v).verdicts = c.verdicts := by
  unfold writeFm; split <;> rfl
@[simp] theorem writeFm_resetting (c : Core) (n : Nat) (v : BitVec 16) : (writeFm c n v).resetting = c.resetting := by
  unfold writeFm; split <;> rfl
@[simp] theorem writeFm_accepted (c : Core) (n : Nat) (v : BitVec 16) : (writeFm c n v).accepted = c.accepted := by
  unfold writeFm; split <;> rfl
@[simp] theorem writeFm_pushed (c : Core) (n : Nat) (v : BitVec 16) : (writeFm c n v).pushed = c.pushed := by
  unfold writeFm; split <;> rfl
@[simp] theorem writeFm_nextTag (c : Core) (n : Nat) (v : BitVec 16) : (writeFm c n v).nextTag = c.nextTag := by
  unfold writeFm; split <;> rfl
@[simp] theorem writeFm_ops (c : Core) (n : Nat) (v : BitVec 16) : (writeFm c n v).ops = c.ops := by
  unfold writeFm; split <;> rfl
@[simp] theorem writeFm_breads (c : Core) (n : Nat) (v : BitVec 16) : (writeFm c n v).breads = c.breads := by
  unfold writeFm; split <;> rfl
@[simp] theorem writeFm_sources (c : Core) (n : Nat) (v : BitVec 16) : (writeFm c n v).sources = c.sources := by
  unfold writeFm; split <;> rfl
@[simp] theorem writeFm_batches (c : Core) (n : Nat) (v : BitVec 16) : (writeFm c n v).batches = c.batches := by
  unfold writeFm; split <;> rfl
@[simp] theorem writeFm_arrivals (c : Core) (n : Nat) (v : BitVec 16) : (writeFm c n v).arrivals = c.arrivals := by
  unfold writeFm; split <;> rfl
@[simp] theorem writeFm_fencing (c : Core) (n : Nat) (v : BitVec 16) : (writeFm c n v).fencing = c.fencing := by
  unfold writeFm; split <;> rfl
@[simp] theorem writeFm_sleep (c : Core) (n : Nat) (v : BitVec 16) : (writeFm c n v).sleep = c.sleep := by
  unfold writeFm; split <;> rfl
@[simp] theorem writeFm_frozen (c : Core) (n : Nat) (v : BitVec 16) : (writeFm c n v).frozen = c.frozen := by
  unfold writeFm; split <;> rfl
@[simp] theorem writeFm_draining (c : Core) (n : Nat) (v : BitVec 16) : (writeFm c n v).draining = c.draining := by
  unfold writeFm; split <;> rfl
@[simp] theorem writeFm_markers (c : Core) (n : Nat) (v : BitVec 16) : (writeFm c n v).markers = c.markers := by
  unfold writeFm; split <;> rfl
@[simp] theorem writeFm_injected (c : Core) (n : Nat) (v : BitVec 16) : (writeFm c n v).injected = c.injected := by
  unfold writeFm; split <;> rfl
@[simp] theorem writeFm_delivered (c : Core) (n : Nat) (v : BitVec 16) : (writeFm c n v).delivered = c.delivered := by
  unfold writeFm; split <;> rfl
@[simp] theorem writeFm_eccLast (c : Core) (n : Nat) (v : BitVec 16) : (writeFm c n v).eccLast = c.eccLast := by
  unfold writeFm; split <;> rfl

@[simp] theorem writeAcc_sys (c : Core) (n : Nat) (t : Tile) : (writeAcc c n t).sys = c.sys := rfl
@[simp] theorem writeAcc_pc (c : Core) (n : Nat) (t : Tile) : (writeAcc c n t).pc = c.pc := rfl
@[simp] theorem writeAcc_running (c : Core) (n : Nat) (t : Tile) : (writeAcc c n t).running = c.running := rfl
@[simp] theorem writeAcc_wait (c : Core) (n : Nat) (t : Tile) : (writeAcc c n t).wait = c.wait := rfl
@[simp] theorem writeAcc_halted (c : Core) (n : Nat) (t : Tile) : (writeAcc c n t).halted = c.halted := rfl
@[simp] theorem writeAcc_gang (c : Core) (n : Nat) (t : Tile) : (writeAcc c n t).gang = c.gang := rfl
@[simp] theorem writeAcc_tasks (c : Core) (n : Nat) (t : Tile) : (writeAcc c n t).tasks = c.tasks := rfl
@[simp] theorem writeAcc_stamp (c : Core) (n : Nat) (t : Tile) : (writeAcc c n t).stamp = c.stamp := rfl
@[simp] theorem writeAcc_landed (c : Core) (n : Nat) (t : Tile) : (writeAcc c n t).landed = c.landed := rfl
@[simp] theorem writeAcc_handlers (c : Core) (n : Nat) (t : Tile) : (writeAcc c n t).handlers = c.handlers := rfl
@[simp] theorem writeAcc_bursts (c : Core) (n : Nat) (t : Tile) : (writeAcc c n t).bursts = c.bursts := rfl
@[simp] theorem writeAcc_lastIssue (c : Core) (n : Nat) (t : Tile) : (writeAcc c n t).lastIssue = c.lastIssue := rfl
@[simp] theorem writeAcc_pending (c : Core) (n : Nat) (t : Tile) : (writeAcc c n t).pending = c.pending := rfl
@[simp] theorem writeAcc_held (c : Core) (n : Nat) (t : Tile) : (writeAcc c n t).held = c.held := rfl
@[simp] theorem writeAcc_watch (c : Core) (n : Nat) (t : Tile) : (writeAcc c n t).watch = c.watch := rfl
@[simp] theorem writeAcc_sram (c : Core) (n : Nat) (t : Tile) : (writeAcc c n t).sram = c.sram := rfl
@[simp] theorem writeAcc_istore (c : Core) (n : Nat) (t : Tile) : (writeAcc c n t).istore = c.istore := rfl
@[simp] theorem writeAcc_runsCode (c : Core) (n : Nat) (t : Tile) : (writeAcc c n t).runsCode = c.runsCode := rfl
@[simp] theorem writeAcc_resident (c : Core) (n : Nat) (t : Tile) : (writeAcc c n t).resident = c.resident := rfl
@[simp] theorem writeAcc_queues (c : Core) (n : Nat) (t : Tile) : (writeAcc c n t).queues = c.queues := rfl
@[simp] theorem writeAcc_cellar (c : Core) (n : Nat) (t : Tile) : (writeAcc c n t).cellar = c.cellar := rfl
@[simp] theorem writeAcc_pantries (c : Core) (n : Nat) (t : Tile) : (writeAcc c n t).pantries = c.pantries := rfl
@[simp] theorem writeAcc_own (c : Core) (n : Nat) (t : Tile) : (writeAcc c n t).own = c.own := rfl
@[simp] theorem writeAcc_opens (c : Core) (n : Nat) (t : Tile) : (writeAcc c n t).opens = c.opens := rfl
@[simp] theorem writeAcc_caps (c : Core) (n : Nat) (t : Tile) : (writeAcc c n t).caps = c.caps := rfl
@[simp] theorem writeAcc_routes (c : Core) (n : Nat) (t : Tile) : (writeAcc c n t).routes = c.routes := rfl
@[simp] theorem writeAcc_nodeFloor (c : Core) (n : Nat) (t : Tile) : (writeAcc c n t).nodeFloor = c.nodeFloor := rfl
@[simp] theorem writeAcc_sendFloor (c : Core) (n : Nat) (t : Tile) : (writeAcc c n t).sendFloor = c.sendFloor := rfl
@[simp] theorem writeAcc_depth (c : Core) (n : Nat) (t : Tile) : (writeAcc c n t).depth = c.depth := rfl
@[simp] theorem writeAcc_merged (c : Core) (n : Nat) (t : Tile) : (writeAcc c n t).merged = c.merged := rfl
@[simp] theorem writeAcc_chunk (c : Core) (n : Nat) (t : Tile) : (writeAcc c n t).chunk = c.chunk := rfl
@[simp] theorem writeAcc_egress (c : Core) (n : Nat) (t : Tile) : (writeAcc c n t).egress = c.egress := rfl
@[simp] theorem writeAcc_behind (c : Core) (n : Nat) (t : Tile) : (writeAcc c n t).behind = c.behind := rfl
@[simp] theorem writeAcc_rx (c : Core) (n : Nat) (t : Tile) : (writeAcc c n t).rx = c.rx := rfl
@[simp] theorem writeAcc_verdicts (c : Core) (n : Nat) (t : Tile) : (writeAcc c n t).verdicts = c.verdicts := rfl
@[simp] theorem writeAcc_resetting (c : Core) (n : Nat) (t : Tile) : (writeAcc c n t).resetting = c.resetting := rfl
@[simp] theorem writeAcc_accepted (c : Core) (n : Nat) (t : Tile) : (writeAcc c n t).accepted = c.accepted := rfl
@[simp] theorem writeAcc_pushed (c : Core) (n : Nat) (t : Tile) : (writeAcc c n t).pushed = c.pushed := rfl
@[simp] theorem writeAcc_nextTag (c : Core) (n : Nat) (t : Tile) : (writeAcc c n t).nextTag = c.nextTag := rfl
@[simp] theorem writeAcc_ops (c : Core) (n : Nat) (t : Tile) : (writeAcc c n t).ops = c.ops := rfl
@[simp] theorem writeAcc_breads (c : Core) (n : Nat) (t : Tile) : (writeAcc c n t).breads = c.breads := rfl
@[simp] theorem writeAcc_sources (c : Core) (n : Nat) (t : Tile) : (writeAcc c n t).sources = c.sources := rfl
@[simp] theorem writeAcc_batches (c : Core) (n : Nat) (t : Tile) : (writeAcc c n t).batches = c.batches := rfl
@[simp] theorem writeAcc_arrivals (c : Core) (n : Nat) (t : Tile) : (writeAcc c n t).arrivals = c.arrivals := rfl
@[simp] theorem writeAcc_fencing (c : Core) (n : Nat) (t : Tile) : (writeAcc c n t).fencing = c.fencing := rfl
@[simp] theorem writeAcc_sleep (c : Core) (n : Nat) (t : Tile) : (writeAcc c n t).sleep = c.sleep := rfl
@[simp] theorem writeAcc_frozen (c : Core) (n : Nat) (t : Tile) : (writeAcc c n t).frozen = c.frozen := rfl
@[simp] theorem writeAcc_draining (c : Core) (n : Nat) (t : Tile) : (writeAcc c n t).draining = c.draining := rfl
@[simp] theorem writeAcc_markers (c : Core) (n : Nat) (t : Tile) : (writeAcc c n t).markers = c.markers := rfl
@[simp] theorem writeAcc_injected (c : Core) (n : Nat) (t : Tile) : (writeAcc c n t).injected = c.injected := rfl
@[simp] theorem writeAcc_delivered (c : Core) (n : Nat) (t : Tile) : (writeAcc c n t).delivered = c.delivered := rfl
@[simp] theorem writeAcc_eccLast (c : Core) (n : Nat) (t : Tile) : (writeAcc c n t).eccLast = c.eccLast := rfl

@[simp] theorem writeSlot_sys (c : Core) (n : Nat) (t : Slot) : (writeSlot c n t).sys = c.sys := rfl
@[simp] theorem writeSlot_pc (c : Core) (n : Nat) (t : Slot) : (writeSlot c n t).pc = c.pc := rfl
@[simp] theorem writeSlot_running (c : Core) (n : Nat) (t : Slot) : (writeSlot c n t).running = c.running := rfl
@[simp] theorem writeSlot_wait (c : Core) (n : Nat) (t : Slot) : (writeSlot c n t).wait = c.wait := rfl
@[simp] theorem writeSlot_halted (c : Core) (n : Nat) (t : Slot) : (writeSlot c n t).halted = c.halted := rfl
@[simp] theorem writeSlot_gang (c : Core) (n : Nat) (t : Slot) : (writeSlot c n t).gang = c.gang := rfl
@[simp] theorem writeSlot_tasks (c : Core) (n : Nat) (t : Slot) : (writeSlot c n t).tasks = c.tasks := rfl
@[simp] theorem writeSlot_stamp (c : Core) (n : Nat) (t : Slot) : (writeSlot c n t).stamp = c.stamp := rfl
@[simp] theorem writeSlot_landed (c : Core) (n : Nat) (t : Slot) : (writeSlot c n t).landed = c.landed := rfl
@[simp] theorem writeSlot_handlers (c : Core) (n : Nat) (t : Slot) : (writeSlot c n t).handlers = c.handlers := rfl
@[simp] theorem writeSlot_bursts (c : Core) (n : Nat) (t : Slot) : (writeSlot c n t).bursts = c.bursts := rfl
@[simp] theorem writeSlot_lastIssue (c : Core) (n : Nat) (t : Slot) : (writeSlot c n t).lastIssue = c.lastIssue := rfl
@[simp] theorem writeSlot_pending (c : Core) (n : Nat) (t : Slot) : (writeSlot c n t).pending = c.pending := rfl
@[simp] theorem writeSlot_held (c : Core) (n : Nat) (t : Slot) : (writeSlot c n t).held = c.held := rfl
@[simp] theorem writeSlot_watch (c : Core) (n : Nat) (t : Slot) : (writeSlot c n t).watch = c.watch := rfl
@[simp] theorem writeSlot_sram (c : Core) (n : Nat) (t : Slot) : (writeSlot c n t).sram = c.sram := rfl
@[simp] theorem writeSlot_istore (c : Core) (n : Nat) (t : Slot) : (writeSlot c n t).istore = c.istore := rfl
@[simp] theorem writeSlot_runsCode (c : Core) (n : Nat) (t : Slot) : (writeSlot c n t).runsCode = c.runsCode := rfl
@[simp] theorem writeSlot_resident (c : Core) (n : Nat) (t : Slot) : (writeSlot c n t).resident = c.resident := rfl
@[simp] theorem writeSlot_queues (c : Core) (n : Nat) (t : Slot) : (writeSlot c n t).queues = c.queues := rfl
@[simp] theorem writeSlot_cellar (c : Core) (n : Nat) (t : Slot) : (writeSlot c n t).cellar = c.cellar := rfl
@[simp] theorem writeSlot_pantries (c : Core) (n : Nat) (t : Slot) : (writeSlot c n t).pantries = c.pantries := rfl
@[simp] theorem writeSlot_own (c : Core) (n : Nat) (t : Slot) : (writeSlot c n t).own = c.own := rfl
@[simp] theorem writeSlot_opens (c : Core) (n : Nat) (t : Slot) : (writeSlot c n t).opens = c.opens := rfl
@[simp] theorem writeSlot_caps (c : Core) (n : Nat) (t : Slot) : (writeSlot c n t).caps = c.caps := rfl
@[simp] theorem writeSlot_routes (c : Core) (n : Nat) (t : Slot) : (writeSlot c n t).routes = c.routes := rfl
@[simp] theorem writeSlot_nodeFloor (c : Core) (n : Nat) (t : Slot) : (writeSlot c n t).nodeFloor = c.nodeFloor := rfl
@[simp] theorem writeSlot_sendFloor (c : Core) (n : Nat) (t : Slot) : (writeSlot c n t).sendFloor = c.sendFloor := rfl
@[simp] theorem writeSlot_depth (c : Core) (n : Nat) (t : Slot) : (writeSlot c n t).depth = c.depth := rfl
@[simp] theorem writeSlot_merged (c : Core) (n : Nat) (t : Slot) : (writeSlot c n t).merged = c.merged := rfl
@[simp] theorem writeSlot_chunk (c : Core) (n : Nat) (t : Slot) : (writeSlot c n t).chunk = c.chunk := rfl
@[simp] theorem writeSlot_egress (c : Core) (n : Nat) (t : Slot) : (writeSlot c n t).egress = c.egress := rfl
@[simp] theorem writeSlot_behind (c : Core) (n : Nat) (t : Slot) : (writeSlot c n t).behind = c.behind := rfl
@[simp] theorem writeSlot_rx (c : Core) (n : Nat) (t : Slot) : (writeSlot c n t).rx = c.rx := rfl
@[simp] theorem writeSlot_verdicts (c : Core) (n : Nat) (t : Slot) : (writeSlot c n t).verdicts = c.verdicts := rfl
@[simp] theorem writeSlot_resetting (c : Core) (n : Nat) (t : Slot) : (writeSlot c n t).resetting = c.resetting := rfl
@[simp] theorem writeSlot_accepted (c : Core) (n : Nat) (t : Slot) : (writeSlot c n t).accepted = c.accepted := rfl
@[simp] theorem writeSlot_pushed (c : Core) (n : Nat) (t : Slot) : (writeSlot c n t).pushed = c.pushed := rfl
@[simp] theorem writeSlot_nextTag (c : Core) (n : Nat) (t : Slot) : (writeSlot c n t).nextTag = c.nextTag := rfl
@[simp] theorem writeSlot_ops (c : Core) (n : Nat) (t : Slot) : (writeSlot c n t).ops = c.ops := rfl
@[simp] theorem writeSlot_breads (c : Core) (n : Nat) (t : Slot) : (writeSlot c n t).breads = c.breads := rfl
@[simp] theorem writeSlot_sources (c : Core) (n : Nat) (t : Slot) : (writeSlot c n t).sources = c.sources := rfl
@[simp] theorem writeSlot_batches (c : Core) (n : Nat) (t : Slot) : (writeSlot c n t).batches = c.batches := rfl
@[simp] theorem writeSlot_arrivals (c : Core) (n : Nat) (t : Slot) : (writeSlot c n t).arrivals = c.arrivals := rfl
@[simp] theorem writeSlot_fencing (c : Core) (n : Nat) (t : Slot) : (writeSlot c n t).fencing = c.fencing := rfl
@[simp] theorem writeSlot_sleep (c : Core) (n : Nat) (t : Slot) : (writeSlot c n t).sleep = c.sleep := rfl
@[simp] theorem writeSlot_frozen (c : Core) (n : Nat) (t : Slot) : (writeSlot c n t).frozen = c.frozen := rfl
@[simp] theorem writeSlot_draining (c : Core) (n : Nat) (t : Slot) : (writeSlot c n t).draining = c.draining := rfl
@[simp] theorem writeSlot_markers (c : Core) (n : Nat) (t : Slot) : (writeSlot c n t).markers = c.markers := rfl
@[simp] theorem writeSlot_injected (c : Core) (n : Nat) (t : Slot) : (writeSlot c n t).injected = c.injected := rfl
@[simp] theorem writeSlot_delivered (c : Core) (n : Nat) (t : Slot) : (writeSlot c n t).delivered = c.delivered := rfl
@[simp] theorem writeSlot_eccLast (c : Core) (n : Nat) (t : Slot) : (writeSlot c n t).eccLast = c.eccLast := rfl

@[simp] theorem writeQ_sys (c : Core) (n : Nat) (b : QBind) : (writeQ c n b).sys = c.sys := rfl
@[simp] theorem writeQ_pc (c : Core) (n : Nat) (b : QBind) : (writeQ c n b).pc = c.pc := rfl
@[simp] theorem writeQ_running (c : Core) (n : Nat) (b : QBind) : (writeQ c n b).running = c.running := rfl
@[simp] theorem writeQ_wait (c : Core) (n : Nat) (b : QBind) : (writeQ c n b).wait = c.wait := rfl
@[simp] theorem writeQ_halted (c : Core) (n : Nat) (b : QBind) : (writeQ c n b).halted = c.halted := rfl
@[simp] theorem writeQ_gang (c : Core) (n : Nat) (b : QBind) : (writeQ c n b).gang = c.gang := rfl
@[simp] theorem writeQ_tasks (c : Core) (n : Nat) (b : QBind) : (writeQ c n b).tasks = c.tasks := rfl
@[simp] theorem writeQ_stamp (c : Core) (n : Nat) (b : QBind) : (writeQ c n b).stamp = c.stamp := rfl
@[simp] theorem writeQ_landed (c : Core) (n : Nat) (b : QBind) : (writeQ c n b).landed = c.landed := rfl
@[simp] theorem writeQ_handlers (c : Core) (n : Nat) (b : QBind) : (writeQ c n b).handlers = c.handlers := rfl
@[simp] theorem writeQ_bursts (c : Core) (n : Nat) (b : QBind) : (writeQ c n b).bursts = c.bursts := rfl
@[simp] theorem writeQ_lastIssue (c : Core) (n : Nat) (b : QBind) : (writeQ c n b).lastIssue = c.lastIssue := rfl
@[simp] theorem writeQ_pending (c : Core) (n : Nat) (b : QBind) : (writeQ c n b).pending = c.pending := rfl
@[simp] theorem writeQ_held (c : Core) (n : Nat) (b : QBind) : (writeQ c n b).held = c.held := rfl
@[simp] theorem writeQ_watch (c : Core) (n : Nat) (b : QBind) : (writeQ c n b).watch = c.watch := rfl
@[simp] theorem writeQ_sram (c : Core) (n : Nat) (b : QBind) : (writeQ c n b).sram = c.sram := rfl
@[simp] theorem writeQ_istore (c : Core) (n : Nat) (b : QBind) : (writeQ c n b).istore = c.istore := rfl
@[simp] theorem writeQ_runsCode (c : Core) (n : Nat) (b : QBind) : (writeQ c n b).runsCode = c.runsCode := rfl
@[simp] theorem writeQ_resident (c : Core) (n : Nat) (b : QBind) : (writeQ c n b).resident = c.resident := rfl
@[simp] theorem writeQ_queues (c : Core) (n : Nat) (b : QBind) : (writeQ c n b).queues = c.queues := rfl
@[simp] theorem writeQ_cellar (c : Core) (n : Nat) (b : QBind) : (writeQ c n b).cellar = c.cellar := rfl
@[simp] theorem writeQ_pantries (c : Core) (n : Nat) (b : QBind) : (writeQ c n b).pantries = c.pantries := rfl
@[simp] theorem writeQ_own (c : Core) (n : Nat) (b : QBind) : (writeQ c n b).own = c.own := rfl
@[simp] theorem writeQ_opens (c : Core) (n : Nat) (b : QBind) : (writeQ c n b).opens = c.opens := rfl
@[simp] theorem writeQ_caps (c : Core) (n : Nat) (b : QBind) : (writeQ c n b).caps = c.caps := rfl
@[simp] theorem writeQ_routes (c : Core) (n : Nat) (b : QBind) : (writeQ c n b).routes = c.routes := rfl
@[simp] theorem writeQ_nodeFloor (c : Core) (n : Nat) (b : QBind) : (writeQ c n b).nodeFloor = c.nodeFloor := rfl
@[simp] theorem writeQ_sendFloor (c : Core) (n : Nat) (b : QBind) : (writeQ c n b).sendFloor = c.sendFloor := rfl
@[simp] theorem writeQ_depth (c : Core) (n : Nat) (b : QBind) : (writeQ c n b).depth = c.depth := rfl
@[simp] theorem writeQ_merged (c : Core) (n : Nat) (b : QBind) : (writeQ c n b).merged = c.merged := rfl
@[simp] theorem writeQ_chunk (c : Core) (n : Nat) (b : QBind) : (writeQ c n b).chunk = c.chunk := rfl
@[simp] theorem writeQ_egress (c : Core) (n : Nat) (b : QBind) : (writeQ c n b).egress = c.egress := rfl
@[simp] theorem writeQ_behind (c : Core) (n : Nat) (b : QBind) : (writeQ c n b).behind = c.behind := rfl
@[simp] theorem writeQ_rx (c : Core) (n : Nat) (b : QBind) : (writeQ c n b).rx = c.rx := rfl
@[simp] theorem writeQ_verdicts (c : Core) (n : Nat) (b : QBind) : (writeQ c n b).verdicts = c.verdicts := rfl
@[simp] theorem writeQ_resetting (c : Core) (n : Nat) (b : QBind) : (writeQ c n b).resetting = c.resetting := rfl
@[simp] theorem writeQ_accepted (c : Core) (n : Nat) (b : QBind) : (writeQ c n b).accepted = c.accepted := rfl
@[simp] theorem writeQ_pushed (c : Core) (n : Nat) (b : QBind) : (writeQ c n b).pushed = c.pushed := rfl
@[simp] theorem writeQ_nextTag (c : Core) (n : Nat) (b : QBind) : (writeQ c n b).nextTag = c.nextTag := rfl
@[simp] theorem writeQ_ops (c : Core) (n : Nat) (b : QBind) : (writeQ c n b).ops = c.ops := rfl
@[simp] theorem writeQ_breads (c : Core) (n : Nat) (b : QBind) : (writeQ c n b).breads = c.breads := rfl
@[simp] theorem writeQ_sources (c : Core) (n : Nat) (b : QBind) : (writeQ c n b).sources = c.sources := rfl
@[simp] theorem writeQ_batches (c : Core) (n : Nat) (b : QBind) : (writeQ c n b).batches = c.batches := rfl
@[simp] theorem writeQ_arrivals (c : Core) (n : Nat) (b : QBind) : (writeQ c n b).arrivals = c.arrivals := rfl
@[simp] theorem writeQ_fencing (c : Core) (n : Nat) (b : QBind) : (writeQ c n b).fencing = c.fencing := rfl
@[simp] theorem writeQ_sleep (c : Core) (n : Nat) (b : QBind) : (writeQ c n b).sleep = c.sleep := rfl
@[simp] theorem writeQ_frozen (c : Core) (n : Nat) (b : QBind) : (writeQ c n b).frozen = c.frozen := rfl
@[simp] theorem writeQ_draining (c : Core) (n : Nat) (b : QBind) : (writeQ c n b).draining = c.draining := rfl
@[simp] theorem writeQ_markers (c : Core) (n : Nat) (b : QBind) : (writeQ c n b).markers = c.markers := rfl
@[simp] theorem writeQ_injected (c : Core) (n : Nat) (b : QBind) : (writeQ c n b).injected = c.injected := rfl
@[simp] theorem writeQ_delivered (c : Core) (n : Nat) (b : QBind) : (writeQ c n b).delivered = c.delivered := rfl
@[simp] theorem writeQ_eccLast (c : Core) (n : Nat) (b : QBind) : (writeQ c n b).eccLast = c.eccLast := rfl

@[simp] theorem writeLc_sys (c : Core) (n : Nat) (l : LoopCtr) : (writeLc c n l).sys = c.sys := rfl
@[simp] theorem writeLc_pc (c : Core) (n : Nat) (l : LoopCtr) : (writeLc c n l).pc = c.pc := rfl
@[simp] theorem writeLc_running (c : Core) (n : Nat) (l : LoopCtr) : (writeLc c n l).running = c.running := rfl
@[simp] theorem writeLc_wait (c : Core) (n : Nat) (l : LoopCtr) : (writeLc c n l).wait = c.wait := rfl
@[simp] theorem writeLc_halted (c : Core) (n : Nat) (l : LoopCtr) : (writeLc c n l).halted = c.halted := rfl
@[simp] theorem writeLc_gang (c : Core) (n : Nat) (l : LoopCtr) : (writeLc c n l).gang = c.gang := rfl
@[simp] theorem writeLc_tasks (c : Core) (n : Nat) (l : LoopCtr) : (writeLc c n l).tasks = c.tasks := rfl
@[simp] theorem writeLc_stamp (c : Core) (n : Nat) (l : LoopCtr) : (writeLc c n l).stamp = c.stamp := rfl
@[simp] theorem writeLc_landed (c : Core) (n : Nat) (l : LoopCtr) : (writeLc c n l).landed = c.landed := rfl
@[simp] theorem writeLc_handlers (c : Core) (n : Nat) (l : LoopCtr) : (writeLc c n l).handlers = c.handlers := rfl
@[simp] theorem writeLc_bursts (c : Core) (n : Nat) (l : LoopCtr) : (writeLc c n l).bursts = c.bursts := rfl
@[simp] theorem writeLc_lastIssue (c : Core) (n : Nat) (l : LoopCtr) : (writeLc c n l).lastIssue = c.lastIssue := rfl
@[simp] theorem writeLc_pending (c : Core) (n : Nat) (l : LoopCtr) : (writeLc c n l).pending = c.pending := rfl
@[simp] theorem writeLc_held (c : Core) (n : Nat) (l : LoopCtr) : (writeLc c n l).held = c.held := rfl
@[simp] theorem writeLc_watch (c : Core) (n : Nat) (l : LoopCtr) : (writeLc c n l).watch = c.watch := rfl
@[simp] theorem writeLc_sram (c : Core) (n : Nat) (l : LoopCtr) : (writeLc c n l).sram = c.sram := rfl
@[simp] theorem writeLc_istore (c : Core) (n : Nat) (l : LoopCtr) : (writeLc c n l).istore = c.istore := rfl
@[simp] theorem writeLc_runsCode (c : Core) (n : Nat) (l : LoopCtr) : (writeLc c n l).runsCode = c.runsCode := rfl
@[simp] theorem writeLc_resident (c : Core) (n : Nat) (l : LoopCtr) : (writeLc c n l).resident = c.resident := rfl
@[simp] theorem writeLc_queues (c : Core) (n : Nat) (l : LoopCtr) : (writeLc c n l).queues = c.queues := rfl
@[simp] theorem writeLc_cellar (c : Core) (n : Nat) (l : LoopCtr) : (writeLc c n l).cellar = c.cellar := rfl
@[simp] theorem writeLc_pantries (c : Core) (n : Nat) (l : LoopCtr) : (writeLc c n l).pantries = c.pantries := rfl
@[simp] theorem writeLc_own (c : Core) (n : Nat) (l : LoopCtr) : (writeLc c n l).own = c.own := rfl
@[simp] theorem writeLc_opens (c : Core) (n : Nat) (l : LoopCtr) : (writeLc c n l).opens = c.opens := rfl
@[simp] theorem writeLc_caps (c : Core) (n : Nat) (l : LoopCtr) : (writeLc c n l).caps = c.caps := rfl
@[simp] theorem writeLc_routes (c : Core) (n : Nat) (l : LoopCtr) : (writeLc c n l).routes = c.routes := rfl
@[simp] theorem writeLc_nodeFloor (c : Core) (n : Nat) (l : LoopCtr) : (writeLc c n l).nodeFloor = c.nodeFloor := rfl
@[simp] theorem writeLc_sendFloor (c : Core) (n : Nat) (l : LoopCtr) : (writeLc c n l).sendFloor = c.sendFloor := rfl
@[simp] theorem writeLc_depth (c : Core) (n : Nat) (l : LoopCtr) : (writeLc c n l).depth = c.depth := rfl
@[simp] theorem writeLc_merged (c : Core) (n : Nat) (l : LoopCtr) : (writeLc c n l).merged = c.merged := rfl
@[simp] theorem writeLc_chunk (c : Core) (n : Nat) (l : LoopCtr) : (writeLc c n l).chunk = c.chunk := rfl
@[simp] theorem writeLc_egress (c : Core) (n : Nat) (l : LoopCtr) : (writeLc c n l).egress = c.egress := rfl
@[simp] theorem writeLc_behind (c : Core) (n : Nat) (l : LoopCtr) : (writeLc c n l).behind = c.behind := rfl
@[simp] theorem writeLc_rx (c : Core) (n : Nat) (l : LoopCtr) : (writeLc c n l).rx = c.rx := rfl
@[simp] theorem writeLc_verdicts (c : Core) (n : Nat) (l : LoopCtr) : (writeLc c n l).verdicts = c.verdicts := rfl
@[simp] theorem writeLc_resetting (c : Core) (n : Nat) (l : LoopCtr) : (writeLc c n l).resetting = c.resetting := rfl
@[simp] theorem writeLc_accepted (c : Core) (n : Nat) (l : LoopCtr) : (writeLc c n l).accepted = c.accepted := rfl
@[simp] theorem writeLc_pushed (c : Core) (n : Nat) (l : LoopCtr) : (writeLc c n l).pushed = c.pushed := rfl
@[simp] theorem writeLc_nextTag (c : Core) (n : Nat) (l : LoopCtr) : (writeLc c n l).nextTag = c.nextTag := rfl
@[simp] theorem writeLc_ops (c : Core) (n : Nat) (l : LoopCtr) : (writeLc c n l).ops = c.ops := rfl
@[simp] theorem writeLc_breads (c : Core) (n : Nat) (l : LoopCtr) : (writeLc c n l).breads = c.breads := rfl
@[simp] theorem writeLc_sources (c : Core) (n : Nat) (l : LoopCtr) : (writeLc c n l).sources = c.sources := rfl
@[simp] theorem writeLc_batches (c : Core) (n : Nat) (l : LoopCtr) : (writeLc c n l).batches = c.batches := rfl
@[simp] theorem writeLc_arrivals (c : Core) (n : Nat) (l : LoopCtr) : (writeLc c n l).arrivals = c.arrivals := rfl
@[simp] theorem writeLc_fencing (c : Core) (n : Nat) (l : LoopCtr) : (writeLc c n l).fencing = c.fencing := rfl
@[simp] theorem writeLc_sleep (c : Core) (n : Nat) (l : LoopCtr) : (writeLc c n l).sleep = c.sleep := rfl
@[simp] theorem writeLc_frozen (c : Core) (n : Nat) (l : LoopCtr) : (writeLc c n l).frozen = c.frozen := rfl
@[simp] theorem writeLc_draining (c : Core) (n : Nat) (l : LoopCtr) : (writeLc c n l).draining = c.draining := rfl
@[simp] theorem writeLc_markers (c : Core) (n : Nat) (l : LoopCtr) : (writeLc c n l).markers = c.markers := rfl
@[simp] theorem writeLc_injected (c : Core) (n : Nat) (l : LoopCtr) : (writeLc c n l).injected = c.injected := rfl
@[simp] theorem writeLc_delivered (c : Core) (n : Nat) (l : LoopCtr) : (writeLc c n l).delivered = c.delivered := rfl
@[simp] theorem writeLc_eccLast (c : Core) (n : Nat) (l : LoopCtr) : (writeLc c n l).eccLast = c.eccLast := rfl

@[simp] theorem setPc_regs (c : Core) (x : Ctx) (p : BitVec 16) : (setPc c x p).regs = c.regs := by cases x <;> rfl
@[simp] theorem setPc_sys (c : Core) (x : Ctx) (p : BitVec 16) : (setPc c x p).sys = c.sys := by cases x <;> rfl
@[simp] theorem setPc_running (c : Core) (x : Ctx) (p : BitVec 16) : (setPc c x p).running = c.running := by cases x <;> rfl
@[simp] theorem setPc_wait (c : Core) (x : Ctx) (p : BitVec 16) : (setPc c x p).wait = c.wait := by cases x <;> rfl
@[simp] theorem setPc_halted (c : Core) (x : Ctx) (p : BitVec 16) : (setPc c x p).halted = c.halted := by cases x <;> rfl
@[simp] theorem setPc_gang (c : Core) (x : Ctx) (p : BitVec 16) : (setPc c x p).gang = c.gang := by cases x <;> rfl
@[simp] theorem setPc_tasks (c : Core) (x : Ctx) (p : BitVec 16) : (setPc c x p).tasks = c.tasks := by cases x <;> rfl
@[simp] theorem setPc_stamp (c : Core) (x : Ctx) (p : BitVec 16) : (setPc c x p).stamp = c.stamp := by cases x <;> rfl
@[simp] theorem setPc_landed (c : Core) (x : Ctx) (p : BitVec 16) : (setPc c x p).landed = c.landed := by cases x <;> rfl
@[simp] theorem setPc_bursts (c : Core) (x : Ctx) (p : BitVec 16) : (setPc c x p).bursts = c.bursts := by cases x <;> rfl
@[simp] theorem setPc_lastIssue (c : Core) (x : Ctx) (p : BitVec 16) : (setPc c x p).lastIssue = c.lastIssue := by cases x <;> rfl
@[simp] theorem setPc_pending (c : Core) (x : Ctx) (p : BitVec 16) : (setPc c x p).pending = c.pending := by cases x <;> rfl
@[simp] theorem setPc_held (c : Core) (x : Ctx) (p : BitVec 16) : (setPc c x p).held = c.held := by cases x <;> rfl
@[simp] theorem setPc_watch (c : Core) (x : Ctx) (p : BitVec 16) : (setPc c x p).watch = c.watch := by cases x <;> rfl
@[simp] theorem setPc_sram (c : Core) (x : Ctx) (p : BitVec 16) : (setPc c x p).sram = c.sram := by cases x <;> rfl
@[simp] theorem setPc_istore (c : Core) (x : Ctx) (p : BitVec 16) : (setPc c x p).istore = c.istore := by cases x <;> rfl
@[simp] theorem setPc_runsCode (c : Core) (x : Ctx) (p : BitVec 16) : (setPc c x p).runsCode = c.runsCode := by cases x <;> rfl
@[simp] theorem setPc_resident (c : Core) (x : Ctx) (p : BitVec 16) : (setPc c x p).resident = c.resident := by cases x <;> rfl
@[simp] theorem setPc_queues (c : Core) (x : Ctx) (p : BitVec 16) : (setPc c x p).queues = c.queues := by cases x <;> rfl
@[simp] theorem setPc_cellar (c : Core) (x : Ctx) (p : BitVec 16) : (setPc c x p).cellar = c.cellar := by cases x <;> rfl
@[simp] theorem setPc_pantries (c : Core) (x : Ctx) (p : BitVec 16) : (setPc c x p).pantries = c.pantries := by cases x <;> rfl
@[simp] theorem setPc_own (c : Core) (x : Ctx) (p : BitVec 16) : (setPc c x p).own = c.own := by cases x <;> rfl
@[simp] theorem setPc_opens (c : Core) (x : Ctx) (p : BitVec 16) : (setPc c x p).opens = c.opens := by cases x <;> rfl
@[simp] theorem setPc_caps (c : Core) (x : Ctx) (p : BitVec 16) : (setPc c x p).caps = c.caps := by cases x <;> rfl
@[simp] theorem setPc_routes (c : Core) (x : Ctx) (p : BitVec 16) : (setPc c x p).routes = c.routes := by cases x <;> rfl
@[simp] theorem setPc_nodeFloor (c : Core) (x : Ctx) (p : BitVec 16) : (setPc c x p).nodeFloor = c.nodeFloor := by cases x <;> rfl
@[simp] theorem setPc_sendFloor (c : Core) (x : Ctx) (p : BitVec 16) : (setPc c x p).sendFloor = c.sendFloor := by cases x <;> rfl
@[simp] theorem setPc_depth (c : Core) (x : Ctx) (p : BitVec 16) : (setPc c x p).depth = c.depth := by cases x <;> rfl
@[simp] theorem setPc_merged (c : Core) (x : Ctx) (p : BitVec 16) : (setPc c x p).merged = c.merged := by cases x <;> rfl
@[simp] theorem setPc_chunk (c : Core) (x : Ctx) (p : BitVec 16) : (setPc c x p).chunk = c.chunk := by cases x <;> rfl
@[simp] theorem setPc_egress (c : Core) (x : Ctx) (p : BitVec 16) : (setPc c x p).egress = c.egress := by cases x <;> rfl
@[simp] theorem setPc_behind (c : Core) (x : Ctx) (p : BitVec 16) : (setPc c x p).behind = c.behind := by cases x <;> rfl
@[simp] theorem setPc_rx (c : Core) (x : Ctx) (p : BitVec 16) : (setPc c x p).rx = c.rx := by cases x <;> rfl
@[simp] theorem setPc_verdicts (c : Core) (x : Ctx) (p : BitVec 16) : (setPc c x p).verdicts = c.verdicts := by cases x <;> rfl
@[simp] theorem setPc_resetting (c : Core) (x : Ctx) (p : BitVec 16) : (setPc c x p).resetting = c.resetting := by cases x <;> rfl
@[simp] theorem setPc_accepted (c : Core) (x : Ctx) (p : BitVec 16) : (setPc c x p).accepted = c.accepted := by cases x <;> rfl
@[simp] theorem setPc_pushed (c : Core) (x : Ctx) (p : BitVec 16) : (setPc c x p).pushed = c.pushed := by cases x <;> rfl
@[simp] theorem setPc_nextTag (c : Core) (x : Ctx) (p : BitVec 16) : (setPc c x p).nextTag = c.nextTag := by cases x <;> rfl
@[simp] theorem setPc_ops (c : Core) (x : Ctx) (p : BitVec 16) : (setPc c x p).ops = c.ops := by cases x <;> rfl
@[simp] theorem setPc_breads (c : Core) (x : Ctx) (p : BitVec 16) : (setPc c x p).breads = c.breads := by cases x <;> rfl
@[simp] theorem setPc_sources (c : Core) (x : Ctx) (p : BitVec 16) : (setPc c x p).sources = c.sources := by cases x <;> rfl
@[simp] theorem setPc_batches (c : Core) (x : Ctx) (p : BitVec 16) : (setPc c x p).batches = c.batches := by cases x <;> rfl
@[simp] theorem setPc_arrivals (c : Core) (x : Ctx) (p : BitVec 16) : (setPc c x p).arrivals = c.arrivals := by cases x <;> rfl
@[simp] theorem setPc_fencing (c : Core) (x : Ctx) (p : BitVec 16) : (setPc c x p).fencing = c.fencing := by cases x <;> rfl
@[simp] theorem setPc_sleep (c : Core) (x : Ctx) (p : BitVec 16) : (setPc c x p).sleep = c.sleep := by cases x <;> rfl
@[simp] theorem setPc_frozen (c : Core) (x : Ctx) (p : BitVec 16) : (setPc c x p).frozen = c.frozen := by cases x <;> rfl
@[simp] theorem setPc_draining (c : Core) (x : Ctx) (p : BitVec 16) : (setPc c x p).draining = c.draining := by cases x <;> rfl
@[simp] theorem setPc_markers (c : Core) (x : Ctx) (p : BitVec 16) : (setPc c x p).markers = c.markers := by cases x <;> rfl
@[simp] theorem setPc_injected (c : Core) (x : Ctx) (p : BitVec 16) : (setPc c x p).injected = c.injected := by cases x <;> rfl
@[simp] theorem setPc_delivered (c : Core) (x : Ctx) (p : BitVec 16) : (setPc c x p).delivered = c.delivered := by cases x <;> rfl
@[simp] theorem setPc_eccLast (c : Core) (x : Ctx) (p : BitVec 16) : (setPc c x p).eccLast = c.eccLast := by cases x <;> rfl

/-! ## Registers read after they are written -/

@[simp] theorem handlerAt_setHandler_self (c : Core) (k : Nat) (h : Handler) : handlerAt (setHandler c k h) k = h :=
  fget_fset_self _ _ _ _
theorem handlerAt_setHandler_ne (c : Core) {k j : Nat} (h : Handler) (hj : j ≠ k) : handlerAt (setHandler c k h) j = handlerAt c j :=
  fget_fset_ne _ _ _ hj
theorem readX_writeX_self (c : Core) {n : Nat} (v : Word) (h : n ≠ 0) : readX (writeX c .main n v) .main n = v := by
  simp [readX, writeX, h]
theorem readX_writeX_ne (c : Core) {n m : Nat} (v : Word) (h : m ≠ n) : readX (writeX c .main n v) .main m = readX c .main m := by
  by_cases hn : n = 0
  · simp [writeX, hn]
  · simp [readX, writeX, hn, fget_fset_ne _ _ _ h]
@[simp] theorem writeX_zero (c : Core) (v : Word) : writeX c .main 0 v = c := by simp [writeX]
@[simp] theorem readX_zero (c : Core) : readX c .main 0 = 0 := by simp [readX]
@[simp] theorem readV_writeV_self (c : Core) (n : Nat) (v : BitVec 512) : readV (writeV c .main n v) .main n = v := by
  simp [readV, writeV]
theorem readV_writeV_ne (c : Core) {n m : Nat} (v : BitVec 512) (h : m ≠ n) : readV (writeV c .main n v) .main m = readV c .main m := by
  simp [readV, writeV, fget_fset_ne _ _ _ h]
theorem readFm_writeFm_self (c : Core) {n : Nat} (v : BitVec 16) (h : n ≠ 0) : readFm (writeFm c n v) n = v := by
  simp [readFm, writeFm, h]
theorem readFm_writeFm_ne (c : Core) {n m : Nat} (v : BitVec 16) (h : m ≠ n) : readFm (writeFm c n v) m = readFm c m := by
  by_cases hn : n = 0
  · simp [writeFm, hn]
  · simp [readFm, writeFm, hn, fget_fset_ne _ _ _ h]
@[simp] theorem readAcc_writeAcc_self (c : Core) (n : Nat) (t : Tile) : readAcc (writeAcc c n t) n = t := by simp [readAcc, writeAcc]
@[simp] theorem readSlot_writeSlot_self (c : Core) (n : Nat) (t : Slot) : readSlot (writeSlot c n t) n = t := by
  simp [readSlot, writeSlot]
@[simp] theorem readQ_writeQ_self (c : Core) (n : Nat) (b : QBind) : readQ (writeQ c n b) n = b := by simp [readQ, writeQ]
@[simp] theorem readLc_writeLc_self (c : Core) (n : Nat) (l : LoopCtr) : readLc (writeLc c n l) n = l := by simp [readLc, writeLc]
@[simp] theorem pcOf_setPc_self (c : Core) (x : Ctx) (p : BitVec 16) : pcOf (setPc c x p) x = p := by
  cases x <;> simp [pcOf, setPc]

/-- A flag is raised by the active ones of n results exactly where one of them raises it. -/
theorem raisedBy_iff (n : Nat) (act : Nat → Bool) (r : Nat → FRes) (b : Nat) :
    (raisedBy n act r).getLsbD b = true ↔ ∃ k, k < n ∧ act k = true ∧ (r k).flags.getLsbD b = true := by
  have h : ∀ (l : List Nat) (f : BitVec 5), (l.foldl (fun f k => f ||| (r k).flags) f).getLsbD b = true ↔
      f.getLsbD b = true ∨ ∃ k ∈ l, (r k).flags.getLsbD b = true := by
    intro l
    induction l with
    | nil => simp
    | cons k l ih => intro f; simp [ih, or_assoc]
  simp [raisedBy, h, and_assoc]

/-- Results of which none clamps clamp nothing together. -/
theorem clampedBy_zero (n : Nat) (act : Nat → Bool) (r : Nat → FRes) (h : ∀ k, (r k).sat = 0) : clampedBy n act r = 0 := by
  simp [clampedBy, h]

end Sys2Proof.Laws
end

