-- ==== Sys2Proof/Laws/Issue.lean ====
section
/-! SUPPORT. What the issue of one instruction comes to on a core at a plain boundary: the one place where `issue`, `judge`
and `settle` are taken apart. -/

namespace Sys2Proof.Laws

open Sys2Proof Sys2Proof.Machine

theorem pendingOf_nil {c : Core} (h : c.pending = []) (x : Ctx) : pendingOf c x = [] := by simp [pendingOf, h]

/-- No breakpoint matches where none is enabled. -/
theorem breakpointAt_plain {c : Core} (h : Still c) (x : Ctx) (a : BitVec 16) : breakpointAt c x a = none := by
  have := h.breakpoints
  simp only [breakpointAt, Option.map_eq_none_iff, List.find?_eq_none, List.mem_range]
  intro n hn
  have h0 := this n hn
  unfold bpMatches
  rw [h0]
  simp

/-- Nothing stands before the next issue of a plain core. -/
theorem boundary_plain {c : Core} (h : Still c) : boundary c .main = .clear := by
  simp [boundary, heldBoundary, pendingOf_nil h.pending, h.held, h.watch, breakpointAt_plain h]

/-- No register is met by a pending result of a plain core. -/
theorem hazards_plain {c : Core} (h : Still c) (cls : LaClass) (refs : List RegRef) :
    hazardsOf c .main cls refs = ⟨[], []⟩ := by
  simp [hazardsOf, pendingOf_nil h.pending]

theorem engineHolds_plain {c : Core} (h : Still c) (refs : List RegRef) : engineHolds c refs = false := by
  simp [engineHolds, h.ops, h.breads]

@[simp] theorem seenNew_nil (f : Nat → Bool) (rs : List RegRef) : seenNew f [] rs = [] := by simp [seenNew]
@[simp] theorem giveWay_nil (f : Nat → Bool) (ws : List RegRef) : giveWay f [] ws = [] := by simp [giveWay]
@[simp] theorem applyDests_nil (x : Ctx) (c : Core) : applyDests x c [] = c := rfl
@[simp] theorem applyDests_one (x : Ctx) (c : Core) (d : DestVal) : applyDests x c [d] = applyDest x c d := rfl

@[simp] theorem bump32_zero (v : BitVec 32) : bump32 v 0 = v := by
  unfold bump32
  have h := v.isLt
  rw [Nat.add_zero, Nat.min_eq_left (by omega)]
  simp

@[simp] theorem addFlags_zero (c : Core) : addFlags c 0#5 0 0 0 = c := by simp [addFlags]

/-- The guard of a ready instruction holds. -/
theorem guardHolds_of {op : Op} {env : Env} {c : Core} (_hx : env.ctx = .main) (h : guardTrue op.h c) (hg : op.h.g ≠ 0) :
    guardHolds op env c [] = true := by
  rcases h with h | h
  · exact absurd h hg
  · simp only [guardHolds, seenNew_nil, applyDests_nil]
    simpa using h

/-- The conditions that an instruction's entry ranks above its own effect, all absent. -/
structure Allowed (op : Op) (env : Env) (c : Core) : Prop where
  staticPriv : op.staticPriv env c = false
  dynRsv : op.dynRsv env c = false
  dynPriv : op.dynPriv env c = false
  noMain : op.noMain = false
  gangBad : op.gangBad env c = false
  detBad : op.detBad env c = false
  groups : anyClash op.groups = false

/-- The verdict of a body's outcome on a plain core. -/
def verdictOf (op : Op) (env : Env) : Out → Verdict
  | .ok e => .done (settle op env [] [] e) e.posts
  | .trap code v => .trap code v
  | .request code v => .request code v
  | .stall => .stall
  | .wait c w => .wait c w
  | .watch n act => .watch n act
  | .drain => .flush
  | .await p => .await p

/-- No trap of a plain core stands in the window of another. -/
theorem windowTrap_plain {op : Op} {env : Env} {c : Core} (hp : Still c) (hx : env.ctx = .main) (e : Effect) :
    windowTrap op env c e = none := by
  simp [windowTrap, hx, pendingOf_nil hp.pending]

/-- The issue of an instruction on a plain core is the verdict of its body. -/
theorem judge_plain {op : Op} {env : Env} {c : Core} (hp : Still c) (hx : env.ctx = .main) (hg : guardTrue op.h c)
    (ha : Allowed op env c) : judge op env c = verdictOf op env (op.body env c) := by
  have hb : judgeBody op env c = verdictOf op env (op.body env c) := by
    simp only [judgeBody, hx, hazards_plain hp, engineHolds_plain hp, Env.isHandler, ha.noMain, ha.groups]
    simp only [List.isEmpty_nil, seenNew_nil, applyDests_nil, List.map_nil]
    simp [ha.dynRsv, ha.dynPriv, ha.gangBad, ha.detBad]
    cases op.body env c <;> simp only [verdictOf, windowTrap_plain hp hx]
  simp only [judge, ha.staticPriv, hx, hazards_plain hp, Env.isHandler]
  by_cases h0 : op.h.g = 0
  · simp [h0, hb]
  · simp [guardHolds_of hx hg h0, hb]

/-- The issue of an instruction on a ready core. -/
theorem issue_ready {op : Op} {s : State} (hr : Ready s op.h) (ha : Allowed op (focusEnv s op.word) (focused s)) :
    issue op s = .next (applyVerdict { s with freeCtr := s.freeCtr + 1 } s.focus .main (focused s).pc
      (verdictOf op (focusEnv s op.word) (op.body (focusEnv s op.word) (focused s)))) := by
  have hj := judge_plain hr.plain.toStill (env := focusEnv s op.word) rfl hr.guard ha
  simp only [focused, focusEnv] at hj
  have hb : boundary (coreAt s s.focus) .main = .clear := boundary_plain hr.plain.toStill
  have hg : (coreAt s s.focus).gang = none := hr.plain.gang
  simp only [issue, hr.grid, hr.ctx, hg, hb, hj, focused, focusEnv, pcOf]
  rfl

/-- With nothing pending there are no counts to land. -/
theorem landAll_nil {c : Core} (h : c.pending = []) : landAll c = c := by
  cases c; simp only at h; subst h; rfl

/-- What a short instruction's effect leaves of its core. -/
theorem settle_short {op : Op} {env : Env} {e : Effect} (hx : env.ctx = .main) (hp : e.core.pending = [])
    (hc : op.cls = .s ∨ op.cls = .b ∨ op.cls = .e) :
    settle op env [] [] e =
      (let c := addFlags (applyDests .main e.core e.dests) e.flags e.counts.sat e.counts.nan e.counts.ufl
       match e.jump with
       | some t => jumped c t
       | none => if e.stays then going c else advance (going c) .main env.a) := by
  have h1 : ({ e.core with pending := e.core.pending } : Core) = e.core := rfl
  rcases hc with hc | hc | hc <;>
    (simp only [settle, hc, hx, countIssue]
     simp only [hp, List.map_nil, List.filter_nil, applyDests_nil, giveWay_nil]
     rw [← hp, h1, landAll_nil hp]
     simp
     rfl)

/-- What a long-latency instruction's effect leaves of its core: its results pending. -/
theorem settle_long {op : Op} {env : Env} {e : Effect} (hx : env.ctx = .main) (hp : e.core.pending = [])
    (hc : op.cls = .l) (ha : env.a = e.core.pc) (hj : e.jump = none) (hs : e.stays = false) :
    settle op env [] [] e = past (owing op.h e.core false e.dests e.flags e.counts e.late) := by
  simp only [settle, hc, hx, countIssue]
  simp [hp, hj, hs, past, owing, ha, going]

/-- What an array instruction's effect leaves of its core: its tile pending. -/
theorem settle_array {op : Op} {env : Env} {e : Effect} {n : Nat} (hx : env.ctx = .main) (hp : e.core.pending = [])
    (hc : op.cls = .array n) (ha : env.a = e.core.pc) (hj : e.jump = none) (hs : e.stays = false) :
    settle op env [] [] e = past (owing op.h e.core true e.dests e.flags e.counts e.late) := by
  simp only [settle, hc, hx, countIssue]
  simp [hp, hj, hs, past, owing, ha, going]

/-- A ready short instruction that writes registers: they are written at once. -/
theorem exec_short {op : Op} {s : State} {e : Effect} (hr : Ready s op.h)
    (ha : Allowed op (focusEnv s op.word) (focused s)) (hc : op.cls = .s ∨ op.cls = .b ∨ op.cls = .e)
    (hb : op.body (focusEnv s op.word) (focused s) = .ok e) (hp : e.core.pending = []) :
    issue op s = .next (e.posts.foldl applyPost (withFocus s
      (let c := addFlags (applyDests .main e.core e.dests) e.flags e.counts.sat e.counts.nan e.counts.ufl
       match e.jump with
       | some t => jumped c t
       | none => if e.stays then going c else advance (going c) .main (focused s).pc))) := by
  rw [issue_ready hr ha, hb]
  simp only [verdictOf, applyVerdict, withFocus]
  rw [settle_short rfl hp hc]
  rfl

/-- A ready long-latency instruction: its results are pending. -/
theorem exec_long {op : Op} {s : State} {e : Effect} (hr : Ready s op.h)
    (ha : Allowed op (focusEnv s op.word) (focused s)) (hc : op.cls = .l)
    (hb : op.body (focusEnv s op.word) (focused s) = .ok e) (hp : e.core.pending = []) (hpc : e.core.pc = (focused s).pc)
    (hj : e.jump = none) (hs : e.stays = false) (hq : e.posts = []) :
    issue op s = .next (did s (owing op.h e.core false e.dests e.flags e.counts e.late)) := by
  rw [issue_ready hr ha, hb]
  simp only [verdictOf, applyVerdict, did, withFocus, hq, List.foldl_nil]
  rw [settle_long (env := focusEnv s op.word) rfl hp hc hpc.symm hj hs]

/-- A ready array instruction: its tile is pending. -/
theorem exec_array {op : Op} {s : State} {e : Effect} {n : Nat} (hr : Ready s op.h)
    (ha : Allowed op (focusEnv s op.word) (focused s)) (hc : op.cls = .array n)
    (hb : op.body (focusEnv s op.word) (focused s) = .ok e) (hp : e.core.pending = []) (hpc : e.core.pc = (focused s).pc)
    (hj : e.jump = none) (hs : e.stays = false) (hq : e.posts = []) :
    issue op s = .next (did s (owing op.h e.core true e.dests e.flags e.counts e.late)) := by
  rw [issue_ready hr ha, hb]
  simp only [verdictOf, applyVerdict, did, withFocus, hq, List.foldl_nil]
  rw [settle_array (env := focusEnv s op.word) rfl hp hc hpc.symm hj hs]

@[simp] theorem addFlags_pc (c : Core) (f : BitVec 5) (x y z : Nat) : (addFlags c f x y z).pc = c.pc := rfl

/-- A ready short instruction whose body writes one x register. -/
theorem exec_wx {op : Op} {s : State} {d : Reg} {v : Word} (hr : Ready s op.h)
    (ha : Allowed op (focusEnv s op.word) (focused s)) (hc : op.cls = .s)
    (hb : op.body (focusEnv s op.word) (focused s) = wx (focused s) d v) :
    issue op s = .next (withFocus s (past (writeX (focused s) .main d.toNat v))) := by
  rw [exec_short hr ha (.inl hc) hb hr.plain.pending]
  simp [applyDest, past]

/-- A ready short instruction whose body changes its core alone. -/
theorem exec_done {op : Op} {s : State} {c : Core} (hr : Ready s op.h)
    (ha : Allowed op (focusEnv s op.word) (focused s)) (hc : op.cls = .s ∨ op.cls = .b)
    (hb : op.body (focusEnv s op.word) (focused s) = done c) (hp : c.pending = []) (hpc : c.pc = (focused s).pc) :
    issue op s = .next (withFocus s (past c)) := by
  rw [exec_short hr ha (by tauto) hb hp]
  simp [past, hpc]

/-- A ready short instruction that jumps. -/
theorem exec_jump {op : Op} {s : State} {c : Core} {t : BitVec 16} (hr : Ready s op.h)
    (ha : Allowed op (focusEnv s op.word) (focused s)) (hc : op.cls = .s ∨ op.cls = .b)
    (hb : op.body (focusEnv s op.word) (focused s) = .ok { core := c, jump := some t }) (hp : c.pending = []) :
    issue op s = .next (withFocus s (jumped c t)) := by
  rw [exec_short hr ha (by tauto) hb hp]
  simp

/-- A ready instruction that stalls or waits. -/
theorem exec_wait {op : Op} {s : State} {c : Core} {w : Wait} (hr : Ready s op.h)
    (ha : Allowed op (focusEnv s op.word) (focused s))
    (hb : op.body (focusEnv s op.word) (focused s) = .wait c w) :
    issue op s = .next (withFocus s { c with wait := w }) := by
  rw [issue_ready hr ha, hb]; rfl

/-- A ready instruction that traps. -/
theorem exec_trap {op : Op} {s : State} {code : BitVec 8} {v : Word} (hr : Ready s op.h)
    (ha : Allowed op (focusEnv s op.word) (focused s))
    (hb : op.body (focusEnv s op.word) (focused s) = .trap code v) :
    issue op s = .next (contextTrap { s with freeCtr := s.freeCtr + 1 } s.focus .main
      ⟨code, v, (focused s).pc, (focused s).pc, none, false⟩ (focused s).pc) := by
  rw [issue_ready hr ha, hb]; rfl

end Sys2Proof.Laws
end

