-- ==== Sys2Proof/Tests/Slice0.lean ====
section
/-! SUPPORT. Tests: words written out from the encodings of the spec, ill-formed terms that WellFormed refuses, small steps
whose results the spec works through, and for every statement with hypotheses concrete states and operands that meet them. -/

namespace Sys2Proof.Tests
open Sys2Proof Sys2Proof.Machine

set_option Elab.async false

/-! ## Words: R281, and the words that 12 to 20 work out field by field -/

theorem test_decode_nop : decode 0 = .ok .nop := by decide +kernel
theorem test_decode_fates : decode 0x0010_0000_0000_0000 = .error .reserved ∧ decode 0x0001_0000_0000_0000 = .error .reserved ∧
    decode 0x3700_0000_0000_0000 = .error .illegal ∧ decode 0x1E00_0000_0005_0000 = .error .illegal ∧
    decode 0x1000_0000_0000_0001 = .error .reserved ∧ decode 0x4000_8000_0000_9000 = .error .reserved ∧
    decode 0xFFFF_FFFF_FFFF_FFFF = .error .illegal ∧ decode 0x0230_0C42_FFFF_FFFE = .error .reserved := by decide +kernel
theorem test_decode_add : decode 0x1000_1451_8000_0000 = .ok (.add Hdr.plain .i64 5 5 6) := by decide +kernel
theorem test_decode_addi : decode 0x2000_1860_0000_0001 = .ok (.addi Hdr.plain 6 6 1) := by decide +kernel
theorem test_decode_xor : decode 0x1800_1C71_4000_0000 = .ok (.xor Hdr.plain 7 7 5) := by decide +kernel
theorem test_decode_brc : decode 0x0200_0C42_FFFF_FFFE = .ok (.brc Hdr.plain .lt 3 4 0xFFFF_FFFE) := by decide +kernel
theorem test_decode_loop : decode 0x0700_2410_0000_0003 = .ok (.loop Hdr.plain true 9 3) := by decide +kernel
theorem test_decode_ld : decode 0x3000_1C41_5B00_0040 = .ok (.ld Hdr.plain .i64 7 ⟨4, 5, 3, 0x40⟩) := by decide +kernel
theorem test_decode_seg : decode 0x3600_0000_0008_840A = .ok (.seg Hdr.plain 2 0x40 0x10 1) := by decide +kernel
theorem test_decode_vadd : decode 0x4035_1051_8000_9000 = .ok (.vadd ⟨3, 2, true⟩ .f32 4 5 6 .rne false Mask.plain) := by
  decide +kernel
theorem test_decode_vfma : decode 0x4370_2092_8800_9019 = .ok (.vfma ⟨7, 0, false⟩ .f32 8 9 10 8 .rtz ⟨3, false⟩) := by
  decide +kernel
theorem test_decode_vcvt : decode 0x4A10_1010_000C_9080 = .ok (.vcvt ⟨1, 0, false⟩ .f32 .e4m3 4 1 1 .rne false Mask.plain) := by
  decide +kernel
theorem test_decode_vscan : decode 0x5F00_1C60_0000_9000 = .ok (.vscan Hdr.plain .add .f32 7 6 .rne Mask.plain) := by
  decide +kernel
theorem test_decode_vdot : decode 0x6000_0C10_8000_C000 = .ok (.vdot Hdr.plain false 3 1 2 Mask.plain) := by decide +kernel
theorem test_decode_bcvt : decode 0x7000_2021_8009_F000 = .ok (.bcvt Hdr.plain .f32 .g32 false 8 2 6) := by decide +kernel
theorem test_decode_tld : decode 0x8280_1041_0500_004F = .ok (.tld ⟨8, 0, false⟩ 2 .p4 4 5 .nb false false true) := by
  decide +kernel
theorem test_decode_tmma : decode 0x8300_5300_0000_0000 = .ok (.tmma Hdr.plain 1 2 3) := by decide +kernel
theorem test_decode_vpop : decode 0x9400_4040_0000_0000 = .ok (.vpop Hdr.plain 16 1) := by decide +kernel
theorem test_decode_clset : decode 0x9A00_0010_0100_0000 = .ok (.clset Hdr.plain 1 16) := by decide +kernel
theorem test_decode_put : decode 0xA000_0208_6303_0000 = .ok (.put Hdr.plain ⟨0, 32, 33, 35, 3, 0⟩) := by decide +kernel
theorem test_decode_puts : decode 0xA100_2841_4603_01C0 = .ok (.puts Hdr.plain ⟨10, 4, 5, 6, 3, 0⟩ 7) := by decide +kernel
theorem test_decode_bread : decode 0xA500_2861_C801_0080 = .ok (.bread Hdr.plain 10 6 7 8 1 0x80) := by decide +kernel
theorem test_decode_waits : decode 0xA800_0142_C000_0000 = .ok (.waits Hdr.plain 20 11) := by decide +kernel
theorem test_decode_fence : decode 0xA900_0000_0000_0180 = .ok (.fence Hdr.plain .field) := by decide +kernel
theorem test_decode_hmov : decode 0xB100_0400_0002_0000 = .ok (.hmov Hdr.plain 1 .byc) := by decide +kernel
theorem test_decode_hst : decode 0xB200_0010_0300_2100 = .ok (.hst Hdr.plain .b8 ⟨1, 0, 0, 0x2100⟩) := by decide +kernel
theorem test_decode_hadd : decode 0xB300_8000_0200_0000 = .ok (.hadd Hdr.plain .b4 true 0 ⟨0, 0, 0, 0⟩) := by decide +kernel
theorem test_decode_prel : decode 0xB500_0140_0000_0000 = .ok (.prel Hdr.plain 0 20) := by decide +kernel
theorem test_decode_bar : decode 0xC000_0000_0000_0100 = .ok (.bar Hdr.plain 0 .quad) := by decide +kernel
theorem test_decode_dfadd : decode 0xC600_1031_4201_0000 = .ok (.dfadd Hdr.plain ⟨4, 3, 5, 2, 1, 0⟩) := by decide +kernel

/-! ## Terms that WellFormed refuses, one for each check -/

/-- Headers: a lookahead on a short instruction, a negation of no guard. -/
theorem test_wf_refuses_headers : (Instr.br ⟨1, 0, false⟩ 0).wf = false ∧ (Instr.mul ⟨1, 0, true⟩ .i64 1 2 3).wf = false ∧
    (Instr.nop).wf = true ∧ (Instr.hsemRead .both 0).wf = false := by decide +kernel
/-- Scalar and control instructions: types, bit fields, register limits, groups, targets. -/
theorem test_wf_refuses_scalar : (Instr.loop Hdr.plain true 1 0).wf = false ∧ (Instr.loop Hdr.plain true 1 0xFFFF_FFFF).wf = false ∧
    (Instr.add Hdr.plain .n64 1 2 3).wf = false ∧ (Instr.mul Hdr.plain .f64 1 2 3).wf = false ∧
    (Instr.mulh Hdr.plain .i32 1 2 3).wf = false ∧ (Instr.div Hdr.plain .i8 1 2 3).wf = false ∧
    (Instr.clz Hdr.plain .i32 1 2).wf = false ∧ (Instr.and ⟨1, 0, false⟩ 1 2 3).wf = false ∧
    (Instr.cmp Hdr.plain .eq true 8 1 2).wf = false ∧ (Instr.mov Hdr.plain .fx 8 1).wf = false ∧
    (Instr.mov Hdr.plain .xf 1 8).wf = false ∧ (Instr.mov Hdr.plain .ff 8 1).wf = false ∧
    (Instr.mov Hdr.plain .ff 1 8).wf = false ∧ (Instr.mov Hdr.plain .xlc 1 2).wf = false ∧
    (Instr.mov Hdr.plain .lcx 2 1).wf = false ∧ (Instr.ext Hdr.plain false 1 2 1 63).wf = false ∧
    (Instr.ins Hdr.plain 1 2 63 1).wf = false := by decide +kernel
theorem test_wf_refuses_float : (Instr.fadd Hdr.plain .f16 1 2 3 .rne).wf = false ∧ (Instr.fsqrt Hdr.plain .i64 1 2 .rne).wf = false ∧
    (Instr.fmin Hdr.plain .i32 1 2 3).wf = false ∧ (Instr.fcvt Hdr.plain .i64 .i32 1 2 .rne false).wf = false ∧
    (Instr.fcvt Hdr.plain .f32 .f32 1 2 .rne false).wf = false ∧ (Instr.fcvt Hdr.plain .f32 .f64 1 2 .rne true).wf = false ∧
    (Instr.fcmp Hdr.plain .eq .e4m3 false 1 2 3).wf = false ∧ (Instr.fcmp Hdr.plain .eq .f32 true 8 2 3).wf = false := by
  decide +kernel
theorem test_wf_refuses_memory : (Instr.st ⟨1, 0, false⟩ .b8 1 ⟨1, 0, 0, 0⟩).wf = false ∧
    (Instr.ldp Hdr.plain 1 ⟨1, 0, 0, 0⟩).wf = false ∧ (Instr.stp Hdr.plain 3 ⟨1, 0, 0, 0⟩).wf = false ∧
    (Instr.amo Hdr.plain .add .n32 1 2 3).wf = false ∧ (Instr.cas Hdr.plain .f64 1 2 3 4).wf = false ∧
    (Instr.seg Hdr.plain 0 0 1 7).wf = false ∧ (Instr.rdsys Hdr.plain 1 0x016).wf = false ∧
    (Instr.wrsys Hdr.plain 1 0x02E).wf = false := by decide +kernel
theorem test_wf_refuses_vector : (Instr.vadd Hdr.plain .i8 1 2 3 .rne false Mask.plain).wf = false ∧
    (Instr.vadd Hdr.plain .f32 1 2 3 .rne true Mask.plain).wf = false ∧ (Instr.vfma Hdr.plain .i32 1 2 3 4 .rne Mask.plain).wf = false ∧
    (Instr.vminmax Hdr.plain false .i16 1 2 3 Mask.plain).wf = false ∧ (Instr.vabsneg Hdr.plain .abs .n32 1 2 false Mask.plain).wf = false ∧
    (Instr.vlogic Hdr.plain .not .n32 1 2 3 Mask.plain).wf = false ∧ (Instr.vshift Hdr.plain .shl .n32 1 2 3 Mask.plain).wf = false ∧
    (Instr.vclass Hdr.plain .i32 1 2 Mask.plain).wf = false ∧ (Instr.vcmp Hdr.plain .un .i32 1 2 3 Mask.plain).wf = false ∧
    (Instr.vsel Hdr.plain .nb 1 2 3 4 Mask.plain).wf = false ∧ (Instr.vcvt Hdr.plain .f32 .e4m3 1 2 4 .rne false Mask.plain).wf = false ∧
    (Instr.vcvt Hdr.plain .i32 .i16 1 2 0 .rne false Mask.plain).wf = false ∧ (Instr.vred Hdr.plain .xor .f32 1 2 .rne 0).wf = false ∧
    (Instr.vscan Hdr.plain .add .e2m1 1 2 .rne Mask.plain).wf = false ∧ (Instr.vlds Hdr.plain .nb 1 2 3 Mask.plain).wf = false ∧
    (Instr.vsts ⟨1, 0, false⟩ .f32 1 2 3 Mask.plain).wf = false ∧ (Instr.vbcast Hdr.plain .i8 1 2 Mask.plain).wf = false ∧
    (Instr.vperm Hdr.plain .i8 1 2 3 Mask.plain).wf = false ∧ (Instr.vextr Hdr.plain .f64 1 2 8).wf = false ∧
    (Instr.vinsr Hdr.plain .f32 1 2 16).wf = false ∧ (Instr.vslide Hdr.plain .f64 1 2 3 9 Mask.plain).wf = false ∧
    (Instr.viota Hdr.plain .f32 1 2 3 Mask.plain).wf = false ∧ (Instr.vmask Hdr.plain .and 8 1 2).wf = false ∧
    (Instr.vmask Hdr.plain .not 1 1 2).wf = false ∧ (Instr.vmask Hdr.plain .popc 1 1 2).wf = false ∧
    (Instr.dmma Hdr.plain 1 2 4 6 .rne).wf = false ∧ (Instr.dmma Hdr.plain 2 2 4 7 .rne).wf = false := by decide +kernel
theorem test_wf_refuses_block_and_tensor : (Instr.bcvt Hdr.plain .f64 .g32 false 8 2 6).wf = false ∧
    (Instr.bcvt Hdr.plain .f32 .g128 false 2 8 6).wf = false ∧ (Instr.bcvt Hdr.plain .f32 .g32 false 8 1 6).wf = false ∧
    (Instr.bcvt Hdr.plain .e2m1 .g64 false 8 2 6).wf = false ∧ (Instr.bexp Hdr.plain .f32 .g64 1 2).wf = false ∧
    (Instr.bunp Hdr.plain .p8 1 2).wf = false ∧ (Instr.bnorm Hdr.plain 1 3 2 Mask.plain).wf = false ∧
    (Instr.bchk ⟨1, 0, false⟩ 1 2).wf = false ∧ (Instr.tld Hdr.plain 0 .p8 1 2 .nb true false false).wf = false ∧
    (Instr.tld Hdr.plain 0 .p8 1 2 .i8 false true false).wf = false ∧ (Instr.tld Hdr.plain 0 .p8 1 2 .f32 false false true).wf = false ∧
    (Instr.tld Hdr.plain 0 .p4 1 2 .i8 false false false).wf = false ∧ (Instr.trdRaw Hdr.plain 0 0 1 2).wf = false ∧
    (Instr.twrRaw Hdr.plain 0 0 3).wf = false ∧ (Instr.tsh Hdr.plain 0 48).wf = false ∧ (Instr.tsendOpen Hdr.plain 0 0).wf = false ∧
    (Instr.trecv Hdr.plain 1 2 3).wf = false := by decide +kernel
theorem test_wf_refuses_queue_and_remote : (Instr.vpop Hdr.plain 1 0).wf = false ∧ (Instr.qpeek Hdr.plain 1 0 17).wf = false ∧
    (Instr.vpush Hdr.plain 0 1).wf = false ∧ (Instr.cellar Hdr.plain 17 1).wf = false ∧
    (Instr.put Hdr.plain ⟨1, 2, 3, 4, 24, 0⟩).wf = false ∧ (Instr.awrite Hdr.plain ⟨1, 2, 3, 4, 0, 5⟩).wf = false ∧
    (Instr.ramo Hdr.plain .add ⟨1, 2, 1, 4, 0, 0⟩ 0).wf = false ∧ (Instr.ramo Hdr.plain .add ⟨1, 2, 3, 4, 0, 0⟩ 5).wf = false ∧
    (Instr.dfadd Hdr.plain ⟨1, 2, 1, 4, 0, 0⟩).wf = false ∧ (Instr.bread Hdr.plain 1 2 3 4 5 4).wf = false ∧
    (Instr.fence Hdr.plain .lane).wf = false ∧ (Instr.bar Hdr.plain 4 .quad).wf = false ∧ (Instr.bara Hdr.plain 0 .core).wf = false ∧
    (Instr.barw Hdr.plain 7 .pod).wf = false ∧ (Instr.hadd Hdr.plain .b8 true 0 ⟨1, 0, 0, 0⟩).wf = false ∧
    (Instr.pset ⟨1, 0, false⟩ 0 1).wf = false ∧ (Instr.evset ⟨2, 0, false⟩ 0).wf = false ∧
    (Instr.qbindIn ⟨1, 0, false⟩ 0 0).wf = false ∧ (Instr.lsub ⟨1, 0, false⟩ 1 2 0).wf = false := by decide +kernel

/-! ## Small states -/

/-- A launch on the four cores at the origin, with every larder. -/
def launch4 : Launch := { placedLaunch with rows := 2, cols := 2, larders := BitVec.allOnes 48, stallLim := 100, preemptLim := 1000 }
/-- The device as it runs that launch, each core at a NOP of its task 0. -/
def base : State :=
  { cores := [0, 1, 512, 513].map fun k => (k, placedCore {} 0)
    dev := { st := .ready }
    unrid := { launches := [launch4] } }
/-- The same with the core in focus changed. -/
def on (f : Core → Core) : State := { base with cores := fset base.cores 0 (f (placedCore {} 0)) }
/-- A core in user mode with a trap vector. -/
def user (c : Core) : Core := { c with sys := { c.sys with mode := false, vecen := true, vec := 5 } }
/-- A core with scalar registers set. -/
def xs (l : List (Nat × Word)) (c : Core) : Core := { c with regs := { c.regs with x := l } }

/-- Still, as it is evaluated. -/
def still (c : Core) : Bool :=
  c.pending.isEmpty && c.held.isNone && c.watch.isEmpty && ((List.range 4).all fun n => !(fget c.sys.dbgpc n 0).getLsbD 0) &&
    c.ops.isEmpty && c.breads.isEmpty
theorem still_of {c : Core} (h : still c = true) : Still c := by
  simp only [still, Bool.and_eq_true, List.isEmpty_iff, Option.isNone_iff_eq_none, List.all_eq_true, List.mem_range,
    Bool.not_eq_true'] at h
  obtain ⟨⟨⟨⟨⟨h1, h2⟩, h3⟩, h4⟩, h5⟩, h6⟩ := h
  exact ⟨h1, h2, h3, h4, h5, h6⟩
theorem plain_of {c : Core} (h : (still c && c.gang.isNone) = true) : Plain c := by
  simp only [Bool.and_eq_true, Option.isNone_iff_eq_none] at h
  exact ⟨still_of h.1, h.2⟩
/-- Ready, as it is evaluated. -/
def ready (s : State) (h : Hdr) : Bool :=
  inGrid s.focus && decide (s.ctx = .main) && (still (focused s) && (focused s).gang.isNone) &&
    (decide (h.g = 0) || decide ((readFm (focused s) h.g.toNat).getLsbD 0 ≠ h.gn))
theorem ready_of {s : State} {h : Hdr} (e : ready s h = true) : Ready s h := by
  simp only [ready, Bool.and_eq_true, Bool.or_eq_true, decide_eq_true_eq] at e
  obtain ⟨⟨⟨h1, h2⟩, h3⟩, h4⟩ := e
  exact ⟨h1, h2, plain_of (by simpa using h3), h4⟩
theorem access_of {s : State} {k : AccessKind} {al n : Nat} {as : List Nat}
    (h : (checkAccess (focused s) k al n as).isNone = true) : accessOk s k al n as := by simpa [accessOk] using h
/-- ReadyBusy, as it is evaluated. -/
def readyBusy (s : State) (h : Hdr) (refs : List RegRef) : Bool :=
  let c := focused s
  inGrid s.focus && decide (s.ctx = .main) && c.pending.isEmpty && c.held.isNone && c.watch.isEmpty &&
    ((List.range 4).all fun n => !(fget c.sys.dbgpc n 0).getLsbD 0) && c.gang.isNone && !engineHolds c refs &&
    (decide (h.g = 0) || decide ((readFm c h.g.toNat).getLsbD 0 ≠ h.gn))
theorem readyBusy_of {s : State} {h : Hdr} {refs : List RegRef} (e : readyBusy s h refs = true) : ReadyBusy s h refs := by
  simp only [readyBusy, Bool.and_eq_true, Bool.or_eq_true, decide_eq_true_eq, List.isEmpty_iff, Option.isNone_iff_eq_none,
    List.all_eq_true, List.mem_range, Bool.not_eq_true'] at e
  obtain ⟨⟨⟨⟨⟨⟨⟨⟨h1, h2⟩, h3⟩, h4⟩, h5⟩, h6⟩, h7⟩, h8⟩, h9⟩ := e
  exact ⟨h1, h2, h3, h4, h5, h6, h7, h8, h9⟩
/-- Whether an outcome goes on. -/
def answers (o : Host.Outcome State Fault Refusal) : Bool := match o with | .next _ => true | _ => false
theorem next_of {o : Host.Outcome State Fault Refusal} (h : answers o = true) : ∃ t, o = .next t := by
  cases o <;> first | exact ⟨_, rfl⟩ | simp [answers] at h
theorem some_of {α : Type} {o : Option α} (h : o.isSome = true) : ∃ a, o = some a := Option.isSome_iff_exists.mp h

/-- A handle of these forty bits, sealed. -/
def sealed (top : BitVec 40) : Word := top ++ Config.sealOf 0 top
theorem sealed_bit (top : BitVec 40) (k : BitVec 24) (i : Nat) :
    (top ++ k : Word).getLsbD i = if i < 24 then k.getLsbD i else top.getLsbD (i - 24) :=
  BitVec.getLsbD_append (x := top) (y := k) (i := i)
theorem sealed_low (top : BitVec 40) (k : BitVec 24) : (top ++ k : Word).extractLsb' 0 24 = k := by
  apply BitVec.eq_of_getLsbD_eq
  intro i hi
  rw [BitVec.getLsbD_extractLsb', sealed_bit]; simp [hi]
theorem sealed_field (top : BitVec 40) (k : BitVec 24) (n w : Nat) :
    (top ++ k : Word).extractLsb' (24 + n) w = top.extractLsb' n w := by
  apply BitVec.eq_of_getLsbD_eq
  intro i hi
  rw [BitVec.getLsbD_extractLsb', BitVec.getLsbD_extractLsb', sealed_bit, if_neg (by omega),
    show 24 + n + i - 24 = n + i by omega]
theorem sealed_high (top : BitVec 40) (k : BitVec 24) : (top ++ k : Word).extractLsb' 24 40 = top :=
  (sealed_field top k 0 40).trans (by simp)
theorem sealed_ok (top : BitVec 40) : sealOk 0 (sealed top) = true := by simp [sealOk, sealed, sealed_low, sealed_high]
theorem sealed_bad (top : BitVec 40) : sealOk 0 (top ++ (Config.sealOf 0 top + 1) : Word) = false := by
  simp [sealOk, sealed_low, sealed_high]

/-! ## Concrete states and operands that meet the hypotheses of each statement, its clauses and their boundaries -/

/-- A guarded header whose guard, f1, holds in the task's core as `guarded` sets it, and the same one negated. -/
def onF1 : Hdr := ⟨0, 1, false⟩
def notF1 : Hdr := ⟨0, 1, true⟩
/-- A core with predicate registers set. -/
def fs (l : List (Nat × BitVec 16)) (c : Core) : Core := { c with regs := { c.regs with f := l } }
/-- A core with vector registers set. -/
def vs (l : List (Nat × BitVec 512)) (c : Core) : Core := { c with regs := { c.regs with v := l } }

theorem ready_base : Ready base Hdr.plain := ready_of (by decide +kernel)

theorem witness_DecodeEncode : (Instr.add Hdr.plain .i64 5 5 6).wf = true ∧ (Instr.ext Hdr.plain true 63 0 63 0).wf = true ∧
    (Instr.ld ⟨15, 7, true⟩ .i64 63 ⟨63, 63, 7, 0xFFFFFF⟩).wf = true := by decide +kernel
theorem witness_EncodeDecode : decode 0 = .ok .nop ∧ (opOf 1 = 0 ∧ (1 : Word) ≠ 0) ∧
    formatOf (opOf (BitVec.allOnes 64)).toNat = none := by decide +kernel

/-- The word at the PC of the core in focus replaced. -/
def atWord (w : Nat) : State := on fun c => { c with istore := c.istore.writeLE 0 8 w }
theorem witness_StepRunsDecoded :
    (base.agenda = [] ∧ inGrid base.focus = true ∧ base.dev.stopped = false ∧ (focused base).halted = false ∧
      (focused base).frozen = false ∧ (focused base).sleep = .awake ∧ (focused base).running.isSome = true ∧
      (focused base).gang = none ∧ (focused base).resetting = false ∧ (focused base).draining = false ∧
      (focused base).wait = .run ∧ base.dev.faults = [] ∧ (focused base).handlers = [] ∧ decode (istoreWord (focused base) (focused base).pc) = .ok .nop) ∧
    decode (istoreWord (focused (atWord 0x1000_1451_8000_0000)) 0) = .ok (.add Hdr.plain .i64 5 5 6) ∧
    decode (istoreWord (focused (atWord (2 ^ 64 - 1))) 0) = .error .illegal ∧
    decode (istoreWord (focused (atWord 1)) 0) = .error .reserved ∧
    ({ base with agenda := [.event .powerLoss, .elapse 3] } : State).agenda = .event .powerLoss :: [.elapse 3] ∧
    isFetched .powerLoss = false ∧ ({ base with agenda := [.issue 0 0] } : State).agenda = .issue 0 0 :: [] ∧
    ({ base with agenda := [.elapse 0] } : State).agenda = .elapse 0 :: [] := by decide +kernel
theorem witness_StepRunsDecoded_handlers : ∀ k, (handlerAt (focused base) k).busy = false := by
  intro k; simp [show (focused base).handlers = [] by decide +kernel, handlerAt, fget, ffind]
theorem test_step_add : answers (step (atWord 0x1000_1451_8000_0000)) = true := by decide +kernel

/-- A launch that loads: its image has one role, the whole region, with one code section of 8 bytes for address 16. -/
def imageL : Image :=
  { mapgen := 1, rows := 2, cols := 2, roles := [⟨0, none, 0, 0, 1, 1⟩], sections := [⟨true, 16, 8, 0⟩],
    classMask := 0, quadBar := 0, fieldBar := 0, waferBar := 0, podBar := 0, storePa := 0, len := 64 }
def launchL : Launch := { launch4 with st := .loading, img := some imageL }
def loading : State := { base with unrid := { launches := [launchL], images := [(0, imageL)] } }
theorem witness_StartOfACore : launchNum loading 1 = some launchL ∧ loading.dev.stopped = false ∧ launchL.st = .loading ∧
    faulted loading 1 = false ∧
    argLost loading launchL = false ∧ launchL.img = some imageL ∧
    launchL.lflags.getLsbD 1 = false ∧ launchL.orgCol + launchL.cols ≤ 384 ∧ 0 ∈ regionKeys launchL ∧
    roleOf imageL 0 0 = some ⟨0, none, 0, 0, 1, 1⟩ ∧ imageL.sections[0]? = some ⟨true, 16, 8, 0⟩ := by decide +kernel
theorem witness_StoppedInFatal : (∀ t, step State.reset = .next t → fatalStops State.reset) ∧
    answers (step State.reset) = true ∧
    fatalStops { base with dev := { base.dev with st := .fatal, stopped := true } } ∧
    answers (step { base with dev := { base.dev with st := .fatal, stopped := true } }) = true :=
  ⟨fun _ _ h => by simp [State.reset] at h, by decide +kernel, fun _ => rfl, by decide +kernel⟩

/-- The guard forms of a ready task: no guard, a guard that holds, a negated guard that holds. -/
theorem witness_Ready : Ready base ⟨15, 0, false⟩ ∧ Ready (on (fs [(1, 1)])) onF1 ∧ Ready (on (fs [(1, 0xFFFE)])) notF1 :=
  ⟨ready_of (by decide +kernel), ready_of (by decide +kernel), ready_of (by decide +kernel)⟩
theorem witness_IntegerResults : Ready base Hdr.plain := ready_base
theorem witness_MulDivResults : Ready base Hdr.plain := ready_base
theorem witness_ShiftBitResults : Ready base Hdr.plain ∧ Ty.i32.isI = true ∧ Ty.i64.isI = true := ⟨ready_base, by decide⟩
theorem witness_ImmediateAndMoveResults : Ready base Hdr.plain ∧ (0 : BitVec 6).toNat + (63 : BitVec 6).toNat + 1 ≤ 64 ∧
    (63 : BitVec 6).toNat + (0 : BitVec 6).toNat + 1 ≤ 64 := ⟨ready_base, by decide⟩
theorem witness_FloatResults : Ready base Hdr.plain ∧ (readF .f32 0x7FC0_0000).isNan = true ∧ (readF .f32 0x3F80_0000).isNan = false :=
  ⟨ready_base, by decide +kernel⟩

theorem witness_LoadAndStoreResults :
    let s := on (xs [(1, 0x7FFF8), (2, 0x7FFF0)])
    Ready s Hdr.plain ∧ accessOk s loads 8 8 [memAddr s ⟨1, 0, 0, 0⟩] ∧ accessOk s loads 1 1 [memAddr s ⟨0, 0, 0, 0⟩] ∧
    accessOk s loads 1 1 [memAddr s ⟨1, 0, 0, 7⟩] ∧ (groupBase 2 4 = true ∧ groupBase 2 62 = true) ∧
    accessOk s loads 16 16 [memAddr s ⟨2, 0, 0, 0⟩] ∧
    (anyClash (pairGroups 4 ⟨2, 0, 0, 0⟩) = false) ∧ accessOk s stores 8 8 [memAddr s ⟨1, 0, 0, 0⟩] ∧
    accessOk s stores 16 16 [memAddr s ⟨2, 0, 0, 0⟩] :=
  ⟨ready_of (by decide +kernel), access_of (by decide +kernel), access_of (by decide +kernel), access_of (by decide +kernel),
    by decide +kernel, access_of (by decide +kernel), by decide +kernel, access_of (by decide +kernel),
    access_of (by decide +kernel)⟩
theorem witness_StoreFrame :
    let s := on (xs [(1, 0x7FFF8), (5, 0x0102_0304_0506_0708)])
    Ready s Hdr.plain ∧ accessOk s stores 8 8 [memAddr s ⟨1, 0, 0, 0⟩] ∧
    (∃ t, exec (.st Hdr.plain .b8 5 ⟨1, 0, 0, 0⟩) s = .next t) ∧ (0x7FFF7 < memAddr s ⟨1, 0, 0, 0⟩) ∧
    (memAddr s ⟨1, 0, 0, 0⟩ + stBytes .b8 ≤ 0x80000) :=
  ⟨ready_of (by decide +kernel), access_of (by decide +kernel), next_of (by decide +kernel), by decide +kernel⟩
theorem witness_AtomicResults :
    let s := on (xs [(1, 0x7FFF8), (2, 5)])
    Ready s Hdr.plain ∧ Ty.i64.isI = true ∧ accessOk s updates 8 8 [(xr s 1).toNat] ∧ Ty.n32.isI = false ∧
    Ty.i32.isI = true ∧ accessOk s updates 4 4 [(xr s 1).toNat] :=
  ⟨ready_of (by decide +kernel), by decide, access_of (by decide +kernel), by decide, by decide, access_of (by decide +kernel)⟩
theorem witness_MisalignmentAndSegments :
    let s := on (xs [(1, 1), (2, 8)])
    Ready s Hdr.plain ∧ memAddr s ⟨1, 0, 0, 0⟩ % memBytes .i64 ≠ 0 ∧ memAddr s ⟨1, 0, 0, 0⟩ % stBytes .b2 ≠ 0 ∧
    memAddr s ⟨2, 0, 0, 0⟩ % 64 ≠ 0 ∧ segmentOk (focused s) 0 ⟨true, 0, 128, 0⟩ = true ∧
    segmentOk (focused s) 7 ⟨true, 127, 1, 0⟩ = true ∧ segmentOk (focused s) 0 ⟨true, 0, 0, 0⟩ = false ∧
    segmentOk (focused s) 0 ⟨true, 0, 129, 0⟩ = false ∧ segmentOk (focused s) 0 ⟨true, 127, 2, 0⟩ = false :=
  ⟨ready_of (by decide +kernel), by decide +kernel⟩
/-- A PUT in flight from the 64 bytes at 0x2000. -/
def putOp : EngineOp :=
  { kind := .put, xs := 5, xd := 0, tag := 1, msgs := 1, answers := [], cls := 3, drow := 1, dcol := 1, handle := 0, lo := 0x2000,
    len := 64, src := true, signal := none }
/-- The core in focus with that PUT, and with one valid segment, from 0x1000 to 0x2000. -/
def putting : State := on fun c => { xs [(1, 0x2008), (2, 0x80000), (3, 0x2009), (4, 4), (6, 0x1FF8), (7, 0x2000)] c with ops := [putOp] }
def confined : State := on fun c => { xs [(7, 0x2000)] c with sys := { c.sys with seg := [(0, ⟨true, 1, 1, 0⟩)] } }
theorem putting_in (a n : Nat) (h : a + n ≤ 0x80000) : inBounds (focused putting) a n :=
  ⟨h, .inl (by decide +kernel), fun b sz e => by rw [show (focused putting).cellar = none by decide +kernel] at e; cases e⟩
theorem confined_out : ¬ inBounds (focused confined) 0x2000 8 := fun h => by
  rcases h.2.1 with h | ⟨i, hi, h⟩
  · exact absurd (h 0 (by decide)) (by decide +kernel)
  · exact (by decide +kernel : ∀ i, i < 8 → ¬ ((fget (focused confined).sys.seg i {}).valid = true ∧
      4096 * (fget (focused confined).sys.seg i {}).base.toNat ≤ 0x2000 ∧ 0x2000 + 8 ≤ 4096 *
        ((fget (focused confined).sys.seg i {}).base.toNat + (fget (focused confined).sys.seg i {}).size.toNat))) i hi h
theorem putting_locked (a n : Nat) (h : rangesMeet a n 0x2000 64 = true) :
    ¬ ∀ o, o ∈ (focused putting).ops → o.src = true → rangesMeet a n o.lo o.len = false := fun f => by
  have := f putOp (by decide +kernel) rfl
  rw [show putOp.lo = 0x2000 from rfl, show putOp.len = 64 from rfl, h] at this
  cases this
theorem witness_MisalignmentAndSegments_traps :
    let m := fun r : Reg => (⟨r, 0, 0, 0⟩ : MemOp)
    (ReadyBusy putting Hdr.plain (memRefs (m 1) ++ [.x 8]) ∧ ReadyBusy putting Hdr.plain (memRefs (m 1) ++ xpair 8) ∧
      anyClash (pairGroups 8 (m 1)) = false ∧ ReadyBusy putting Hdr.plain (memRefs (m 1)) ∧
      ReadyBusy putting Hdr.plain (Machine.xs [1, 2, 3, 4]) ∧ ReadyBusy putting Hdr.plain (Machine.xs [6, 4]) ∧ Ty.i64.isI = true) ∧
    accessTraps (focused putting) stores 8 8 [memAddr putting (m 3)] eAlign 0x2009 ∧
    accessTraps (focused putting) loads 8 8 [memAddr putting (m 2)] eBound 0x80000 ∧
    accessTraps (focused confined) loads 8 8 [memAddr confined (m 7)] eBound 0x2000 ∧
    accessTraps (focused putting) updates 8 8 [(xr putting 1).toNat] eLock 0x2008 ∧
    accessTraps (focused putting) stores 4 4 ((liveLanes putting .f32 0).map fun i => (xr putting 6 + BitVec.ofNat 64 i * xr putting 4).toNat)
      eLock 0x2000 := by
  have hl : ((liveLanes putting .f32 0).map fun i => (xr putting 6 + BitVec.ofNat 64 i * xr putting 4).toNat) =
    [0x1FF8, 0x1FFC] ++ 0x2000 :: (List.range 13).map fun i => 0x2004 + 4 * i := by decide +kernel
  refine ⟨⟨readyBusy_of (by decide +kernel), readyBusy_of (by decide +kernel), by decide, readyBusy_of (by decide +kernel),
    readyBusy_of (by decide +kernel), readyBusy_of (by decide +kernel), rfl⟩,
    .inl ⟨rfl, [], [], by decide +kernel, by simp, by decide⟩,
    .inr ⟨by decide +kernel, .inl ⟨rfl, [], [], by decide +kernel, by simp, fun h => by have := h.1; omega⟩⟩,
    .inr ⟨by decide +kernel, .inl ⟨rfl, [], [], by decide +kernel, by simp, confined_out⟩⟩,
    .inr ⟨by decide +kernel, .inr ⟨rfl, rfl, ?_, [], [], by decide +kernel, by simp, putting_locked _ _ (by decide)⟩⟩, ?_⟩
  · intro a ha
    rw [show (xr putting 1).toNat = 0x2008 by decide +kernel] at ha
    rw [List.mem_singleton.mp ha]
    exact ⟨putting_in _ _ (by decide), by decide +kernel⟩
  · rw [hl]
    refine .inr ⟨by decide, .inr ⟨rfl, rfl, fun a ha => ?_, [0x1FF8, 0x1FFC], _, rfl, ?_, putting_locked _ _ (by decide)⟩⟩
    · have := (by decide +kernel : ∀ a, a ∈ [0x1FF8, 0x1FFC] ++ 0x2000 :: ((List.range 13).map fun i => 0x2004 + 4 * i) →
        a + 4 ≤ 0x80000 ∧ watchHit (focused putting) stores.load stores.store a 4 = none) a ha
      exact ⟨putting_in _ _ this.1, this.2⟩
    · intro b hb o ho _
      have ho' : o = putOp := by
        rw [show (focused putting).ops = [putOp] by decide +kernel] at ho; exact List.mem_singleton.mp ho
      rw [ho']
      exact (by decide : ∀ b, b ∈ [0x1FF8, 0x1FFC] → rangesMeet b 4 0x2000 64 = false) b hb
theorem witness_BranchAndLoopResults : Ready base Hdr.plain ∧ Ready (on (fs [(1, 1)])) onF1 := ⟨ready_base, ready_of (by decide +kernel)⟩
theorem witness_NextAddress :
    let s := on user
    let i : Instr := .wrsys onF1 1 0
    let j : Instr := .wrsys onF1 1 0x008
    inGrid s.focus = true ∧ s.ctx = .main ∧ Plain (focused s) ∧
    (i.wf = true ∧ ¬ guardTrue (hdrOf (encode i)) (focused s) ∧ privByWord s i = true) ∧
    (j.wf = true ∧ ¬ guardTrue (hdrOf (encode j)) (focused s) ∧ privByWord s j = false) :=
  ⟨by decide +kernel, rfl, plain_of (by decide +kernel), by unfold guardTrue; decide +kernel, by unfold guardTrue; decide +kernel⟩
theorem witness_TrapEntry :
    (Plain (focused (on user)) ∧ (focused (on user)).sys.mode = false ∧ (focused (on user)).sys.vecen = true) ∧
    (Plain (focused base) ∧ (focused base).sys.mode = true) ∧
    (let s := on fun c => { user c with sys := { (user c).sys with vecen := false } }
     Plain (focused s) ∧ (focused s).sys.mode = false ∧ (focused s).sys.vecen = false) :=
  ⟨⟨plain_of (by decide +kernel), by decide +kernel⟩, ⟨plain_of (by decide +kernel), by decide +kernel⟩,
    plain_of (by decide +kernel), by decide +kernel⟩
/-- The core in focus with a handler's trap held, and with a deferred trap. -/
def heldS : State := on fun c => { user c with held := some ⟨4, 5, 7, 0x40⟩ }
def lateP (n : Nat) (w : Bool) : Pending := ⟨.main, 8, [], n, w, false, 0, 0, 0, 0, some ⟨4, 5⟩⟩
def lateS (n : Nat) (w : Bool) : State := on fun c => { user c with pending := [lateP n w] }
theorem witness_TrapEntry_held :
    (Instr.nop.wf = true ∧ inGrid heldS.focus = true ∧ heldS.ctx = .main ∧ (focused heldS).gang = none ∧
      (focused heldS).sys.mode = false ∧ (focused heldS).sys.vecen = true ∧ (focused heldS).held = some ⟨4, 5, 7, 0x40⟩ ∧
      (focused heldS).pending = [] ∧ ∀ n, n < 4 → (fget (focused heldS).sys.dbgpc n 0).getLsbD 0 = false) ∧
    (∀ x ∈ [(3, false), (0, false), (3, true)], let s := lateS x.1 x.2
      inGrid s.focus = true ∧ s.ctx = .main ∧ (focused s).gang = none ∧ (focused s).sys.mode = false ∧ (focused s).sys.vecen = true ∧
      (pendingOf (focused s) .main).find? (·.late.isSome) = some (lateP x.1 x.2) ∧ (lateP x.1 x.2).late = some ⟨4, 5⟩) := by
  decide +kernel
/-- The gang of the quad, the load address of its first core off by one. -/
def gangLd : State :=
  { base with cores := base.cores.map fun c => (c.1, { user (xs [(1, if c.1 = 0 then 0x1001 else 0x1000)] c.2) with
      gang := some ⟨decide (c.1 = 0), false, 0, 0⟩ }) }
theorem witness_TrapEntry_gang :
    let g : GangSt := ⟨true, false, 0, 0⟩
    let addr := fun k => memAddr { gangLd with focus := k } ⟨1, 0, 0, 0⟩
    inGrid gangLd.focus = true ∧ gangLd.ctx = .main ∧ (focused gangLd).gang = some g ∧ (gangKeys g).Nodup ∧
    (∀ k, k ∈ gangKeys g → Still (coreAt gangLd k) ∧ guardTrue Hdr.plain (coreAt gangLd k) ∧ (coreAt gangLd k).sys.mode = false ∧
      (coreAt gangLd k).sys.vecen = true) ∧
    (∀ k, k ∈ gangKeys g → addr k % memBytes .i64 = 0 → checkAccess (coreAt gangLd k) loads 8 8 [addr k] = none) ∧
    (∃ k, k ∈ gangKeys g ∧ addr k % memBytes .i64 ≠ 0) :=
  ⟨by decide +kernel, rfl, by decide +kernel, by decide,
    fun k hk => ⟨still_of ((by decide +kernel : ∀ k, k ∈ [0, 1, 512, 513] → still (coreAt gangLd k) = true) k hk), .inl rfl,
      (by decide +kernel : ∀ k, k ∈ [0, 1, 512, 513] → (coreAt gangLd k).sys.mode = false ∧ (coreAt gangLd k).sys.vecen = true) k hk⟩,
    by decide +kernel, 0, by decide, by decide +kernel⟩
theorem witness_RequestedTrapsAndReturn :
    (Ready (on user) Hdr.plain ∧ (focused (on user)).sys.mode = false ∧ (focused (on user)).sys.vecen = true) ∧
    Ready base Hdr.plain ∧ (focused base).sys.mode = true :=
  ⟨⟨ready_of (by decide +kernel), by decide +kernel⟩, ready_base, by decide +kernel⟩

/-- The fields of a handle above its seal are those of its forty bits. -/
theorem sealed_rect (top : BitVec 40) (k : BitVec 24) : handleRect (top ++ k : Word) = handleRect (top ++ 0#24 : Word) := by
  have f : ∀ n w, (top ++ k : Word).extractLsb' (24 + n) w = (top ++ 0#24 : Word).extractLsb' (24 + n) w := fun n w => by
    rw [sealed_field, sealed_field]
  have h1 := f 32 8
  have h2 := f 23 9
  have h3 := f 16 7
  simp only [Nat.reduceAdd] at h1 h2 h3
  simp only [handleRect, extOf, h1, h2, h3]
theorem sealed_inRect (top : BitVec 40) (k : BitVec 24) (r c : Nat) : inRect (top ++ k : Word) r c = inRect (top ++ 0#24 : Word) r c := by
  simp only [inRect, sealed_rect]
theorem sealed_right (top : BitVec 40) (k : BitVec 24) (n : Nat) : (top ++ k : Word).getLsbD (24 + n) = top.getLsbD n := by
  rw [sealed_bit, if_neg (by omega)]; congr 1; omega
/-- What a sealed handle reaches, from its forty bits. -/
theorem sealed_reaches {s : State} (top : BitVec 40) {n row col : Nat} (hk : s.dev.sealKey = 0) (hr : top.getLsbD n = true)
    (hi : inRect (top ++ 0#24 : Word) row col = true) : reachedBy s (sealed top) (24 + n) row col := by
  refine ⟨by rw [hk]; exact sealed_ok top, ?_, ?_⟩
  · rw [sealed, sealed_right]; exact hr
  · rw [sealed, sealed_inRect]; exact hi
theorem sealed_unreached {s : State} (top : BitVec 40) {n row col : Nat} (hi : inRect (top ++ 0#24 : Word) row col = false) :
    ¬ reachedBy s (sealed top) (24 + n) row col := fun h => by
  have := h.2.2
  rw [sealed, sealed_inRect, hi] at this
  exact absurd this (by simp)

/-- A handle with every right for the grid, and one for its core (0, 0) alone. -/
def wideTop : BitVec 40 := 0#8 ++ 0#9 ++ 89#7 ++ 15#4 ++ 0#12
def smallTop : BitVec 40 := 0#8 ++ 0#9 ++ 0#7 ++ 15#4 ++ 0#12
def wideWord : Word := wideTop ++ 0#24
def smallWord : Word := smallTop ++ 0#24

theorem narrow_small : (narrow 0 (sealed wideTop) smallWord).isSome = true := by
  have hr : (sealed wideTop).extractLsb' 36 4 = (wideWord : Word).extractLsb' 36 4 :=
    (sealed_field wideTop _ 12 4).trans (sealed_field wideTop 0 12 4).symm
  have ha : handleRect (sealed wideTop) = handleRect wideWord := sealed_rect wideTop _
  unfold narrow
  rw [sealed_ok, hr, ha]
  rw [if_neg (by simp), if_neg (by decide +kernel), if_neg (by decide +kernel), if_neg (by decide +kernel)]
  rfl
theorem narrow_wide : narrow 0 (sealed smallTop) wideWord = none := by
  have ha : handleRect (sealed smallTop) = handleRect smallWord := sealed_rect smallTop _
  unfold narrow
  rw [sealed_ok, ha, if_neg (by simp), if_neg (by decide +kernel), if_pos (by decide +kernel)]

theorem witness_SystemRegisterReads :
    let s := on (xs [(1, sealed wideTop), (2, smallWord), (3, sealed smallTop), (4, wideWord),
      (5, (wideTop ++ (Config.sealOf 0 wideTop + 1) : Word))])
    (Ready base Hdr.plain ∧ (focused base).sys.mode = true) ∧ (Ready (on user) Hdr.plain ∧ (focused (on user)).sys.mode = false) ∧
    (¬ (0x012 ≤ (0x010#12).toNat ∧ (0x010#12).toNat ≤ 0x015) ∧ 0x012 ≤ (0x012#12).toNat ∧ (0x015#12).toNat ≤ 0x015 ∧
      ¬ (0x012 ≤ (0x016#12).toNat ∧ (0x016#12).toNat ≤ 0x015) ∧ (0x016#12 : BitVec 12) ≠ 0x011) ∧
    Ready s Hdr.plain ∧ (narrow s.dev.sealKey (xr s 1) (xr s 2)).isSome = true ∧ narrow s.dev.sealKey (xr s 3) (xr s 4) = none ∧
    sealOk s.dev.sealKey (xr s 5) = false :=
  ⟨⟨ready_base, by decide +kernel⟩, ⟨ready_of (by decide +kernel), by decide +kernel⟩, by decide,
    ready_of (by decide +kernel), narrow_small, narrow_wide, sealed_bad wideTop⟩

theorem witness_SystemRegisterWrites :
    let s := on fun c => xs [(1, 1)] { c with sys := { c.sys with det := true } }
    (Ready s Hdr.plain ∧ (focused s).sys.mode = true ∧ (focused s).sys.det = true ∧ (xr s 1).getLsbD 0 = true ∧
      (xr s 2).getLsbD 0 = false) ∧
    (let c := on fun c => xs [(1, 0x7000_0008_1001), (2, 0x0000_0007_0000_0000), (3, 0x1000)] { c with sys := { c.sys with
        seg := [(0, ⟨true, 16, 1, 0⟩), (1, ⟨true, 1, 1, 0⟩), (7, ⟨false, 127, 1, 0⟩)] } }
     let put := fun (k : Nat) (v : Word) => let g := fget (focused c).sys.seg k {}
       ({ g with valid := v.getLsbD 0, base := v.extractLsb' 12 7 } : Segment)
     Ready c Hdr.plain ∧ (focused c).sys.mode = true ∧ (xr c 1).extractLsb' 32 3 ≠ 7 ∧ (xr c 2).extractLsb' 32 3 = 7 ∧
     ((put 0 (xr c 1)).valid = true ∧ segmentOk (focused c) 0 (put 0 (xr c 1)) = false) ∧
     ((put 7 (xr c 3)).valid = false ∧ landedNow (focused c) = { cycle := (focused c).stamp })) ∧
    (focused base).sys.det = false ∧ (0x011#12) ∈ [0x002#12, 0x007#12, 0x00A#12, 0x00B#12, 0x00C#12, 0x00D#12, 0x011#12] ∧
    (Ready (on user) Hdr.plain ∧ (focused (on user)).sys.mode = false ∧
      0x000#12 ∉ [0x008#12, 0x009#12, 0x00E#12, 0x00F#12, 0x010#12] ∧ 0x011#12 ∉ [0x008#12, 0x009#12, 0x00E#12, 0x00F#12, 0x010#12] ∧
      (xr (on user) 1).extractLsb' 32 3 ≠ 7) :=
  ⟨⟨ready_of (by decide +kernel), by decide +kernel⟩, ⟨ready_of (by decide +kernel), by decide +kernel⟩, by decide +kernel,
    by decide, ready_of (by decide +kernel), by decide +kernel⟩
/-- The rule of segments for descriptor 0, as SegmentRegisterRules has it. -/
def keepsOf (seg : FMap Segment) (g : Segment) : Prop :=
  1 ≤ g.size.toNat ∧ g.size.toNat ≤ 128 ∧ g.base.toNat + g.size.toNat ≤ 128 ∧
    ∀ j, j < 8 → j ≠ 0 → (fget seg j {}).valid = true →
      g.base.toNat + g.size.toNat ≤ (fget seg j {}).base.toNat ∨
        (fget seg j {}).base.toNat + (fget seg j {}).size.toNat ≤ g.base.toNat
/-- Descriptor 0 of base 0 and size 1 valid, descriptor 1 of base 1 and size 1 valid, and operands for their registers. -/
theorem witness_SegmentRegisterRules :
    let s := on fun c => xs [(1, 0x7F001), (2, 0x1001), (3, 0x1000), (4, 0x80000), (5, 0x81000), (6, 0x1000)]
      { c with sys := { c.sys with det := true, seg := [(0, ⟨true, 0, 1, 0⟩), (1, ⟨true, 1, 1, 0⟩)] } }
    let base := fun r : Reg => let g := fget (focused s).sys.seg 0 {}
      ({ g with valid := (xr s r).getLsbD 0, base := (xr s r).extractLsb' 12 7 } : Segment)
    let size := fun r : Reg => let g := fget (focused s).sys.seg 0 {}
      ({ g with size := (xr s r).extractLsb' 12 8, span := (xr s r).extractLsb' 32 3 } : Segment)
    let keeps := keepsOf (focused s).sys.seg
    Ready s Hdr.plain ∧ (focused s).sys.mode = true ∧ (focused s).sys.det = true ∧ (xr s 0).getLsbD 0 = false ∧
    (keeps (base 1) ∧ (base 1).valid = true) ∧ (¬keeps (base 2) ∧ (base 2).valid = true) ∧ (base 3).valid = false ∧
    ((xr s 4).extractLsb' 32 3 ≠ 7 ∧ ¬keeps (size 4) ∧ (size 4).valid = true) ∧ ¬keeps (size 5) ∧ ¬keeps (size 0) ∧
    keeps (size 6) :=
  ⟨ready_of (by decide +kernel), by decide +kernel, by decide +kernel, by decide +kernel, by unfold keepsOf; decide +kernel,
    by unfold keepsOf; decide +kernel, by decide +kernel, by unfold keepsOf; decide +kernel, by unfold keepsOf; decide +kernel,
    by unfold keepsOf; decide +kernel, by unfold keepsOf; decide +kernel⟩

/-- A core whose task 1 is ready, with no task running. -/
def idle1 (c : Core) : Core :=
  { c with running := none, sys := { c.sys with evflags := 2 }
           tasks := [(0, taskZero 0), (1, { taskZero 16 with k := 1 })] }
theorem witness_TasksAndDispatch :
    (Ready (on user) Hdr.plain ∧ (focused (on user)).running = some 0 ∧ ffind (focused (on user)).tasks 0 = some (taskZero 0) ∧
      (focused (on user)).sys.mode = false ∧ (focused (on user)).opens = []) ∧
    (Ready base Hdr.plain ∧ (focused base).running = some 0 ∧ (focused base).sys.mode = true) ∧
    (let s := on idle1
     let c := refreshReady (coreAt s (keyOf 0 0))
     c.running = none ∧ c.halted = false ∧ c.resetting = false ∧ c.frozen = false ∧ c.draining = false ∧ c.gang = none ∧ c.sleep = .awake ∧
     s.dev.stopped = false ∧ (nextTask c).map (·.1) = some 1 ∧ (nextTask c).map (setWins c ·.2) = some false) ∧
    (let s := on fun c => { idle1 c with
       stamp := 5
       landed := { cycle := 5, sets := 2 }
       tasks := [(1, { taskZero 16 with k := 1, readyAt := some 3 })] }
     let c := refreshReady (coreAt s (keyOf 0 0))
     (nextTask c).map (setWins c ·.2) = some true) :=
  ⟨⟨ready_of (by decide +kernel), by decide +kernel⟩, ⟨ready_base, by decide +kernel⟩, by decide +kernel, by decide +kernel⟩

/-- Every core of the small region changed. -/
def allOn (f : Nat → Core → Core) : State := { base with cores := base.cores.map fun c => (c.1, f c.1 c.2) }
theorem witness_GangsFormAndDissolve :
    let num := fun (s : State) k => (launchOf s (rowOf k) (colOf k)).map (·.num)
    let ks := gangKeys (groupOf base.focus false)
    let waiting := allOn fun k c => if k = 0 then c else { c with wait := .gang false }
    let g : GangSt := ⟨true, false, 0, 0⟩
    let ganged := allOn fun k c => { c with gang := some { g with leader := decide (k = 0) } }
    (Ready base Hdr.plain ∧ (∀ k, k ∈ gangKeys (groupOf base.focus true) → k ≠ base.focus → atOther false (coreAt base k) = false) ∧
      (∀ k, k ∈ ks → num base k = num base base.focus) ∧ (1 ∈ ks ∧ 1 ≠ base.focus ∧ (coreAt base 1).wait ≠ .gang false)) ∧
    (Ready waiting Hdr.plain ∧
      (∀ k, k ∈ gangKeys (groupOf waiting.focus true) → k ≠ waiting.focus → atOther false (coreAt waiting k) = false) ∧
      (∀ k, k ∈ ks → num waiting k = num waiting waiting.focus) ∧
      (∀ k, k ∈ ks → k ≠ waiting.focus → (coreAt waiting k).wait = .gang false ∧
        (heldBoundary (coreAt waiting k) .main (coreAt waiting k).pc).isTrap = false)) ∧
    (inGrid ganged.focus = true ∧ ganged.ctx = .main ∧ (focused ganged).gang = some g ∧
      (∀ k, k ∈ gangKeys g →
        Still (coreAt ganged k) ∧ guardTrue Hdr.plain (coreAt ganged k) ∧ (coreAt ganged k).gang.isSome = true)) :=
  ⟨⟨ready_base, by decide +kernel⟩, ⟨ready_of (by decide +kernel), by decide +kernel⟩, by decide +kernel, rfl, by decide +kernel,
    fun k hk => ⟨still_of ((by decide +kernel : ∀ k, k ∈ [0, 1, 512, 513] → still (coreAt (allOn fun k c =>
      { c with gang := some ⟨decide (k = 0), false, 0, 0⟩ }) k) = true) k hk), .inl rfl,
      (by decide +kernel : ∀ k, k ∈ [0, 1, 512, 513] → (coreAt (allOn fun k c =>
      { c with gang := some ⟨decide (k = 0), false, 0, 0⟩ }) k).gang.isSome = true) k hk⟩⟩

theorem witness_SleepWaitsAndFences :
    let s := on (xs [(1, 0x7FFF8), (2, 5)])
    let awake := on fun c => { c with markers := [(1, 1)] }
    (Ready s Hdr.plain ∧ (focused s).opens = [] ∧ nothingOutstanding (focused s) = true ∧ delivering (focused s) = false ∧
      wakes (focused s) = false ∧ accessOk s loads 8 8 [(xr s 1).toNat] ∧ (focused s).caps = []) ∧
    (Ready awake Hdr.plain ∧ (focused awake).opens = [] ∧ nothingOutstanding (focused awake) = true ∧
      delivering (focused awake) = false ∧ wakes (focused awake) = true) :=
  ⟨⟨ready_of (by decide +kernel), by decide +kernel, by decide +kernel, by decide +kernel, by decide +kernel,
    access_of (by decide +kernel), by decide +kernel⟩, ready_of (by decide +kernel), by decide +kernel⟩
theorem witness_BarriersAndEventFlags :
    let s := on fun c => { c with arrivals := 0x80_0008, sys := { c.sys with mode := true } }
    (Ready base Hdr.plain ∧ (focused base).opens = [] ∧ (focused base).caps = [] ∧
      holdsBarrier (launchOf base (rowOf base.focus) (colOf base.focus)) .quad 3 = true ∧
      holdsBarrier (launchOf base (rowOf base.focus) (colOf base.focus)) .field 7 = true ∧
      (focused base).arrivals.getLsbD (barBit .quad 3) = false ∧ (focused base).sys.mode = true) ∧
    (Ready s Hdr.plain ∧ holdsBarrier (launchOf s (rowOf s.focus) (colOf s.focus)) .pod 3 = true ∧
      (focused s).arrivals.getLsbD (barBit .quad 3) = true ∧ (focused s).arrivals.getLsbD (barBit .pod 3) = true) :=
  ⟨⟨ready_base, by decide +kernel⟩, ready_of (by decide +kernel), by decide +kernel⟩

theorem witness_SleepWaitsAndFences_busy :
    let get := on fun c => { c with ops := [{ putOp with kind := .get }], caps := [] }
    (ReadyBusy putting Hdr.plain [] ∧ putOp ∈ (focused putting).ops ∧ putOp.kind ∈ [EngKind.put, .puts, .radd, .ramo, .dfadd] ∧
      inScope .field putting.focus (keyOf putOp.drow putOp.dcol) = true) ∧
    (ReadyBusy get Hdr.plain [] ∧ fenceTags .pod get.focus (focused get) = []) :=
  ⟨⟨readyBusy_of (by decide +kernel), by decide +kernel⟩, readyBusy_of (by decide +kernel), by decide +kernel⟩
theorem witness_BarriersAndEventFlags_busy :
    ReadyBusy putting Hdr.plain [] ∧ (focused putting).opens = [] ∧
    holdsBarrier (launchOf putting (rowOf putting.focus) (colOf putting.focus)) .field 7 = true ∧
    fenceTags .field putting.focus (focused putting) ≠ [] ∧ fenceTags .field base.focus (focused base) = [] ∧
    (focused putting).runsCode = true ∧ (focused putting).arrivals.getLsbD (barBit .field 7) = false :=
  ⟨readyBusy_of (by decide +kernel), by decide +kernel⟩

theorem witness_VectorArithmetic : Ready base Hdr.plain ∧ ((64 = 32 ∨ 64 = 64) ∧ 7 < 512 / 64) ∧ ((32 = 32 ∨ 32 = 64) ∧ 15 < 512 / 32) ∧
    Ty.n32.isInt = true ∧ Ty.f64.isInt = false := ⟨ready_base, by decide⟩
theorem witness_VectorBits : Ready base Hdr.plain ∧ 15 < 512 / Ty.f32.width ∧ 7 < 512 / Ty.i64.width := ⟨ready_base, by decide⟩
theorem witness_VectorReductionsAndMoves : Ready base Hdr.plain := ready_base
theorem witness_MasksAndVectorMemory :
    let s := on fun c => fs [(1, 0x8001)] (xs [(1, 0x7FFC0), (2, 8), (3, 0x7FF80)] c)
    Ready s Hdr.plain ∧ accessOk s loads 64 64 [memAddr s ⟨1, 0, 0, 0⟩] ∧ accessOk s stores 64 64 [memAddr s ⟨1, 0, 0, 0⟩] ∧
    liveLanes s .f32 1 = [0, 15] ∧
    accessOk s loads 4 4 ((liveLanes s .f32 1).map fun i => (xr s 3 + BitVec.ofNat 64 i * xr s 2).toNat) ∧
    accessOk s stores 4 4 ((liveLanes s .f32 1).map fun i => (xr s 3 + BitVec.ofNat 64 i * xr s 2).toNat) ∧
    accessOk s loads 4 4 ((liveLanes s .f32 1).map fun i => ((xr s 1).toNat + lanev s .f32 0 i * 2 ^ 3) % 2 ^ 64) ∧
    accessOk s stores 4 4 ((liveLanes s .f32 1).map fun i => ((xr s 1).toNat + lanev s .f32 0 i * 2 ^ 3) % 2 ^ 64) :=
  ⟨ready_of (by decide +kernel), access_of (by decide +kernel), access_of (by decide +kernel), by decide +kernel,
    access_of (by decide +kernel), access_of (by decide +kernel), access_of (by decide +kernel), access_of (by decide +kernel)⟩
theorem witness_DotProducts : Ready base Hdr.plain ∧ anyClash [vgroup 2 2, vgroup 2 4, vgroup 2 6, vgroup 2 8] = false ∧
    anyClash [vgroup 2 2, vgroup 2 2, vgroup 2 2, vgroup 2 2] = false := ⟨ready_base, by decide +kernel⟩

theorem witness_BlockConversion :
    let s := on fun c => vs [(1, 0xFF), (2, 0x7F), (3, 0xFE)] (xs [(1, 0x0100), (2, 0xFE00), (3, 0xFF00), (4, 0xFE), (5, 1), (6, 0xFF)] c)
    Ready s Hdr.plain ∧ (Ty.f32 ≠ .e2m1) ∧
    (wfield (xr s 1) 8 8 = 1 ∧ wfield (xr s 2) 8 8 = 254 ∧ wfield (xr s 3) 8 8 = 255 ∧ wfield (xr s 0) 8 8 = 0) ∧
    ((blockIn (vr s 1)).E = 255 ∧ (blockIn (vr s 2)).E = 127 ∧ (blockIn (vr s 0)).E = 0 ∧ (blockIn (vr s 3)).E = 254) ∧
    (anyClash [[.v (2 : VReg).toNat], vgroup 2 4] = false ∧ anyClash [[.v (1 : VReg).toNat], vgroup 2 4] = false) ∧
    (wfield (xr s 4) 0 8 ≠ 0 ∧ wfield (xr s 4) 0 8 ≠ 255 ∧ (blockIn (vr s 3)).E ≤ wfield (xr s 4) 0 8) ∧
    (wfield (xr s 5) 0 8 ≠ 0 ∧ wfield (xr s 5) 0 8 ≠ 255 ∧ wfield (xr s 5) 0 8 < (blockIn (vr s 2)).E) ∧
    (wfield (xr s 6) 0 8 = 255 ∧ wfield (xr s 0) 0 8 = 0) :=
  ⟨ready_of (by decide +kernel), by decide +kernel⟩

/-- A core with slot 0 claimed with blocks, slot 1 claimed with bytes, the others free. -/
def slots (c : Core) : Core :=
  { c with regs := { c.regs with t := [(0, { claimed := true, i8 := false, planes := .p8, rows := [] }),
                                       (1, { claimed := true, i8 := true, planes := .p8, rows := [] })] } }
/-- A flit with nothing in it. -/
def flit0 : Flit := { payload := 0, side := 0 }
theorem witness_BlockChecksAndSlots :
    let s := on fun c => slots (xs [(1, 0x0500_00FE), (2, 5), (3, 0xFF)] c)
    let full := setRouter base (keyOf 0 0) { out := ([0, 1, 2, 3, 4] : List Nat).map fun o => (32 * o + 30, [flit0]) }
    Ready s Hdr.plain ∧ (wfield (xr s 1) 0 8 ≠ 255 ∧ wfield (xr s 1) 24 8 = wfield (xr s 2) 0 8) ∧
    (wfield (xr s 0) 0 8 ≠ 255 ∧ wfield (xr s 0) 24 8 ≠ wfield (xr s 2) 0 8) ∧ wfield (xr s 3) 0 8 = 255 ∧
    anyClash [vgroup 2 2, [.v (4 : VReg).toNat]] = false ∧
    statRoom s s.focus = true ∧ (Ready full Hdr.plain ∧ statRoom full full.focus = false) ∧
    ((readSlot (focused s) (7 : BitVec 3).toNat).claimed = false ∧ (readSlot (focused s) (6 : BitVec 3).toNat).claimed = false ∧
      (6 : BitVec 3).toNat ≤ (7 : BitVec 3).toNat) ∧
    (readSlot (focused s) (0 : BitVec 3).toNat).claimed = true ∧ (landedNow (focused s)).results = [] :=
  ⟨ready_of (by decide +kernel), by decide +kernel, by decide +kernel, by decide +kernel, by decide +kernel,
    by decide +kernel, ⟨ready_of (by decide +kernel), by decide +kernel⟩, by decide +kernel⟩
theorem witness_TileLoad :
    let s := on fun c => slots (xs [(1, 0x1000), (2, 32)] c)
    let src : Ty → TileSrc := fun fmt => ⟨fmt, false, false, false, planeCount .p4, xr s 1, xr s 2⟩
    Ready s Hdr.plain ∧ (readSlot (focused s) (0 : BitVec 3).toNat).claimed = true ∧
    (tldFmtOk .nb = true ∧ checkReads (focused s) (src .nb).reads = none ∧ (src .nb).late (focused s) = none) ∧
    (tldFmtOk .i8 = true ∧ checkReads (focused s) (src .i8).reads = none ∧ (src .i8).late (focused s) = none) ∧
    (tldFmtOk .f32 = true ∧ checkReads (focused s) (src .f32).reads = none ∧ (src .f32).late (focused s) = none) :=
  ⟨ready_of (by decide +kernel), by decide +kernel⟩
theorem witness_ArrayProducts :
    let s := on slots
    Ready s Hdr.plain ∧ (readSlot (focused s) 0).claimed = true ∧ (readSlot (focused s) 1).claimed = true ∧
    (readSlot (focused s) 0).i8 = false ∧ (readSlot (focused s) 1).i8 = true := ⟨ready_of (by decide +kernel), by decide +kernel⟩
theorem witness_TileAccess :
    let s := on fun c => { c with regs := { c.regs with
      x := [(1, 511), (2, 0x7FF80), (3, 0x3FF)], a := [(0, { el := [(255, 5)], exp := 3 })], q := [(1, .inQ 3)] } }
    Ready s Hdr.plain ∧ (readAcc (focused s) 0).exp.toInt < ((xr s 1).setWidth 10).toInt ∧
    ((xr s 0).setWidth 10).toInt ≤ (readAcc (focused s) 0).exp.toInt ∧ ((xr s 3).setWidth 10).toInt ≤ (readAcc (focused s) 0).exp.toInt ∧
    accessOk s loads 8 8 ((List.range 16).map fun j => (xr s 2).toNat + 8 * j) ∧ readQ (focused s) 1 = .inQ 3 ∧
    readQ (focused s) 15 = .unbound :=
  ⟨ready_of (by decide +kernel), by decide +kernel, by decide +kernel, by decide +kernel, access_of (by decide +kernel),
    by decide +kernel⟩

/-- Pantry 0 inbound with two filled sectors, 1 outbound, both of 4096 bytes; the others invalid. -/
def pantries (c : Core) : Core :=
  { c with pantries := [(0, ⟨0x1000, 12, true, false, 6, 1, 0, 0⟩), (1, ⟨0x2000, 12, true, true, 3, 0, 5, 0⟩)] }
theorem sealed_eq (s : State) (r : Reg) (top : BitVec 40) (h : xr s r = sealed top) (hk : s.dev.sealKey = 0) :
    sealOk s.dev.sealKey (xr s r) = true := by rw [h, hk]; exact sealed_ok top
theorem sealed_target (l : Option Launch) (top : BitVec 40) (v : Word) :
    absTarget l (some (sealed top)) v = absTarget l (some (top ++ 0#24 : Word)) v := by
  have f : ∀ (x : Word) k n, k + n ≤ 64 → wfield x k n = (x.extractLsb' k n).toNat := fun x k n h => by
    simp [wfield, BitVec.extractLsb'_toNat]
  have g : ∀ n w, 24 + n + w ≤ 64 → wfield (sealed top) (24 + n) w = wfield (top ++ 0#24 : Word) (24 + n) w := fun n w h => by
    rw [f _ _ _ h, f _ _ _ h, sealed, sealed_field, sealed_field]
  simp only [absTarget, show (56 : Nat) = 24 + 32 from rfl, show (47 : Nat) = 24 + 23 from rfl]
  rw [g 32 8 (by omega), g 23 9 (by omega)]

theorem witness_BindingsAndEntries_bind :
    let s := on fun c => pantries { c with regs := { c.regs with
      x := [(1, 0x0001_0080_0000_0000), (2, sealed wideTop), (3, sealed smallTop), (4, 47), (5, wideTop ++ (Config.sealOf 0 wideTop + 1)),
            (6, 0x032F)] } }
    let held := on fun c => { c with opens := [(3, ⟨1, 0, 0⟩)] }
    Ready s Hdr.plain ∧ mayRebind (focused s) 0 = true ∧
    (classAllowed (launchHere s) (23 : BitVec 5).toNat = true ∧ classAllowed (launchHere s) (0 : BitVec 5).toNat = true) ∧
    ((24 : BitVec 5) = 24 ∧ (focused s).sys.mode = true) ∧
    (classAllowed (launchHere s) (25 : BitVec 5).toNat = false ∧ (25 : BitVec 5) ≠ 24) ∧
    (Ready (on user) Hdr.plain ∧ mayRebind (focused (on user)) 0 = true ∧
      classAllowed (launchHere (on user)) (24 : BitVec 5).toNat = false ∧ (focused (on user)).sys.mode = false) ∧
    ((xr s 1).extractLsb' 57 6 = 0 ∧ inShape (launchHere s) (xr s 1) = true ∧ absTarget (launchHere s) none (xr s 1) = (1, 1) ∧
      unavailable s.dev 1 1 = false) ∧
    (reachedBy s (xr s 2) 36 1 1 ∧ absTarget (launchHere s) (some (xr s 2)) (xr s 1) = (1, 1)) ∧
    (¬ reachedBy s (xr s 3) 36 1 1 ∧ absTarget (launchHere s) (some (xr s 3)) (xr s 1) = (1, 1)) ∧
    ((pantryAt (focused s) 0).valid = true ∧ (pantryAt (focused s) 0).outbound = false) ∧
    ((pantryAt (focused s) 1).outbound = true ∧ (pantryAt (focused s) 7).valid = false) ∧
    (((xr s 6).extractLsb' 0 6).toNat ≤ 47 ∧ bindsLarder (launchHere s) ((xr s 6).extractLsb' 0 6).toNat = true) ∧
    (((xr s 0).extractLsb' 0 6).toNat ≤ 47 ∧ bindsLarder (launchHere s) ((xr s 0).extractLsb' 0 6).toNat = true) ∧
    (sealOk s.dev.sealKey (xr s 2) = true ∧ sealOk s.dev.sealKey (xr s 5) = false) ∧
    (Ready held Hdr.plain ∧ mayRebind (focused held) 3 = false) ∧ readQ (focused s) 15 = .unbound := by
  intro s held
  have h2 : xr s 2 = sealed wideTop := rfl
  have h3 : xr s 3 = sealed smallTop := rfl
  have h5 : xr s 5 = wideTop ++ (Config.sealOf 0 wideTop + 1) := rfl
  have h1 : xr s 1 = 0x0001_0080_0000_0000 := rfl
  have hl : launchHere s = some launch4 := by decide +kernel
  refine ⟨ready_of (by decide +kernel), by decide +kernel, by decide +kernel, by decide +kernel, by decide +kernel,
    ⟨ready_of (by decide +kernel), by decide +kernel⟩, by decide +kernel, ⟨?_, ?_⟩, ⟨?_, ?_⟩, by decide +kernel, by decide +kernel,
    by decide +kernel, by decide +kernel, ⟨?_, ?_⟩, ⟨ready_of (by decide +kernel), by decide +kernel⟩, by decide +kernel⟩
  · rw [h2]; exact sealed_reaches (n := 12) wideTop rfl (by decide +kernel) (by decide +kernel)
  · rw [h2, h1, hl, sealed_target]; decide +kernel
  · rw [h3]; exact sealed_unreached (n := 12) smallTop (by decide +kernel)
  · rw [h3, h1, hl, sealed_target]; decide +kernel
  · exact sealed_eq s 2 wideTop h2 rfl
  · rw [h5]; exact sealed_bad wideTop
theorem witness_BindingsAndEntries_entries :
    let s := on (xs [(1, 0x70000), (2, 0x0004_0008), (3, 3), (4, 0x400), (5, 0x00F8_0001)])
    Ready s Hdr.plain ∧ classAllowed (launchHere s) (23 : BitVec 5).toNat = true ∧ routeReserved ((xr s 0).setWidth 32) = false ∧
    (focused s).sys.det = false ∧ (let d := on fun c => xs [(1, 2)] { c with sys := { c.sys with det := true } }
      Ready d Hdr.plain ∧ (focused d).sys.det = true ∧ routeReserved ((xr d 1).setWidth 32) = false ∧
      ((xr d 1).setWidth 32 : BitVec 32).extractLsb' 0 2 = 2) ∧ (routeReserved ((xr s 3).setWidth 32) = false ∧ routeReserved ((xr s 4).setWidth 32) = true) ∧
    ((xr s 2).getLsbD 18 = true ∧ (xr s 2).toNat % 8 = 0) ∧
    (classAllowed (launchHere s) ((xr s 3).extractLsb' 19 5).toNat = true ∧ (xr s 3).toNat % 8 ≠ 0) ∧
    ((focused s).sys.mode = true ∧ cellarEntries (focused s) = []) ∧
    ((16 : BitVec 5) ≠ 0 ∧ ((xr s 1).setWidth 19 : BitVec 19).toNat % 4096 = 0 ∧
      ((xr s 1).setWidth 19 : BitVec 19).toNat + 4096 * (16 : BitVec 5).toNat ≤ 0x80000 ∧
      overPantry (focused s) ((xr s 1).setWidth 19 : BitVec 19).toNat (4096 * (16 : BitVec 5).toNat) = false) ∧
    (Ready (on user) Hdr.plain ∧ (focused (on user)).sys.mode = false) :=
  ⟨ready_of (by decide +kernel), by decide +kernel, by decide +kernel, by decide +kernel,
    ⟨ready_of (by decide +kernel), by decide +kernel⟩, by decide +kernel, by decide +kernel,
    by decide +kernel, by decide +kernel, by decide +kernel, ready_of (by decide +kernel), by decide +kernel⟩
theorem witness_BindingsAndEntries_refusals :
    let s := on fun c => pantries { c with regs := { c.regs with
      x := [(1, 0x0200_0000_0000_0000), (2, sealed wideTop), (3, 0x0002_0000_0000_0000), (4, 48), (5, 5)] } }
    let off := { s with unrid := { launches := [{ launch4 with larders := 0 }] } }
    Ready s Hdr.plain ∧ mayRebind (focused s) 0 = true ∧ classAllowed (launchHere s) (0 : BitVec 5).toNat = true ∧
    ((xr s 1).extractLsb' 57 6 ≠ 0 ∧ inShape (launchHere s) (xr s 3) = false) ∧
    (reachedBy s (xr s 2) 36 0 0 ∧ absTarget (launchHere s) (some (xr s 2)) (xr s 1) = (0, 0)) ∧
    classAllowed (launchHere s) (24 : BitVec 5).toNat = false ∧ 47 < ((xr s 4).extractLsb' 0 6).toNat ∧
    (Ready off Hdr.plain ∧ mayRebind (focused off) 0 = true ∧ ((xr off 5).extractLsb' 0 6).toNat = 5 ∧
      bindsLarder (launchHere off) 5 = false) := by
  intro s off
  have h2 : xr s 2 = sealed wideTop := rfl
  have h1 : xr s 1 = 0x0200_0000_0000_0000 := rfl
  have hl : launchHere s = some launch4 := by decide +kernel
  refine ⟨ready_of (by decide +kernel), by decide +kernel, by decide +kernel, by decide +kernel, ⟨?_, ?_⟩, by decide +kernel,
    by decide +kernel, ready_of (by decide +kernel), by decide +kernel⟩
  · rw [h2]; exact sealed_reaches (n := 12) wideTop rfl (by decide +kernel) (by decide +kernel)
  · rw [h2, h1, hl, sealed_target]; decide +kernel
theorem witness_BindingsAndEntries_cellar :
    let s := on fun c => pantries (xs [(1, 0x70800), (2, 0x70000), (3, 0x1000)] c)
    let base := fun r => ((xr s r).setWidth 19 : BitVec 19).toNat
    let full := on fun c => { c with cellar := some (0x70000, 4096), sram := c.sram.writeLE (0x70000 + 136 * 28) 8 (2 ^ 63) }
    Ready s Hdr.plain ∧ (focused s).sys.mode = true ∧ cellarEntries (focused s) = [] ∧
    ((1 : BitVec 5) ≠ 0 ∧ base 1 % 4096 ≠ 0) ∧
    (base 2 % 4096 = 0 ∧ base 2 + 4096 * (16 : BitVec 5).toNat = 0x80000 ∧ overPantry (focused s) (base 2) 0x10000 = false) ∧
    (base 3 % 4096 = 0 ∧ overPantry (focused s) (base 3) (4096 * (1 : BitVec 5).toNat) = true) ∧
    (Ready full Hdr.plain ∧ (focused full).sys.mode = true ∧ cellarEntries (focused full) ≠ []) :=
  ⟨ready_of (by decide +kernel), by decide +kernel, by decide +kernel, by decide +kernel, by decide +kernel, by decide +kernel,
    ready_of (by decide +kernel), by decide +kernel⟩
theorem witness_BindingsAndEntries_cellar_end :
    let s := on (xs [(1, 0x71000)])
    Ready s Hdr.plain ∧ (focused s).sys.mode = true ∧ cellarEntries (focused s) = [] ∧
    ((xr s 1).setWidth 19 : BitVec 19).toNat % 4096 = 0 ∧
    0x80000 < ((xr s 1).setWidth 19 : BitVec 19).toNat + 4096 * (16 : BitVec 5).toNat := ⟨ready_of (by decide +kernel), by decide +kernel⟩

/-- A flit of a class and kind. -/
def flitOf (cls kind : Nat) (p : BitVec 1024) : Flit := { payload := p, side := BitVec.ofNat 64 (cls + 32 * kind) }
theorem witness_Receiving :
    let f := flitOf 3 0 5
    let g := flitOf 3 10 5
    let s := fun fs => on fun c => pantries { c with
      regs := { c.regs with q := [(0, .inQ 3), (1, .pantry 0 0), (2, .pantry 0 3)] }, queues := fs }
    (Ready (s []) Hdr.plain ∧ readQ (focused (s [])) 0 = .inQ 3 ∧ (focused (s [])).opens = [] ∧ popFlit (focused (s [])) 3 = none) ∧
    (Ready (s [(3, [f])]) Hdr.plain ∧ queueOf (focused (s [(3, [f])])) 3 = f :: [] ∧
      popFlit (focused (s [(3, [f])])) 3 = some (f, setQueue (focused (s [(3, [f])])) 3 []) ∧
      (setQueue (focused (s [(3, [f])])) 3 []).pending = [] ∧
      (setQueue (focused (s [(3, [f])])) 3 []).pc = (focused (s [(3, [f])])).pc) ∧
    (popFlit (focused (s [(3, [g])])) 3 = some (g, setQueue (focused (s [(3, [g])])) 3 []) ∧ flitKind g = 10) ∧
    ((30 : VReg).toNat % 2 = 0 ∧ (15 : BitVec 5).toNat < 16) ∧
    (readQ (focused (s [])) 1 = .pantry 0 0 ∧ readQ (focused (s [])) 2 = .pantry 0 3 ∧
      (pantryAt (focused (s [])) 0).valid = true ∧ (pantryAt (focused (s [])) 0).outbound = false ∧
      0 < ((pantryAt (focused (s [])) 0).fill - (pantryAt (focused (s [])) 0).cur).toNat ∧
      4 ≤ pantryW (pantryAt (focused (s [])) 0) ∧
      4 ≤ ((pantryAt (focused (s [])) 0).fill - (pantryAt (focused (s [])) 0).cur).toNat) :=
  ⟨⟨ready_of (by decide +kernel), by decide +kernel⟩, ⟨ready_of (by decide +kernel), by decide +kernel⟩, by decide +kernel⟩

theorem own_of {s : State} {row col : Nat} (l : Launch) (h : launchHere s = some l) (hi : inRegion l row col = true) :
    inOwn s row col := ⟨l, h, hi⟩
theorem witness_Sending :
    let s := fun os => on fun c => { c with regs := { c.regs with q := [(0, .outQ 3 1 1 0)] }, opens := os }
    (Ready (s []) Hdr.plain ∧ readQ (focused (s [])) 0 = .outQ 3 1 1 0 ∧ otherOpen (focused (s [])) 0 3 = none ∧
      (egressOf (focused (s [])) 3).length < 2 ∧ inOwn (s []) 1 1 ∧ unavailable (s []).dev 1 1 = false ∧
      ffind (focused (s [])).opens 0 = none ∧ (30 : VReg).toNat % 2 = 0) ∧
    (let o : OpenMsg := ⟨32, 4079, 5⟩
     Ready (s [(0, o)]) Hdr.plain ∧ otherOpen (focused (s [(0, o)])) 0 3 = none ∧ ffind (focused (s [(0, o)])).opens 0 = some o ∧
     o.cursor + 8 ≤ 128 * o.flits ∧ o.cursor % 128 + 8 < 128 ∧ o.cursor / 128 < o.flits) ∧
    (let o : OpenMsg := ⟨1, 128, 0⟩
     Ready (s [(0, o)]) Hdr.plain ∧ otherOpen (focused (s [(0, o)])) 0 3 = none ∧ ffind (focused (s [(0, o)])).opens 0 = some o ∧
     o.cursor = 128 * o.flits) ∧
    (let o : OpenMsg := ⟨1, 0, 0⟩
     Ready (s [(0, o)]) Hdr.plain ∧ otherOpen (focused (s [(0, o)])) 0 3 = none ∧ ffind (focused (s [(0, o)])).opens 0 = some o ∧
     o.cursor / 128 < o.flits ∧ o.flits - o.cursor / 128 ≤ 2 - (egressOf (focused (s [(0, o)])) 3).length) ∧
    (let o : OpenMsg := ⟨3, 0, 0⟩
     Ready (s [(0, o)]) Hdr.plain ∧ otherOpen (focused (s [(0, o)])) 0 3 = none ∧ ffind (focused (s [(0, o)])).opens 0 = some o ∧
     2 - (egressOf (focused (s [(0, o)])) 3).length < o.flits - o.cursor / 128) :=
  ⟨⟨ready_of (by decide +kernel), by decide +kernel, by decide +kernel, by decide +kernel,
    own_of launch4 (by decide +kernel) (by decide +kernel), by decide +kernel⟩,
    ⟨ready_of (by decide +kernel), by decide +kernel⟩, ⟨ready_of (by decide +kernel), by decide +kernel⟩,
    ⟨ready_of (by decide +kernel), by decide +kernel⟩, ready_of (by decide +kernel), by decide +kernel⟩
theorem witness_Sending_joined :
    let s := fun os => on fun c => { c with regs := { c.regs with q := [(0, .outQ 3 1 1 0)] }, opens := os }
    (let o : OpenMsg := ⟨2, 8, 5⟩
     Ready (s [(0, o)]) Hdr.plain ∧ otherOpen (focused (s [(0, o)])) 0 3 = none ∧ ffind (focused (s [(0, o)])).opens 0 = some o ∧
     o.cursor + 128 ≤ 128 * o.flits ∧ (30 : VReg).toNat % 2 = 0) ∧
    (behindOf (focused (s [])) 3).length < 2 :=
  ⟨⟨ready_of (by decide +kernel), by decide +kernel⟩, by decide +kernel⟩
theorem witness_Sending_capability :
    let s := on fun c => { c with regs := { c.regs with q := [(0, .cap (sealed wideTop))], v := [(2, 1#512 <<< 64)] } }
    let v : BitVec 1024 := readV (focused s) .main 3 ++ vr s 2
    Ready s Hdr.plain ∧ readQ (focused s) 0 = .cap (sealed wideTop) ∧ (2 : VReg).toNat % 2 = 0 ∧
    (v.extractLsb' 64 8).toNat ∈ [1, 2] ∧ ((sealed wideTop).extractLsb' 56 8).toNat + (v.extractLsb' 208 16).toNat = 0 ∧
    ((sealed wideTop).extractLsb' 47 9).toNat + (v.extractLsb' 224 16).toNat = 0 ∧ reachedBy s (sealed wideTop) 39 0 0 ∧
    (focused s).caps = [] ∧ queueOf (focused s) 27 = [] ∧ (egressOf (focused s) 25).length < 2 ∧ unavailable s.dev 0 0 = false := by
  intro s v
  have h1 : (sealed wideTop).extractLsb' 56 8 = wideTop.extractLsb' 32 8 := sealed_field wideTop _ 32 8
  have h2 : (sealed wideTop).extractLsb' 47 9 = wideTop.extractLsb' 23 9 := sealed_field wideTop _ 23 9
  refine ⟨ready_of (by decide +kernel), rfl, by decide +kernel, by decide +kernel, ?_, ?_, ?_, by decide +kernel, by decide +kernel,
    by decide +kernel, by decide +kernel⟩
  · rw [h1]; decide +kernel
  · rw [h2]; decide +kernel
  · exact sealed_reaches (n := 15) wideTop rfl (by decide +kernel) (by decide +kernel)

theorem coreReaches_of {s : State} {v : Word} {n : Nat}
    (h : v.getLsbD 63 = false ∧ v.extractLsb' 57 6 = 0 ∧ inShape (launchHere s) v = true ∧
      unavailable s.dev (absTarget (launchHere s) none v).1 (absTarget (launchHere s) none v).2 = false ∧
      (v.extractLsb' 0 39).toNat < 0x80000 ∧ (v.extractLsb' 0 39).toNat + n ≤ 0x80000) : coreReaches s none v n := h
/-- Registers of a transfer through a handle: the same, with handles that reach every core and core (0, 0) alone. -/
def movingBy : State :=
  on (xs [(1, 0x7FFE0), (2, 0x0001_0080_0007_FFE0), (3, 32), (4, sealed wideTop), (5, sealed smallTop), (6, 0x0001_0080_0007_FFF8)])
theorem reaches_wide : coreReaches movingBy (some (xr movingBy 4)) (xr movingBy 2) 32 ∧
    coreReaches movingBy (some (xr movingBy 4)) (xr movingBy 6) 8 := by
  have h4 : xr movingBy 4 = sealed wideTop := rfl
  have h2 : xr movingBy 2 = 0x0001_0080_0007_FFE0 := rfl
  have h6 : xr movingBy 6 = 0x0001_0080_0007_FFF8 := rfl
  have hl : launchHere movingBy = some launch4 := by decide +kernel
  simp only [coreReaches, h4, h2, h6, hl, sealed_target]
  have t2 : absTarget (some launch4) (some (wideTop ++ 0#24 : Word)) 0x0001_0080_0007_FFE0 = (1, 1) := by decide +kernel
  have t6 : absTarget (some launch4) (some (wideTop ++ 0#24 : Word)) 0x0001_0080_0007_FFF8 = (1, 1) := by decide +kernel
  have hr : reachedBy movingBy (sealed wideTop) 36 1 1 := sealed_reaches (n := 12) wideTop rfl (by decide +kernel) (by decide +kernel)
  rw [t2, t6]
  exact ⟨⟨by decide, by decide, ⟨by decide, by decide, hr⟩, by decide +kernel, by decide, by decide⟩,
    by decide, by decide, ⟨by decide, by decide, hr⟩, by decide +kernel, by decide, by decide⟩
theorem refuses_small : coreRefuses movingBy (some (xr movingBy 5)) (xr movingBy 2) 4 ∧
    coreRefuses movingBy (some (xr movingBy 5)) (xr movingBy 6) 4 := by
  have h5 : xr movingBy 5 = sealed smallTop := rfl
  have h2 : xr movingBy 2 = 0x0001_0080_0007_FFE0 := rfl
  have h6 : xr movingBy 6 = 0x0001_0080_0007_FFF8 := rfl
  have hl : launchHere movingBy = some launch4 := by decide +kernel
  simp only [coreRefuses, h5, h2, h6, hl, sealed_target]
  have t2 : absTarget (some launch4) (some (smallTop ++ 0#24 : Word)) 0x0001_0080_0007_FFE0 = (1, 1) := by decide +kernel
  have t6 : absTarget (some launch4) (some (smallTop ++ 0#24 : Word)) 0x0001_0080_0007_FFF8 = (1, 1) := by decide +kernel
  have hr : ¬ reachedBy movingBy (sealed smallTop) 36 1 1 := sealed_unreached (n := 12) smallTop (by decide +kernel)
  rw [t2, t6]
  exact ⟨⟨by decide, by decide, by decide, by decide, hr, trivial⟩, by decide, by decide, by decide, by decide, hr, trivial⟩
theorem witness_Transfers_handles :
    let o : EngOp := ⟨10, 2, 1, 3, 23, 4⟩
    Ready movingBy Hdr.plain ∧ classAllowed (launchHere movingBy) o.cls.toNat = true ∧ (handleOf movingBy o).isSome = true ∧
    (handleOf movingBy { o with handle := 5 }).isSome = true ∧
    ((xr movingBy o.xd).toNat % 32 = 0 ∧ ((xr movingBy o.xx).extractLsb' 0 32).toNat = 32 ∧ (xr movingBy o.xa).toNat % 32 = 0 ∧
      boundOk (focused movingBy) (xr movingBy o.xd).toNat 32 = true) ∧ (xr movingBy 6).toNat % 8 = 0 ∧
    coreReaches movingBy (handleOf movingBy o) (xr movingBy o.xa) 32 ∧
    coreRefuses movingBy (handleOf movingBy { o with handle := 5 }) (xr movingBy o.xa) 4 ∧
    (let far := on (xs [(2, 0x0002_0000_0000_0000)])
     coreRefuses far none (xr far 2) 5) :=
  ⟨ready_of (by decide +kernel), by decide +kernel, rfl, rfl, by decide +kernel, by decide +kernel, reaches_wide.1, refuses_small.1,
    ⟨by decide +kernel, by decide +kernel, rfl⟩⟩
theorem witness_Transfers_traps :
    let d := on fun c => { xs [(3, 0x0000_0001_0000_0020)] c with sys := { c.sys with det := true } }
    (Ready d Hdr.plain ∧ (focused d).sys.det = true) ∧
    ((xr d 0).toNat % 32 = 0 ∧ ((xr d 3).extractLsb' 0 32 : BitVec 32).toNat = 32 ∧
      ((xr d 3).extractLsb' 32 19 : BitVec 19).toNat % 8 ≠ 0) ∧ classAllowed (launchHere d) 0 = true :=
  ⟨⟨ready_of (by decide +kernel), by decide +kernel⟩, by decide +kernel, by decide +kernel⟩
/-- Registers of a transfer: local address, remote address of core (1, 1), length 32, remote address out of the region,
an address and a length off by one, an attic address. -/
def moving : State :=
  on (xs [(1, 0x7FFE0), (2, 0x0001_0080_0007_FFE0), (3, 32), (4, 0x0002_0000_0000_0000), (5, 1), (6, 0x0001_0080_0007_FFE1),
    (7, 0x8000_0000_0000_0020), (8, 0x0001_0080_0007_FFF8)])
theorem witness_Transfers :
    let o : EngOp := ⟨10, 2, 1, 3, 23, 0⟩
    Ready moving Hdr.plain ∧ classAllowed (launchHere moving) o.cls.toNat = true ∧ handleOf moving o = none ∧
    ((xr moving o.xd).toNat % 32 = 0 ∧ ((xr moving o.xx).extractLsb' 0 32).toNat = 32 ∧ (xr moving o.xa).toNat % 32 = 0 ∧
      boundOk (focused moving) (xr moving o.xd).toNat 32 = true) ∧
    coreReaches moving none (xr moving o.xa) 32 ∧ ((xr moving o.xx).extractLsb' 32 3 = 0 ∧ (xr moving o.xx).extractLsb' 32 10 = 0) ∧
    ((focused moving).sys.det = false) ∧
    ((xr moving 4).getLsbD 63 = false ∧ inShape (launchHere moving) (xr moving 4) = false ∧ (xr moving 4).toNat % 32 = 0) ∧
    (xr moving 5).toNat % 32 ≠ 0 ∧ ((xr moving 0).extractLsb' 0 32 : BitVec 32) = 0 ∧
    ((xr moving 5).extractLsb' 0 32 : BitVec 32).toNat % 32 ≠ 0 ∧
    ((xr moving 3).extractLsb' 0 32 : BitVec 32) ≠ 0 ∧ (xr moving 6).toNat % 32 ≠ 0 :=
  ⟨ready_of (by decide +kernel), by decide +kernel, by decide, by decide +kernel, coreReaches_of (by decide +kernel), by decide +kernel⟩
theorem witness_RemoteAtomicsAndAttic :
    let o : EngOp := ⟨10, 8, 12, 3, 23, 0⟩
    let w : EngOp := ⟨10, 7, 1, 3, 0, 0⟩
    let bare := { moving with unrid := { launches := [{ launch4 with larders := 0 }] } }
    (Ready moving Hdr.plain ∧ classAllowed (launchHere moving) o.cls.toNat = true ∧ handleOf moving o = none ∧ (xr moving o.xa).toNat % 8 = 0 ∧
      coreReaches moving none (xr moving o.xa) 8 ∧ (focused moving).sys.det = false) ∧
    (classAllowed (launchHere moving) w.cls.toNat = true ∧ (xr moving w.xd).toNat % 32 = 0 ∧
      ((xr moving w.xx).extractLsb' 0 32).toNat = 32 ∧ (xr moving w.xa).toNat % 32 = 0 ∧
      boundOk (focused moving) (xr moving w.xd).toNat 32 = true ∧ (launchHere moving).bind homeLarder = some 0 ∧
      (xr moving w.xa).getLsbD 63 = true ∧ (xr moving w.xa).extractLsb' 48 15 = 0) ∧
    (Ready bare Hdr.plain ∧ (launchHere bare).bind homeLarder = none) :=
  ⟨⟨ready_of (by decide +kernel), by decide +kernel, by decide, by decide +kernel, coreReaches_of (by decide +kernel),
    by decide +kernel⟩, by decide +kernel, ready_of (by decide +kernel), by decide +kernel⟩

/-- A bulk read descriptor of two rows of 64 bytes at 0x3000, clipped to the columns below x1. -/
def descAt (x1 : Nat) (m : Memory) : Memory :=
  [(0, 4, 64), (4, 4, 2), (8, 8, 64), (0x14, 4, x1), (0x1C, 4, 2), (0x20, 4, 0x2000), (0x24, 4, 256)].foldl
    (fun m (f : Nat × Nat × Nat) => m.writeLE (0x3000 + f.1) f.2.1 f.2.2) m
theorem witness_BulkReadsAndCommands :
    let s := fun x1 => on fun c => { xs [(1, 0x3000)] c with sram := descAt x1 c.sram }
    let d := fun x1 : Nat => (⟨64, 2, 64, 0, x1, 0, 2, 0x2000, 256, false⟩ : BreadDesc)
    let b := on fun c => { c with regs := { c.regs with q := [(0, .larder 47 14)] } }
    (Ready base Hdr.plain ∧ accessOk base loads 8 48 [(xr base 1).toNat] ∧ readDesc (focused base).sram (xr base 1).toNat = none) ∧
    (Ready (s 64) Hdr.plain ∧ accessOk (s 64) loads 8 48 [(xr (s 64) 1).toNat] ∧
      readDesc (focused (s 64)).sram (xr (s 64) 1).toNat = some (d 64) ∧ (d 64).direct ≠ true ∧ (xr (s 64) 2).getLsbD 63 = false ∧
      breadStatus (focusEnv (s 64) 0) (xr (s 64) 2) (d 64) = none ∧ burstTotal (d 64) ≠ 0) ∧
    (Ready (s 0) Hdr.plain ∧ readDesc (focused (s 0)).sram (xr (s 0) 1).toNat = some (d 0) ∧
      breadStatus (focusEnv (s 0) 0) (xr (s 0) 2) (d 0) = none ∧ burstTotal (d 0) = 0) ∧
    (Ready b Hdr.plain ∧ readQ (focused b) 0 = .larder 47 14 ∧ (egressOf (focused b) 29).length < 2 ∧
      accessOk b loads 16 16 [(xr b 1).toNat] ∧ readQ (focused b) 15 = .unbound) :=
  ⟨⟨ready_base, access_of (by decide +kernel), by decide +kernel⟩,
    ⟨ready_of (by decide +kernel), access_of (by decide +kernel), by decide +kernel⟩,
    ⟨ready_of (by decide +kernel), by decide +kernel⟩,
    ⟨ready_of (by decide +kernel), by decide +kernel, by decide +kernel, access_of (by decide +kernel), by decide +kernel⟩⟩
theorem open_in {s : State} {a n : Nat} (h : a + n ≤ 0x80000 ∧ (∀ i, i < 8 → (fget (focused s).sys.seg i {}).valid = false) ∧
    (focused s).cellar.isNone = true) : inBounds (focused s) a n :=
  ⟨h.1, .inl h.2.1, fun b sz e => by simp [e] at h⟩
/-- A direct bulk read into a destination, from the attic address or the core address in x2. -/
def directTo (dest : Nat) (from_ : Word) : State :=
  on fun c => { xs [(1, 0x3000), (2, from_)] c with sram := ((descAt 64 c.sram).writeLE 0x3028 1 1).writeLE 0x3020 4 dest }
theorem witness_BulkReadsAndCommands_direct :
    let d := fun dest : Nat => (⟨64, 2, 64, 0, 64, 0, 2, dest, 256, true⟩ : BreadDesc)
    let ready := fun (s : State) (dest : Nat) => Ready s Hdr.plain ∧ accessOk s loads 8 48 [(xr s 1).toNat] ∧
      readDesc (focused s).sram (xr s 1).toNat = some (d dest) ∧ (d dest).direct = true ∧ (directRange (d dest)).2 ≠ 0
    let good := directTo 0x7FEC0 0
    let attic := directTo 0x7FEC0 0x8000_0000_0000_0040
    let far := directTo 0x7FEC0 0x8001_0000_0000_0000
    let past := directTo 0x7FEE0 0
    (ready good 0x7FEC0 ∧ inBounds (focused good) (directRange (d 0x7FEC0)).1 (directRange (d 0x7FEC0)).2 ∧
      breadStatus (focusEnv good 0) (xr good 2) (d 0x7FEC0) = none ∧ burstTotal (d 0x7FEC0) ≠ 0 ∧ (xr good 2).getLsbD 63 = false) ∧
    (ready attic 0x7FEC0 ∧ inBounds (focused attic) (directRange (d 0x7FEC0)).1 (directRange (d 0x7FEC0)).2 ∧
      breadStatus (focusEnv attic 0) (xr attic 2) (d 0x7FEC0) = none ∧ (xr attic 2).getLsbD 63 = true ∧
      launchHere attic = some launch4 ∧ homeLarder launch4 = some 0) ∧
    (ready far 0x7FEC0 ∧ inBounds (focused far) (directRange (d 0x7FEC0)).1 (directRange (d 0x7FEC0)).2 ∧
      breadStatus (focusEnv far 0) (xr far 2) (d 0x7FEC0) = some 5) ∧
    (ready past 0x7FEE0 ∧ ¬ inBounds (focused past) (directRange (d 0x7FEE0)).1 (directRange (d 0x7FEE0)).2) :=
  ⟨⟨⟨ready_of (by decide +kernel), access_of (by decide +kernel), by decide +kernel⟩, open_in (by decide +kernel), by decide +kernel⟩,
    ⟨⟨ready_of (by decide +kernel), access_of (by decide +kernel), by decide +kernel⟩, open_in (by decide +kernel), by decide +kernel⟩,
    ⟨⟨ready_of (by decide +kernel), access_of (by decide +kernel), by decide +kernel⟩, open_in (by decide +kernel), by decide +kernel⟩,
    ⟨ready_of (by decide +kernel), access_of (by decide +kernel), by decide +kernel⟩, fun h => absurd h.1 (by decide +kernel)⟩
theorem witness_BulkReadsAndCommands_traps :
    let s := on fun c => { xs [(1, 0x3004), (2, 0x7FFD8), (3, 0x3008), (4, 0x80000)] c with
      regs := { (xs [(1, 0x3004), (2, 0x7FFD8), (3, 0x3008), (4, 0x80000)] c).regs with q := [(0, .larder 47 14)] } }
    Ready s Hdr.plain ∧ readQ (focused s) 0 = .larder 47 14 ∧
    accessTraps (focused s) loads 8 48 [(xr s 1).toNat] eAlign 0x3004 ∧ accessTraps (focused s) loads 8 48 [(xr s 2).toNat] eBound 0x7FFD8 ∧
    accessTraps (focused s) loads 16 16 [(xr s 3).toNat] eAlign 0x3008 ∧
    accessTraps (focused s) loads 16 16 [(xr s 4).toNat] eBound 0x80000 :=
  ⟨ready_of (by decide +kernel), by decide +kernel, .inl ⟨rfl, [], [], by decide +kernel, by simp, by decide⟩,
    .inr ⟨by decide +kernel, .inl ⟨rfl, [], [], by decide +kernel, by simp, fun h => by have := h.1; omega⟩⟩,
    .inl ⟨rfl, [], [], by decide +kernel, by simp, by decide⟩,
    .inr ⟨by decide +kernel, .inl ⟨rfl, [], [], by decide +kernel, by simp, fun h => by have := h.1; omega⟩⟩⟩

/-- The core in focus as its handler context 7 runs a burst of 128 bytes, its bulk read as given. -/
def handling (bs : FMap Bread) : State :=
  { (on fun c => { c with
      handlers := [(7, { busy := true, y := [(15, 0x7FFC0)], bcnt := 128, tag := 2 })]
      breads := bs }) with ctx := .handler 7 }
theorem readyIn_of {s : State} {k : Nat} (h : inGrid s.focus = true ∧ s.ctx = .handler k ∧ (focused s).pending = [] ∧
    (focused s).watch = [] ∧ (List.range 4).all (fun n => !(fget (focused s).sys.dbgpc n 0).getLsbD 0) = true) : ReadyIn s Hdr.plain k :=
  ⟨h.1, h.2.1, h.2.2.1, h.2.2.2.1, fun n hn => by have := List.all_eq_true.mp h.2.2.2.2 n (List.mem_range.mpr hn); simpa using this, rfl⟩
theorem witness_HandlerInstructions :
    let b : Bread := ⟨5, 3, 16, 0, 0, ⟨64, 2, 64, 0, 64, 0, 2, 0x2000, 256, false⟩, 2, 2, 1, 0, 0, false⟩
    let b0 : Bread := { b with handled := 0 }
    let m : MemOp := ⟨15, 0, 0, 0⟩
    let n : MemOp := ⟨0, 15, 0, 0xFFFFC0⟩
    (ReadyIn (handling []) Hdr.plain 7 ∧ (15 : Reg).toNat < 16 ∧ m.base.toNat < 16 ∧ m.index.toNat < 16 ∧
      handlerAddr (handling []) 7 m = 0x7FFC0 ∧ handlerAddr (handling []) 7 n = 0x7FF80 ∧
      checkAccess (focused (handling [])) stores 8 8 ((List.range (128 / 8)).map fun i => 0x7FF80 + 8 * i) = none ∧
      checkAccess (focused (handling [])) updates 64 64 [0x7FFC0] = none ∧ (1 : VReg).toNat < 2 ∧
      (focused (handling [])).bursts = [] ∧ ffind (focused (handling [])).breads 2 = none) ∧
    (ReadyIn (handling [(2, b0)]) Hdr.plain 7 ∧ ffind (focused (handling [(2, b0)])).breads 2 = some b0 ∧
      breadOver { b0 with handled := b0.handled + 1 } = false) ∧
    (let s := on (xs [(1, 0x7FFC0)])
     Ready s Hdr.plain ∧ accessOk s updates 64 64 [memAddr s ⟨1, 0, 0, 0⟩]) :=
  ⟨⟨readyIn_of (by decide +kernel), by decide +kernel⟩, ⟨readyIn_of (by decide +kernel), by decide +kernel⟩,
    ready_of (by decide +kernel), access_of (by decide +kernel)⟩

theorem witness_HandlerInstructions_end :
    let b : Bread := ⟨5, 3, 16, 0, 0, ⟨64, 2, 64, 0, 64, 0, 2, 0x2000, 256, false⟩, 2, 2, 1, 0, 0, false⟩
    let w : Burst := ⟨2, 0, 0, 0, 32, 5⟩
    let full := { (on fun c => { c with
      handlers := (List.range 8).map fun k => (k, { busy := true, tag := 2 })
      bursts := [w]
      breads := [(2, b)] }) with ctx := .handler 7 }
    let stopped := { handling [(2, b)] with dev := { base.dev with stopped := true } }
    (ReadyIn full Hdr.plain 7 ∧ (focused full).bursts = w :: [] ∧ (∀ j, j < 8 → j ≠ 7 → (handlerAt (focused full) j).busy = true) ∧
      ffind (fset (focused full).breads (handlerAt (focused full) 7).tag { b with handled := b.handled + 1 }) w.tag =
        some { b with handled := b.handled + 1 }) ∧
    (ReadyIn (handling [(2, b)]) Hdr.plain 7 ∧ (focused (handling [(2, b)])).bursts = [] ∧
      (focused (handling [(2, b)])).breads = [((handlerAt (focused (handling [(2, b)])) 7).tag, b)] ∧
      breadOver { b with handled := b.handled + 1 } = true ∧ (handling [(2, b)]).dev.faults = [] ∧ b.xs ≠ 0 ∧
      (handling [(2, b)]).dev.stopped = false) ∧
    (ReadyIn stopped Hdr.plain 7 ∧ stopped.dev.stopped = true ∧ stopped.dev.faults = []) :=
  ⟨⟨readyIn_of (by decide +kernel), by decide +kernel⟩, ⟨readyIn_of (by decide +kernel), by decide +kernel⟩,
    readyIn_of (by decide +kernel), by decide +kernel⟩
theorem witness_TrapEntry_handlers :
    let b : Bread := ⟨5, 3, 16, 0, 0, ⟨64, 2, 64, 0, 64, 0, 2, 0x2000, 256, false⟩, 2, 2, 1, 0, 0, false⟩
    ReadyIn (handling []) Hdr.plain 7 ∧
    (∀ bs ∈ [[], [(2, b)]], (focused (handling bs)).pending = [] ∧ (focused (handling bs)).bursts = []) ∧
    ffind (focused (handling [])).breads (handlerAt (focused (handling [])) 7).tag = none ∧
    ffind (focused (handling [(2, b)])).breads (handlerAt (focused (handling [(2, b)])) 7).tag = some b :=
  ⟨readyIn_of (by decide +kernel), by decide +kernel⟩

theorem witness_PantriesAndLarderControl :
    let s := on fun c => pantries (xs [(1, 47), (2, 48), (3, 0x0070_0000), (4, 1), (5, 0x1000), (6, 0x3000)] c)
    let bare := { s with unrid := { launches := [{ launch4 with larders := 0 }] }, cores := (on fun c => user (xs [(1, 47)] c)).cores }
    (Ready s Hdr.plain ∧ (pantryAt (focused s) 7).valid = false ∧ (focused s).opens = []) ∧
    ((pantryAt (focused s) 0).valid = true ∧ (pantryAt (focused s) 0).outbound = false) ∧
    ((pantryAt (focused s) 1).valid = true ∧ (pantryAt (focused s) 1).outbound = true) ∧
    (((xr s 3).extractLsb' 20 3).toNat = 7 ∧ ((xr s 4).setWidth 19 : BitVec 19).toNat % 2 ^ 12 ≠ 0 ∧
      windowTaken (focused s) 7 0x1000 (2 ^ 12) = true ∧ windowTaken (focused s) 7 0x3000 (2 ^ 12) = false) ∧
    (((xr s 1).extractLsb' 0 6).toNat ≤ 47 ∧ bindsLarder (launchHere s) ((xr s 1).extractLsb' 0 6).toNat = true ∧
      (egressOf (focused s) 29).length < 2) ∧
    (Ready bare Hdr.plain ∧ ((xr bare 1).extractLsb' 0 6).toNat ≤ 47 ∧
      bindsLarder (launchHere bare) ((xr bare 1).extractLsb' 0 6).toNat = false ∧ (focused bare).sys.mode = false) ∧
    (let u := on fun c => pantries (user c)
     Ready u Hdr.plain ∧ (focused u).sys.mode = false ∧ (pantryAt (focused u) 0).valid = true ∧
     (focused u).own.getLsbD (0 : BitVec 3).toNat = false ∧ (pantryAt (focused u) 7).valid = false) ∧
    47 < ((xr s 2).extractLsb' 0 6).toNat :=
  ⟨⟨ready_of (by decide +kernel), by decide +kernel⟩, by decide +kernel, by decide +kernel, by decide +kernel, by decide +kernel,
    ⟨ready_of (by decide +kernel), by decide +kernel⟩, ⟨ready_of (by decide +kernel), by decide +kernel⟩, by decide +kernel⟩

/-! ### The device and the command processor -/

/-- Host memory with the record of queue 0 at 0x1000: its ring at 0x8000, of 16 entries. -/
def record (enable tail head : Nat) : Memory :=
  [(0x1000, 8, 0x8000), (0x1008, 1, 4), (0x1009, 1, enable), (0x1010, 4, tail), (0x1014, 4, head)].foldl
    (fun m (f : Nat × Nat × Nat) => m.writeLE f.1 f.2.1 f.2.2) Memory.empty
/-- An entry of queue 0 with its opcode and fields. -/
def entryWith (op : Nat) (fs : List (Nat × Nat × Nat)) : Entry :=
  ⟨⟨0, 3⟩, (fs.foldl (fun m (f : Nat × Nat × Nat) => m.writeLE f.1 f.2.1 f.2.2) (Memory.empty.writeLE 0 1 op)).readBytes 0 64,
    .fetched⟩
/-- The slot of queue 0, at head 3 and tail 5. -/
def slot0 : QSlot :=
  { queue := 0, ring := 0x8000, logsize := 4, msix := 2, head := 3, tail := 5, seq := 2, since := 0, error := false, cut := false }
theorem witness_BootEvents :
    let env : BootEnv := ⟨[], true, true, [], []⟩
    let bad : BootEnv := ⟨[], true, true, [], [(0, 0)]⟩
    let s := { base with dev := { st := .patchwait, hsem := [(0, ⟨1, false⟩)] }, cycle := 190000000 }
    (env.failedRouters = [] ∧ env.failedCores = [] ∧ bad.failedRouters ≠ []) ∧
    (s.dev.failing = [] ∧ s.dev.st = .patchwait ∧ s.dev.patchLen = 0 ∧ s.unrid.notifies = [] ∧ 190000000 ≤ s.cycle ∧
      (semAt s 0).owner.toNat = portId .p0 ∧ (semAt s 0).owner.toNat ≠ portId .p1) := by decide +kernel
theorem witness_PortRegisters :
    let s := { base with port0 := { up := true, event := 0x1FF, events := { cycle := 7, occurred := 1 } }, port1 := { event := 1 }
                         cycle := 7
                         dev := { hsem := [(0, ⟨1, false⟩), (1, ⟨0, true⟩), (15, ⟨2, false⟩)] } }
    let q := { s with unrid := { s.unrid with qtlen := 1, slots := [(0, { slot0 with ring := 0x8001 })] } }
    let m1 := { s with port0 := { s.port0 with msixMask := 1 } }
    let m2 := { s with port0 := { s.port0 with msixMaskAll := true } }
    let masked := fun x : Port => x.msixMaskAll || x.msixMask.getLsbD 0
    ((portAt s .p0).events.cycle = s.cycle ∧ (portAt s .p1).events.cycle ≠ s.cycle) ∧
    (masked (portAt s .p0) = false ∧ masked (portAt m1 .p0) = true ∧ masked (portAt m2 .p0) = true) ∧
    (ffind q.unrid.slots 0 = some { slot0 with ring := 0x8001 } ∧ portOf (0x8001 : Word) = .p1 ∧ portOf q.unrid.qtbase = .p0 ∧
      (portAt q .p0).up = true) ∧
    ((8 ≠ 8 ∨ 8 % 4096 ≠ 0 ∨ 64 * 4096 ≤ 8) ∧ (4 ≠ 8 ∨ 0 % 4096 ≠ 0 ∨ 64 * 4096 ≤ 0) ∧ (8 ≠ 8 ∨ 262144 % 4096 ≠ 0 ∨ 64 * 4096 ≤ 262144)) ∧
    (hostUp s (portOf s.unrid.qtbase) = true ∧
      hostUp { s with unrid := { s.unrid with qtbase := 1 } } (portOf (1 : Word)) = false) ∧
    (let x := portAt s .p0
     x.event &&& (0 &&& ~~~x.evmask).setWidth 9 = 0 ∧ x.event &&& (0x100 &&& ~~~x.evmask).setWidth 9 ≠ 0 ∧ x.up = true) ∧
    (let x := portAt s .p1
     x.event &&& (1 &&& ~~~x.evmask).setWidth 9 ≠ 0 ∧ x.up = false) ∧
    ((semAt s 0).owner ≠ 0 ∧ (semAt s 2).owner = 0 ∧ (semAt s 2).lastTieLost1 = false ∧ (semAt s 1).owner = 0 ∧
      (semAt s 1).lastTieLost1 = true ∧ (semAt s 0).owner.toNat = portId .p0 ∧ (semAt s 15).owner.toNat ≠ portId .p0) ∧
    ((portAt s .p0).up = true ∧ (portOf s.unrid.qtbase ≠ .p1 ∧ s.unrid.keep = [])) ∧
    ((4 ≠ 8 ∨ 0x40 % 8 ≠ 0) ∧ (8 ≠ 8 ∨ 0x41 % 8 ≠ 0) ∧ 1900 ≤ ((1900 : Word).extractLsb' 0 32).toNat ∧
      ((1900000 : Word).extractLsb' 0 32).toNat ≤ 1900000) ∧
    (s.unrid.qtlen = 0 ∧ (1024 : Word) ≠ 0 ∧ (1024 : Word).toNat ≤ 1024 ∧ 1024 < (1025 : Word).toNat) ∧
    (q.unrid.qtlen ≠ 0 ∧ q.unrid.slots ≠ []) ∧
    (let u := { q with unrid := { q.unrid with slots := [] } }
     (portAt u .p0).up = true ∧ portOf u.unrid.qtbase = .p0 ∧ 0 < u.unrid.qtlen.toNat ∧ queueSlot u 0 = none) := by decide +kernel

theorem witness_StopInspectionAndFlash :
    let at_ := fun (coord space : Word) (st : Bool) (f : Core → Core) =>
      { on f with dev := { base.dev with icoord := coord, ispace := space, stopped := st } }
    let fl := fun (a : BitVec 26) (b : Bool) => { base with dev := { base.dev with faddr := a, fbusy := b } }
    let dev := fun d : Device => inWaves d
    ((at_ 0 0 true id).dev.stopped = true ∧ dev base.dev = false ∧ dev { base.dev with inWaves := true } = true ∧
      ({ base.dev with st := .fatal } : Device).st = .fatal) ∧
    (let s := at_ 0 0x1102 false fun c => { c with sys := { c.sys with ecccnt := 5 } }
     (s.dev.ispace.extractLsb' 0 4).toNat = 2 ∧ (s.dev.ispace.extractLsb' 8 24).toNat = 0x11) ∧
    (let s := at_ 0 0x3F00 false id
     inGrid (keyOf (s.dev.icoord.extractLsb' 0 9).toNat (s.dev.icoord.extractLsb' 16 9).toNat) = true ∧
     (s.dev.ispace.extractLsb' 8 24).toNat < spaceWords (s.dev.ispace.extractLsb' 0 4).toNat ∧
     (s.dev.ispace.extractLsb' 0 4).toNat ≠ 7 ∧ (s.dev.ispace.extractLsb' 0 4).toNat ≠ 8 ∧
     (coreAt s 0).halted = false ∧ s.dev.stopped = false) ∧
    ((coreAt (at_ 0 0 false fun c => { c with halted := true }) 0).halted = true) ∧
    (let s := at_ 0 0x4007 false id
     spaceWords (s.dev.ispace.extractLsb' 0 4).toNat ≤ (s.dev.ispace.extractLsb' 8 24).toNat ∧
     (s.dev.ispace.extractLsb' 0 4).toNat = 7) ∧
    ((at_ 0 8 false id).dev.ispace.extractLsb' 0 4).toNat = 8 ∧
    (let s := at_ 224 0 false id
     inGrid (keyOf (s.dev.icoord.extractLsb' 0 9).toNat (s.dev.icoord.extractLsb' 16 9).toNat) = false) ∧
    ((fl 0x1F_FFF8 false).dev.fbusy = false ∧ (fl 0x1F_FFF8 false).dev.faddr.toNat < 0x20_0000 ∧
      (fl 0x0F_FFF8 false).dev.faddr.toNat < 0x10_0000 ∧ 0x10_0000 ≤ (fl 0x10_0000 false).dev.faddr.toNat ∧
      (fl 0 true).dev.fbusy = true ∧ base.dev.flash.fill = .const 0xFF) ∧ base.dev.st ≠ .fatal := by decide +kernel

/-- The device as an entry of queue 0 is in flight, both ports up or port 1 alone. -/
def commanding (up : Bool) (e : Entry) : State :=
  { base with
    port0 := { up := up, mem := record 1 5 3 }
    port1 := { up := true }
    expanders := [(0, { capacity := 2 ^ 30, up := true, poison := [] })]
    unrid := { base.unrid with qtbase := 0x1000, qtlen := 1, slots := [(0, slot0)], keep := [(0, { enable := true })], entries := [e] } }
theorem witness_QueueEvents :
    let idle := fun (en tail head : Nat) =>
      { base with port0 := { up := true, mem := record en tail head }
                  unrid := { base.unrid with qtbase := 0x1000, qtlen := 2, keep := [(0, { enable := true })] } }
    let put := fun (s : State) (a v : Nat) => { s with port0 := { s.port0 with mem := s.port0.mem.writeLE a 1 v } }
    let told := { slot0 with notified := some (7, .p1) }
    let s := commanding true (entryWith 3 [])
    let off := { s with unrid := { s.unrid with entries := [], keep := [] } }
    let e : Entry := { entryWith 3 [] with st := .done 0 1 2 }
    let up1 := { commanding true e with port1 := { up := true }, unrid := { (commanding true e).unrid with qtbase := 0x1001 } }
    (unridRuns (idle 0 0 0) = true ∧ (idle 0 0 0).unrid.qtstop = false ∧ scanOrder (idle 0 0 0) = [1] ++ 0 :: [] ∧
      queueSlot (idle 0 0 0) 0 = none ∧ (portAt (idle 0 0 0) (recordPlace (idle 0 0 0) 0).1).mem.wf = true ∧
      [1].length < ((List.range 64).filter fun n => (ffind (idle 0 0 0).unrid.slots n).isNone).length ∧
      (keepAt (idle 0 0 0) 0).cut = none ∧ hostUp (idle 0 0 0) (recordPlace (idle 0 0 0) 0).1 = true ∧
      recordField (idle 0 0 0) 0 9 1 ≠ 1) ∧
    ((keepAt (idle 1 5 3) 0).enable = true ∧ recordField (idle 1 5 3) 0 9 1 = 1 ∧ recordSound (idle 1 5 3) 0 = true ∧
      hostUp (idle 1 5 3) (portOf (BitVec.ofNat 64 (recordField (idle 1 5 3) 0 0 8))) = true ∧
      recordField (idle 1 5 3) 0 0x10 4 ≠ recordField (idle 1 5 3) 0 0x14 4) ∧
    (let u := put (idle 1 5 3) 0x1008 3
     (portAt u .p0).mem.wf = true ∧ recordField u 0 9 1 = 1 ∧ recordSound u 0 = false) ∧
    (let u := put (idle 1 3 3) 0x100C 1
     (portAt u .p0).mem.wf = true ∧ recordField u 0 9 1 = 1 ∧ recordSound u 0 = true ∧
     recordField u 0 0x10 4 = recordField u 0 0x14 4 ∧ recordField u 0 0xC 1 % 2 = 1) ∧
    (recordField (idle 1 3 3) 0 9 1 = 1 ∧ recordSound (idle 1 3 3) 0 = true ∧
      recordField (idle 1 3 3) 0 0x10 4 = recordField (idle 1 3 3) 0 0x14 4 ∧ recordField (idle 1 3 3) 0 0xC 1 % 2 = 0) ∧
    (told.notified = some (7, .p1) ∧ slot0.notified ≠ some (7, .p1)) ∧
    (ffind off.unrid.slots (0 : BitVec 6).toNat = some slot0 ∧ unmaps off slot0 = true ∧ unmaps s slot0 = false ∧
      mayFetch s slot0 = true) ∧
    (((5 : Word).extractLsb' 32 10).toNat = slot0.queue ∧ slot0.cut = false ∧ (5 : Word).extractLsb' 42 22 = 0 ∧
      ((5 : Word).setWidth 32 - slot0.head : BitVec 32).toNat ≤ 2 ^ slot0.logsize) ∧
    (entryAt up1 e.key = some e ∧ queueSlot up1 e.key.queue = some (0, slot0) ∧ (keepAt up1 0).ahead = [] ∧
      e.key.seq = slot0.seq.toNat + 1 ∧ hostUp up1 (portOf slot0.ring) = true ∧ portOf slot0.ring ≠ portOf up1.unrid.qtbase ∧
      (portAt up1 (portOf slot0.ring)).mem.wf = true) := by decide +kernel

/-- An entry is in flight and may start. -/
def starts (s : State) (e : Entry) (op : Nat) : Bool := entryAt s e.key = some e && startable s e.key op = some e
theorem witness_PlainCommands :
    let go := fun (op : Nat) (fs : List (Nat × Nat × Nat)) => commanding true (entryWith op fs)
    let down := fun (op : Nat) (fs : List (Nat × Nat × Nat)) => commanding false (entryWith op fs)
    let copy := [(8, 8, 0x4000), (0x10, 8, 2 ^ 63 + 64), (0x18, 8, 64)]
    let mapped := fun s : State => { s with unrid := { s.unrid with ctxs := [(0, ⟨0x40000, 8192, [], [(0, 0, 0)]⟩)] } }
    let wq := { entryWith 3 [(0x10, 8, 2)] with st := .active }
    let wq3 := { entryWith 3 [(0x10, 8, 3)] with st := .active }
    let fault := fun s : State => { s with larders := [(0, { launch := some 1, ctx := [(0, { st := .fault })] })] }
    starts (go 3 [(0x10, 8, 5)]) (entryWith 3 [(0x10, 8, 5)]) 3 = true ∧
    (entryAt (commanding true wq) wq.key = some wq ∧ entryOp wq = 3 ∧ seqOf (commanding true wq) (entryField wq 8 2) = some 2 ∧
      entryField wq 0x10 8 ≤ 2) ∧
    (entryAt (commanding true wq3) wq3.key = some wq3 ∧ entryOp wq3 = 3 ∧ seqOf (commanding true wq3) (entryField wq3 8 2) = some 2 ∧
      2 < entryField wq3 0x10 8) ∧
    (starts (go 4 [(8, 8, 0x4000), (0x18, 1, 1)]) (entryWith 4 [(8, 8, 0x4000), (0x18, 1, 1)]) 4 = true ∧
      hostUp (go 4 []) (portOf (entryWord (entryWith 4 [(8, 8, 0x4000)]) 8)) = true ∧
      starts (down 4 []) (entryWith 4 []) 4 = true ∧ hostUp (down 4 []) (portOf (entryWord (entryWith 4 []) 8)) = false) ∧
    (starts (go 5 copy) (entryWith 5 copy) 5 = true ∧ (go 5 copy).dev.st ≠ .fatal ∧ (go 5 copy).dev.stopped = false ∧
      starts (down 5 copy) (entryWith 5 copy) 5 = true ∧ hostUp (down 5 copy) .p0 = false ∧ hostUp (go 5 copy) .p0 = true ∧
      (copyAll 0 false .p0 0x4000 (mapped (go 5 copy)) 0 (copyParts 64 64)).2 = none ∧
      (copyAll 0 false .p0 0x4000 (go 5 copy) 0 (copyParts 64 64)).2 = some (.xlate, 0)) ∧
    (starts (fault (go 7 [])) (entryWith 7 []) 7 = true ∧ launchBound (fault (go 7 [])) 0 = some launch4 ∧ launch4.st = .running ∧
      (lctxAt (larderAt (fault (go 7 [])) 0) 0).st = .fault ∧ launchBound (go 7 []) 0 = none) ∧
    (starts (go 9 [(8, 2, 1), (0x18, 4, 35280)]) (entryWith 9 [(8, 2, 1), (0x18, 4, 35280)]) 9 = true ∧
      starts (go 9 [(8, 2, 1), (0x18, 4, 35279)]) (entryWith 9 [(8, 2, 1), (0x18, 4, 35279)]) 9 = true ∧
      starts (go 9 [(8, 2, 2), (0x18, 4, 16768)]) (entryWith 9 [(8, 2, 2), (0x18, 4, 16768)]) 9 = true ∧
      starts (go 9 [(8, 2, 3), (0x1C, 2, 224), (0x1E, 2, 384)]) (entryWith 9 [(8, 2, 3), (0x1C, 2, 224), (0x1E, 2, 384)]) 9 = true) ∧
    (hostUp (go 9 []) (portOf (entryWord (entryWith 9 [(8, 2, 1)]) 0x10)) = true ∧ (portAt (go 9 []) .p0).mem.wf = true ∧
      (List.replicate 32 (0 : Byte)).length = 32) ∧
    starts (go 10 []) (entryWith 10 []) 10 = true := by decide +kernel

/-- A program image for a region of 2 × 2: one role, one code section of 8 bytes with its CRC-32C. -/
def imageFields (gen : Nat) : List (Nat × Nat × Nat) :=
  [(0, 4, 0x4957_4C58), (4, 2, 1), (8, 4, 9140), (0xC, 2, gen), (0xE, 2, 2), (0x10, 2, 2), (0x12, 1, 1), (0x14, 4, 0xFFFF),
    (0x1C, 2, 1), (0x20, 8, 0x168), (0x42, 2, 0xFFFF), (0x48, 2, 2), (0x4A, 2, 2), (0x140, 4, 1), (0x144, 4, 16), (0x148, 4, 8),
    (0x14C, 4, (crc32c [1, 2, 3, 4, 5, 6, 7, 8]).toNat), (0x150, 8, 0x160), (0x160, 8, 0x0807_0605_0403_0201)]
def imageMem (gen : Nat) : Memory :=
  (imageFields gen).foldl (fun m f => m.writeLE (0xA000 + f.1) f.2.1 f.2.2) Memory.empty
theorem witness_TableCommands_amap :
    let go := fun (fs : List (Nat × Nat × Nat)) => commanding true (entryWith 6 fs)
    let held := fun s : State => { s with unrid := { s.unrid with ctxs := [(1, ⟨0x40000, 16384, [], [(0, 0, 0)]⟩)] } }
    let root := [(8, 2, 1), (0xA, 1, 1), (0x10, 8, 0x40000), (0x18, 8, 4096)]
    let map := [(8, 2, 1), (0xA, 1, 2), (0x10, 8, 0x1000), (0x18, 8, 0x2000)]
    let unmap := [(8, 2, 1), (0xA, 1, 3)]
    let drop := [(8, 2, 1), (0xA, 1, 4)]
    (starts (go root) (entryWith 6 root) 6 = true ∧ entryField (entryWith 6 root) 0xA 1 = 1 ∧ atticCtx (go root) 1 = none ∧
      overUndercroft (go root) 0x40000 4096 = false ∧ rangeNames (go root) 0x40000 4096 = true ∧
      ((go root).unrid.ctxs.any fun c => spansMeet 0x40000 4096 c.2.pool c.2.len) = false) ∧
    (atticCtx (held (go root)) 1 = some ⟨0x40000, 16384, [], [(0, 0, 0)]⟩ ∧ starts (held (go root)) (entryWith 6 root) 6 = true) ∧
    (starts (held (go map)) (entryWith 6 map) 6 = true ∧ entryField (entryWith 6 map) 0xA 1 = 2 ∧
      1 + 0 + ((pathTables 0x1000 0).filter fun t => !([] : List (Nat × Nat)).contains t).length ≤ 16384 / 4096 ∧
      overUndercroft (held (go map)) 0x2000 (pageBytes 0) = false ∧
      ([((0 : Nat), (0 : Nat), (0 : Nat))].any fun l => l.2.1 != 0 && spansMeet 0x1000 (pageBytes 0) l.1 (pageBytes l.2.1)) = false ∧
      atticCtx (go map) 1 = none ∧ starts (go map) (entryWith 6 map) 6 = true) ∧
    (starts (held (go unmap)) (entryWith 6 unmap) 6 = true ∧ entryField (entryWith 6 unmap) 0xA 1 = 3) ∧
    (starts (held (go drop)) (entryWith 6 drop) 6 = true ∧ entryField (entryWith 6 drop) 0xA 1 = 4 ∧
      ((held (go drop)).unrid.launches.any fun l => launchHasRegion l && l.actx == 1) = false) := by decide +kernel
theorem witness_TableCommands_refusals :
    let go := fun (fs : List (Nat × Nat × Nat)) => commanding true (entryWith 6 fs)
    let held := fun (n len code : Nat) (s : State) => { s with unrid := { s.unrid with ctxs := [(n, ⟨0x40000, len, [], [(0, code, 0)]⟩)] } }
    let under := fun (a : Nat) (s : State) => { s with dev := { s.dev with cfg := { s.dev.cfg with ucbase := a, ucsize := 4096 } } }
    let root := [(8, 2, 1), (0xA, 1, 1), (0x10, 8, 0x40000), (0x18, 8, 4096)]
    let map := [(8, 2, 1), (0xA, 1, 2), (0x10, 8, 0x1000), (0x18, 8, 0x2000)]
    let unmap := [(8, 2, 1), (0xA, 1, 3)]
    let drop := [(8, 2, 1), (0xA, 1, 4)]
    let fresh := ((pathTables 0x1000 0).filter fun t => !([] : List (Nat × Nat)).contains t).length
    let meets := fun s : State => s.unrid.ctxs.any fun c => spansMeet 0x40000 4096 c.2.pool c.2.len
    (starts (under 0x40000 (go root)) (entryWith 6 root) 6 = true ∧ atticCtx (under 0x40000 (go root)) 1 = none ∧
      overUndercroft (under 0x40000 (go root)) 0x40000 4096 = true) ∧
    (let s := { go root with expanders := [] }
     starts s (entryWith 6 root) 6 = true ∧ overUndercroft s 0x40000 4096 = false ∧ rangeNames s 0x40000 4096 = false) ∧
    (let s := held 2 4096 0 (go root)
     starts s (entryWith 6 root) 6 = true ∧ atticCtx s 1 = none ∧ rangeNames s 0x40000 4096 = true ∧ meets s = true) ∧
    (starts (held 1 4096 0 (go map)) (entryWith 6 map) 6 = true ∧ 4096 / 4096 < 1 + 0 + fresh ∧ 1 + 0 + fresh ≤ 16384 / 4096) ∧
    (let s := under 0x2000 (held 1 16384 0 (go map))
     starts s (entryWith 6 map) 6 = true ∧ overUndercroft s 0x2000 (pageBytes 0) = true) ∧
    (starts (held 1 16384 2 (go map)) (entryWith 6 map) 6 = true ∧ overUndercroft (held 1 16384 2 (go map)) 0x2000 (pageBytes 0) = false ∧
      ([((0 : Nat), (2 : Nat), (0 : Nat))].any fun l => l.2.1 != 0 && spansMeet 0x1000 (pageBytes 0) l.1 (pageBytes l.2.1)) = true) ∧
    (let s := held 1 16384 0 (go drop)
     let t := { s with unrid := { s.unrid with launches := [{ launch4 with actx := 1 }] } }
     starts t (entryWith 6 drop) 6 = true ∧ (t.unrid.launches.any fun l => launchHasRegion l && l.actx == 1) = true) ∧
    (starts (go unmap) (entryWith 6 unmap) 6 = true ∧ atticCtx (go unmap) 1 = none ∧
      starts (go drop) (entryWith 6 drop) 6 = true ∧ atticCtx (go drop) 1 = none) := by decide +kernel
theorem witness_TableCommands_image :
    let load := [(8, 8, 0xA000), (0x10, 8, 0x168), (0x18, 8, 0x1000)]
    let go := fun gen => { commanding true (entryWith 11 load) with port0 := { up := true, mem := imageMem gen } }
    let drop := fun n => [(0x20, 2, n)]
    let held := fun n => { commanding true (entryWith 11 (drop n)) with
      unrid := { (commanding true (entryWith 11 (drop n))).unrid with images := [(0, imageL), (1, imageL)] } }
    let full := { go 1 with unrid := { (go 1).unrid with images := (List.range 64).map fun i => (i + 1, imageL) } }
    let waiting := { held 0 with unrid := { (held 0).unrid with launches := [{ launch4 with st := .waitRegion }] } }
    (starts full (entryWith 11 load) 11 = true ∧ imageCode full full.port0.mem 0xA000 0x168 = 0 ∧ freeImage full = none) ∧
    (({ go 1 with dev := { (go 1).dev with stopped := true } } : State).dev.stopped = true ∧ freeImage (go 1) ≠ none) ∧
    (starts waiting (entryWith 11 (drop 0)) 11 = true ∧
      (waiting.unrid.launches.any fun l => launchHasRegion l && l.image == 0) = false) ∧
    (starts (go 1) (entryWith 11 load) 11 = true ∧ entryWord (entryWith 11 load) 8 ≠ 0 ∧ (go 1).dev.st ≠ .fatal ∧
      (go 1).dev.stopped = false ∧ hostUp (go 1) .p0 = true ∧ imageCode (go 1) (go 1).port0.mem 0xA000 0x168 = 0 ∧
      freeImage (go 1) = some 1 ∧ rangeNames (go 1) 0x1000 (imageLength (imageHead (go 1).port0.mem 0xA000 0x168)) = true) ∧
    (starts (go 2) (entryWith 11 load) 11 = true ∧ imageCode (go 2) (go 2).port0.mem 0xA000 0x168 ≠ 0) ∧
    (starts (held 0) (entryWith 11 (drop 0)) 11 = true ∧ entryWord (entryWith 11 (drop 0)) 8 = 0 ∧
      (ffind (held 0).unrid.images 0).isSome = true ∧ ((held 0).unrid.launches.any fun l => launchHasRegion l && l.image == 0) = true) ∧
    (starts (held 1) (entryWith 11 (drop 1)) 11 = true ∧ (ffind (held 1).unrid.images 1).isSome = true ∧
      ((held 1).unrid.launches.any fun l => launchHasRegion l && l.image == 1) = false) := by decide +kernel
theorem witness_TableCommands_launch :
    let la := fun n => [(8, 2, n), (0xA, 2, 222), (0xC, 2, 382)]
    let go := fun n => { commanding true (entryWith 1 (la n)) with
      unrid := { (commanding true (entryWith 1 (la n))).unrid with images := [(1, imageL)] } }
    let pre := fun q => [(8, 2, 0), (0x10, 8, q), (0x18, 8, 2 ^ 63)]
    let stop := fun (q : Nat) (st : LaunchSt) => { commanding true (entryWith 8 (pre q)) with
      unrid := { (commanding true (entryWith 8 (pre q))).unrid with launches := [{ launch4 with st := st }] } }
    (starts (go 1) (entryWith 1 (la 1)) 1 = true ∧ badLaunch (go 1) (entryWith 1 (la 1)) = false ∧ (go 1).dev.st ≠ .fatal) ∧
    (starts (go 2) (entryWith 1 (la 2)) 1 = true ∧ badLaunch (go 2) (entryWith 1 (la 2)) = true) ∧
    (starts (stop 9 .running) (entryWith 8 (pre 9)) 8 = true ∧ (stop 9 .running).dev.st ≠ .fatal ∧
      ((stop 9 .running).unrid.launches.find? fun l => l.key = ⟨0, 9⟩) = none) ∧
    (starts (stop 0 .running) (entryWith 8 (pre 0)) 8 = true ∧
      ((stop 0 .running).unrid.launches.find? fun l => l.key = ⟨0, 0⟩) = some launch4 ∧ launch4.st = .running) ∧
    (((stop 0 .draining).unrid.launches.find? fun l => l.key = ⟨0, 0⟩).map (·.st) = some .draining ∧
      ((stop 0 .saving).unrid.launches.find? fun l => l.key = ⟨0, 0⟩).map (·.st) = some .saving) := by decide +kernel

/-- A launch of one core in some state, with the entry that it answers in flight. -/
def launch1 (st : LaunchSt) : Launch := { placedLaunch with st := st, drainAt := 10, preemptLim := 1000, actx := 1 }
def entry1 : Entry := ⟨⟨0, 0⟩, [1], .active⟩
def launching (l : Launch) (c : Core) : State :=
  { dev := { st := .ready }
    cores := [(0, c)]
    expanders := [(0, { capacity := 2 ^ 30, up := true, poison := [] })]
    unrid := { launches := [l], entries := [entry1], ctxs := [(1, ⟨0x40000, 16384, [], [(0, 2, 0)]⟩)] } }
/-- A core whose task 0 has ended. -/
def quietCore : Core := { placedCore {} 0 with running := none }
theorem quiet_empty (k : Nat) : isQuiet State.reset (coreAt State.reset k) = true := by
  rw [show coreAt State.reset k = {} by simp [coreAt, State.reset, fget, ffind]]; decide +kernel
theorem witness_LaunchFlow :
    let w := launch1 .waitRegion
    let s := launching w {}
    let two := { s with unrid := { s.unrid with launches := [w, { launch4 with key := ⟨1, 1⟩ }] } }
    let gone := { s with dev := { s.dev with unavailBands := 1 } }
    (let d := { launch1 .draining with preemptKey := some ⟨0, 1⟩, sweepWas := some (0, 0) }
     let q := launching d quietCore
     let t := { q with unrid := { q.unrid with entries := [entry1, { entry1 with key := ⟨0, 1⟩ }] } }
     launchNum t 1 = some d ∧ faulted t 1 = false ∧ d.st = .draining ∧ quietFirst t d = true ∧ (⟨0, 1⟩ : EntryKey) ≠ d.key ∧
     entryAt t d.key = some entry1 ∧ entryAt t ⟨0, 1⟩ = some { entry1 with key := ⟨0, 1⟩ }) ∧
    (s.dev.st ≠ .fatal ∧ (s.unrid.launches.find? fun l => l.key = ⟨0, 0⟩ ∧ l.st = .waitRegion) = some w ∧ mayGrant s w = true ∧
      grantRefusal s w = none) ∧
    ((two.unrid.launches.find? fun l => l.key = ⟨0, 0⟩ ∧ l.st = .waitRegion) = some w ∧
      two.dev.st ≠ .fatal ∧ mayGrant two w = false) ∧
    (mayGrant gone w = true ∧ 0 ∈ regionKeys w ∧ unavailable gone.dev (rowOf 0) (colOf 0) = true ∧
      entryAt gone ⟨0, 0⟩ = some entry1 ∧ entry1.st = .active) ∧
    (let r := launch1 .running
     let q := launching r quietCore
     let busy := launching r (placedCore {} 0)
     let quiet := fun s : State => ((regionKeys r).all fun k => isQuiet s (coreAt s k)) && lardersDone s r &&
       (regionSums s r).1 == (regionSums s r).2
     launchNum q 1 = some r ∧ q.dev.stopped = false ∧ faulted q 1 = false ∧ r.st = .running ∧ quiet q = true ∧ r.sweep ≠ some (regionSums q r) ∧
     quiet busy = false ∧ r.preemptKey = none ∧ entryAt q r.key = some entry1 ∧
     (let r2 := { r with sweep := some (0, 0) }
      launchNum (launching r2 quietCore) 1 = some r2 ∧ r2.sweep = some (regionSums (launching r2 quietCore) r2))) ∧
    (let v := launch1 .saving
     launchNum (launching v {}) 1 = some v ∧ v.st = .saving ∧ v.preemptKey = none ∧ entryAt (launching v {}) v.key = some entry1 ∧
     (writeSave (launching v {}) v (saveImage (launching v {}) v) (saveSize v.rows v.cols / 4)).isSome = true) ∧
    (let d := launch1 .draining
     launchNum (launching d {}) 1 = some d ∧ d.st = .draining ∧ d.preemptKey = none ∧ (launching d {}).dev.faults = [] ∧
     inWaves (launching d {}).dev = false ∧ (launching d {}).live < d.drainAt + d.preemptLim ∧
     d.drainAt + d.preemptLim ≤ ({ launching d {} with live := 1010 } : State).live) := by decide +kernel
theorem witness_LaunchFlow_forecast : (∀ k, k ∈ fieldKeys 6 11 → isQuiet State.reset (coreAt State.reset k) = true) ∧
    ∀ l, l ∈ State.reset.unrid.launches → soonActive State.reset l = false :=
  ⟨fun k _ => quiet_empty k, fun _ h => by simp [State.reset] at h⟩

theorem readBytes_erased (n a : Nat) : (Memory.erased.readBytes a n).all (· == 0xFF) = true := by
  induction n generalizing a with
  | zero => rfl
  | succ n ih => simp only [Memory.readBytes, List.all_cons, ih]; rfl
theorem freeSlot_erased : freeSlot Memory.erased = some 0 := by
  have h : (List.range logSlots).filter (fun i => !erasedSlot Memory.erased i) = [] :=
    List.filter_eq_nil_iff.mpr fun i _ => by rw [erasedSlot, readBytes_erased]; simp
  unfold freeSlot; rw [h]; rfl
theorem witness_FaultEvents :
    let s := launching (launch1 .running) quietCore
    let hop := fun n : Nat => setRouter s 0 { out := [(32, [flitOf 0 0 5])], retries := [(32, n)] }
    let dying := { s with dev := { s.dev with failing := [⟨0, 1, 3, 5, false⟩] } }
    let late := { s with dev := { s.dev with failing := [⟨0, 1, 3, 5, true⟩], faults := [⟨some 1, 8, 0, 1, 5⟩], inWaves := true } }
    let wave := { s with dev := { s.dev with stopped := true, wave := some ⟨⟨true, 0⟩, 0, 1, 5⟩ } }
    (logicalOf s.dev 0 1 = some (0, 1) ∧ launchOf s 0 1 = none) ∧
    (logicalOf s.dev 0 0 = some (0, 0) ∧ launchOf s 0 0 = some (launch1 .running) ∧
      launchNum s (launch1 .running).num = some (launch1 .running) ∧ (launch1 .running).preemptKey = none ∧
      entryAt s (launch1 .running).key = some entry1 ∧ entry1.st = .active ∧ (coreAt s (keyOf 0 0)).eccLast = none) ∧
    (s.dev.st ≠ .fatal ∧ inWafer (keyOf 230 395) = true ∧ s.dev.faults = [] ∧ inWaves s.dev = false) ∧
    (late.dev.failing = [⟨0, 1, 3, 5, true⟩] ∧ late.dev.faults ≠ [] ∧ inWaves late.dev = true ∧ late.dev.wave = none) ∧
    ((hop 7).dev.stopped = false ∧ Dir.e ≠ .l ∧ 32 * dirCode .e + (0 : BitVec 5).toNat = 32 ∧
      fget (routerAt (hop 7) (keyOf 0 0)).out 32 [] ≠ [] ∧ fget (routerAt (hop 7) (keyOf 0 0)).retries 32 0 < 8 ∧
      8 ≤ fget (routerAt (hop 8) (keyOf 0 0)).retries 32 0) ∧
    (dying.dev.wave = none ∧ dying.dev.failing = [⟨0, 1, 3, 5, false⟩] ∧ dying.dev.faults = [] ∧ coreRetired dying.dev 0 1 = false ∧
      spareFree dying.dev.retiredRows 0 = true ∧ dying.dev.mapgen.toNat < 0xFFFF ∧ dying.dev.flash = Memory.erased) ∧
    (freeSlot Memory.erased).isSome = true ∧
    (wave.dev.wave = some ⟨⟨true, 0⟩, 0, 1, 5⟩ ∧ wave.dev.failing = [] ∧ wave.dev.st ≠ .fatal) :=
  ⟨by decide +kernel, by decide +kernel, by decide +kernel, by decide +kernel, by decide +kernel, by decide +kernel, by rw [freeSlot_erased]; rfl,
    by decide +kernel⟩

/-! ### Links, the fabric and messages -/

/-- A one-flit message of class 3 from core (0, 0) for core (0, 1). -/
def flitE : Flit := { payload := 7, side := sideFirst 3 0 0 1 false 0 0 0 }
/-- The device with link 0 as given. -/
def linked (l : Link) (cycle : Nat) : State := { base with links := [(0, l)], cycle := cycle }
/-- A good DATA frame of number 5, and one of a reserved type. -/
def body5 : Nat := 1 + 2 ^ 4 * 5 + 2 ^ 16 * 4095 + 2 ^ 28 + 2 ^ 64 * flitE.side.toNat + 2 ^ 128 * flitE.payload.toNat
def frame5 : BitVec 1280 := BitVec.ofNat 1280 (body5 + 2 ^ 1248 * (frameCrc (BitVec.ofNat 1280 body5)).toNat)
theorem frame5_good : frameGood frame5 = true := Laws.frame_good body5 (by decide +kernel) (by decide +kernel) (by decide +kernel)
theorem frame5_head : frameHead frame5 = ⟨1, 5, 4095, 1, 0, 0⟩ := (Laws.frame_head body5 (by decide +kernel) _).trans (by decide +kernel)
/-- A CTRL frame, a BARRIER frame of number 5. -/
def bodyOf (type seq : Nat) : Nat := type + 2 ^ 4 * seq + 2 ^ 16 * 4095
def frameOf (type seq : Nat) : BitVec 1280 :=
  BitVec.ofNat 1280 (bodyOf type seq + 2 ^ 1248 * (frameCrc (BitVec.ofNat 1280 (bodyOf type seq))).toNat)
theorem ctrl_good : frameGood (frameOf 2 0) = true :=
  Laws.frame_good (bodyOf 2 0) (by decide +kernel) (by decide +kernel) (by decide +kernel)
theorem ctrl_head : frameHead (frameOf 2 0) = ⟨2, 0, 4095, 0, 0, 0⟩ :=
  (Laws.frame_head (bodyOf 2 0) (by decide +kernel) _).trans (by decide +kernel)
theorem barrier_good : frameGood (frameOf 3 5) = true :=
  Laws.frame_good (bodyOf 3 5) (by decide +kernel) (by decide +kernel) (by decide +kernel)
theorem barrier_head : frameHead (frameOf 3 5) = ⟨3, 5, 4095, 0, 0, 0⟩ :=
  (Laws.frame_head (bodyOf 3 5) (by decide +kernel) _).trans (by decide +kernel)
theorem frame_reserved (f : BitVec 1280) (h : ¬ (frameHead f).type < 4) : frameGood f = false := by simp [frameGood, h]
theorem frameBad_bad : frameGood (BitVec.allOnes 1280) = false := frame_reserved _ (by decide +kernel)
theorem witness_PoluriAndReductions_links :
    let a := linked { st := .active, sendSeq := 4095, expect := 5, credits := [(31, 1)], tx := [(31, [flitE, flit0])] } 0
    let late := fun n : Nat => linked { st := .active, replay := [frame5], replays := n, lastAck := 200 } 4000
    ((linked {} 0).links = [(0, {})] ∧ (linkAt (linked {} 0) (0 : BitVec 6).toNat).st = .down) ∧
    ((linkAt (linked { st := .train, since := 10 } 190010) 0).st = .train ∧ 10 + 190000 ≤ 190010) ∧
    ((linkAt a 0).st = .active ∧ fget (linkAt a 0).tx (31 : BitVec 5).toNat [] = flitE :: [flit0] ∧ a.dev.stopped = false ∧
      fget (linkAt a 0).credits (31 : BitVec 5).toNat 0 ≠ 0 ∧ (linkAt a 0).replay.length < 1024) ∧
    ((linkAt (late 15) 0).st = .active ∧ (linkAt (late 15) 0).replay ≠ [] ∧ (linkAt (late 15) 0).lastAck + 3800 ≤ (late 15).cycle ∧
      (linkAt (late 14) 0).replays < 15 ∧ (linkAt (late 15) 0).replays = 15 ∧ (linkAt (late 15) 0).retrains = []) ∧
    (16 ≤ (linkAt (late 16) 0).replays ∧ (linkAt (late 16) 0).retrains = []) ∧
    (frameGood frame5 = true ∧ (frameHead frame5).type = 1 ∧ (frameHead frame5).seq = (linkAt a 0).expect ∧ (linkAt a 0).replay = [] ∧
      (frameHead frame5).seq ≠ (linkAt (late 0) 0).expect ∧ 3999 < (linkAt (late 0) 0).lastAck + 3800 ∧ frameGood (BitVec.allOnes 1280) = false) :=
  ⟨by decide +kernel, by decide +kernel, by decide +kernel,
    ⟨by decide +kernel, by intro h; exact absurd (congrArg List.length h) (by decide +kernel), by decide +kernel⟩, by decide +kernel,
    frame5_good, by rw [frame5_head], by rw [frame5_head]; decide +kernel, by decide +kernel, by rw [frame5_head]; decide +kernel,
    by decide +kernel, frameBad_bad⟩

theorem witness_PoluriAndReductions_frames :
    let a := linked { st := .active, expect := 5, rx := [(3, List.replicate 7 flit0)] } 0
    let full := linked { st := .active, expect := 5, rx := [(3, List.replicate 8 flit0)] } 0
    let side := ((frameSide frame5).extractLsb' 0 5).toNat
    ((linkAt (linked { st := .train } 189999) 0).st = .train ∧ (linkAt (linked { st := .retrain } 190000) 0).st = .retrain ∧
      189999 < 0 + 190000 ∧ 0 + 190000 ≤ 190000) ∧
    (frameGood (frameOf 2 0) = true ∧ (frameHead (frameOf 2 0)).type = 2) ∧
    (frameGood (frameOf 3 5) = true ∧ (frameHead (frameOf 3 5)).type = 3 ∧ (frameHead (frameOf 3 5)).seq = (linkAt a 0).expect ∧
      (frameHead (frameOf 3 5)).seq ≠ (linkAt (linked {} 0) 0).expect) ∧
    (side = 3 ∧ (fget (linkAt a 0).rx side []).length < 8 ∧ 8 ≤ (fget (linkAt full 0).rx side []).length) := by
  have hs : ((frameSide frame5).extractLsb' 0 5).toNat = 3 := by
    unfold frameSide frame5
    rw [show (BitVec.ofNat 1280 (body5 + 2 ^ 1248 * (frameCrc (BitVec.ofNat 1280 body5)).toNat)).extractLsb' 64 64 =
      (BitVec.ofNat 1280 body5).extractLsb' 64 64 from Laws.frame_low body5 (by decide +kernel) _ 64 64 (by decide)]
    decide +kernel
  refine ⟨by decide +kernel, ⟨ctrl_good, by rw [ctrl_head]⟩, ⟨barrier_good, by rw [barrier_head], by rw [barrier_head]; decide +kernel,
    by rw [barrier_head]; decide +kernel⟩, ?_⟩
  simp only [hs]; decide +kernel

/-- A reduction step of the north unit over port 0 alone, of one flit. -/
def step1 (bufs : FMap (List (Nat × Flit))) (retry : Bool) : MergeStep := ⟨⟨0, 0⟩, 1, 1, 3, 1, 0, 0, retry, 0, bufs⟩
theorem witness_PoluriAndReductions_steps :
    let e := entryWith 2 [(8, 8, 1), (0x10, 1, 1), (0x11, 1, 3), (0x14, 4, 1), (0x18, 8, 0x4000), (0x20, 8, 0x100)]
    let eS := entryWith 2 [(8, 8, 2 ^ 63), (0x10, 1, 1), (0x14, 4, 1)]
    let m := step1 [] false
    let s := { linked { st := .active, rx := [(3, [flitE])] } 0 with
      unrid := { launches := [launch4], entries := [entry1], steps := [(0, m)] }, live := 400000 }
    let late := fun retry => { s with unrid := { s.unrid with steps := [(0, step1 [(0, [(20000, flitE)])] retry)] } }
    (starts (commanding true e) e 2 = true ∧ (commanding true e).dev.st ≠ .fatal ∧ (commanding true e).dev.stopped = false ∧
      (entryWord e 8).toNat % 2 ^ 32 ≠ 0 ∧ ffind (commanding true e).unrid.steps 0 = none ∧
      starts (commanding true eS) eS 2 = true ∧ (entryWord eS 8).toNat % 2 ^ 32 = 0) ∧
    (s.dev.stopped = false ∧ ffind s.unrid.steps ((0 : BitVec 6).toNat / 32) = some m ∧ m.ports.getLsbD (0 : BitVec 6).toNat = true ∧
      fget (linkAt s 0).rx m.cls.toNat [] = flitE :: [] ∧ flitDwaf flitE = s.dev.wafer.toNat ∧
      fget s.unrid.stale (32 * 0 + m.cls.toNat) 0 = 0 ∧ contributed m 0 < m.nflits ∧ (fget m.bufs 0 []).length < 64 ∧ firstArrival m = none) ∧
    (let m := step1 [(0, [(20000, flitE)])] false
     (late false).dev.stopped = false ∧ ffind (late false).unrid.steps ((0 : BitVec 6).toNat / 32) = some m ∧
     m.ports.getLsbD (0 : BitVec 6).toNat = true ∧ fget (linkAt (late false) 0).rx m.cls.toNat [] = flitE :: [] ∧
     flitDwaf flitE = (late false).dev.wafer.toNat ∧ fget (late false).unrid.stale (32 * 0 + m.cls.toNat) 0 = 0 ∧
     firstArrival m = some 20000) ∧
    (let w := step1 [(0, [(s.live, flitE)])] false
     0 < 64 ∧ stepPorts w = [0] ∧ w.bufs = [(0, [(s.live, flitE)])] ∧ w.k + 1 = w.nflits ∧ entryAt s w.key = some entry1 ∧
     entry1.st = .active ∧ w.nflits ≤ 65536) ∧
    (let place := fun (a : Word) => ((a.extractLsb' 48 9).toNat, (a.extractLsb' 39 9).toNat)
     let inside := fun (a : Word) (len : Nat) => a.getLsbD 63 = false ∧ (a.extractLsb' 57 6).toNat = s.dev.wafer.toNat ∧
       inGrid (keyOf (place a).1 (place a).2) = true ∧ unavailable s.dev (place a).1 (place a).2 = false ∧
       (a.extractLsb' 0 39).toNat + len ≤ 0x80000
     inside m.dest 128 ∧ inside (0x7FFF0 : Word) 16) ∧
    ((∀ retry, ffind (late retry).unrid.steps 0 = some (step1 [(0, [(20000, flitE)])] retry)) ∧
      firstArrival (step1 [(0, [(20000, flitE)])] true) = some 20000 ∧ 20000 + 380000 ≤ (late true).live) ∧
    (ffind (commanding true e).expanders (0 : BitVec 6).toNat = some { capacity := 2 ^ 30, up := true, poison := [] } ∧ (0 : BitVec 6).toNat < 48) := by
  decide +kernel

theorem witness_FabricEvents_hops :
    let local_ := on fun c => { c with egress := [(3, [flitE])] }
    let out := setRouter base 0 { out := [(35, [flitE])] }
    let larder := setLarder base 0 { egress := [(3, [flitE])] }
    (local_.dev.stopped = false ∧ ((classOrder (fget (routerAt local_ (keyOf 0 0)).lastCls (dirCode .e) 31)).findSome? fun cls =>
      (inputFor local_ (keyOf 0 0) (placeOf local_ (keyOf 0 0)) (dirCode .e) cls).map fun x => (cls, x)) = some (3, 4, flitE)) ∧
    (Dir.e ≠ .l ∧ outFlits (routerAt out (keyOf 0 0)) (dirCode .e) (3 : BitVec 5).toNat = [flitE] ∧
      leadOf out.dev (keyOf 0 0) (dirCode .e) = .router 1 ∧ 1 ≠ keyOf 0 0 ∧
      (inputFlits out 1 (placeOf out 1) (facing (dirCode .e)) (3 : BitVec 5).toNat).length < 2) ∧
    (0 < 48 ∧ fget (larderAt larder 0).egress (3 : BitVec 5).toNat [] = flitE :: [] ∧
      entryRouter larder.dev (.larder 0) = some (2048, 3) ∧
      (inputFlits larder 2048 (placeOf larder 2048) 3 (3 : BitVec 5).toNat).length < 2) := by decide +kernel

/-- The entry that merges by add what comes from the east and from the core and sends it south. -/
def mergeWord : BitVec 32 := 3 + 4 + 2 ^ 10 * 4 + 2 ^ 25 * 4
theorem witness_FabricEvents_merge :
    let flitS : Flit := { payload := 7, side := sideFirst 3 0 1 1 false 0 0 0 }
    let node := fun f : Flit => setRouter (on fun c => { c with egress := [(3, [flitE])], routes := [(3, mergeWord)] }) 0
      { inp := [(35, [f])] }
    placeOf (node flitE) (keyOf 0 0) = some (0, 0) ∧ mergeEntry (node flitE) (keyOf 0 0) (some (0, 0)) 0 0 3 = some mergeWord ∧
    mergeHeads (node flitE) (keyOf 0 0) (some (0, 0)) 0 0 3 mergeWord = some [flitE, flitE] ∧
    mergeable mergeWord [flitE, flitE] = true ∧ mergeEntry (node flitS) (keyOf 0 0) (some (0, 0)) 0 0 3 = some mergeWord ∧
    mergeHeads (node flitS) (keyOf 0 0) (some (0, 0)) 0 0 3 mergeWord = some [flitS, flitE] ∧
    mergeable mergeWord [flitS, flitE] = false := by decide +kernel
theorem witness_FabricEvents_reports :
    let renorm := setRouter base 0 { inp := [(32 * 1 + 26, [flit0])] }
    let stalled := { setRouter base 0 { waiting := [(23, 10)] } with live := 110 }
    let early := { setRouter base 0 { waiting := [(23, 10)] } with live := 109 }
    let stat : Flit := { payload := 11 + 2 ^ 32 * 11 + 2 ^ 64 * 11, side := 30 }
    let sink := fun cfg => { setLarder base 47 { rx := [(30, [stat])] } with dev := { base.dev with cfg := cfg } }
    let passes := fun g : BootCfg => (g.satThr ≠ 0 ∧ g.satThr < flitField stat 0 4) ∨ (g.nanThr ≠ 0 ∧ g.nanThr < flitField stat 4 4) ∨
      (g.uflThr ≠ 0 ∧ g.uflThr < flitField stat 8 4)
    (routerOf renorm.dev 0 0 = some 0 ∧ renormsAt renorm 0 (some (0, 0)) = (1, flit0) :: [] ∧ renorm.dev.stopped = false) ∧
    (placeOf stalled (keyOf 0 0) = some (0, 0) ∧ launchOf stalled 0 0 = some launch4 ∧
      ffind (routerAt stalled (keyOf 0 0)).waiting (23 : BitVec 5).toNat = some 10 ∧ launch4.classMask.getLsbD 23 = true ∧
      launch4.stallLim ≤ stalled.live - 10 ∧ early.live - 10 < launch4.stallLim) ∧
    (fget (larderAt (sink {}) 47).rx 30 [] = stat :: [] ∧ passes { satThr := 10 } ∧ passes { nanThr := 10 } ∧ passes { uflThr := 10 } ∧
      ¬passes { satThr := 11, nanThr := 11 }) := by decide +kernel

/-- A message of a kind and descriptor from core (0, 1), received by core (0, 0) on class 3. -/
def message (kind : Nat) (fields : List (Nat × Nat)) : Flit :=
  { payload := payloadOf fields, side := sideFirst 3 kind 0 0 false 0 0 1 }
/-- The same with one data flit. -/
def message2 (kind : Nat) (fields : List (Nat × Nat)) : Flit :=
  { payload := payloadOf fields, side := sideFirst 3 kind 0 0 false 1 0 1 }
def received (cls : Nat) (fs : List Flit) (f : Core → Core) : State := on fun c => f { c with rx := [(cls, fs)], runsCode := true }
theorem arrived_of {s : State} {row col cls : Nat} {f : Flit} {ds : List Flit}
    (h : s.dev.stopped = false ∧ inGrid (keyOf row col) = true ∧ fget (coreAt s (keyOf row col)).rx cls [] = f :: ds ∧
      ds.length + 1 = messageSize f) : Arrived s row col cls f ds := ⟨h.1, h.2.1, h.2.2.1, h.2.2.2⟩
theorem witness_Messages_requests :
    let write := message2 1 [(0, 0x7FFE0), (8, 32), (12, 4)]
    let late := message2 1 [(0, 0x80000), (8, 32), (12, 4)]
    let signal := message 2 [(0, 0x7FFF8), (12, 4), (16, 5)]
    let rdreq := message 3 [(0, 0x1000), (4, 0x2000), (8, 128), (12, 4)]
    let radd := fun op => message2 5 [(0, 0x1000), (8, 32), (12, 4), (14, op)]
    let amo := fun op => message 6 [(0, 0x1000), (12, 4), (14, op), (16, 5)]
    let c := fun (fs : List Flit) => taking (received 3 fs id) 0 0 3
    (Arrived (received 3 [write, flit0] id) 0 0 3 write [flit0] ∧ flitKind write = 1 ∧
      verdict (received 3 [write, flit0] id) 0 0 3 write = none) ∧
    (Arrived (received 3 [late, flit0] id) 0 0 3 late [flit0] ∧ flitKind late = 1 ∧
      verdict (received 3 [late, flit0] id) 0 0 3 late = some 5) ∧
    (Arrived (received 3 [signal] id) 0 0 3 signal [] ∧ flitKind signal = 2 ∧
      verdict (received 3 [signal] id) 0 0 3 signal = none) ∧
    (Arrived (received 3 [rdreq] id) 0 0 3 rdreq [] ∧ flitKind rdreq = 3 ∧
      verdict (received 3 [rdreq] id) 0 0 3 rdreq = none) ∧
    (Arrived (received 3 [radd 6, flit0] id) 0 0 3 (radd 6) [flit0] ∧ flitKind (radd 6) = 5 ∧ dOp (radd 6) = 6 ∧ dOp (radd 7) = 7 ∧
      dOp (radd 1) = 1 ∧ dOp (radd 0) = 0 ∧
      verdict (received 3 [radd 6, flit0] id) 0 0 3 (radd 6) = none) ∧
    (Arrived (received 3 [amo 3] id) 0 0 3 (amo 3) [] ∧ flitKind (amo 3) = 6 ∧ dOp (amo 3) = 3 ∧ dOp (amo 4) = 4 ∧
      verdict (received 3 [amo 3] id) 0 0 3 (amo 3) = none ∧ Arrived (received 3 [amo 4] id) 0 0 3 (amo 4) [] ∧
      (joinBatch (received 3 [amo 4] id).live 3 (c [amo 4]) (amo 4)).isSome = true) :=
  ⟨⟨arrived_of (by decide +kernel), by decide +kernel⟩, ⟨arrived_of (by decide +kernel), by decide +kernel⟩,
    ⟨arrived_of (by decide +kernel), by decide +kernel⟩, ⟨arrived_of (by decide +kernel), by decide +kernel⟩,
    ⟨arrived_of (by decide +kernel), by decide +kernel⟩,
    ⟨arrived_of (by decide +kernel), by decide +kernel, by decide +kernel, by decide +kernel, by decide +kernel,
      arrived_of (by decide +kernel), by decide +kernel⟩⟩
/-- Each verdict's case: a first flit of an earlier launch, a core between the steps of a region fault, frozen, asleep, or able. -/
theorem witness_Messages_verdicts :
    let own := fun gen : Nat => message2 1 [(0, 0x1000), (8, 32), (12, 4), (32, gen)]
    let far := fun gen : Nat => { own gen with side := sideFirst 3 1 0 0 true 1 0 1 }
    let s := fun f => received 3 [own 0, flit0] f
    let x := fun f => coreAt (s f) (keyOf 0 0)
    ffind (x id).verdicts (3 : BitVec 5).toNat = none ∧
    (flitForeign (far 4095) = true ∧ flitField (far 4095) 32 2 ≠ ownGen (x id)) ∧ flitForeign (own 0) = false ∧
    (x fun c => { c with resetting := true }).resetting = true ∧ (x id).resetting = false ∧
    (flitForeign (far (ownGen (x id))) = true ∧ flitField (far (ownGen (x id))) 32 2 = ownGen (x id) ∧
      (x fun c => { c with frozen := true }).frozen = true ∧ (x id).frozen = false ∧ isSaving (s id) 0 0 = false) ∧
    ((x fun c => { c with sleep := .gated 0 0 }).sleep ≠ .awake ∧ (x id).sleep = .awake) ∧
    (unavailable (s id).dev 0 0 = false ∧ descClean (own 0) = true ∧ dToff (own 0) + reachOf (own 0) ≤ 0x80000) := by decide +kernel
/-- A GET in flight, of tag 4 and one message. -/
def getOp : EngineOp :=
  { kind := .get, xs := 10, xd := 0, tag := 4, msgs := 1, answers := [], cls := 3, drow := 0, dcol := 1, handle := 0, lo := 0x1000,
    len := 32, src := false, signal := none }
theorem witness_Messages_answers :
    let rsp := message2 4 [(0, 0x1000), (8, 32), (12, 4)]
    let amo := message 7 [(12, 4), (16, 9)]
    let ack := fun (kind tag : Nat) => message kind [(0, tag), (4, 1)]
    let asked := fun c : Core => { c with ops := [getOp], caps := [(3, 1)] }
    let batch : DfBatch := ⟨0x7FFF8, 44, [⟨0, 1, 4, 5, 3⟩, ⟨1, 1, 5, 6, 3⟩]⟩
    let s := { on (fun c => { c with batches := [batch] }) with live := 300 }
    (Arrived (received 3 [rsp, flit0] asked) 0 0 3 rsp [flit0] ∧
      opOfTag (taking (received 3 [rsp, flit0] asked) 0 0 3) (dTag rsp) = some (getOp, 0) ∧ flitKind rsp = 4 ∧
      verdict (received 3 [rsp, flit0] asked) 0 0 3 rsp = none ∧ isCutShort getOp 0 (dLen rsp) = false ∧
      isCutShort { getOp with kind := .aread } 0 0 = true ∧ awaitsData getOp 0 1 = false) ∧
    (Arrived (received 3 [amo] asked) 0 0 3 amo [] ∧
      opOfTag (taking (received 3 [amo] asked) 0 0 3) (dTag amo) = some (getOp, 0) ∧ flitKind amo = 7) ∧
    (Arrived (received 27 [ack 8 4] asked) 0 0 27 (ack 8 4) [] ∧ 4 ≤ flitField (ack 8 4) 0 2 ∧
      opOfTag (taking (received 27 [ack 8 4] asked) 0 0 27) (flitField (ack 8 4) 0 2) = some (getOp, 0) ∧ flitKind (ack 8 4) = 8 ∧
      flitKind (ack 9 4) = 9) ∧
    (flitField (ack 8 3) 0 2 < 4 ∧
      ((taking (received 27 [ack 8 3] asked) 0 0 27).caps.any fun x => x.1 == flitField (ack 8 3) 0 2) = true) ∧
    (getOp.msgs = 1 ∧ getOp.answers = [] ∧ getOp.signal = none ∧ getOp.xd = 0 ∧ getOp.xs ≠ 0) ∧
    (s.dev.stopped = false ∧ ((coreAt s (keyOf 0 0)).batches.find? fun b => b.addr = 0x7FFF8) = some batch ∧
      batch.opened + 256 ≤ s.live) :=
  ⟨⟨arrived_of (by decide +kernel), by decide +kernel⟩, ⟨arrived_of (by decide +kernel), by decide +kernel⟩,
    ⟨arrived_of (by decide +kernel), by decide +kernel⟩, by decide +kernel⟩

theorem witness_DeliveriesAndCapabilities_deliveries :
    let f := flitOf 3 0 5
    let dst := setRouter (received 24 [] id) 0 { out := [(131, [f])] }
    let spill := on fun c => { c with
      cellar := some (0x1000, 4096)
      sram := ((c.sram.writeLE (0x1000 + 136 * 28) 8 (2 ^ 63)).writeLE (0x1000 + 128 * 28) 8 3) }
    let push := fun (form n : Nat) => message2 15 ([(4, form), (8, 32 * n)] ++ if form = 2 then [(12, 1), (24, 2)] else [])
    let full : Pantry := ⟨0x1000, 12, true, false, 128, 0, 0, 1⟩
    let room : Pantry := ⟨0x1000, 12, true, false, 127, 0, 0, 1⟩
    let pan := fun (x : Pantry) (c : Core) => { c with pantries := [(0, x)] }
    let reading := fun c : Core => { c with breads := [(1, ⟨5, 3, 16, 0, 0, ⟨64, 2, 64, 0, 64, 0, 2, 0x2000, 256, false⟩, 2, 0, 0, 0, 0, false⟩)] }
    let src : BreadSource := ⟨0, 1, 2, 0x7FF80, ⟨64, 2, 64, 0, 64, 0, 2, 0x2000, 256, false⟩, 1⟩
    let sending := on fun c => { c with sources := [src] }
    (routerOf dst.dev 0 0 = some 0 ∧ outFlits (routerAt dst 0) 4 (3 : BitVec 5).toNat = f :: [] ∧ flitKind f = 0 ∧ flitCls f = 3 ∧
      takesFlit dst 0 0 (coreAt dst (keyOf 0 0)) f = true ∧ (queueOf (coreAt dst (keyOf 0 0)) 3).length < 4 ∧
      spilled (coreAt dst (keyOf 0 0)) 3 = false) ∧
    (let gone := setCore dst 0 { coreAt dst 0 with resetting := true }
     outFlits (routerAt gone 0) 4 (3 : BitVec 5).toNat = f :: [] ∧ takesFlit gone 0 0 (coreAt gone (keyOf 0 0)) f = false ∧
     flitKind (flitOf 3 10 5) = 10) ∧
    ((queueOf (coreAt spill (keyOf 0 0)) 3).length < 4 ∧ (takeSpilled (coreAt spill (keyOf 0 0)) 3).isSome = true) ∧
    (let s := received 3 [push 0 1, flit0] (pan full)
     (coreAt s (keyOf 0 0)).sleep = .awake ∧ Arrived s 0 0 3 (push 0 1) [flit0] ∧ flitKind (push 0 1) = 15 ∧ pForm (push 0 1) = 0 ∧
     pushRefused (taking s 0 0 3) (push 0 1) = false ∧ flitField (push 0 1) 5 1 = 0 ∧ pantryAt (taking s 0 0 3) 0 = full ∧
     full.valid = true ∧ full.outbound = false ∧ ffind (coreAt s (keyOf 0 0)).pushed 3 = none ∧
     (full.fill - full.rel).toNat = pantryW full ∧ 0 < dLen (push 0 1) / 32 ∧ [flit0].length * 128 ≥ dLen (push 0 1)) ∧
    (let s := received 3 [push 0 1, flit0] (pan room)
     Arrived s 0 0 3 (push 0 1) [flit0] ∧ pantryAt (taking s 0 0 3) 0 = room ∧ (room.fill - room.rel).toNat < pantryW room ∧
     dLen (push 0 1) / 32 = 1 ∧ ffind (coreAt (received 3 [push 0 1, flit0] fun c => { pan room c with pushed := [(3, 0, room)] })
       (keyOf 0 0)).pushed 3 = some (0, room) ∧ room.sets = full.sets ∧ { room with sets := 0 }.sets ≠ room.sets) ∧
    (let old : Pantry := { room with sets := 0 }
     let s := received 3 [push 0 1, flit0] fun c => { pan room c with accepted := [(3, 0, old)] }
     ffind (coreAt s (keyOf 0 0)).accepted 3 = some (0, old) ∧ old.valid = true ∧ old.outbound = false ∧
     old.sets ≠ (pantryAt (taking s 0 0 3) 0).sets ∧ { old with valid := false }.valid = false) ∧
    (let s := received 3 [push 1 1, flit0] id
     Arrived s 0 0 3 (push 1 1) [flit0] ∧ pForm (push 1 1) = 1 ∧ pushRefused (taking s 0 0 3) (push 1 1) = false) ∧
    (let s := received 24 [push 2 1, flit0] reading
     Arrived s 0 0 24 (push 2 1) [flit0] ∧ flitKind (push 2 1) = 15 ∧ pForm (push 2 1) = 2 ∧
     pushRefused (taking s 0 0 24) (push 2 1) = false ∧ (ffind (coreAt s (keyOf 0 0)).breads (dTag (push 2 1))).isSome = true ∧
     (coreAt s (keyOf 0 0)).bursts = [] ∧ (coreAt s (keyOf 0 0)).handlers = []) ∧
    (let stopped := setCore sending (keyOf src.rrow src.rcol) { coreAt sending 1 with
       breads := [(2, ⟨5, 3, 16, 0, 0, ⟨64, 2, 64, 0, 64, 0, 2, 0x2000, 256, false⟩, 2, 0, 0, 0, 6, false⟩)] }
     breadStopped stopped src.rrow src.rcol src.tag = true ∧ breadStopped sending src.rrow src.rcol src.tag = false) ∧
    ((coreAt sending (keyOf 0 0)).sources = src :: [] ∧ src.next ≠ 0 ∧ (egressOf (coreAt sending (keyOf 0 0)) 24).length < 2 ∧
      burstSpan src.desc (burstIndex src.desc src.next) = some (1, 0, 64)) :=
  ⟨by decide +kernel, by decide +kernel, by decide +kernel, ⟨by decide +kernel, arrived_of (by decide +kernel), by decide +kernel⟩,
    ⟨arrived_of (by decide +kernel), by decide +kernel⟩, by decide +kernel, ⟨arrived_of (by decide +kernel), by decide +kernel⟩,
    ⟨arrived_of (by decide +kernel), by decide +kernel⟩, by decide +kernel, by decide +kernel⟩
theorem witness_DeliveriesAndCapabilities_capabilities :
    let ask := fun (op space i v : Nat) => message 14 [(8, op), (9, space), (12, i), (16, v), (24, 3)]
    (∀ op ∈ [1, 2, 3, 4, 5], flitField (ask op 0 0 0) 8 1 = op ∧ flitKind (ask op 0 0 0) = 14 ∧ capInvalid (ask op 0 0 0) = false ∧
      flitField (ask op 0 0 0) 3 2 % 4096 = ownGen (taking (received 25 [ask op 0 0 0] id) 0 0 25)) ∧
    capInvalid (ask 1 6 287 0) = false ∧ capInvalid (ask 5 0 0 31) = false ∧
    Arrived (received 25 [ask 1 6 287 0] id) 0 0 25 (ask 1 6 287 0) [] ∧
    (taking (received 25 [ask 2 0 0 0] fun c => { c with halted := true }) 0 0 25).halted = true :=
  ⟨by decide +kernel, by decide +kernel, by decide +kernel, arrived_of (by decide +kernel), by decide +kernel⟩

theorem witness_CoreEvents :
    let p : Pending := ⟨.main, 0, [.x 5 7], 3, false, false, 0, 0, 0, 0, none⟩
    let owed := on fun c => { c with pending := [p, p] }
    let waits := fun v : Word => on fun c => { xs [(2, v)] { c with wait := .instr } with
      istore := c.istore.writeLE 0 8 (encode (.waits Hdr.plain 1 2)).toNat }
    let bp := on fun c => { c with sys := { c.sys with dbgpc := [(3, 1)] } }
    let l1 : Launch := { launch4 with rows := 1, cols := 1 }
    let bar := { (on fun c => { c with arrivals := 8, runsCode := true }) with unrid := { launches := [l1] } }
    let gated := fun (w : Core → Core) (n : Nat) => { (on fun c => w { c with sleep := .gated 10 n }) with cycle := 30 }
    let mark := setRouter base 0 { out := [(128, [flitOf 0 13 0])] }
    (let c := coreAt (waits 0) (keyOf 0 0)
     c.draining = false ∧ c.frozen = false ∧ c.gang = none ∧ { c with draining := true }.draining = true ∧
     (coreAt (on fun c => { c with wait := .barrier .quad 3 }) (keyOf 0 0)).wait = .barrier .quad 3) ∧
    inGrid (keyOf 223 383) = true ∧ (coreAt owed (keyOf 0 0)).pending = p :: [p] ∧ p.late = none ∧
    ((coreAt (waits 0) (keyOf 0 0)).wait = .instr ∧ waitOver (coreAt (waits 0) 0) (fetchAt (coreAt (waits 0) 0) .main) = true ∧
      waitOver (coreAt (waits 1) 0) (fetchAt (coreAt (waits 1) 0) .main) = false) ∧
    (coreMayIssue bp (coreAt bp (keyOf 0 0)) = true ∧ (breakpointCtx bp (coreAt bp (keyOf 0 0))).isSome = true) ∧
    (launchOf bar 0 0 = some l1 ∧ holdsBarrier (some l1) .quad 3 = true ∧ participants l1 .quad (keyOf 0 0) = [0] ∧
      hasArrived .quad 3 (coreAt bar 0) = true ∧ l1.orgCol + l1.cols ≤ 384) ∧
    ((coreAt (gated id 20) (keyOf 0 0)).sleep = .gated 10 20 ∧ wakes (coreAt (gated id 20) 0) = false ∧
      wakes (coreAt (gated idle1 20) 0) = true ∧ (20 ≠ 0 ∧ 10 + 20 ≤ (gated id 20).cycle) ∧ (gated id 21).cycle < 10 + 21) ∧
    (routerOf mark.dev 0 0 = some 0 ∧ (markerClass mark 0).map (·.1) = some 0) := by decide +kernel

/-- The core in focus with one result pending, HAZMODE as given. -/
def owed1 (p : Pending) (pr : Bool) : State := on fun c => { c with pending := [p], sys := { c.sys with precise := pr } }
/-- A result for x5 with n instructions of its window to come. -/
def x5 (n : Nat) (w : Bool) : Pending := ⟨.main, 0, [.x 5 7], n, w, false, 0, 0, 0, 0, none⟩
theorem owed_of (n : Nat) (w pr : Bool) : Owed (owed1 (x5 n w) pr) Hdr.plain (x5 n w) :=
  ⟨show inGrid 0 = true by decide +kernel, rfl, rfl, rfl, rfl, rfl, rfl, by
    show ∀ n, n < 4 → (fget (placedCore {} 0).sys.dbgpc n 0).getLsbD 0 = false
    decide +kernel, rfl, rfl, rfl, rfl⟩
theorem witness_CoreEvents_lookahead :
    (∀ n w pr, Owed (owed1 (x5 n w) pr) Hdr.plain (x5 n w)) ∧
    (let named := fun (a b d : Reg) (x : DestVal) => x.ref ∈ [RegRef.x a.toNat, .x b.toNat, .x d.toNat] ∧ x.ref ≠ .x 0
     (∀ x, x ∈ (x5 3 false).dests → ¬ named 1 2 3 x) ∧ (∃ x, x ∈ (x5 3 false).dests ∧ named 5 2 3 x) ∧
     (∃ x, x ∈ (x5 3 false).dests ∧ named 1 2 5 x) ∧ named 5 2 3 (.x 5 7)) ∧
    ((x5 3 true).whole = true ∧ (x5 0 false).whole = false ∧ (x5 0 false).left = 0 ∧ (x5 3 false).left ≠ 0) ∧
    ((focused (owed1 (x5 3 false) true)).sys.precise = true ∧ (focused (owed1 (x5 3 false) false)).sys.precise = false) ∧
    ((x5 3 false).dests = [] ++ .x 5 7 :: [] ∧ ((x5 3 false).dests.map DestVal.ref).Nodup) :=
  ⟨owed_of, by decide, by decide, by decide +kernel, by decide⟩

/-! ### Larders -/

/-- A launch on the four cores with larder 0, its attic mapped, a command at 0x100, and context 0 of the larder as given. -/
def larding (x : LCtx) (w v : Nat) : State :=
  { base with
    attic := (Memory.empty.writeLE 0x100 8 w).writeLE 0x108 8 v
    expanders := [(0, { capacity := 2 ^ 30, up := true, poison := [] })]
    port0 := { up := true }
    larders := [(0, { launch := some 1, ctx := [(0, x)] })]
    unrid := { base.unrid with ctxs := [(0, ⟨0x40000, 8192, [], [(0, 2, 0)]⟩)] } }
/-- The same with a flit of class 29 received. -/
def asked29 (x : LCtx) (fields : List (Nat × Nat)) : State :=
  let s := larding x 0 0
  setLarder s 0 { larderAt s 0 with rx := [(29, [{ payload := payloadOf fields, side := sideFirst 29 14 4 510 false 0 1 1 }])] }
theorem witness_LarderControlEvents_operations :
    let f := fun fields : List (Nat × Nat) => ({ payload := payloadOf fields, side := sideFirst 29 14 4 510 false 0 1 1 } : Flit)
    let start := [(8, 2 ^ 48 - 16)]
    let ring := fun n : Nat => [(0, 1), (2, n), (8, 0x200)]
    let running := asked29 { st := .run, cp := 0x100 }
    let ringed : LCtx := { st := .wait, cp := 0x200, ring := true, ringva := 0x200, tail := 15 }
    let s := larding {} 0 0
    let v : Serving := ⟨1, 4, 3, 0, 0, 0, ⟨64, 2, 64, 0, 64, 0, 2, 0x2000, 256, false⟩, 0, 0, 0, 0⟩
    let serving := setLarder s 0 { larderAt s 0 with waiting := [v] }
    ((asked29 {} start).dev.stopped = false ∧ launchBound (asked29 {} start) 0 = some launch4 ∧
      fget (larderAt (asked29 {} start) 0).rx 29 [] = f start :: [] ∧ inRegion launch4 (flitSrow (f start)) (flitScol (f start)) = true ∧
      flitField (f start) 1 1 = 0 ∧ (lctxAt (larderAt (asked29 {} start) 0) 0).st = .idle ∧
      (BitVec.ofNat 48 (flitField (f start) 8 6)).toNat % 16 = 0 ∧ flitField (f start) 0 1 = 0) ∧
    (fget (larderAt (asked29 { st := .ended } (ring 4)) 0).rx 29 [] = f (ring 4) :: [] ∧
      (lctxAt (larderAt (asked29 { st := .ended } (ring 4)) 0) 0).st = .ended ∧ flitField (f (ring 4)) 0 1 = 1 ∧
      4 ≤ flitField (f (ring 4)) 2 1 ∧ flitField (f (ring 15)) 2 1 ≤ 15) ∧
    (fget (larderAt (running []) 0).rx 29 [] = f [] :: [] ∧ (lctxAt (larderAt (running []) 0) 0).st = .run ∧ flitField (f []) 0 1 = 0) ∧
    (flitField (f [(0, 2)]) 0 1 = 2 ∧ fget (larderAt (running [(0, 2)]) 0).rx 29 [] = f [(0, 2)] :: [] ∧
      (lctxAt (larderAt (running [(0, 2)]) 0) 0).found = none ∧
      (lctxAt (larderAt (asked29 { st := .fault } [(0, 2)]) 0) 0).st = .fault) ∧
    flitField (f [(0, 3)]) 0 1 = 3 ∧
    (flitField (f [(0, 4)]) 0 1 = 4 ∧ (lctxAt (larderAt (asked29 ringed [(0, 4)]) 0) 0).ring = true ∧
      (ringed.tail - ringed.head).toNat ≠ 2 ^ ringed.logn ∧ (lctxAt (larderAt (running [(0, 4)]) 0) 0).ring = false) ∧
    ((larderAt serving 0).serving = none ∧ (larderAt serving 0).waiting = v :: [] ∧ launch4.st = .running) := by decide +kernel
theorem lookup_ring : lookup (asked29 { st := .wait, cp := 0x200, ring := true, ringva := 0x200, tail := 15 } [(0, 4)]) launch4
    (0x200 + 16 * 15) = .ok (0x200 + 16 * 15) := by rfl

theorem executes_of {s : State} {n c : Nat} {l : Launch} {m : LCmd} (w v : Word) (y : LCtx)
    (h : s.dev.stopped = false ∧ launchBound s n = some l ∧ c < 15 ∧ (lctxAt (larderAt s n) c).st = .run ∧
      (lctxAt (larderAt s n) c).found = none ∧ (lctxAt (larderAt s n) c).cmd = none ∧ ringEmpty (lctxAt (larderAt s n) c) = false ∧
      cmdOf w v = some m ∧ classOk l m = true)
    (hf : fetchCmd s l (lctxAt (larderAt s n) c) = .ok (w, v, y)) : Executes s n c l { y with cmd := some (w, v) } m :=
  ⟨y, w, v, h.1, h.2.1, h.2.2.1, h.2.2.2.1, h.2.2.2.2.1, h.2.2.2.2.2.1, h.2.2.2.2.2.2.1, hf, h.2.2.2.2.2.2.2.1, h.2.2.2.2.2.2.2.2, rfl⟩
/-- A context that runs at the command, with its registers. -/
def atCmd (g : FMap Word) : LCtx := { st := .run, cp := 0x100, g := g }
theorem witness_LarderControlEvents_registers :
    Executes (larding (atCmd []) 0x5000B 7) 0 0 launch4 { atCmd [] with cmd := some (0x5000B, 7) } (.setv 5 7) ∧
    Executes (larding (atCmd []) 0x5000C 7) 0 0 launch4 { atCmd [] with cmd := some (0x5000C, 7) } (.addv 5 7) ∧
    (Executes (larding (atCmd []) 0x0A 0x40) 0 0 launch4 { atCmd [] with cmd := some (0x0A, 0x40) } (.jump 0x40) ∧
      (atCmd []).ring = false) :=
  ⟨executes_of 0x5000B 7 (atCmd []) (by decide +kernel) (by rfl), executes_of 0x5000C 7 (atCmd []) (by decide +kernel) (by rfl),
    executes_of 0x0A 0x40 (atCmd []) (by decide +kernel) (by rfl), rfl⟩
/-- A context in the inner loop, with n passes left. -/
def inner (n : BitVec 32) : LCtx := { atCmd [] with open1 := true, lc1 := n, lstart1 := 0x40 }
theorem witness_LarderControlEvents_loops :
    (Executes (larding (atCmd []) 0x108 1) 0 0 launch4 { atCmd [] with cmd := some (0x108, 1) } (.loop true 1) ∧
      (levelOf (atCmd []) true).1 = false ∧ (1 : Nat) ≠ 0) ∧
    (Executes (larding (inner 1) 0x109 0) 0 0 launch4 { inner 1 with cmd := some (0x109, 0) } (.endl true) ∧
      (inner 1).ring = false ∧ (levelOf (inner 1) true).1 = true ∧ (levelOf (inner 1) true).2.1 = 1) ∧
    (Executes (larding (inner 2) 0x109 0) 0 0 launch4 { inner 2 with cmd := some (0x109, 0) } (.endl true) ∧
      (levelOf (inner 2) true).2.1 ≠ 1) ∧
    Executes (larding (atCmd []) 0x0F 0) 0 0 launch4 { atCmd [] with cmd := some (0x0F, 0) } .stop :=
  ⟨⟨executes_of 0x108 1 (atCmd []) (by decide +kernel) (by rfl), by decide +kernel⟩,
    ⟨executes_of 0x109 0 (inner 1) (by decide +kernel) (by rfl), by decide +kernel⟩,
    ⟨executes_of 0x109 0 (inner 2) (by decide +kernel) (by rfl), by decide +kernel⟩,
    executes_of 0x0F 0 (atCmd []) (by decide +kernel) (by rfl)⟩
/-- A transfer of a context to a pantry of core (0, 0), not read yet. -/
def reading0 : LRead := ⟨.push 0, 0x40, [0x40], none, 3, [0], [], true, 0⟩
theorem witness_LarderControlEvents_signals :
    let s := larding (atCmd []) 0x0030_0005 9
    let e := larding (atCmd []) 0x106 9
    let busy := { atCmd [] with reads := [reading0] }
    (Executes s 0 0 launch4 { atCmd [] with cmd := some (0x0030_0005, 9) } (.signal 3 0 9) ∧
      oneTarget launch4 { atCmd [] with cmd := some (0x0030_0005, 9) } = some 0 ∧ larderFree s 0 3 = true ∧ aheadOf (atCmd []) 0 = false ∧ aheadOf busy 0 = true) ∧
    (Executes e 0 0 launch4 { atCmd [] with cmd := some (0x106, 9) } (.event true 0 9) ∧
      (hostSignal e (gOf (atCmd []) 4) 9 true).isSome = true) ∧
    (Executes (larding (atCmd []) 0x0E 0) 0 0 launch4 { atCmd [] with cmd := some (0x0E, 0) } .fence ∧ (atCmd []).reads = []) ∧
    (Executes (larding { atCmd [] with reads := [reading0] } 0x0E 0) 0 0 launch4
      { atCmd [] with reads := [reading0], cmd := some (0x0E, 0) } .fence ∧ busy.reads ≠ []) :=
  ⟨⟨executes_of 0x0030_0005 9 (atCmd []) (by decide +kernel) (by rfl), by decide +kernel⟩,
    ⟨executes_of 0x106 9 (atCmd []) (by decide +kernel) (by rfl), by decide +kernel⟩,
    ⟨executes_of 0x0E 0 (atCmd []) (by decide +kernel) (by rfl), rfl⟩,
    executes_of 0x0E 0 { atCmd [] with reads := [reading0] } (by decide +kernel) (by rfl), by decide +kernel⟩
theorem witness_LarderControlEvents_waits :
    let s := { larding (atCmd []) 0x10007 124 with cores := (on pantries).cores }
    let t := { larding (atCmd []) 0x10007 127 with cores := (on pantries).cores }
    (Executes s 0 0 launch4 { atCmd [] with cmd := some (0x10007, 124) } (.waitw 1 124) ∧
      oneTarget launch4 { atCmd [] with cmd := some (0x10007, 124) } = some 0 ∧ 124 ≤ freeSectors (coreAt s 0) 1) ∧
    (Executes t 0 0 launch4 { atCmd [] with cmd := some (0x10007, 127) } (.waitw 1 127) ∧ freeSectors (coreAt t 0) 1 < 127) ∧
    (Executes (larding { atCmd [] with csig := 5 } 0x10D 5) 0 0 launch4 { atCmd [] with csig := 5, cmd := some (0x10D, 5) }
      (.waitc true 5) ∧ 5 ≤ (5 : BitVec 16).toNat) ∧
    (Executes (larding { atCmd [] with csig := 5 } 0x00D 6) 0 0 launch4 { atCmd [] with csig := 5, cmd := some (0x00D, 6) }
      (.waitc false 6) ∧ (5 : BitVec 16).toNat < 6) :=
  ⟨⟨executes_of 0x10007 124 (atCmd []) (by decide +kernel) (by rfl), by decide +kernel⟩,
    ⟨executes_of 0x10007 127 (atCmd []) (by decide +kernel) (by rfl), by decide +kernel⟩,
    ⟨executes_of 0x10D 5 { atCmd [] with csig := 5 } (by decide +kernel) (by rfl), by decide⟩,
    executes_of 0x00D 6 { atCmd [] with csig := 5 } (by decide +kernel) (by rfl), by decide⟩

/-- Larder registers for one sector of the attic at 0x40 and the four cores, or a target set that leaves the region. -/
def regsIn : FMap Word := [(0, 0x0001_0001_0001_0001), (4, 0x40), (5, 0x0002_0002_0000_0000)]
def regsOut : FMap Word := [(0, 0x0001_0001_0001_0001), (4, 0x40), (5, 0x0003_0002_0002_0002)]
def regsG : FMap Word := [(4, 0x40), (5, 0x0003_0003_0000_0000)]
theorem witness_LarderTransfers_begin :
    let c := fun (g : FMap Word) (w v : Word) => { atCmd g with cmd := some (w, v) }
    (Executes (larding (atCmd regsIn) 0x0000_0100_0032_0001 0) 0 0 launch4 (c regsIn 0x0000_0100_0032_0001 0)
        (.stream false false 2 3 0 1 0 0 0 0) ∧
      gLimits (c regsIn 0x0000_0100_0032_0001 0) (.stream false false 2 3 0 1 0 0 0 0) = true ∧
      (targets launch4 (c regsIn 0x0000_0100_0032_0001 0) false).isSome = true) ∧
    (Executes (larding (atCmd regsOut) 0x0000_0100_0032_0001 0) 0 0 launch4 (c regsOut 0x0000_0100_0032_0001 0)
        (.stream false false 2 3 0 1 0 0 0 0) ∧
      gLimits (c regsOut 0x0000_0100_0032_0001 0) (.stream false false 2 3 0 1 0 0 0 0) = true ∧
      targets launch4 (c regsOut 0x0000_0100_0032_0001 0) false = none) ∧
    (Executes (larding (atCmd [(4, 0x40), (5, 0x0001_0001_0000_0000)]) 0x0000_0100_0032_0002 0x0001_0000_0001) 0 0 launch4
        (c [(4, 0x40), (5, 0x0001_0001_0000_0000)] 0x0000_0100_0032_0002 0x0001_0000_0001) (.gather 2 3 1 1 1) ∧
      gLimits (c [(4, 0x40), (5, 0x0001_0001_0000_0000)] 0x0000_0100_0032_0002 0x0001_0000_0001) (.gather 2 3 1 1 1) = true ∧
      (targets launch4 (c [(4, 0x40), (5, 0x0001_0001_0000_0000)] 0x0000_0100_0032_0002 0x0001_0000_0001) false).isSome = true) ∧
    (Executes (larding (atCmd [(4, 0x40)]) 0x0032_0003 1) 0 0 launch4 (c [(4, 0x40)] 0x0032_0003 1) (.wback false 2 3 1) ∧
      gLimits (c [(4, 0x40)] 0x0032_0003 1) (.wback false 2 3 1) = true ∧
      (targets launch4 (c [(4, 0x40)] 0x0032_0003 1) true).isSome = true) ∧
    (Executes (larding (atCmd regsIn) 0x0032_0004 1) 0 0 launch4 (c regsIn 0x0032_0004 1) (.bcast 2 3 1) ∧
      gLimits (c regsIn 0x0032_0004 1) (.bcast 2 3 1) = true ∧ (targets launch4 (c regsIn 0x0032_0004 1) false).isSome = true) :=
  ⟨⟨executes_of 0x0000_0100_0032_0001 0 (atCmd regsIn) (by decide +kernel) (by rfl), by decide +kernel⟩,
    ⟨executes_of 0x0000_0100_0032_0001 0 (atCmd regsOut) (by decide +kernel) (by rfl), by decide +kernel⟩,
    ⟨executes_of 0x0000_0100_0032_0002 0x0001_0000_0001 (atCmd [(4, 0x40), (5, 0x0001_0001_0000_0000)]) (by decide +kernel) (by rfl),
      by decide +kernel⟩,
    ⟨executes_of 0x0032_0003 1 (atCmd [(4, 0x40)]) (by decide +kernel) (by rfl), by decide +kernel⟩,
    executes_of 0x0032_0004 1 (atCmd regsIn) (by decide +kernel) (by rfl), by decide +kernel⟩
theorem witness_LarderTransfers_range :
    let c := fun (g : FMap Word) (w v : Word) => { atCmd g with cmd := some (w, v) }
    (Executes (larding (atCmd regsG) 0x0000_0100_0032_0002 0x0001_0000_0001) 0 0 launch4
        (c regsG 0x0000_0100_0032_0002 0x0001_0000_0001) (.gather 2 3 1 1 1) ∧
      gLimits (c regsG 0x0000_0100_0032_0002 0x0001_0000_0001) (.gather 2 3 1 1 1) = true ∧
      targets launch4 (c regsG 0x0000_0100_0032_0002 0x0001_0000_0001) false = none) ∧
    (Executes (larding (atCmd regsOut) 0x0032_0003 1) 0 0 launch4 (c regsOut 0x0032_0003 1) (.wback false 2 3 1) ∧
      gLimits (c regsOut 0x0032_0003 1) (.wback false 2 3 1) = true ∧ targets launch4 (c regsOut 0x0032_0003 1) true = none) ∧
    (Executes (larding (atCmd regsOut) 0x0032_0004 1) 0 0 launch4 (c regsOut 0x0032_0004 1) (.bcast 2 3 1) ∧
      gLimits (c regsOut 0x0032_0004 1) (.bcast 2 3 1) = true ∧ targets launch4 (c regsOut 0x0032_0004 1) false = none) :=
  ⟨⟨executes_of 0x0000_0100_0032_0002 0x0001_0000_0001 (atCmd regsG) (by decide +kernel) (by rfl), by decide +kernel⟩,
    ⟨executes_of 0x0032_0003 1 (atCmd regsOut) (by decide +kernel) (by rfl), by decide +kernel⟩,
    executes_of 0x0032_0004 1 (atCmd regsOut) (by decide +kernel) (by rfl), by decide +kernel⟩
theorem witness_LarderTransfers_course :
    let x : LCtx := { atCmd regsIn with cmd := some (0x0000_0100_0032_0001, 0) }
    let s := larding x 0 0
    let m : LCmd := .stream false false 2 3 0 1 0 0 0 0
    let r := larding { atCmd [] with reads := [reading0] } 0 0
    let back : LRead := ⟨.wback none, 0x40, [0x40], some (List.replicate 32 7), 3, [], [0], true, 0⟩
    let b := larding { atCmd [] with reads := [back] } 0 0
    let wait := fun (n : Word) => ({ atCmd [] with st := .wait, csig := 5, cmd := some (0x10D, n) } : LCtx)
    let ring : LCtx := { atCmd [] with st := .wait, ring := true, tail := 1 }
    let bad := larding { atCmd [] with found := some (.xlate, 0x40) } 0 0
    (s.dev.stopped = false ∧ launchBound s 0 = some launch4 ∧ lctxAt (larderAt s 0) 0 = x ∧ x.st = .run ∧ x.found = none ∧
      outstanding x < 64 ∧ currentCmd x = some m ∧ x.step < cmdTotal x m ∧ targets launch4 x false = some [0, 1, 512, 513] ∧
      truncZ ((gOf x 4).toNat + stepOffset x false x.step) 48 = 0x40) ∧
    (launchBound r 0 = some launch4 ∧ launch4.st = .running ∧ (lctxAt (larderAt r 0) 0).reads = reading0 :: [] ∧
      firstToSend [reading0] = some ([], reading0, []) ∧ reading0.what = .push 0 ∧ reading0.cores = [0] ∧ reading0.data = none ∧ reading0.pas = [0x40] ∧ poisoned r 0x40 = false ∧
      larderFree r 0 reading0.cls = true) ∧
    ((lctxAt (larderAt b 0) 0).reads = back :: [] ∧ back.what = .wback none ∧ back.data = some (List.replicate 32 7) ∧
      back.pas = [0x40] ∧ back.waits = [0]) ∧
    ((wait 5).st = .wait ∧ currentCmd (wait 5) = some (.waitc true 5) ∧
      waitMet (larding (wait 5) 0 0) launch4 (wait 5) (.waitc true 5) = true ∧ currentCmd (wait 6) = some (.waitc true 6) ∧
      waitMet (larding (wait 6) 0 0) launch4 (wait 6) (.waitc true 6) = false) ∧
    (ring.st = .wait ∧ currentCmd ring = none ∧ ringEmpty ring = false) ∧
    ((lctxAt (larderAt bad 0) 0).found = some (.xlate, 0x40) ∧ (lctxAt (larderAt bad 0) 0).reads = []) := by decide +kernel
theorem witness_LarderTransfers_lookup : lookup (larding { atCmd regsIn with cmd := some (0x0000_0100_0032_0001, 0) } 0 0) launch4 0x40 =
    .ok 0x40 := by rfl

end Sys2Proof.Tests
end

/-! WRSYS at a ready core (R126, R325), and the statement about the segment registers. -/

namespace Sys2Proof.Proofs
open Sys2Proof Sys2Proof.Machine Sys2Proof.Laws

/-! ## WRSYS at a ready core -/

/-- A body that waits for earlier results goes on at once where none is pending (R326). -/
theorem afterResults_of_no_pending {c : Core} (hp : c.pending = []) (n : Nat) (env : Env) (k : Out) :
    afterResults n env c k = k := by
  simp [afterResults, pendingOf_nil hp]

/-- The state after a WRSYS of the core in focus, by what its write of the register comes to. -/
def afterSysWrite (s : State) : SysWrite → State
  | .ok c => did s c
  | .trap code v => trapped s code v

/-- The body of a WRSYS that has nothing to wait for, by what its write of the register comes to. -/
def sysWriteOut : SysWrite → Out
  | .ok c => done c
  | .trap code v => .trap code v

/-- WRSYS in system mode comes to what `writeSys` makes of its register, where E_RSV and E_DET do not stand before it. -/
theorem exec_wrsys {h : Hdr} {a : Reg} {n : BitVec 12} {s : State} {w : SysWrite} (hr : Ready s h)
    (hmode : (focused s).sys.mode = true)
    (hspan : 0x020 ≤ n.toNat → n.toNat ≤ 0x027 → (xr s a).extractLsb' 32 3 ≠ 7)
    (hdet : n = 0x009 → (focused s).sys.det = true → (xr s a).getLsbD 0 = true)
    (hw : writeSys (focused s) n.toNat (xr s a) (encode (.wrsys h a n)) = w)
    (hstill : ∀ c, w = .ok c → c.pending = [] ∧ c.pc = (focused s).pc) :
    exec (.wrsys h a n) s = .next (afterSysWrite s w) := by
  have hrsv : (decide (0x020 ≤ n.toNat) && decide (n.toNat ≤ 0x027) && (xr s a).extractLsb' 32 3 == 7) = false := by
    by_contra hbad
    simp only [Bool.not_eq_false, Bool.and_eq_true, decide_eq_true_eq, beq_iff_eq] at hbad
    obtain ⟨⟨hlo, hhi⟩, hseven⟩ := hbad
    exact hspan hlo hhi hseven
  have hfree : (decide (n = 0x009) && (focused s).sys.det && !(xr s a).getLsbD 0) = false := by
    by_contra hbad
    simp only [Bool.not_eq_false, Bool.and_eq_true, decide_eq_true_eq, Bool.not_eq_true'] at hbad
    obtain ⟨⟨hn, hd⟩, hbit⟩ := hbad
    exact Bool.false_ne_true (hbit.symm.trans (hdet hn hd))
  have hbody := (afterResults_of_no_pending hr.plain.pending n.toNat (focusEnv s (encode (.wrsys h a n))) _).trans
    (congrArg sysWriteOut hw)
  cases w with
  | ok c =>
    obtain ⟨hp, hpc⟩ := hstill c rfl
    exact exec_done hr ⟨by simp [hmode], hrsv, rfl, rfl, rfl, hfree, rfl⟩ (.inl rfl) hbody hp hpc
  | trap code v => exact exec_trap hr ⟨by simp [hmode], hrsv, rfl, rfl, rfl, hfree, rfl⟩ hbody

/-- A write of a descriptor leaves the rest of its core. -/
theorem writeSegment_ok {c d : Core} {k : Nat} {g : Segment} (h : writeSegment c k g = .ok d) : d = setSegment c k g := by
  unfold writeSegment at h
  split at h
  · cases h
  · exact (SysWrite.ok.inj h).symm

/-- SEGBASE_k and SEGSIZE_k, the latter with a SPAN that is not reserved, written in system mode: the descriptor that the write
would leave is checked and set, or the write traps (R126). -/
theorem exec_wrsys_segment {h : Hdr} {a : Reg} {s : State} (hr : Ready s h) (hmode : (focused s).sys.mode = true)
    (k : Fin 8) {n : BitVec 12} {g : Segment}
    (hg : (n = BitVec.ofNat 12 (0x018 + k) ∧
        g = { fget (focused s).sys.seg k {} with valid := (xr s a).getLsbD 0, base := (xr s a).extractLsb' 12 7 }) ∨
      (n = BitVec.ofNat 12 (0x020 + k) ∧ (xr s a).extractLsb' 32 3 ≠ 7 ∧
        g = { fget (focused s).sys.seg k {} with size := (xr s a).extractLsb' 12 8, span := (xr s a).extractLsb' 32 3 })) :
    exec (.wrsys h a n) s = .next (afterSysWrite s (writeSegment (focused s) k g)) := by
  have hstill : ∀ c, writeSegment (focused s) k g = .ok c → c.pending = [] ∧ c.pc = (focused s).pc := by
    intro c hc
    rw [writeSegment_ok hc]
    exact ⟨hr.plain.pending, rfl⟩
  obtain ⟨rfl, rfl⟩ | ⟨rfl, hspan, rfl⟩ := hg
  · refine exec_wrsys hr hmode (fun hlo => absurd hlo ?_) (fun hn => absurd hn ?_) ?_ hstill
    · fin_cases k <;> decide
    · fin_cases k <;> decide
    · fin_cases k <;> rfl
  · refine exec_wrsys hr hmode (fun _ _ => hspan) (fun hn => absurd hn ?_) ?_ hstill
    · fin_cases k <;> decide
    · fin_cases k <;> exact if_neg hspan

/-! ## Descriptors that would meet -/

/-- Descriptor 0 not valid and descriptor 1 valid, both of base 0 and SIZE 1; x1 is the word that makes descriptor 0 valid. -/
def meetingCore : Core :=
  { regs := { x := [(1, 1)] }, sys := { seg := [(0, ⟨false, 0, 1, 0⟩), (1, ⟨true, 0, 1, 0⟩)] } }

/-- The state with that core in focus. -/
def meetingState : State := { cores := [(0, meetingCore)] }

theorem ready_meetingState : Ready meetingState Hdr.plain where
  grid := rfl
  ctx := rfl
  plain :=
    { pending := rfl, held := rfl, watch := rfl, ops := rfl, breads := rfl, gang := rfl
      breakpoints := fun n _ => show (fget ([] : FMap (BitVec 23)) n 0).getLsbD 0 = false by simp [fget, ffind] }
  guard := .inl rfl

/-- The model traps on the write that would have descriptor 0 meet descriptor 1, as R126 asks. -/
theorem exec_wrsys_meetingState :
    exec (.wrsys Hdr.plain 1 0x018) meetingState = .next (trapped meetingState eBound 0) :=
  exec_wrsys_segment ready_meetingState rfl 0 (.inl ⟨rfl, rfl⟩)

/-- Refutes O23: its clause that the new range meets no other valid descriptor says nothing, for its `j < 8` is read in `Fin 8`,
where 8 is 0. A write that leaves descriptor 0 in bounds and on the range of the valid descriptor 1 therefore passes for one to be
performed, and the model traps with E_BOUND. -/
theorem not_segmentRegisterRules : ¬ Obligations.SegmentRegisterRules := by
  unfold Obligations.SegmentRegisterRules
  intro rules
  obtain ⟨-, segments⟩ := rules Hdr.plain 1 meetingState ready_meetingState
  obtain ⟨-, performed⟩ := segments rfl 0 0x018 ⟨true, 0, 1, 0⟩ (.inl ⟨rfl, rfl⟩)
  have keeps := performed (.inr ⟨by decide, by decide, by decide, fun j hj => absurd hj (Fin.not_lt_zero j)⟩)
  have same := Host.Outcome.next.inj (exec_wrsys_meetingState.symm.trans keeps)
  have valid := congrArg (fun t => (fget (focused t).sys.seg 0 {}).valid) same
  exact absurd valid (by decide)

end Sys2Proof.Proofs

/-! The start of a core in its region (R123): what the readiness of tasks leaves as it is, and the cores of a launch loaded. -/

namespace Sys2Proof.Proofs
open Sys2Proof Sys2Proof.Machine Sys2Proof.Laws

/-! ## The task table brought up to date (R127) -/

/-- A task without its place in the order of readiness. -/
def unplaced (t : Task) : Task := { t with readyAt := none, waits := 0 }

/-- What `refreshReady` can do: set IDLE, then replace tasks by the same ones at another place in the order. -/
theorem refreshReady_induct {P : Core → Prop} (c : Core) (idle : P { c with sys := { c.sys with idle := c.running.isNone } })
    (place : ∀ d k t u, ffind d.tasks k = some t → unplaced u = unplaced t → P d → P { d with tasks := fset d.tasks k u }) :
    P (refreshReady c) := by
  unfold refreshReady
  refine List.foldlRecOn _ _ idle fun d hd k _ => ?_
  split
  · exact hd
  · next t ht =>
    dsimp only
    split
    · exact place d k t _ ht rfl hd
    · split
      · exact place d k t _ ht rfl hd
      · exact hd

theorem refreshReady_regs (c : Core) : (refreshReady c).regs = c.regs :=
  refreshReady_induct (P := fun d => d.regs = c.regs) c rfl fun _ _ _ _ _ _ hd => hd

theorem refreshReady_sys (c : Core) : (refreshReady c).sys = { c.sys with idle := c.running.isNone } :=
  refreshReady_induct (P := fun d => d.sys = { c.sys with idle := c.running.isNone }) c rfl fun _ _ _ _ _ _ hd => hd

theorem refreshReady_tasks (c : Core) (j : Nat) :
    (ffind (refreshReady c).tasks j).map unplaced = (ffind c.tasks j).map unplaced := by
  refine refreshReady_induct (P := fun d => (ffind d.tasks j).map unplaced = (ffind c.tasks j).map unplaced) c rfl ?_
  intro d k t u ht hu hd
  by_cases hj : j = k
  · subst hj
    simp only [ffind_fset_self, Option.map_some, hu, ← hd, ht]
  · simp only [ffind_fset_ne d.tasks u hj, hd]

/-! ## The start of a core (R123) -/

section
variable {c : Core} {det : Bool} {orgRow orgCol rows cols : Nat} {prio : BitVec 2} {cap : Word} {entry : Option (BitVec 16)}

theorem startCore_regs : (startCore c det orgRow orgCol rows cols prio cap entry).regs = {} := refreshReady_regs _

theorem startCore_sys : (startCore c det orgRow orgCol rows cols prio cap entry).sys =
    { startSys c.sys det orgRow orgCol rows cols prio cap with idle := true } := refreshReady_sys _

/-- Every register is 0, every slot free, every queue register unbound and no segment valid. -/
theorem startCore_registers (n : Nat) :
    let d := startCore c det orgRow orgCol rows cols prio cap entry
    readX d .main n = 0 ∧ readV d .main n = 0 ∧ (n ≠ 0 → readFm d n = 0) ∧ (readLc d n).count = 0 ∧ (readAcc d n).exp = 0 ∧
      (∀ e, fget (readAcc d n).el e 0 = 0) ∧ (readSlot d n).claimed = false ∧ readQ d n = .unbound ∧
      (fget d.sys.seg n {}).valid = false := by
  simp +contextual [readX, readV, readFm, readLc, readAcc, readSlot, readQ, startCore_regs, startCore_sys, startSys, fget, ffind]

/-- Task entries 1 to 31 are empty. -/
theorem startCore_no_task {n : Nat} (hn : n ≠ 0) :
    ffind (startCore c det orgRow orgCol rows cols prio cap entry).tasks n = none := by
  rw [← Option.map_eq_none_iff (f := unplaced)]
  refine (refreshReady_tasks _ n).trans ?_
  cases entry <;> simp [ffind, hn.symm]

/-- Task 0 of a core that runs code is the task of R123, at its place in the order. -/
theorem startCore_task_zero (e : BitVec 16) :
    ∃ t, ffind (startCore c det orgRow orgCol rows cols prio cap (some e)).tasks 0 = some t ∧ unplaced t = taskZero e :=
  Option.map_eq_some_iff.mp (refreshReady_tasks _ 0)

end

/-! ## A launch loaded (R78, R85) -/

/-- After a pass over cores, one that the pass has visited is what the pass makes of a core. -/
theorem coreAt_foldl_modCore (f : Nat → Core → Core) (s : State) {ks : List Nat} {k : Nat} (hk : k ∈ ks) :
    ∃ c, coreAt (ks.foldl (fun t k => modCore t k (f k)) s) k = f k c := by
  induction ks using List.reverseRecOn with
  | nil => cases hk
  | append_singleton ks j ih =>
    rw [List.foldl_append]
    by_cases hj : k = j
    · subst hj
      exact ⟨_, coreAt_setCore_self _ _ _⟩
    · obtain ⟨c, hc⟩ := ih (by simpa [hj] using hk)
      exact ⟨c, (coreAt_setCore_ne _ _ hj).trans hc⟩

theorem unrid_foldl_modCore (f : Nat → Core → Core) (ks : List Nat) (s : State) :
    (ks.foldl (fun t k => modCore t k (f k)) s).unrid = s.unrid :=
  List.foldlRecOn (motive := fun t : State => t.unrid = s.unrid) ks _ rfl fun _ ht _ _ => ht

/-- A launch is found under its number after a change that leaves the numbers. -/
theorem launchNum_modLaunch (s : State) (num : Nat) {f : Launch → Launch} (hf : ∀ l, (f l).num = l.num) :
    launchNum (modLaunch s num f) num = (launchNum s num).map f := by
  simp only [launchNum, modLaunch, modUnrid_unrid]
  induction s.unrid.launches with
  | nil => rfl
  | cons l ls ih =>
    by_cases hl : l.num = num
    · simp [hl, hf]
    · simpa [hl] using ih

/-- A launch as it enters RUNNING. -/
def entersRunning (l : Launch) : Launch := { l with st := .running, sweep := none }

/-- The state once a launch without RESUME has loaded its cores and runs. -/
def loaded (s : State) (num : Nat) (l : Launch) (i : Image) : State :=
  let t := (regionKeys l).foldl (fun t k => modCore t k (loadCore s l i k)) s
  modLaunch { t with freeCtr := t.freeCtr + 1 } num entersRunning

/-- LAUNCH_LOAD_COMPLETE of a launch without RESUME whose condition holds. -/
theorem exec_launchLoadComplete {s : State} {num : Nat} {l : Launch} {i : Image} (hl : launchNum s num = some l)
    (hstop : s.dev.stopped = false) (hst : l.st = .loading) (hfault : faulted s num = false) (harg : argLost s l = false)
    (himg : l.img = some i) (hres : l.lflags.getLsbD 1 = false) :
    exec (.launchLoadComplete num) s = .next (loaded s num l i) := by
  change execLaunchLoadComplete num s = _
  simp only [execLaunchLoadComplete, hl, hstop, hst, hfault, harg, himg, hres]
  rfl

/-- The launch is found under its number, and runs. -/
theorem launchNum_loaded {s : State} {num : Nat} {l : Launch} (i : Image) (hl : launchNum s num = some l) :
    launchNum (loaded s num l i) num = some (entersRunning l) := by
  refine (launchNum_modLaunch (f := entersRunning) _ num fun _ => rfl).trans ?_
  simp only [launchNum, unrid_foldl_modCore]
  exact congrArg (Option.map entersRunning) hl

/-- Each core of the region has been started, whatever it held, with the entry that its role gives it. -/
theorem coreAt_loaded (s : State) (num : Nat) (l : Launch) (i : Image) {k : Nat} (hk : k ∈ regionKeys l) :
    ∃ c d, coreAt (loaded s num l i) k = startCore d (l.lflags.getLsbD 0) l.orgRow l.orgCol l.rows l.cols l.prio (mintHandle s l)
      (loadRole s l i (rowOf k - l.orgRow) (colOf k - l.orgCol) c).2 := by
  obtain ⟨c, hc⟩ := coreAt_foldl_modCore (loadCore s l i) s hk
  exact ⟨c, _, hc⟩

/-- The core of a role starts at the TARGET of the role's code section. -/
theorem loadRole_entry (s : State) (l : Launch) {i : Image} {row col : Nat} (c : Core) {r : Role} {x : Section}
    (hr : roleOf i row col = some r) (hx : i.sections[r.code]? = some x) :
    (loadRole s l i row col c).2 = some (BitVec.ofNat 16 x.target) := by
  simp [loadRole, hr, hx]

/-- Settles O6: whatever a core of the region held, the last thing that the load does to it is `startCore`, whose registers, system
registers and tasks are those of R123. -/
theorem startOfACore : Obligations.StartOfACore := by
  unfold Obligations.StartOfACore
  intro s num l i hl hstop hst hfault harg himg hres _
  refine ⟨_, exec_launchLoadComplete hl hstop hst hfault harg himg hres, by rw [launchNum_loaded i hl]; rfl, fun k hk => ?_⟩
  obtain ⟨c, d, hd⟩ := coreAt_loaded s num l i hk
  rw [hd]
  refine ⟨startCore_registers, ?_⟩
  simp only [startCore_sys, startSys, true_and]
  refine ⟨fun n hn => startCore_no_task hn, fun r x hr hx => ?_⟩
  rw [loadRole_entry s l c hr hx]
  obtain ⟨t, ht, h0⟩ := startCore_task_zero (BitVec.ofNat 16 x.target)
  exact ⟨t, ht, congrArg Task.entry h0, congrArg Task.pc h0, congrArg Task.prio h0, congrArg Task.onEvent h0, congrArg Task.k h0⟩

end Sys2Proof.Proofs

/-! Integer instructions at a ready core (R291, R303 to R311): what an operation of plain operands comes to, the integer
helpers as bit vectors and bits, and the statements about them. -/

namespace Sys2Proof.Proofs
open Sys2Proof Sys2Proof.Machine Sys2Proof.Laws

/-! ## Instructions of plain operands at a ready core -/

/-- An instruction with no condition of its own above a hazard is allowed. -/
theorem allowed_mkOp {i : Instr} {h : Hdr} {cls : LaClass} {reads writes : List RegRef} {body : Env → Core → Out} {env : Env}
    {c : Core} : Allowed (mkOp i h cls reads writes body) env c := ⟨rfl, rfl, rfl, rfl, rfl, rfl, rfl⟩

/-- An instruction whose register groups do not overlap in part is allowed. -/
theorem allowed_groups {i : Instr} {h : Hdr} {cls : LaClass} {reads writes : List RegRef} {body : Env → Core → Out}
    {gs : List (List RegRef)} {env : Env} {c : Core} (hg : anyClash gs = false) :
    Allowed { mkOp i h cls reads writes body with groups := gs } env c := ⟨rfl, rfl, rfl, rfl, rfl, rfl, hg⟩

/-- A ready long-latency instruction, by what its body leaves of the core and owes. -/
theorem issue_long {op : Op} {s : State} {c : Core} {dests : List DestVal} {flags : BitVec 5} {n : Counts}
    {late : Option LateTrap} (hr : Ready s op.h) (ha : Allowed op (focusEnv s op.word) (focused s)) (hc : op.cls = .l)
    (hb : op.body (focusEnv s op.word) (focused s) = .ok { core := c, dests := dests, flags := flags, counts := n, late := late })
    (hp : c.pending = []) (hpc : c.pc = (focused s).pc) :
    issue op s = .next (did s (owing op.h c false dests flags n late)) := by
  rw [exec_long hr ha hc hb hp hpc rfl rfl rfl]

section
variable {i : Instr} {h : Hdr} {reads writes : List RegRef} {body : Env → Core → Out} {s : State}

/-- A ready short instruction of that kind whose body writes one x register. -/
theorem issue_mkOp_wx {d : Reg} {v : Word} (hr : Ready s h) (hb : body (focusEnv s (encode i)) (focused s) = wx (focused s) d v) :
    issue (mkOp i h .s reads writes body) s = .next (didX s d v) :=
  exec_wx hr allowed_mkOp rfl hb

/-- A ready short instruction of that kind whose body writes one f register. -/
theorem issue_mkOp_wf {d : Reg} {v : BitVec 16} (hr : Ready s h)
    (hb : body (focusEnv s (encode i)) (focused s) = .ok { core := focused s, dests := [.f d.toNat v] }) :
    issue (mkOp i h .s reads writes body) s = .next (didF s d.toNat v) := by
  rw [exec_short hr allowed_mkOp (.inl rfl) hb hr.plain.pending]
  simp [applyDest, past, did, didF, writeFm_pc]

/-- A ready short instruction of that kind whose body changes its core alone. -/
theorem issue_mkOp_done {c : Core} (hr : Ready s h) (hb : body (focusEnv s (encode i)) (focused s) = done c)
    (hp : c.pending = (focused s).pending) (hpc : c.pc = (focused s).pc) :
    issue (mkOp i h .s reads writes body) s = .next (did s c) :=
  exec_done hr allowed_mkOp (.inl rfl) hb (hp.trans hr.plain.pending) hpc

/-- A ready long-latency instruction of that kind whose body writes registers and leaves its core. -/
theorem issue_mkOp_owesC {dests : List DestVal} {flags : BitVec 5} {n : Counts} (hr : Ready s h)
    (hb : body (focusEnv s (encode i)) (focused s) = .ok { core := focused s, dests := dests, flags := flags, counts := n }) :
    issue (mkOp i h .l reads writes body) s = .next (owesC s h dests flags n) :=
  issue_long hr allowed_mkOp rfl hb hr.plain.pending rfl

/-- A ready long-latency instruction of that kind whose body writes one x register. -/
theorem issue_mkOp_owesX {d : Reg} {v : Word} (hr : Ready s h) (hb : body (focusEnv s (encode i)) (focused s) = wx (focused s) d v) :
    issue (mkOp i h .l reads writes body) s = .next (owesX s h d v) :=
  issue_mkOp_owesC hr hb

end

/-- A ready short binary instruction writes its result, extended by its type. -/
theorem issue_intOp {i : Instr} {h : Hdr} {ty : Ty} {d a b : Reg} {f : Int → Int → Int} {s : State} (hr : Ready s h) :
    issue (intOp i h .s ty d a b f) s =
      .next (didX s d (extendI ty (f (tyReadInt ty (xr s a).toNat) (tyReadInt ty (xr s b).toNat)))) :=
  issue_mkOp_wx hr rfl

/-- A ready long-latency binary instruction owes its result, extended by its type. -/
theorem issue_intOp_owes {i : Instr} {h : Hdr} {ty : Ty} {d a b : Reg} {f : Int → Int → Int} {s : State} (hr : Ready s h) :
    issue (intOp i h .l ty d a b f) s =
      .next (owesX s h d (extendI ty (f (tyReadInt ty (xr s a).toNat) (tyReadInt ty (xr s b).toNat)))) :=
  issue_mkOp_owesX hr rfl

/-- A ready instruction on 64-bit patterns writes its result. -/
theorem issue_wordOp {i : Instr} {h : Hdr} {d a b : Reg} {f : Word → Word → Word} {s : State} (hr : Ready s h) :
    issue (wordOp i h d a b f) s = .next (didX s d (f (xr s a) (xr s b))) :=
  issue_mkOp_wx hr rfl

/-! ## Integer arithmetic as bit vectors -/

/-- The bit vector of a difference of integers. -/
theorem ofInt_sub (n : Nat) (x y : Int) : BitVec.ofInt n (x - y) = BitVec.ofInt n x - BitVec.ofInt n y := by
  rw [Int.sub_eq_add_neg, BitVec.ofInt_add, BitVec.ofInt_neg, BitVec.sub_eq_add_neg]

/-- The low bits of a difference. -/
theorem setWidth_sub {v w : Nat} (x y : BitVec v) (h : w ≤ v) : (x - y).setWidth w = x.setWidth w - y.setWidth w := by
  rw [BitVec.sub_eq_add_neg, BitVec.setWidth_add _ _ h, BitVec.setWidth_neg_of_le h, ← BitVec.sub_eq_add_neg]

/-- Settles O8: each is a binary instruction whose body is a function of its two operands. -/
theorem integerResults : Obligations.IntegerResults := by
  unfold Obligations.IntegerResults
  refine ⟨fun h d a b s hr => ⟨issue_wordOp hr, issue_wordOp hr, issue_wordOp hr, issue_wordOp hr, ?_, ?_, ?_, ?_⟩,
    fun h d a b s hr => ⟨?_, ?_, ?_, ?_⟩⟩
  · exact (issue_wordOp hr).trans (by simp only [BitVec.slt_iff_toInt_lt])
  · exact (issue_wordOp hr).trans (by simp only [BitVec.slt_iff_toInt_lt])
  · exact (issue_wordOp hr).trans (by simp only [BitVec.ult_iff_toNat_lt])
  · exact (issue_wordOp hr).trans (by simp only [BitVec.ult_iff_toNat_lt])
  · exact (issue_intOp hr).trans (by rw [extendI_i64, tyReadInt_i64, tyReadInt_i64]; simp [BitVec.ofInt_add])
  · exact (issue_intOp hr).trans (by rw [extendI_i64, tyReadInt_i64, tyReadInt_i64]; simp [ofInt_sub])
  · exact (issue_intOp hr).trans (by rw [extendI_i32, tyReadInt_i32, tyReadInt_i32, BitVec.ofInt_add, BitVec.setWidth_add _ _ (by decide)]; simp only [BitVec.ofInt_toInt])
  · exact (issue_intOp hr).trans (by rw [extendI_i32, tyReadInt_i32, tyReadInt_i32, ofInt_sub, setWidth_sub _ _ (by decide)]; simp only [BitVec.ofInt_toInt])

/-! ## Products, quotients and remainders -/

theorem issue_mul {h : Hdr} {ty : Ty} {d a b : Reg} {s : State} (hr : Ready s h) :
    exec (.mul h ty d a b) s =
      .next (owesX s h d (extendI ty (tyReadInt ty (xr s a).toNat * tyReadInt ty (xr s b).toNat))) := issue_intOp_owes hr

/-- A shift by 64 is a floored quotient. -/
theorem shiftRight_sixty_four (x : Int) : x >>> 64 = x / 2 ^ 64 :=
  (Int.shiftRight_natCast_right x 64).trans (Int.shiftRight_eq_div_pow x 64)

theorem issue_mulh {h : Hdr} {ty : Ty} {d a b : Reg} {s : State} (hr : Ready s h) :
    exec (.mulh h ty d a b) s =
      .next (owesX s h d (extendI ty (tyReadInt ty (xr s a).toNat * tyReadInt ty (xr s b).toNat / 2 ^ 64))) := by
  refine (issue_intOp_owes (f := fun x y => (x * y) >>> 64) hr).trans ?_
  rw [shiftRight_sixty_four]

theorem issue_div {h : Hdr} {ty : Ty} {d a b : Reg} {s : State} (hr : Ready s h) :
    exec (.div h ty d a b) s =
      .next (owesX s h d (extendI ty (divI ty (tyReadInt ty (xr s a).toNat) (tyReadInt ty (xr s b).toNat)))) :=
  issue_intOp_owes hr

theorem issue_rem {h : Hdr} {ty : Ty} {d a b : Reg} {s : State} (hr : Ready s h) :
    exec (.rem h ty d a b) s =
      .next (owesX s h d (extendI ty (remI (tyReadInt ty (xr s a).toNat) (tyReadInt ty (xr s b).toNat)))) :=
  issue_intOp_owes hr

/-- A 32-bit unsigned result is zero-extended. -/
theorem extendI_n32 (v : Int) : extendI .n32 v = (BitVec.ofInt 32 v).setWidth 64 := extendI_unsigned rfl v

/-- A 64-bit register read as an unsigned 32-bit type. -/
theorem tyReadInt_n32 (x : Word) : tyReadInt .n32 x.toNat = (x.setWidth 32).toNat := tyReadInt_unsigned rfl _

section
variable {w : Nat} (p q : BitVec w)

theorem toInt_eq_zero : q.toInt = 0 ↔ q = 0 := by rw [← BitVec.toInt_inj]; simp

theorem toNat_eq_zero : ((q.toNat : Nat) : Int) = 0 ↔ q = 0 := by rw [← BitVec.toNat_inj]; simp

/-- The signed quotient as a bit vector. -/
theorem ofInt_divI_signed {t : Ty} (ht : t.isSigned = true) :
    BitVec.ofInt w (divI t p.toInt q.toInt) = if q = 0 then BitVec.allOnes w else BitVec.ofInt w (p.toInt.tdiv q.toInt) := by
  simp only [divI, ht, if_true, toInt_eq_zero]
  split
  · exact (BitVec.ofInt_neg (n := 1)).trans (by simp [BitVec.neg_one_eq_allOnes])
  · rfl

/-- The unsigned quotient as a bit vector. -/
theorem ofInt_divI_unsigned {t : Ty} (hw : t.width = w) (ht : t.isSigned = false) :
    BitVec.ofInt w (divI t p.toNat q.toNat) = if q = 0 then BitVec.allOnes w else BitVec.ofNat w (p.toNat / q.toNat) := by
  simp only [divI, ht, hw, toNat_eq_zero]
  split
  · rw [if_neg Bool.false_ne_true, show ((2 : Int) ^ w - 1) = ((2 ^ w - 1 : Nat) : Int) by simp, BitVec.ofInt_natCast,
      BitVec.allOnes, BitVec.ofNatLT_eq_ofNat]
  · rw [← BitVec.ofInt_natCast]; rfl

/-- The signed remainder as a bit vector. -/
theorem ofInt_remI_signed :
    BitVec.ofInt w (remI p.toInt q.toInt) = if q = 0 then p else BitVec.ofInt w (p.toInt.tmod q.toInt) := by
  simp only [remI, toInt_eq_zero]
  split
  · exact BitVec.ofInt_toInt
  · rfl

/-- The unsigned remainder as a bit vector. -/
theorem ofInt_remI_unsigned :
    BitVec.ofInt w (remI p.toNat q.toNat) = if q = 0 then p else BitVec.ofNat w (p.toNat % q.toNat) := by
  simp only [remI, toNat_eq_zero]
  split
  · simp
  · rw [← BitVec.ofInt_natCast]; rfl

end

/-- Settles O9: each owes the integer of its operands at its type, which is a bit vector of the type's width, extended. -/
theorem mulDivResults : Obligations.MulDivResults := by
  unfold Obligations.MulDivResults
  intro h d a b s hr
  refine ⟨?_, ?_, ?_, ?_, ?_, ?_, ?_, ?_, ?_, ?_, ?_, ?_⟩
  · rw [issue_mul hr, extendI_i64, tyReadInt_i64, tyReadInt_i64, BitVec.ofInt_mul, BitVec.ofInt_toInt, BitVec.ofInt_toInt]
  · rw [issue_mul hr, extendI_i32, tyReadInt_i32, tyReadInt_i32, BitVec.ofInt_mul, BitVec.ofInt_toInt, BitVec.ofInt_toInt,
      BitVec.setWidth_mul _ _ (by decide)]
  · rw [issue_mulh hr, extendI_i64, tyReadInt_i64, tyReadInt_i64]
  · rw [issue_mulh hr, extendI_n64, tyReadInt_n64, tyReadInt_n64, ← BitVec.ofInt_natCast]; rfl
  · rw [issue_div hr, extendI_i64, tyReadInt_i64, tyReadInt_i64, ofInt_divI_signed _ _ rfl]
  · rw [issue_div hr, extendI_n64, tyReadInt_n64, tyReadInt_n64, ofInt_divI_unsigned (w := 64) _ _ rfl rfl]
  · rw [issue_rem hr, extendI_i64, tyReadInt_i64, tyReadInt_i64, ofInt_remI_signed]
  · rw [issue_rem hr, extendI_n64, tyReadInt_n64, tyReadInt_n64, ofInt_remI_unsigned]
  · rw [issue_div hr, extendI_i32, tyReadInt_i32, tyReadInt_i32, ofInt_divI_signed _ _ rfl]
  · rw [issue_div hr, extendI_n32, tyReadInt_n32, tyReadInt_n32, ofInt_divI_unsigned (w := 32) _ _ rfl rfl]
  · rw [issue_rem hr, extendI_i32, tyReadInt_i32, tyReadInt_i32, ofInt_remI_signed]
  · rw [issue_rem hr, extendI_n32, tyReadInt_n32, tyReadInt_n32, ofInt_remI_unsigned]

/-! ## Shifts and bits -/

theorem truncZ_lt (v : Int) (n : Nat) : truncZ v n < 2 ^ n := by
  rw [truncZ_eq]; exact (BitVec.ofInt n v).isLt

/-- The extension of a result reads its low bits alone. -/
theorem extendI_congr {t : Ty} {v v' : Int} (h : truncZ v t.width = truncZ v' t.width) : extendI t v = extendI t v' := by
  simp only [extendI, h]

theorem truncZ_natCast (v n : Nat) : truncZ v n = v % 2 ^ n := by
  rw [truncZ_eq, BitVec.ofInt_natCast, BitVec.toNat_ofNat]

theorem shiftN_shl (w a n : Nat) : shiftN .shl w a n % 2 ^ w = a * 2 ^ (n % w) % 2 ^ w := by
  simp [shiftN, Nat.shiftLeft_eq, Nat.mod_mul_mod]

theorem shiftN_shr (w a n : Nat) : shiftN .shr w a n = a % 2 ^ w / 2 ^ (n % w) := by
  simp [shiftN, Nat.shiftRight_eq_div_pow]

theorem shiftN_sar {t : Ty} (ht : t.isSigned = true) (a n : Nat) :
    shiftN .sar t.width a n = truncZ (tyReadInt t a / 2 ^ (n % t.width)) t.width := by
  have hw : 0 < t.width := by cases t <;> decide
  have hs : sext (a % 2 ^ t.width) t.width = tyReadInt t a := by
    rw [tyReadInt_signed ht, sext_eq hw]; congr 1; simp [← BitVec.toNat_inj]
  simp only [shiftN, hs, Int.shiftRight_eq_div_pow]
  push_cast; rfl

theorem brevN_lt (w a : Nat) : brevN w a < 2 ^ w := by
  induction w generalizing a with
  | zero => exact Nat.one_pos
  | succ w ih =>
    have h2 : a % 2 * 2 ^ w ≤ 1 * 2 ^ w := Nat.mul_le_mul_right _ (by omega)
    have := ih (a / 2)
    rw [brevN, Nat.pow_succ]; omega

theorem testBit_brevN (w a i : Nat) : (brevN w a).testBit i = (decide (i < w) && a.testBit (w - 1 - i)) := by
  induction w generalizing a with
  | zero => simp [brevN]
  | succ w ih =>
    rw [brevN, Nat.mul_comm, Nat.testBit_two_pow_mul_add _ (brevN_lt w _)]
    split
    · rename_i hi
      rw [ih, Nat.testBit_div_two, show w - 1 - i + 1 = w + 1 - 1 - i by omega]
      simp [hi, show i < w + 1 by omega]
    · rename_i hi
      by_cases h : i = w
      · subst h; simp [Nat.testBit_zero]
      · simp [show ¬ i < w + 1 by omega, Nat.testBit_lt_two_pow (show a % 2 < 2 ^ (i - w) from
          lt_of_lt_of_le (Nat.mod_lt _ (by decide)) (Nat.le_self_pow (by omega) 2))]

theorem bswapN_lt (k a : Nat) : bswapN k a < 2 ^ (8 * k) := by
  induction k generalizing a with
  | zero => exact Nat.one_pos
  | succ k ih =>
    have h2 : a % 256 * 256 ^ k ≤ 255 * 256 ^ k := Nat.mul_le_mul_right _ (by omega)
    have h3 := ih (a / 256)
    rw [Nat.pow_mul, show 2 ^ 8 = 256 from rfl] at h3 ⊢
    rw [bswapN, Nat.pow_succ]; omega

theorem testBit_bswapN (k a i : Nat) :
    (bswapN k a).testBit i = (decide (i < 8 * k) && a.testBit (8 * (k - 1 - i / 8) + i % 8)) := by
  induction k generalizing a with
  | zero => simp [bswapN]
  | succ k ih =>
    rw [bswapN, Nat.mul_comm, show (256 : Nat) ^ k = 2 ^ (8 * k) by rw [Nat.pow_mul],
      Nat.testBit_two_pow_mul_add _ (bswapN_lt k _)]
    split
    · rename_i hi
      rw [ih, show a / 256 = a / 2 ^ 8 from rfl, Nat.testBit_div_two_pow,
        show 8 * (k - 1 - i / 8) + i % 8 + 8 = 8 * (k + 1 - 1 - i / 8) + i % 8 by omega]
      simp [hi, show i < 8 * (k + 1) by omega]
    · rename_i hi
      rw [show a % 256 = a % 2 ^ 8 from rfl, Nat.testBit_mod_two_pow]
      by_cases h : i < 8 * (k + 1)
      · rw [show 8 * (k + 1 - 1 - i / 8) + i % 8 = i - 8 * k by omega]
        simp [h, show i - 8 * k < 8 by omega]
      · simp [h, show ¬ i - 8 * k < 8 by omega]

theorem popcN_eq (w a : Nat) : popcN w a = ((List.range w).filter fun i => a.testBit i).length := by
  induction w generalizing a with
  | zero => rfl
  | succ w ih =>
    rw [popcN, ih, List.range_succ_eq_map, List.filter_cons, List.filter_map, Nat.testBit_zero]
    have hc : ((fun i => a.testBit i) ∘ Nat.succ) = fun i => (a / 2).testBit i := by
      funext i; simp [Nat.testBit_div_two]
    rw [hc]
    rcases Nat.mod_two_eq_zero_or_one a with h | h
    · simp [h]
    · simp [h, Nat.add_comm]

theorem ctzN_le (w a : Nat) : ctzN w a ≤ w := by
  induction w generalizing a with
  | zero => exact Nat.le_refl _
  | succ w ih => have := ih (a / 2); rw [ctzN]; split <;> omega

theorem testBit_of_lt_ctzN {w a i : Nat} (h : i < ctzN w a) : a.testBit i = false := by
  induction w generalizing a i with
  | zero => exact absurd h (Nat.not_lt_zero _)
  | succ w ih =>
    rw [ctzN] at h
    split at h
    · exact absurd h (Nat.not_lt_zero _)
    · rename_i h1
      cases i with
      | zero => simpa [Nat.testBit_zero] using h1
      | succ i => rw [← Nat.testBit_div_two]; exact ih (by omega)

theorem testBit_ctzN {w a : Nat} (h : ctzN w a < w) : a.testBit (ctzN w a) = true := by
  induction w generalizing a with
  | zero => exact absurd h (Nat.not_lt_zero _)
  | succ w ih =>
    rw [ctzN] at h ⊢
    split at h
    · rename_i h1; simp [h1, Nat.testBit_zero]
    · rename_i h1
      rw [if_neg h1, Nat.add_comm, ← Nat.testBit_div_two]; exact ih (by omega)

theorem clzN_le (w a : Nat) : clzN w a ≤ w := by unfold clzN; split <;> omega

theorem testBit_of_ge_clzN {w a i : Nat} (hi : w - clzN w a ≤ i) (hw : i < w) : a.testBit i = false := by
  have hm : (a % 2 ^ w).testBit i = a.testBit i := by rw [Nat.testBit_mod_two_pow]; simp [hw]
  rw [← hm]
  unfold clzN at hi
  split at hi
  · rename_i h0; simp [h0]
  · rename_i h0
    exact Nat.testBit_lt_two_pow (lt_of_lt_of_le Nat.lt_log2_self (Nat.pow_le_pow_right (by decide) (by omega)))

theorem testBit_clzN {w a : Nat} (h : clzN w a < w) : a.testBit (w - 1 - clzN w a) = true := by
  unfold clzN at h ⊢
  split at h
  · exact absurd h (Nat.lt_irrefl _)
  · rename_i h0
    have hl : Nat.log2 (a % 2 ^ w) < w := (Nat.log2_lt h0).2 (Nat.mod_lt _ (Nat.two_pow_pos w))
    have ht : (a % 2 ^ w).testBit (Nat.log2 (a % 2 ^ w)) = true := Nat.testBit_log2 h0
    rw [if_neg h0, show w - 1 - (w - 1 - Nat.log2 (a % 2 ^ w)) = Nat.log2 (a % 2 ^ w) by omega]
    simpa [Nat.testBit_mod_two_pow, hl] using ht

theorem issue_shiftOp {i : Instr} {h : Hdr} {op : ShiftOp} {ty : Ty} {d a b : Reg} {s : State} (hr : Ready s h) :
    issue (shiftOp i h op ty d a b) s =
      .next (didX s d (extendI ty (shiftN op ty.width (xr s a).toNat (xr s b).toNat : Nat))) := issue_mkOp_wx hr rfl

theorem issue_bitOp {i : Instr} {h : Hdr} {ty : Ty} {d a : Reg} {f : Nat → Nat → Nat} {s : State} (hr : Ready s h) :
    issue (bitOp i h ty d a f) s = .next (didX s d (BitVec.ofNat 64 (f ty.width ((xr s a).toNat % 2 ^ ty.width)))) :=
  issue_mkOp_wx hr rfl

/-- The low bits of a word, bit by bit. -/
theorem testBit_low (v : Word) (w i : Nat) : (v.toNat % 2 ^ w).testBit i = (decide (i < w) && v.getLsbD i) := by
  rw [Nat.testBit_mod_two_pow]; rfl

/-- Settles O10: the shifts and the bit instructions are `shiftN` and the functions of a w-bit pattern, whose bits are known. -/
theorem shiftBitResults : Obligations.ShiftBitResults := by
  unfold Obligations.ShiftBitResults
  intro h d a b s hr
  refine ⟨fun ty hty => ?_, fun ty hty => ?_⟩
  · have hsigned : ty.isSigned = true := by revert hty; cases ty <;> decide
    refine ⟨?_, ?_, ?_, issue_shiftOp hr⟩
    · refine (issue_shiftOp hr).trans ?_
      rw [extendI_congr ((truncZ_natCast _ _).trans ((shiftN_shl _ _ _).trans (truncZ_natCast _ _).symm))]
    · refine (issue_shiftOp hr).trans ?_
      rw [shiftN_shr]
    · refine (issue_shiftOp hr).trans ?_
      rw [shiftN_sar hsigned, extendI_congr ((truncZ_natCast _ _).trans (Nat.mod_eq_of_lt (truncZ_lt _ _)))]
  · have hw : ty.width ≤ 64 := by obtain rfl | rfl := hty <;> decide
    have h8 : 8 * (ty.width / 8) = ty.width := by obtain rfl | rfl := hty <;> rfl
    refine ⟨issue_bitOp hr, issue_bitOp hr, issue_bitOp hr, issue_bitOp hr, issue_bitOp hr,
      ⟨_, issue_bitOp hr, clzN_le _ _, fun i hlo hi => ?_, fun hn => ?_⟩,
      ⟨_, issue_bitOp hr, ctzN_le _ _, fun i hi => ?_, fun hn => ?_⟩, ?_, ⟨_, issue_bitOp hr, fun i hi => ?_⟩,
      ⟨_, issue_bitOp hr, fun i hi => ?_⟩⟩
    · have := testBit_of_ge_clzN hlo hi
      rwa [testBit_low, decide_eq_true hi, Bool.true_and] at this
    · have := testBit_clzN hn
      rw [testBit_low, Bool.and_eq_true] at this
      exact this.2
    · have := testBit_of_lt_ctzN hi
      rwa [testBit_low, decide_eq_true (lt_of_lt_of_le hi (ctzN_le _ _)), Bool.true_and] at this
    · have := testBit_ctzN hn
      rw [testBit_low, Bool.and_eq_true] at this
      exact this.2
    · refine (issue_bitOp hr).trans ?_
      rw [popcN_eq, List.filter_congr fun i hi => by rw [testBit_low, decide_eq_true (List.mem_range.mp hi), Bool.true_and]]
    · rw [BitVec.getLsbD_ofNat, testBit_brevN, testBit_low, decide_eq_true hi, Bool.true_and]
      by_cases h1 : i < ty.width
      · simp [h1, show ty.width - 1 - i < ty.width by omega]
      · simp [h1]
    · rw [BitVec.getLsbD_ofNat, testBit_bswapN, testBit_low, decide_eq_true hi, Bool.true_and, h8]
      by_cases h1 : i < ty.width
      · simp [h1, show 8 * (ty.width / 8 - 1 - i / 8) + i % 8 < ty.width by omega]
      · simp [h1]

/-! ## Immediate forms, compares, selects and moves -/

theorem issue_immOp {i : Instr} {h : Hdr} {d a : Reg} {imm : BitVec 32} {f : Word → Word → Word} {s : State} (hr : Ready s h) :
    issue (immOp i h d a imm f) s = .next (didX s d (f (xr s a) (imm.signExtend 64))) := issue_mkOp_wx hr rfl

theorem issue_shi {h : Hdr} {op : ShiftOp} {d a : Reg} {n : BitVec 6} {s : State} (hr : Ready s h) :
    exec (.shi h op d a n) s = .next (didX s d (BitVec.ofNat 64 (shiftN op 64 (xr s a).toNat n.toNat))) := issue_mkOp_wx hr rfl

/-- A shift at the width of a word is the shift of its bit vector. -/
theorem ofNat_shiftN (x : Word) {n : Nat} (hn : n < 64) :
    BitVec.ofNat 64 (shiftN .shl 64 x.toNat n) = x <<< n ∧ BitVec.ofNat 64 (shiftN .shr 64 x.toNat n) = x >>> n ∧
    BitVec.ofNat 64 (shiftN .sar 64 x.toNat n) = x.sshiftRight n ∧
    BitVec.ofNat 64 (shiftN .rotr 64 x.toNat n) = x.rotateRight n := by
  have hx : x.toNat % 2 ^ 64 = x.toNat := Nat.mod_eq_of_lt x.isLt
  have hs : sext x.toNat 64 = x.toInt := by rw [sext_eq (by decide), BitVec.ofNat_toNat, BitVec.setWidth_eq]
  simp only [shiftN, hx, hs, Nat.mod_eq_of_lt hn, truncZ_eq, BitVec.ofNat_toNat, BitVec.setWidth_eq]
  refine ⟨?_, ?_, rfl, ?_⟩
  · apply BitVec.eq_of_toNat_eq; simp
  · apply BitVec.eq_of_toNat_eq
    rw [BitVec.toNat_ofNat, BitVec.toNat_ushiftRight, Nat.mod_eq_of_lt (lt_of_le_of_lt (Nat.shiftRight_le _ _) x.isLt)]
  · rw [BitVec.rotateRight_def, Nat.mod_eq_of_lt hn]
    apply BitVec.eq_of_toNat_eq
    rw [BitVec.toNat_ofNat, Nat.mod_mod, Nat.or_mod_two_pow,
      Nat.mod_eq_of_lt (lt_of_le_of_lt (Nat.shiftRight_le x.toNat n) x.isLt)]
    simp

/-- The bits of a field's mask. -/
theorem testBit_fieldMask (pos len i : Nat) :
    ((2 ^ len - 1) * 2 ^ pos).testBit i = (decide (pos ≤ i) && decide (i < pos + len)) := by
  rw [Nat.testBit_mul_two_pow, Nat.testBit_two_pow_sub_one]
  by_cases h : pos ≤ i
  · simp [h, show i - pos < len ↔ i < pos + len by omega]
  · simp [h]

/-- An unsigned field of a word. -/
theorem ofNat_field (x : Word) (pos n : Nat) :
    BitVec.ofNat 64 (x.toNat >>> pos % 2 ^ n) = ((x >>> pos).setWidth n).setWidth 64 := by
  apply BitVec.eq_of_toNat_eq; simp

/-- A signed field of a word. -/
theorem ofInt_sext_field (x : Word) (pos : Nat) {n : Nat} (hn : 0 < n) :
    BitVec.ofInt 64 (sext (x.toNat >>> pos) n) = ((x >>> pos).setWidth n).signExtend 64 := by
  rw [sext_eq hn, BitVec.signExtend, ← BitVec.toNat_ushiftRight, BitVec.ofNat_toNat]

theorem issue_ins {h : Hdr} {d a : Reg} {pos len1 : BitVec 6} {s : State} (hr : Ready s h) :
    exec (.ins h d a pos len1) s =
      .next (didX s d ((xr s d &&& ~~~ BitVec.ofNat 64 ((2 ^ (len1.toNat + 1) - 1) * 2 ^ pos.toNat)) |||
        ((xr s a <<< pos.toNat) &&& BitVec.ofNat 64 ((2 ^ (len1.toNat + 1) - 1) * 2 ^ pos.toNat)))) := issue_mkOp_wx hr rfl

theorem condHolds_sel (s : State) (a b c : Reg) :
    (if xr s c ≠ 0 then xr s a else xr s b) = if xr s c = 0 then xr s b else xr s a := ite_not _ _ _

/-- Settles O11: each writes at once a function of its operands. -/
theorem immediateAndMoveResults : Obligations.ImmediateAndMoveResults := by
  unfold Obligations.ImmediateAndMoveResults
  refine ⟨fun h d a b imm s hr => ⟨issue_immOp hr, issue_immOp hr, issue_immOp hr, issue_immOp hr, fun n => ?_,
    issue_mkOp_wx hr rfl, issue_mkOp_wx hr rfl, fun cc => ⟨issue_immOp hr, issue_mkOp_wx hr rfl, issue_mkOp_wf hr rfl⟩,
    fun c => (issue_mkOp_wx hr rfl).trans (by rw [← condHolds_sel]; rfl)⟩, fun h d a s hr => ⟨issue_mkOp_wx hr rfl, issue_mkOp_wf hr rfl,
    issue_mkOp_wx hr rfl, issue_mkOp_wf hr rfl, issue_mkOp_wx hr rfl, issue_mkOp_done hr rfl rfl rfl,
    fun pos len1 hfit => ⟨?_, ?_, _, issue_ins hr, fun i hi => ?_⟩⟩⟩
  · obtain ⟨hl, hs, ha, hrot⟩ := ofNat_shiftN (xr s a) n.isLt
    rw [issue_shi hr, issue_shi hr, issue_shi hr, issue_shi hr, hl, hs, ha, hrot]
    exact ⟨rfl, rfl, rfl, rfl⟩
  · exact (issue_mkOp_wx hr rfl).trans (by rw [← ofNat_field]; rfl)
  · exact (issue_mkOp_wx hr rfl).trans (by rw [← ofInt_sext_field _ _ (Nat.succ_pos _)]; rfl)
  · have hm : (BitVec.ofNat 64 ((2 ^ (len1.toNat + 1) - 1) * 2 ^ pos.toNat)).getLsbD i =
        decide (pos.toNat ≤ i ∧ i ≤ pos.toNat + len1.toNat) := by
      rw [BitVec.getLsbD_ofNat, testBit_fieldMask, decide_eq_true hi, Bool.true_and, ← Bool.decide_and]
      exact decide_eq_decide.mpr (by omega)
    rw [BitVec.getLsbD_or, BitVec.getLsbD_and, BitVec.getLsbD_and, BitVec.getLsbD_not, hm, BitVec.getLsbD_shiftLeft]
    by_cases hin : pos.toNat ≤ i ∧ i ≤ pos.toNat + len1.toNat
    · simp [hin, hi, show ¬ i < pos.toNat by omega]
    · simp [hin, hi]

end Sys2Proof.Proofs

/-! Floating-point instructions and local memory at a ready core (R312 to R320). -/

namespace Sys2Proof.Proofs
open Sys2Proof Sys2Proof.Machine Sys2Proof.Laws

/-! ## Scalar floating point -/

/-- A comparison with a NaN holds only where it asks for one. -/
theorem fcmpRes_nan {op : FCmpOp} {x y : FVal} (h : x.isNan = true ∨ y.isNan = true) : (fcmpRes op x y).1 = true ↔ op = .un := by
  have hn : (x.isNan || y.isNan) = true := by simpa using h
  cases op with
  | eq => simp [fcmpRes, eqF]; rcases h with h | h <;> simp [h]
  | un => simp [fcmpRes, hn]
  | lt => simp [fcmpRes, hn]
  | le => simp [fcmpRes, hn]

/-- Settles O12: each owes its result with the flags it raises. -/
theorem floatResults : Obligations.FloatResults := by
  unfold Obligations.FloatResults
  refine ⟨fun h ty d a b c rm s hr => ⟨issue_mkOp_owesC hr rfl, issue_mkOp_owesC hr rfl, issue_mkOp_owesC hr rfl,
    issue_mkOp_owesC hr rfl, issue_mkOp_owesC hr rfl, issue_mkOp_owesC hr rfl, issue_mkOp_owesC hr rfl,
    issue_mkOp_owesC hr rfl⟩, fun h ty d a b s hr => ⟨fun op => ⟨issue_mkOp_owesC hr rfl, issue_mkOp_owesC hr rfl, fcmpRes_nan⟩,
    fun src rm sat => issue_mkOp_owesC hr rfl⟩⟩

/-! ## Local memory -/

/-- A body goes on where its access passes every check. -/
theorem withAccess_ok {c : Core} {kind : AccessKind} {al n : Nat} {as : List Nat} (h : checkAccess c kind al n as = none) (k : Out) :
    withAccess c kind al n as k = k := by
  simp [withAccess, h]

/-- A load's value by its size, sign-extended as a bit vector. -/
theorem loadValue_eq (c : Core) (sz : MemSize) (a : Nat) : loadValue c sz a =
    if memSigned sz then (BitVec.ofNat (8 * memBytes sz) (c.sram.readLE a (memBytes sz))).signExtend 64
    else BitVec.ofNat 64 (c.sram.readLE a (memBytes sz)) := by
  have hpos : 0 < 8 * memBytes sz := by cases sz <;> decide
  rw [loadValue, sext_eq hpos]; rfl

theorem byteSlice_zero {w : Nat} (v : BitVec w) (n : Nat) : byteSlice v 0 n = leBytes v.toNat n := rfl

theorem storeBytes_pending (c : Core) (a : Nat) (bs : List Byte) : (storeBytes c a bs).pending = c.pending := rfl

theorem storeBytes_pc (c : Core) (a : Nat) (bs : List Byte) : (storeBytes c a bs).pc = c.pc := rfl

section
variable {h : Hdr} {d : Reg} {m : MemOp} {s : State} (hr : Ready s h)
include hr

theorem exec_ld {sz : MemSize} (hok : accessOk s loads (memBytes sz) (memBytes sz) [memAddr s m]) :
    exec (.ld h sz d m) s = .next (owesX s h d (loadValue (focused s) sz (memAddr s m))) :=
  issue_mkOp_owesX hr (withAccess_ok hok _)

theorem exec_ldp (hok : accessOk s loads 16 16 [memAddr s m]) (hclash : anyClash (pairGroups d m) = false) :
    exec (.ldp h d m) s = .next (owes s h [.x d.toNat ((focused s).sram.word (memAddr s m)),
      .x (d.toNat + 1) ((focused s).sram.word (memAddr s m + 8))] 0 0) :=
  issue_long (c := focused s) hr (allowed_groups hclash) rfl (withAccess_ok hok _) hr.plain.pending rfl

theorem exec_st {sz : StSize} (hok : accessOk s stores (stBytes sz) (stBytes sz) [memAddr s m]) :
    exec (.st h sz d m) s = .next (didStore s (memAddr s m) (leBytes (xr s d).toNat (stBytes sz))) := by
  rw [← byteSlice_zero]
  exact issue_mkOp_done hr (withAccess_ok hok _) rfl rfl

theorem exec_stp (hok : accessOk s stores 16 16 [memAddr s m]) (hclash : anyClash (pairGroups d m) = false) :
    exec (.stp h d m) s = .next (didStore s (memAddr s m)
      (leBytes (xr s d).toNat 8 ++ leBytes (readX (focused s) .main (d.toNat + 1)).toNat 8)) :=
  exec_done hr (allowed_groups hclash) (.inl rfl) (withAccess_ok hok _) ((storeBytes_pending _ _ _).trans hr.plain.pending)
    (storeBytes_pc _ _ _)

end

/-- Settles O13. -/
theorem loadAndStoreResults : Obligations.LoadAndStoreResults := by
  unfold Obligations.LoadAndStoreResults
  exact ⟨fun h d m s hr => ⟨fun sz hok => (exec_ld hr hok).trans (by rw [loadValue_eq]),
      fun _ hok hclash => exec_ldp hr hok hclash⟩,
    fun h d m s hr => ⟨fun sz hok => exec_st hr hok, fun _ hok hclash => exec_stp hr hok hclash⟩⟩

/-! ## Atomic operations -/

/-- A long-latency instruction that changes its core's SRAM at once and owes a register. -/
theorem issue_mkOp_wx_sram {i : Instr} {h : Hdr} {reads writes : List RegRef} {body : Env → Core → Out} {s : State} {d : Reg}
    {v : Word} {m : Memory} (hr : Ready s h)
    (hb : body (focusEnv s (encode i)) (focused s) = wx { focused s with sram := m } d v) :
    issue (mkOp i h .l reads writes body) s =
      .next (did s (owing h { focused s with sram := m } false [.x d.toNat v] 0 {} none)) :=
  issue_long hr allowed_mkOp rfl hb hr.plain.pending rfl

/-- A store that depends on a condition. -/
theorem ite_storeBytes (p : Prop) [Decidable p] (c : Core) (a : Nat) (bs : List Byte) :
    { c with sram := if p then c.sram.writeBytes a bs else c.sram } = if p then storeBytes c a bs else c := by
  split <;> rfl

/-- Settles O15. -/
theorem atomicResults : Obligations.AtomicResults := by
  unfold Obligations.AtomicResults
  intro h ty d a b e s hr _ hok
  refine ⟨fun op => issue_mkOp_wx_sram hr (withAccess_ok hok _), ?_⟩
  refine (issue_mkOp_wx_sram hr (withAccess_ok hok _)).trans ?_
  rw [← ite_storeBytes]
  rfl

/-! ## A store into a memory that lists an address twice -/

/-- A core whose SRAM lists address 0 twice: no canonical memory, though a state may hold it. -/
def doubledCore : Core := { sram := ⟨.const 0, [(0, 1), (0, 2)]⟩ }

/-- The state with that core in focus. -/
def doubledState : State := { cores := [(0, doubledCore)] }

theorem ready_doubledState : Ready doubledState Hdr.plain where
  grid := rfl
  ctx := rfl
  plain :=
    { pending := rfl, held := rfl, watch := rfl, ops := rfl, breads := rfl, gang := rfl
      breakpoints := fun n _ => show (fget ([] : FMap (BitVec 23)) n 0).getLsbD 0 = false by simp [fget, ffind] }
  guard := .inl rfl

/-- Refutes O14: the statement asks nothing of the SRAM that is stored into. Where its cells list address 0 twice, a store of the
byte 0 takes the first of them away, for 0 is what an unlisted byte reads as, and the second is read then. -/
theorem not_storeFrame : ¬ Obligations.StoreFrame := by
  unfold Obligations.StoreFrame
  intro frame
  have hok : accessOk doubledState stores (stBytes .b1) (stBytes .b1) [memAddr doubledState ⟨0, 0, 0, 0⟩] := by
    unfold accessOk; decide
  obtain ⟨-, stored, -⟩ := frame Hdr.plain .b1 0 ⟨0, 0, 0, 0⟩ doubledState _ ready_doubledState hok (exec_st ready_doubledState hok)
  exact absurd (stored 0 (by decide)) (by decide)

end Sys2Proof.Proofs

/-! The instruction word (R270 to R281): the fields of a packed word, the codes read back, and that the decoder and the encoder
agree. -/

namespace Sys2Proof.Proofs
open Sys2Proof Sys2Proof.Machine

/-! ## Fields of a concatenation. Where these lemmas are used the sum of the widths stands as a numeral: it is kept out of their
index. -/

section
variable {v w : Nat} (x : BitVec v) (y : BitVec w) {s n : Nat}

theorem extractLsb'_high (h : w ≤ s) :
    BitVec.extractLsb' (n := no_index (v + w)) s n (HAppend.hAppend (γ := BitVec (no_index (v + w))) x y) = x.extractLsb' (s - w) n :=
  BitVec.extractLsb'_append_eq_of_le h

theorem extractLsb'_low (h : s + n ≤ w) :
    BitVec.extractLsb' (n := no_index (v + w)) s n (HAppend.hAppend (γ := BitVec (no_index (v + w))) x y) = y.extractLsb' s n :=
  BitVec.extractLsb'_append_eq_of_add_le h

theorem getLsbD_high (h : w ≤ s) :
    BitVec.getLsbD (w := no_index (v + w)) (HAppend.hAppend (γ := BitVec (no_index (v + w))) x y) s = x.getLsbD (s - w) := by
  rw [BitVec.getLsbD_append, if_neg (Nat.not_lt.mpr h)]

theorem getLsbD_low (h : s < w) :
    BitVec.getLsbD (w := no_index (v + w)) (HAppend.hAppend (γ := BitVec (no_index (v + w))) x y) s = y.getLsbD s := by
  rw [BitVec.getLsbD_append, if_pos h]

/-- A number with no high part. -/
theorem toNat_zero_append : (HAppend.hAppend (γ := BitVec (no_index (v + w))) (0#v) y).toNat = y.toNat := by
  rw [BitVec.toNat_append]; simp

end

theorem toNat_lt_eight (x : BitVec 3) : x.toNat < 8 := x.isLt
theorem toNat_lt_sixteen (x : BitVec 4) : x.toNat < 16 := x.isLt

/-- A field that holds one bit. -/
theorem zero_append_ofBool_beq_one (v : Nat) (b : Bool) : ((0#v ++ BitVec.ofBool b) == BitVec.ofNat (v + 1) 1) = b := by
  rw [Bool.eq_iff_iff, beq_iff_eq, ← BitVec.toNat_inj, toNat_zero_append, BitVec.toNat_ofNat,
    Nat.mod_eq_of_lt (Nat.one_lt_two_pow (by omega))]
  cases b <;> simp

/-! ## The fields of a packed word (R271, R272) -/

section
variable (op : BitVec 8) (h : Hdr)

theorem opOf_packWord (b : Body) : opOf (packWord op h b) = op := by
  simp (disch := decide) [opOf, packWord, headerBits, extractLsb'_high]

theorem hdrOf_packWord (b : Body) : hdrOf (packWord op h b) = h := by
  simp (disch := decide) [-BitVec.getLsbD_eq_getElem, hdrOf, packWord, headerBits, extractLsb'_high, extractLsb'_low, getLsbD_high, getLsbD_low]

theorem fmtA_packWord (f : FmtA) : fmtA (packWord op h (.a f)) = f := by
  simp (disch := decide) [fmtA, packWord, Body.bits, extractLsb'_high, extractLsb'_low]

theorem fmtI_packWord (f : FmtI) : fmtI (packWord op h (.i f)) = f := by
  simp (disch := decide) [fmtI, packWord, Body.bits, extractLsb'_high, extractLsb'_low]

theorem fmtM_packWord (f : FmtM) : fmtM (packWord op h (.m f)) = f := by
  simp (disch := decide) [fmtM, packWord, Body.bits, extractLsb'_high, extractLsb'_low]

theorem fmtB_packWord (f : FmtB) : fmtB (packWord op h (.b f)) = f := by
  simp (disch := decide) [fmtB, packWord, Body.bits, extractLsb'_high, extractLsb'_low]

theorem fmtQ_packWord (f : FmtQ) : fmtQ (packWord op h (.q f)) = f := by
  simp (disch := decide) [fmtQ, packWord, Body.bits, extractLsb'_high, extractLsb'_low]

theorem fmtT_packWord (f : FmtT) : fmtT (packWord op h (.t f)) = f := by
  simp (disch := decide) [fmtT, packWord, Body.bits, extractLsb'_high, extractLsb'_low]

theorem fmtE_packWord (f : FmtE) : fmtE (packWord op h (.e f)) = f := by
  simp (disch := decide) [fmtE, packWord, Body.bits, extractLsb'_high, extractLsb'_low]

theorem fmtS_packWord (f : FmtS) : fmtS (packWord op h (.s f)) = f := by
  simp (disch := decide) [fmtS, packWord, Body.bits, extractLsb'_high, extractLsb'_low]

end

/-! ## Codes read back (R277, R278, R280) -/

@[simp] theorem ofCode_code_ty (t : Ty) : Ty.ofCode t.code = t := by cases t <;> rfl
theorem code_ty_const : Ty.i64.code = 0 ∧ Ty.n32.code = 5 ∧ Ty.f32.code = 9 ∧ Ty.e4m3.code = 12 ∧ Ty.e5m2.code = 13 ∧ Ty.nb.code = 15 :=
  ⟨rfl, rfl, rfl, rfl, rfl, rfl⟩
@[simp] theorem ofCode_code_rm (r : RM) : RM.ofCode r.code = r := by cases r <;> rfl
@[simp] theorem ofCode_code_cond (c : Cond) : Cond.ofCode c.code.toNat = some c := by cases c <;> rfl
@[simp] theorem ofCode_code_scope (s : Scope) : Scope.ofCode s.code = s := by cases s <;> rfl
@[simp] theorem ofCode_code_planes (p : Planes) : Planes.ofCode p.code = p := by cases p <;> rfl
@[simp] theorem ofCode_code_groupSize (g : GroupSize) : GroupSize.ofCode g.code = g := by cases g <;> rfl
@[simp] theorem ofCode_code_memSize (z : MemSize) : MemSize.ofCode z.code = some z := by cases z <;> rfl
@[simp] theorem ofCode_code_stSize (z : StSize) : StSize.ofCode z.code = some z := by cases z <;> rfl
@[simp] theorem ofCode_code_shift (o : ShiftOp) : ShiftOp.ofCode o.code.toNat = some o := by cases o <;> rfl
@[simp] theorem ofCode_code_shift_low (o : ShiftOp) : ShiftOp.ofCode (o.code.toNat % 16) = some o := by cases o <;> rfl
@[simp] theorem ofCode_code_cond_low (b : Bool) (c : Cond) : Cond.ofCode ((BitVec.ofBool b ++ c.code).toNat % 8) = some c := by
  cases b <;> cases c <;> rfl
@[simp] theorem code_planes_ne_three (p : Planes) : p.code ≠ 3#2 := by cases p <;> decide
@[simp] theorem ofCode_code_amo (o : AmoOp) : AmoOp.ofCode o.code.toNat = some o := by cases o <;> rfl
@[simp] theorem ofCode_code_fcmp (o : FCmpOp) : FCmpOp.ofCode o.code.toNat = some o := by cases o <;> rfl
@[simp] theorem ofCode_code_absNeg (o : AbsNegOp) : AbsNegOp.ofCode o.code.toNat = some o := by cases o <;> rfl
@[simp] theorem ofCode_code_logic (o : LogicOp) : LogicOp.ofCode o.code.toNat = some o := by cases o <;> rfl
@[simp] theorem ofCode_code_bits (o : BitsOp) : BitsOp.ofCode o.code.toNat = some o := by cases o <;> rfl
@[simp] theorem ofCode_code_vcmp (o : VCmpOp) : VCmpOp.ofCode o.code.toNat = some o := by cases o <;> rfl
@[simp] theorem ofCode_code_red (o : RedOp) : RedOp.ofCode o.code.toNat = some o := by cases o <;> rfl
@[simp] theorem ofCode_code_scan (o : ScanOp) : ScanOp.ofCode o.code.toNat = some o := by cases o <;> rfl
@[simp] theorem ofCode_code_mask (o : MaskOp) : MaskOp.ofCode o.code.toNat = some o := by cases o <;> rfl
@[simp] theorem ofCode_code_mov (f : MovForm) : MovForm.ofCode f.code.toNat = some f := by cases f <;> rfl
@[simp] theorem ofCode_code_maskTest (t : MaskTest) : MaskTest.ofCode t.code.toNat = some t := by cases t <;> rfl
@[simp] theorem ofCode_code_radd (o : RaddOp) : RaddOp.ofCode o.code = o := by cases o <;> rfl
@[simp] theorem ofCode_code_ramo (o : RamoOp) : RamoOp.ofCode o.code = o := by cases o <;> rfl
@[simp] theorem ofCode_code_burst (s : BurstCoord) : BurstCoord.ofCode s.code.toNat = some s := by cases s <;> rfl

@[simp] theorem vreg_ofV (r : VReg) : vreg (ofV r) = r := by
  simp (disch := decide) [vreg, ofV, extractLsb'_low]
@[simp] theorem vreg_append (b : BitVec 1) (r : VReg) : vreg (b ++ r) = r := by
  simp (disch := decide) [vreg, extractLsb'_low]
@[simp] theorem freg_ofF (f : FReg) : freg (ofF f) = f := by
  simp (disch := decide) [freg, ofF, extractLsb'_low]

section
variable (imm : BitVec 5) (m : Mask) (sat : Bool) (rm : RM)

@[simp] theorem modRM_modBits : modRM (modBits imm m sat rm) = rm := by
  simp (disch := decide) [modRM, modBits, extractLsb'_low]
@[simp] theorem modSat_modBits : modSat (modBits imm m sat rm) = sat := by
  simp (disch := decide) [-BitVec.getLsbD_eq_getElem, modSat, modBits, getLsbD_high, getLsbD_low]
@[simp] theorem modMask_modBits : modMask (modBits imm m sat rm) = m := by
  simp (disch := decide) [-BitVec.getLsbD_eq_getElem, modMask, modBits, extractLsb'_high, extractLsb'_low, getLsbD_high, getLsbD_low]
@[simp] theorem modImm_modBits : modImm (modBits imm m sat rm) = imm := by
  simp (disch := decide) [modImm, modBits, extractLsb'_high]
@[simp] theorem modF_modFBits (toF : Bool) : modF (modFBits toF rm) = toF := by
  simp (disch := decide) [-BitVec.getLsbD_eq_getElem, modF, modFBits, modBits, getLsbD_high, getLsbD_low]

end

/-! ## What a packed word reads as

One lemma for each format of R272: the encodings of that format read back. Format A is listed by unit, so its three lemmas name the
unit of the opcode. -/

section
variable {i : Instr} {op : BitVec 8} {h : Hdr}

theorem readScalar_enc {f : FmtA} (hf : formatOf op.toNat = some .scalar) (he : i.enc = some ⟨op, h, .a f⟩) :
    readScalar op.toNat h f = some i := by
  cases i <;> cases he <;>
    simp (disch := decide) [-BitVec.getLsbD_eq_getElem, readScalar, formatOf, fn0, plainA, ty0, guardOpt, code_ty_const,
      extractLsb'_high, extractLsb'_low, toNat_zero_append, toNat_lt_sixteen] at hf ⊢
  case ext.refl signed _ _ _ _ => cases signed <;> rfl

theorem readVector_enc {f : FmtA} (hf : formatOf op.toNat = some .vector) (he : i.enc = some ⟨op, h, .a f⟩) :
    readVector op.toNat h f = some i := by
  cases i <;> cases he <;>
    simp (disch := decide) [-BitVec.getLsbD_eq_getElem, readVector, formatOf, fn0, plainA, ty0, guardOpt, code_ty_const,
      extractLsb'_low, getLsbD_high, getLsbD_low, toNat_zero_append, toNat_lt_sixteen, zero_append_ofBool_beq_one] at hf ⊢
  case vminmax.refl isMax _ _ _ _ _ => exact Bool.toNat_le isMax
  case vdot.refl e5 _ _ _ _ => cases e5 <;> decide
  case vdoti.refl uns _ _ _ _ _ _ => cases uns <;> rfl

theorem readSync_enc {f : FmtA} (hf : formatOf op.toNat = some .sync) (he : i.enc = some ⟨op, h, .a f⟩) :
    readSync op.toNat h f = some i := by
  cases i <;> cases he <;>
    simp (disch := decide) [-BitVec.getLsbD_eq_getElem, readSync, formatOf, plainA, ty0, guardOpt, extractLsb'_low,
      toNat_zero_append, toNat_lt_eight] at hf ⊢

theorem readImm_enc {f : FmtI} (he : i.enc = some ⟨op, h, .i f⟩) :
    readImm op.toNat h f = some i := by
  cases i <;> cases he <;>
    simp (disch := decide) [-BitVec.getLsbD_eq_getElem, readImm, segImm, guardOpt, extractLsb'_high, extractLsb'_low,
      getLsbD_high, getLsbD_low, toNat_zero_append, zero_append_ofBool_beq_one]

theorem readMem_enc {f : FmtM} (he : i.enc = some ⟨op, h, .m f⟩) :
    readMem op.toNat h f = some i := by
  cases i <;> cases he <;>
    simp (disch := decide) [-BitVec.getLsbD_eq_getElem, readMem, memFmt, FmtM.mem, guardOpt, getLsbD_high]

theorem readBranch_enc {f : FmtB} (he : i.enc = some ⟨op, h, .b f⟩) :
    readBranch op.toNat h f = some i := by
  cases i <;> cases he <;>
    simp (disch := decide) [-BitVec.getLsbD_eq_getElem, readBranch, guardOpt, getLsbD_high, toNat_zero_append,
      zero_append_ofBool_beq_one]

theorem readQueue_enc {f : FmtQ} (he : i.enc = some ⟨op, h, .q f⟩) :
    readQueue op.toNat h f = some i := by
  cases i <;> cases he <;>
    simp (disch := decide) [-BitVec.getLsbD_eq_getElem, readQueue, extractLsb'_high, extractLsb'_low]

theorem readTensor_enc {f : FmtT} (he : i.enc = some ⟨op, h, .t f⟩) :
    readTensor op.toNat h f = some i := by
  cases i <;> cases he <;>
    simp (disch := decide) [-BitVec.getLsbD_eq_getElem, readTensor, extractLsb'_high, extractLsb'_low, getLsbD_high,
      getLsbD_low]

theorem readEngine_enc {f : FmtE} (he : i.enc = some ⟨op, h, .e f⟩) :
    readEngine op.toNat h f = some i := by
  cases i <;> cases he <;>
    simp (disch := decide) [-BitVec.getLsbD_eq_getElem, readEngine, engFmt, FmtE.eng, FmtE.he2, extractLsb'_high,
      extractLsb'_low]

theorem readSystem_enc {f : FmtS} (he : i.enc = some ⟨op, h, .s f⟩) :
    readSystem op.toNat h f = some i := by
  cases i <;> cases he <;>
    simp (disch := decide) [-BitVec.getLsbD_eq_getElem, readSystem]

/-- The formats that a body may stand in; the word of NOP is one of format A with no field set. -/
def bodyFits : Format → Body → Bool
  | .nop, b => b == .a {}
  | .scalar, .a _ | .vector, .a _ | .sync, .a _ | .imm, .i _ | .mem, .m _ | .branch, .b _ | .queue, .q _ | .tensor, .t _
  | .engine, .e _ | .system, .s _ => true
  | _, _ => false

/-- An encoding stands in a format of its opcode. -/
theorem bodyFits_enc {b : Body} (he : i.enc = some ⟨op, h, b⟩) : (formatOf op.toNat).any (bodyFits · b) = true := by
  cases i <;> cases he <;> rfl

/-- Opcode 0 encodes NOP alone. -/
theorem enc_nop {b : Body} (he : i.enc = some ⟨op, h, b⟩) (hf : formatOf op.toNat = some .nop) : i = .nop := by
  cases i with
  | nop => rfl
  | _ => cases he <;> cases hf

/-- The word of an instruction reads as the instruction. -/
theorem readWord_enc {b : Body} (he : i.enc = some ⟨op, h, b⟩) : readWord (packWord op h b) = some i := by
  have hfits := bodyFits_enc he
  simp only [readWord, opOf_packWord, hdrOf_packWord]
  cases hf : formatOf op.toNat with
  | none => simp [hf] at hfits
  | some fm =>
    rw [hf] at hfits
    cases fm with
    | nop => rw [enc_nop he hf]
    | scalar =>
      cases b with
      | a f => exact (congrArg _ (fmtA_packWord op h _)).trans (readScalar_enc hf he)
      | _ => cases hfits
    | vector =>
      cases b with
      | a f => exact (congrArg _ (fmtA_packWord op h _)).trans (readVector_enc hf he)
      | _ => cases hfits
    | sync =>
      cases b with
      | a f => exact (congrArg _ (fmtA_packWord op h _)).trans (readSync_enc hf he)
      | _ => cases hfits
    | imm =>
      cases b with
      | i f => exact (congrArg _ (fmtI_packWord op h _)).trans (readImm_enc he)
      | _ => cases hfits
    | mem =>
      cases b with
      | m f => exact (congrArg _ (fmtM_packWord op h _)).trans (readMem_enc he)
      | _ => cases hfits
    | branch =>
      cases b with
      | b f => exact (congrArg _ (fmtB_packWord op h _)).trans (readBranch_enc he)
      | _ => cases hfits
    | queue =>
      cases b with
      | q f => exact (congrArg _ (fmtQ_packWord op h _)).trans (readQueue_enc he)
      | _ => cases hfits
    | tensor =>
      cases b with
      | t f => exact (congrArg _ (fmtT_packWord op h _)).trans (readTensor_enc he)
      | _ => cases hfits
    | engine =>
      cases b with
      | e f => exact (congrArg _ (fmtE_packWord op h _)).trans (readEngine_enc he)
      | _ => cases hfits
    | system =>
      cases b with
      | s f => exact (congrArg _ (fmtS_packWord op h _)).trans (readSystem_enc he)
      | _ => cases hfits

end

/-- The instructions of a core, and they alone, have an encoding. -/
theorem isSome_enc (i : Instr) : i.enc.isSome = i.check.core := by
  cases i <;> rfl

/-- Settles O1: the word of an instruction reads as the instruction, whose types and fields are judged next. -/
theorem decodeEncode : Obligations.DecodeEncode := by
  unfold Obligations.DecodeEncode
  intro i hwf
  simp only [Instr.wf, Bool.and_eq_true] at hwf
  obtain ⟨⟨hcore, htypes⟩, hfields⟩ := hwf
  obtain ⟨⟨op, h, b⟩, he⟩ := Option.isSome_iff_exists.mp ((isSome_enc i).trans hcore)
  have hread : readWord (encode i) = some i := by
    simpa only [encode, he] using readWord_enc he
  simp [decode, hread, htypes, hfields]

theorem encode_of_not_core {i : Instr} (hi : i.check.core = false) : encode i = 0 := by
  have he : i.enc = none := Option.isSome_eq_false_iff.mp ((isSome_enc i).trans hi) |> Option.isNone_iff_eq_none.mp
  simp only [encode, he]

theorem decode_zero : decode 0 = .ok .nop := by decide

/-- What the decoder accepts: the types and the fields are those of the entry, and the encoding is the word. -/
theorem decode_eq_ok {w : Word} {i : Instr} (hd : decode w = .ok i) :
    i.check.types = true ∧ i.check.fields = true ∧ encode i = w := by
  unfold decode at hd
  split at hd
  · cases hd
  · rename_i j _
    split at hd
    · cases hd
    · rename_i htypes
      split at hd
      · rename_i hfields
        cases hd
        simp only [Bool.and_eq_true, beq_iff_eq] at hfields
        exact ⟨by simpa using htypes, hfields.1, hfields.2⟩
      · cases hd

/-- No word decodes to an event: an event has the encoding 0, which is NOP's. -/
theorem core_of_decode {w : Word} {i : Instr} (hd : decode w = .ok i) : i.check.core = true := by
  obtain ⟨-, -, hw⟩ := decode_eq_ok hd
  by_contra hcore
  rw [Bool.not_eq_true] at hcore
  rw [← hw, encode_of_not_core hcore, decode_zero] at hd
  cases hd
  cases hcore

/-- Opcode 0 reads as NOP, whose word is 0. -/
theorem decode_reserved_of_op_zero {w : Word} (hop : opOf w = 0) (hw : w ≠ 0) : decode w = .error .reserved := by
  have hread : readWord w = some .nop := by rw [readWord, hop]; rfl
  have hnop : encode .nop = 0 := rfl
  have hcheck : Instr.nop.check = ⟨true, true, true⟩ := rfl
  have henc : (0 == w) = false := beq_false_of_ne hw.symm
  simp only [decode, hread, hcheck, hnop, henc]
  rfl

theorem decode_illegal_of_no_format {w : Word} (hf : formatOf (opOf w).toNat = none) : decode w = .error .illegal := by
  simp [decode, readWord, hf]

/-- Settles O2. -/
theorem encodeDecode : Obligations.EncodeDecode := by
  unfold Obligations.EncodeDecode
  refine ⟨fun w i hd => ?_, by decide, fun w => decode_reserved_of_op_zero, fun w => decode_illegal_of_no_format⟩
  obtain ⟨htypes, hfields, hw⟩ := decode_eq_ok hd
  have hcore := core_of_decode hd
  exact ⟨by simp [Instr.wf, hcore, htypes, hfields], hw, hcore⟩

/-- Settles O3, by running the decoder on each word. -/
theorem decodeWords : Obligations.DecodeWords := by
  unfold Obligations.DecodeWords
  decide

end Sys2Proof.Proofs

/-! Local accesses that trap and segment descriptors (R147, R318, R322). -/

namespace Sys2Proof.Proofs
open Sys2Proof Sys2Proof.Machine Sys2Proof.Laws

/-! ## Issue with engine operations in flight (R138) -/

/-- What issue reads of a core that has engine operations in flight: all but those operations. -/
def withoutOps (c : Core) : Core := { c with ops := [], breads := [] }

theorem still_withoutOps {s : State} {h : Hdr} {refs : List RegRef} (hr : ReadyBusy s h refs) : Still (withoutOps (focused s)) where
  pending := hr.pending
  held := hr.held
  watch := hr.watch
  breakpoints := hr.breakpoints
  ops := rfl
  breads := rfl

/-- Registers that engine operations hold, fewer asked for: only x registers are held. -/
theorem engineHolds_of_subset {c : Core} {refs refs' : List RegRef} (hsub : ∀ n, .x n ∈ refs' → .x n ∈ refs)
    (hfree : engineHolds c refs = false) : engineHolds c refs' = false := by
  have hmono : ∀ n, refs.contains (.x n) = false → refs'.contains (.x n) = false := by
    intro n hn
    simp only [List.contains_eq_mem, decide_eq_false_iff_not] at hn ⊢
    exact fun hm => hn (hsub n hm)
  simp only [engineHolds, Bool.or_eq_false_iff, List.any_eq_false, Bool.and_eq_true, Bool.or_eq_true, not_or, not_and,
    Bool.not_eq_true] at hfree ⊢
  obtain ⟨hops, hbreads⟩ := hfree
  exact ⟨fun o ho => ⟨fun hx => hmono _ ((hops o ho).1 hx), fun hx => hmono _ ((hops o ho).2 hx)⟩,
    fun b hb hx => hmono _ (hbreads b hb hx)⟩

section
variable {op : Op} {s : State} {refs : List RegRef} (hr : ReadyBusy s op.h refs)
include hr

/-- The verdict of an instruction that names no register which an engine operation holds is that of its body. -/
theorem judge_busy (hsub : ∀ n, .x n ∈ op.reads ++ op.writes → .x n ∈ refs)
    (ha : Allowed op (focusEnv s op.word) (focused s)) :
    judge op (focusEnv s op.word) (focused s) = verdictOf op (focusEnv s op.word) (op.body (focusEnv s op.word) (focused s)) := by
  have hx : (focusEnv s op.word).ctx = .main := rfl
  have hz : ∀ cls rs, hazardsOf (focused s) .main cls rs = ⟨[], []⟩ := hazards_plain (c := withoutOps (focused s)) (still_withoutOps hr)
  have hw : ∀ e, windowTrap op (focusEnv s op.word) (focused s) e = none := fun e => by
    simp [windowTrap, hx, pendingOf_nil hr.pending]
  have hfree := engineHolds_of_subset hsub hr.free
  have hbody : judgeBody op (focusEnv s op.word) (focused s) =
      verdictOf op (focusEnv s op.word) (op.body (focusEnv s op.word) (focused s)) := by
    simp only [judgeBody, hx, hz, hfree, Env.isHandler, ha.noMain, ha.groups]
    simp only [List.isEmpty_nil, seenNew_nil, applyDests_nil, List.map_nil]
    simp [ha.dynRsv, ha.dynPriv, ha.gangBad, ha.detBad]
    cases op.body (focusEnv s op.word) (focused s) <;> simp only [verdictOf, hw]
  simp only [judge, ha.staticPriv, hx, hz, Env.isHandler]
  by_cases h0 : op.h.g = 0
  · simp [h0, hbody]
  · simp [guardHolds_of hx hr.guard h0, hbody]

/-- The issue of an instruction that names no register which an engine operation holds. -/
theorem issue_busy (hsub : ∀ n, .x n ∈ op.reads ++ op.writes → .x n ∈ refs)
    (ha : Allowed op (focusEnv s op.word) (focused s)) {o : Out} (hb : op.body (focusEnv s op.word) (focused s) = o) :
    issue op s = .next (applyVerdict { s with freeCtr := s.freeCtr + 1 } s.focus .main (focused s).pc
      (verdictOf op (focusEnv s op.word) o)) := by
  subst hb
  have hj := judge_busy hr hsub ha
  simp only [focused, focusEnv] at hj
  have hbd : boundary (coreAt s s.focus) .main = .clear := boundary_plain (c := withoutOps (focused s)) (still_withoutOps hr)
  have hg : (coreAt s s.focus).gang = none := hr.gang
  simp only [issue, hr.grid, hr.ctx, hg, hbd, hj, pcOf, focused, focusEnv]
  rfl

/-- An instruction that names no register which an engine operation holds traps where its body does. -/
theorem issue_busy_trap (hsub : ∀ n, .x n ∈ op.reads ++ op.writes → .x n ∈ refs)
    (ha : Allowed op (focusEnv s op.word) (focused s)) {code : BitVec 8} {v : Word}
    (hb : op.body (focusEnv s op.word) (focused s) = .trap code v) :
    issue op s = .next (trapped s code v) :=
  issue_busy hr hsub ha hb

end

section
variable {i : Instr} {h : Hdr} {cls : LaClass} {reads writes refs : List RegRef} {body : Env → Core → Out} {s : State}
  {code : BitVec 8} {v : Word} (hr : ReadyBusy s h refs) (hsub : ∀ n, .x n ∈ reads ++ writes → .x n ∈ refs)
include hr hsub

/-- An instruction of plain operands that names no register which an engine operation holds traps where its body does. -/
theorem issue_mkOp_busy_trap (hb : body (focusEnv s (encode i)) (focused s) = .trap code v) :
    issue (mkOp i h cls reads writes body) s = .next (trapped s code v) :=
  issue_busy_trap hr hsub allowed_mkOp hb

theorem issue_groups_busy_trap {gs : List (List RegRef)} (hg : anyClash gs = false)
    (hb : body (focusEnv s (encode i)) (focused s) = .trap code v) :
    issue { mkOp i h cls reads writes body with groups := gs } s = .next (trapped s code v) :=
  issue_busy_trap hr hsub (allowed_groups hg) hb

end

/-! ## Accesses that trap -/

theorem validSegments_isEmpty (c : Core) :
    (validSegments c).isEmpty = true ↔ ∀ i, i < 8 → (fget c.sys.seg i {}).valid = false := by
  simp [validSegments, List.isEmpty_iff, List.filterMap_eq_nil_iff]

theorem validSegments_any (c : Core) (a n : Nat) :
    ((validSegments c).any fun g => decide (g.1 ≤ a) && decide (a + n ≤ g.2)) = true ↔
      ∃ i, i < 8 ∧ (fget c.sys.seg i {}).valid = true ∧ 4096 * (fget c.sys.seg i {}).base.toNat ≤ a ∧
        a + n ≤ 4096 * ((fget c.sys.seg i {}).base.toNat + (fget c.sys.seg i {}).size.toNat) := by
  simp only [validSegments, List.any_eq_true, List.mem_filterMap, List.mem_range, Bool.and_eq_true, decide_eq_true_eq]
  constructor
  · rintro ⟨g, ⟨i, hi, hg⟩, hlo, hhi⟩
    split at hg
    · rename_i hv
      cases hg
      exact ⟨i, hi, hv, hlo, hhi⟩
    · cases hg
  · rintro ⟨i, hi, hv, hlo, hhi⟩
    exact ⟨_, ⟨i, hi, if_pos hv⟩, hlo, hhi⟩

theorem inCellar_eq_false (c : Core) (a n : Nat) :
    inCellar c a n = false ↔ ∀ b sz, c.cellar = some (b, sz) → rangesMeet a n b.toNat sz = false := by
  unfold inCellar
  split
  · rename_i b sz hc
    simp [hc]
  · rename_i hc
    simp [hc]

theorem boundOk_iff (c : Core) (a n : Nat) : boundOk c a n = true ↔ inBounds c a n := by
  simp only [boundOk, inBounds, Bool.and_eq_true, Bool.or_eq_true, decide_eq_true_eq, Bool.not_eq_true', validSegments_isEmpty,
    validSegments_any, inCellar_eq_false, and_assoc]

/-- The first address that breaks a rule is the one a search finds. -/
theorem find?_of_firstFails {ok : Nat → Prop} {p : Nat → Bool} {as : List Nat} {v : Nat} (hp : ∀ a, p a = true ↔ ¬ ok a)
    (h : firstFails ok as v) : as.find? p = some v := by
  obtain ⟨pre, post, rfl, hpre, hv⟩ := h
  rw [List.find?_append, List.find?_eq_none.mpr fun b hb hb' => (hp b).mp hb' (hpre b hb), Option.none_or,
    List.find?_cons_of_pos ((hp v).mpr hv)]

/-- No source range is met where no source operation's range is. -/
theorem sourceRanges_any (c : Core) (a n : Nat) :
    ((sourceRanges c).any fun r => rangesMeet a n r.1 r.2) = true ↔
      ¬ ∀ o, o ∈ c.ops → o.src = true → rangesMeet a n o.lo o.len = false := by
  simp only [sourceRanges, List.any_map, List.any_filter, List.any_eq_true, Function.comp, Bool.and_eq_true, not_forall,
    Bool.not_eq_false, exists_prop]
  constructor
  · rintro ⟨o, ho, ⟨hs, -⟩, hm⟩
    exact ⟨o, ho, hs, hm⟩
  · rintro ⟨o, ho, hs, hm⟩
    refine ⟨o, ho, ⟨hs, ?_⟩, hm⟩
    simp only [rangesMeet, Bool.and_eq_true] at hm
    exact hm.2

/-- The first rule broken, and the first address that breaks it (R318). -/
theorem checkAccess_of_accessTraps {c : Core} {kind : AccessKind} {al n : Nat} {as : List Nat} {code : BitVec 8} {v : Nat}
    (h : accessTraps c kind al n as code v) : checkAccess c kind al n as = some (.trap code (BitVec.ofNat 64 v)) := by
  have halign : ∀ a, (a % al != 0) = true ↔ ¬ a % al = 0 := fun a => by simp
  have hbound : ∀ a, (!boundOk c a n) = true ↔ ¬ inBounds c a n := fun a => by rw [← boundOk_iff]; simp
  unfold checkAccess
  rcases h with ⟨rfl, hf⟩ | ⟨haligned, ⟨rfl, hf⟩ | ⟨rfl, hstore, hpass, hf⟩⟩
  · rw [find?_of_firstFails halign hf]
  · rw [List.find?_eq_none.mpr fun a ha => by simp [haligned a ha], find?_of_firstFails hbound hf]
  · rw [List.find?_eq_none.mpr fun a ha => by simp [haligned a ha],
      List.find?_eq_none.mpr fun a ha hb => (hbound a).mp hb (hpass a ha).1,
      List.findSome?_eq_none_iff.mpr fun a ha => (hpass a ha).2]
    simp only [hstore, if_true, find?_of_firstFails (fun a => sourceRanges_any c a n) hf]

theorem withAccess_traps {c : Core} {kind : AccessKind} {al n : Nat} {as : List Nat} {code : BitVec 8} {v : Nat}
    (h : accessTraps c kind al n as code v) (k : Out) : withAccess c kind al n as k = .trap code (BitVec.ofNat 64 v) := by
  simp only [withAccess, checkAccess_of_accessTraps h]

/-- The registers of a mask are no x registers. -/
theorem not_mem_maskRefs (m : Mask) (v n : Nat) : ¬ .x n ∈ maskRefs m (.v v) := by
  unfold maskRefs
  split
  · simp
  · split <;> simp

theorem not_mem_storeMaskRefs (m : Mask) (n : Nat) : ¬ .x n ∈ storeMaskRefs m := by
  unfold storeMaskRefs
  split <;> simp

/-- Settles O16: every access goes through `checkAccess`, whose searches find the first address that breaks the first rule. -/
theorem misalignmentAndSegments : Obligations.MisalignmentAndSegments := by
  unfold Obligations.MisalignmentAndSegments
  refine ⟨boundOk_iff, fun h d m s code v => ⟨fun hr => ⟨fun sz ht => ?_, fun sz ht => ?_⟩, fun hr hclash => ⟨fun ht => ?_, fun ht => ?_⟩,
    fun hr r => ⟨fun ht => ?_, fun ht => ?_⟩⟩, fun h ty d a b e s code v hr _ ht => ⟨fun op => ?_, ?_⟩,
    fun h ty d off x y sc m s code v hr => ⟨fun ht => ?_, fun ht => ?_, fun ht => ?_, fun ht => ?_⟩,
    fun h n base size span s hr => ⟨fun hok => ?_, fun hbad => ?_, issue_mkOp_done hr rfl rfl rfl⟩⟩
  · exact issue_mkOp_busy_trap hr (fun _ hn => hn) (withAccess_traps ht _)
  · exact issue_mkOp_busy_trap hr (by simp; tauto) (withAccess_traps ht _)
  · exact issue_groups_busy_trap hr (fun _ hn => hn) hclash (withAccess_traps ht _)
  · exact issue_groups_busy_trap hr (by simp; tauto) hclash (withAccess_traps ht _)
  · exact issue_mkOp_busy_trap hr (by simp [vs]) (withAccess_traps ht _)
  · exact issue_mkOp_busy_trap hr (by simp [vs]) (withAccess_traps ht _)
  · exact issue_mkOp_busy_trap hr (by simp [xs]) (withAccess_traps ht _)
  · exact issue_mkOp_busy_trap hr (by simp [xs]) (withAccess_traps ht _)
  · exact issue_mkOp_busy_trap hr (by simp [xs, vs, not_mem_maskRefs]) (withAccess_traps ht _)
  · exact issue_mkOp_busy_trap hr (by simp [xs, vs, not_mem_storeMaskRefs]) (withAccess_traps ht _)
  · exact issue_mkOp_busy_trap hr (by simp [xs, vs, not_mem_maskRefs]) (withAccess_traps ht _)
  · exact issue_mkOp_busy_trap hr (by simp [xs, vs, not_mem_storeMaskRefs]) (withAccess_traps ht _)
  · exact issue_mkOp_done hr (if_pos hok) rfl rfl
  · exact exec_trap hr allowed_mkOp (if_neg (by simp [hbad]))

end Sys2Proof.Proofs

/-! Control flow at a ready core (R122, R292 to R297). -/

namespace Sys2Proof.Proofs
open Sys2Proof Sys2Proof.Machine Sys2Proof.Laws

/-! ## Branches and jumps -/

/-- The target of a branch is its address and eight times its offset. -/
theorem branchTarget_eq (s : State) (off : BitVec 32) : branchTarget (focused s).pc off = target s off := by
  have h8 : (off <<< 3).setWidth 16 = BitVec.ofInt 16 (8 * off.toInt) := by
    rw [BitVec.shiftLeft_eq_mul_twoPow, BitVec.setWidth_mul _ _ (by decide), BitVec.ofInt_mul, BitVec.mul_comm]
    congr 1
    apply BitVec.eq_of_toNat_eq
    simp only [BitVec.toNat_setWidth, BitVec.toNat_ofInt, BitVec.toInt_eq_toNat_cond]
    split <;> omega
  rw [branchTarget, target, h8, BitVec.ofInt_add]
  simp

theorem focusEnv_lead {s : State} (hg : (focused s).gang = none) (w : Word) : (focusEnv s w).lead = none := by
  have : (coreAt s s.focus).gang = none := hg
  simp [focusEnv, envOf, this]

theorem focusEnv_members {s : State} (hg : (focused s).gang = none) (w : Word) : (focusEnv s w).members = [focused s] := by
  have : (coreAt s s.focus).gang = none := hg
  simp [focusEnv, envOf, this, focused]

/-- Outside a gang a core decides its own branches. -/
theorem decider_focusEnv {s : State} (hg : (focused s).gang = none) (w : Word) : decider (focusEnv s w) (focused s) = focused s := by
  rw [decider, focusEnv_lead hg]; rfl

section
variable {i : Instr} {h : Hdr} {reads writes : List RegRef} {body : Env → Core → Out} {s : State}

/-- A ready instruction that jumps. -/
theorem issue_mkOp_jump {c : Core} {t : BitVec 16} (hr : Ready s h)
    (hb : body (focusEnv s (encode i)) (focused s) = .ok { core := c, jump := some t }) (hp : c.pending = (focused s).pending) :
    issue (mkOp i h .s reads writes body) s = .next (goTo s c t) :=
  exec_jump hr allowed_mkOp (.inl rfl) hb (hp.trans hr.plain.pending)

/-- A ready branch. -/
theorem issue_mkOp_branch {taken : Bool} {off : BitVec 32} (hr : Ready s h)
    (hb : body (focusEnv s (encode i)) (focused s) = branchIf (focused s) taken (branchTarget (focused s).pc off)) :
    issue (mkOp i h .s reads writes body) s =
      .next (if taken then goTo s (focused s) (target s off) else did s (focused s)) := by
  cases taken with
  | true => rw [branchTarget_eq] at hb; exact issue_mkOp_jump hr hb rfl
  | false => exact issue_mkOp_done hr hb rfl rfl

theorem issue_mkOp_trap {code : BitVec 8} {v : Word} {cls : LaClass} (hr : Ready s h)
    (hb : body (focusEnv s (encode i)) (focused s) = .trap code v) :
    issue (mkOp i h cls reads writes body) s = .next (trapped s code v) :=
  exec_trap hr allowed_mkOp hb

/-- A ready jump to a register value. -/
theorem issue_mkOp_jumpTo {v : Word} (hr : Ready s h) (hb : body (focusEnv s (encode i)) (focused s) = jumpTo (focused s) v) :
    issue (mkOp i h .s reads writes body) s = .next (
      if v.toNat % 8 ≠ 0 then trapped s eAlign v
      else if 65536 ≤ v.toNat then trapped s eBound v
      else goTo s (focused s) (v.setWidth 16)) := by
  unfold jumpTo at hb
  split at hb
  · rename_i hv
    rw [if_pos hv]; exact issue_mkOp_trap hr hb
  · rename_i hv
    rw [if_neg hv]
    split at hb
    · rename_i hw
      rw [if_pos hw]; exact issue_mkOp_trap hr hb
    · rename_i hw
      rw [if_neg hw]; exact issue_mkOp_jump hr hb rfl

end

theorem exec_nop {s : State} (hr : Ready s Hdr.plain) : exec .nop s = .next (did s (focused s)) :=
  exec_done (op := { h := Hdr.plain, word := 0, body := fun _ c => done c }) hr
    ⟨rfl, rfl, rfl, rfl, rfl, rfl, rfl⟩ (.inl rfl) rfl
    hr.plain.pending rfl

theorem exec_call {h : Hdr} {off : BitVec 32} {s : State} (hr : Ready s h) : exec (.call h off) s =
    .next (goTo s (writeX (focused s) .main 62 (((focused s).pc + 8).setWidth 64)) (target s off)) := by
  rw [← branchTarget_eq]
  refine (exec_short (e := {
    core := focused s
    dests := [.x 62 (((focused s).pc + 8).setWidth 64)]
    jump := some (branchTarget (focused s).pc off) }) hr allowed_mkOp (.inl rfl) rfl hr.plain.pending).trans ?_
  simp [applyDest, goTo]

/-- Settles O17. -/
theorem branchAndLoopResults : Obligations.BranchAndLoopResults := by
  unfold Obligations.BranchAndLoopResults
  refine ⟨fun h a b off s => ⟨exec_nop, fun hr => ?_⟩, fun h a s hr => ?_, fun h lc a off s hr => ?_⟩
  · have hd := fun w => decider_focusEnv hr.plain.gang (s := s) w
    refine ⟨?_, exec_call hr, fun cc => ⟨?_, fun all => ?_⟩, fun f => ⟨?_, ?_, ?_⟩⟩
    · exact issue_mkOp_branch (taken := true) hr rfl
    · exact issue_mkOp_branch hr (by simp only [hd]; rfl)
    · refine issue_mkOp_branch (taken := condHolds cc (xr s a) (xr s b)) hr ?_
      simp only [focusEnv_members hr.plain.gang]
      cases all <;> simp <;> rfl
    · exact (issue_mkOp_branch (taken := fr s f != 0) hr (by simp only [hd]; rfl)).trans (by simp)
    · exact (issue_mkOp_branch (taken := fr s f == 0xFFFF) hr (by simp only [hd]; rfl)).trans (by simp)
    · exact (issue_mkOp_branch (taken := fr s f == 0) hr (by simp only [hd]; rfl)).trans (by simp)
  · have hd := fun w => decider_focusEnv hr.plain.gang (s := s) w
    exact ⟨issue_mkOp_jumpTo hr (by simp only [hd]; rfl), issue_mkOp_jumpTo hr (by simp only [hd]; rfl)⟩
  · dsimp only
    rw [← branchTarget_eq]
    split
    · rename_i hz
      exact issue_mkOp_jump hr (if_pos hz) rfl
    · rename_i hz
      exact issue_mkOp_jump hr (if_neg hz) rfl

end Sys2Proof.Proofs

/-! The next address (R122, R295). -/

namespace Sys2Proof.Proofs
open Sys2Proof Sys2Proof.Machine Sys2Proof.Laws

/-! ## next(PC) -/

theorem readLc_writeLc_ne (c : Core) {n m : Nat} (l : LoopCtr) (h : m ≠ n) : readLc (writeLc c n l) m = readLc c m :=
  fget_fset_ne _ _ _ h

@[simp] theorem readLc_setPc (c : Core) (p : BitVec 16) (n : Nat) : readLc (setPc c .main p) n = readLc c n := rfl

@[simp] theorem readLc_going (c : Core) (n : Nat) : readLc (going c) n = readLc c n := rfl
@[simp] theorem setPc_main_pc (c : Core) (p : BitVec 16) : (setPc c .main p).pc = p := rfl
@[simp] theorem writeLc_regs_x (c : Core) (n : Nat) (l : LoopCtr) : (writeLc c n l).regs.x = c.regs.x := rfl
@[simp] theorem going_regs (c : Core) : (going c).regs = c.regs := rfl
@[simp] theorem going_sram (c : Core) : (going c).sram = c.sram := rfl
@[simp] theorem going_sys (c : Core) : (going c).sys = c.sys := rfl

/-- The counters and the PC that a task goes on with, by its two counters (R295). -/
theorem past_eq (c : Core) : past c =
    match loopStep (readLc c 1) c.pc with
    | some (l1, some t) => setPc (writeLc (going c) 1 l1) .main t
    | some (l1, none) =>
      match loopStep (readLc c 0) c.pc with
      | some (l0, some t) => setPc (writeLc (writeLc (going c) 1 l1) 0 l0) .main t
      | some (l0, none) => setPc (writeLc (writeLc (going c) 1 l1) 0 l0) .main (c.pc + 8)
      | none => setPc (writeLc (going c) 1 l1) .main (c.pc + 8)
    | none =>
      match loopStep (readLc c 0) c.pc with
      | some (l0, some t) => setPc (writeLc (going c) 0 l0) .main t
      | some (l0, none) => setPc (writeLc (going c) 0 l0) .main (c.pc + 8)
      | none => setPc (going c) .main (c.pc + 8) := by
  have h0 : ∀ l, readLc (writeLc (going c) 1 l) 0 = readLc c 0 := fun l => readLc_writeLc_ne _ _ (by decide)
  simp only [past, advance, nextPc, readLc_going]
  rcases loopStep (readLc c 1) c.pc with _ | ⟨l1, _ | t⟩ <;> simp only [readLc_going, h0] <;>
    rcases loopStep (readLc c 0) c.pc with _ | ⟨l0, _ | t⟩ <;> rfl

/-- What next(PC) makes of the PC and the counters, and that it changes nothing else of what a task sees. -/
theorem past_counters (c : Core) :
    let l1 := readLc c 1
    let l0 := readLc c 0
    ((past c).pc, readLc (past c) 1, readLc (past c) 0) =
      (if l1.count ≠ 0 ∧ c.pc = l1.stop ∧ 1 < l1.count.toNat then (l1.start, { l1 with count := l1.count - 1 }, l0)
       else
        let m1 := if l1.count ≠ 0 ∧ c.pc = l1.stop then { l1 with count := 0 } else l1
        if l0.count ≠ 0 ∧ c.pc = l0.stop then
          if 1 < l0.count.toNat then (l0.start, m1, { l0 with count := l0.count - 1 })
          else (c.pc + 8, m1, { l0 with count := 0 })
        else (c.pc + 8, m1, l0)) ∧
    (past c).regs.x = c.regs.x ∧ (past c).sram = c.sram ∧ (past c).sys = c.sys := by
  have h01 : ∀ d l, readLc (writeLc d 1 l) 0 = readLc d 0 := fun d l => readLc_writeLc_ne _ _ (by decide)
  have h10 : ∀ d l, readLc (writeLc d 0 l) 1 = readLc d 1 := fun d l => readLc_writeLc_ne _ _ (by decide)
  rw [past_eq]
  simp only [loopStep]
  by_cases hc1 : (readLc c 1).count ≠ 0 ∧ c.pc = (readLc c 1).stop
  · by_cases hn1 : 1 < (readLc c 1).count.toNat
    · simp only [if_pos hc1, if_pos hn1, if_pos (show _ ∧ _ ∧ _ from ⟨hc1.1, hc1.2, hn1⟩)]
      simp [h01]
    · simp only [if_pos hc1, if_neg hn1, if_neg (fun h : _ ∧ _ ∧ _ => hn1 h.2.2)]
      by_cases hc0 : (readLc c 0).count ≠ 0 ∧ c.pc = (readLc c 0).stop
      · by_cases hn0 : 1 < (readLc c 0).count.toNat
        · simp only [if_pos hc0, if_pos hn0]; simp [h10]
        · simp only [if_pos hc0, if_neg hn0]; simp [h10]
      · simp only [if_neg hc0]; simp [h01]
  · simp only [if_neg hc1, if_neg (fun h : _ ∧ _ ∧ _ => hc1 ⟨h.1, h.2.1⟩)]
    by_cases hc0 : (readLc c 0).count ≠ 0 ∧ c.pc = (readLc c 0).stop
    · by_cases hn0 : 1 < (readLc c 0).count.toNat
      · simp only [if_pos hc0, if_pos hn0]; simp [h10]
      · simp only [if_pos hc0, if_neg hn0]; simp [h10]
    · simp only [if_neg hc0]; simp

/-- Going on to next(A) writes nothing but the PC and the loop counters. -/
theorem advance_shape (c : Core) (a : BitVec 16) :
    ∃ lc p, advance c .main a = { c with pc := p, regs := { c.regs with lc := lc } } := by
  simp only [advance, nextPc]
  rcases loopStep (readLc c 1) a with _ | ⟨l1, _ | t⟩
  · dsimp only
    rcases loopStep (readLc c 0) a with _ | ⟨l0, _ | t⟩
    · exact ⟨c.regs.lc, _, rfl⟩
    · exact ⟨_, _, rfl⟩
    · exact ⟨_, _, rfl⟩
  · dsimp only
    rcases loopStep (readLc (writeLc c 1 l1) 0) a with _ | ⟨l0, _ | t⟩ <;> exact ⟨_, _, rfl⟩
  · exact ⟨_, _, rfl⟩

theorem past_shape (c : Core) : ∃ lc p, past c = { c with wait := .run, pc := p, regs := { c.regs with lc := lc } } :=
  advance_shape (going c) c.pc

theorem past_wait (c : Core) : (past c).wait = .run := by
  obtain ⟨lc, p, h⟩ := past_shape c
  rw [h]

/-! ## The issue of one core by its boundary -/

/-- Nothing stands before the issue of a core that issues by itself: its instruction is judged. -/
theorem issue_of_clear {op : Op} {s : State} {x : Ctx} (hgrid : inGrid s.focus = true) (hx : s.ctx = x)
    (hg : x = .main → (focused s).gang = none) (hb : boundary (focused s) x = .clear) :
    issue op s = .next (applyVerdict { s with freeCtr := s.freeCtr + 1 } s.focus x (pcOf (focused s) x)
      (judge op (envOf s s.focus x op.word 0) (focused s))) := by
  simp only [issue, hgrid]
  generalize ({ s with freeCtr := s.freeCtr + 1 } : State) = s'
  simp only [focused] at hg hb
  simp only [hx, focused]
  cases x with
  | main => simp only [hg rfl, hb]; rfl
  | handler k => cases (coreAt s s.focus).gang <;> simp only [hb] <;> rfl

/-- What stands before the issue of a core that issues by itself is taken. -/
theorem issue_of_boundary {op : Op} {s : State} {x : Ctx} {b : Boundary} (hgrid : inGrid s.focus = true) (hx : s.ctx = x)
    (hg : x = .main → (focused s).gang = none) (hb : boundary (focused s) x = b) (hne : b ≠ .clear) :
    issue op s = .next (takeBoundary { s with freeCtr := s.freeCtr + 1 } s.focus x b) := by
  simp only [issue, hgrid]
  generalize ({ s with freeCtr := s.freeCtr + 1 } : State) = s'
  simp only [focused] at hg hb
  simp only [hx]
  cases x with
  | main => simp only [hg rfl, hb]; rfl
  | handler k => cases (coreAt s s.focus).gang <;> simp only [hb] <;> rfl

/-! ## A guard that does not hold -/

section
variable {op : Op} {s : State} (hp : Plain (focused s)) (hguard : ¬ guardTrue op.h (focused s))
include hp hguard

/-- The verdict on an instruction whose guard is false: E_PRIV where its word breaks a rule of mode or permission, and nothing
else. -/
theorem judge_guardFalse : judge op (focusEnv s op.word) (focused s) =
    if op.staticPriv (focusEnv s op.word) (focused s) then .trap ePriv op.word
    else .done (past (focused s)) [] := by
  obtain ⟨hg0, hbit⟩ : op.h.g ≠ 0 ∧ (readFm (focused s) op.h.g.toNat).getLsbD 0 = op.h.gn := by
    simpa only [guardTrue, not_or, ne_eq, not_not] using hguard
  have hx : (focusEnv s op.word).ctx = .main := rfl
  have hz := hazards_plain hp.toStill
  have hfalse : guardHolds op (focusEnv s op.word) (focused s) [] = false := by
    simp only [guardHolds, seenNew_nil, applyDests_nil]
    simpa using hbit
  have hpass : passOver (focusEnv s op.word) (focused s) = .done (past (focused s)) [] := by
    have hc : countIssue { focused s with wait := .run } .main = going (focused s) := by
      simp [countIssue, going, hp.pending]
    simp only [passOver, hx, if_true, hc]
    rfl
  have hg1 : (op.h.g == 0) = false := by simpa using hg0
  simp only [judge, judgePriv, hx, hz, Env.isHandler, hfalse, hpass, hg1]
  simp

/-- The issue of an instruction whose guard is false. -/
theorem issue_guardFalse (hgrid : inGrid s.focus = true) (hctx : s.ctx = .main) : issue op s = .next (
    if op.staticPriv (focusEnv s op.word) (focused s) then trapped s ePriv op.word else did s (focused s)) := by
  rw [issue_of_clear hgrid hctx (fun _ => hp.gang) (boundary_plain hp.toStill)]
  refine congrArg Host.Outcome.next (Eq.trans (congrArg _ (judge_guardFalse hp hguard)) ?_)
  split <;> rfl

end

/-- The registers that WRSYS may write in user mode, listed. -/
theorem writeOpen_eq (n : BitVec 12) : writeOpen n.toNat = [0x008#12, 0x009#12, 0x00E#12, 0x00F#12, 0x010#12].contains n := by
  rw [Bool.eq_iff_iff]
  simp only [writeOpen, Bool.or_eq_true, Bool.and_eq_true, beq_iff_eq, decide_eq_true_eq, List.contains_eq_mem, List.mem_cons,
    List.not_mem_nil, or_false, ← BitVec.toNat_inj, BitVec.toNat_ofNat]
  omega

/-- Every well-formed instruction but GANG is the issue of an operation with its word and header, and with E_PRIV by its word as
`privByWord` has it. -/
theorem exec_eq_issue (i : Instr) (hw : i.wf = true) (hg : ∀ h b, i ≠ .gang h b) :
    ∃ op : Op, (∀ s, exec i s = issue op s) ∧ hdrOf (encode i) = op.h ∧ encode i = op.word ∧
      ∀ s, op.staticPriv (focusEnv s op.word) (focused s) = privByWord s i := by
  cases i
  case gang h b => exact absurd rfl (hg h b)
  case rdsys h d n =>
    refine ⟨_, fun _ => rfl, hdrOf_packWord _ _ _, rfl, fun s => ?_⟩
    simp only [privByWord, readPrivileged, Bool.decide_and]
  case wrsys h a n =>
    refine ⟨_, fun _ => rfl, hdrOf_packWord _ _ _, rfl, fun s => ?_⟩
    simp only [privByWord, writeOpen_eq]
  case vlogic h op ty d a b m => cases op <;> exact ⟨_, fun _ => rfl, hdrOf_packWord _ _ _, rfl, fun _ => rfl⟩
  case qbindIn h q cls =>
    refine ⟨_, fun _ => rfl, hdrOf_packWord _ _ _, rfl, fun s => ?_⟩
    have h24 : (cls.toNat == 24) = (cls == 24) := by
      rw [Bool.eq_iff_iff, beq_iff_eq, beq_iff_eq, ← BitVec.toNat_inj]; rfl
    simp only [privByWord, classReceivable, Bool.not_or, h24]
    rfl
  all_goals first
    | exact absurd hw Bool.false_ne_true
    | exact ⟨_, fun _ => rfl, hdrOf_packWord _ _ _, rfl, fun _ => rfl⟩

/-- GANG whose guard is false does no more than any other instruction: no core comes to wait at it. -/
theorem exec_gang_guardFalse {h : Hdr} {block : Bool} {s : State} (hgrid : inGrid s.focus = true) (hctx : s.ctx = .main)
    (hp : Plain (focused s)) (hguard : ¬ guardTrue h (focused s)) : exec (.gang h block) s = .next (did s (focused s)) := by
  change execGang h block s = _
  simp only [execGang]
  rw [issue_guardFalse hp hguard hgrid hctx]
  have hwait : (coreAt (did s (focused s)) s.focus).wait = .run :=
    (congrArg Core.wait (coreAt_setCore_self _ _ _)).trans (past_wait _)
  simp only [mkOp, Bool.false_eq_true, if_false]
  refine congrArg Host.Outcome.next (if_neg fun hc => ?_)
  have hgangs := of_decide_eq_true (Bool.and_eq_true_iff.mp hc).1
  cases hwait.symm.trans hgangs

/-- Settles O18: the counters are next(PC)'s by its definition; every instruction is an issue, whose guard is judged right after
E_PRIV by its word. -/
theorem nextAddress : Obligations.NextAddress := by
  unfold Obligations.NextAddress
  refine ⟨past_counters, fun i s hw hgrid hctx hp hguard => ?_⟩
  by_cases hgang : ∃ h b, i = .gang h b
  · obtain ⟨h, b, rfl⟩ := hgang
    have hh : hdrOf (encode (.gang h b)) = h := hdrOf_packWord _ _ _
    rw [hh] at hguard
    exact exec_gang_guardFalse hgrid hctx hp hguard
  · simp only [not_exists] at hgang
    obtain ⟨op, hexec, hh, hword, hpriv⟩ := exec_eq_issue i hw hgang
    rw [hh] at hguard
    rw [hexec, issue_guardFalse hp hguard hgrid hctx, hpriv, hword]

end Sys2Proof.Proofs

/-! Traps: their entry, what is held and deferred, a gang's, and the instructions that ask for one (R134, R141, R142, R297). -/

namespace Sys2Proof.Proofs
open Sys2Proof Sys2Proof.Machine Sys2Proof.Laws

/-! ## Writing one core twice -/

theorem fset_fset {α : Type} (m : FMap α) (k : Nat) (v w : α) : fset (fset m k v) k w = fset m k w := by
  induction m with
  | nil => simp [fset]
  | cons e m ih =>
    obtain ⟨j, u⟩ := e
    by_cases heq : j = k
    · simp [fset, heq]
    · by_cases hlt : k < j
      · simp [fset, heq, hlt]
      · simp [fset, heq, hlt, ih]

@[simp] theorem setCore_setCore (s : State) (k : Nat) (c d : Core) : setCore (setCore s k c) k d = setCore s k d := by
  simp only [setCore, fset_fset]

/-! ## Trap entry (R142) -/

/-- Nothing is written where nothing is pending. -/
theorem flushPending_nil {c : Core} (hp : c.pending = []) (x : Ctx) : flushPending c x = c := by
  simp only [flushPending, landAll_nil hp, pendingOf_nil hp]
  cases c; simp_all

theorem firstTrap_nil {c : Core} (hp : c.pending = []) (t : TrapInfo) (a : BitVec 16) : firstTrap c t a = t := by
  simp [firstTrap, pendingOf_nil hp]

/-- The bits of TRAPCAUSE (R125). -/
theorem trapCause_eq (t : TrapInfo) : trapCause t = BitVec.ofNat 64
    (65536 * t.fpc.toNat + 4096 * t.deferred.toNat + 512 * ((t.hctx.getD 0) % 8) + 256 * t.hctx.isSome.toNat + t.code.toNat) := by
  have happend : ∀ {v w : Nat} (x : BitVec v) (y : BitVec w), (x ++ y).toNat = x.toNat * 2 ^ w + y.toNat := by
    intro v w x y
    rw [BitVec.toNat_append, ← Nat.shiftLeft_add_eq_or_of_lt y.isLt, Nat.shiftLeft_eq]
  apply BitVec.eq_of_toNat_eq
  simp only [trapCause, happend, BitVec.toNat_ofBool, BitVec.toNat_ofNat]
  have := t.fpc.isLt
  have := t.code.isLt
  have := Bool.toNat_lt t.deferred
  have := Bool.toNat_lt t.hctx.isSome
  omega

/-- A core that has entered its vector, with TRAPCAUSE as a number. -/
theorem enterVector_eq (c : Core) (t : TrapInfo) {cause : Nat} (h : 65536 * t.fpc.toNat + 4096 * t.deferred.toNat +
    512 * ((t.hctx.getD 0) % 8) + 256 * t.hctx.isSome.toNat + t.code.toNat = cause) :
    enterVector c t = { c with
      wait := .run
      pc := BitVec.ofNat 16 (8 * c.sys.vec.toNat)
      sys := { c.sys with
        cause := BitVec.ofNat 64 cause
        trappc := t.ret
        trapval := t.val
        pmode := false
        mode := true } } := by
  have hvec : c.sys.vec ++ 0#3 = BitVec.ofNat 16 (8 * c.sys.vec.toNat) := by
    apply BitVec.eq_of_toNat_eq
    have := c.sys.vec.isLt
    rw [BitVec.toNat_append, ← Nat.shiftLeft_add_eq_or_of_lt (BitVec.isLt _), Nat.shiftLeft_eq]
    simp only [BitVec.toNat_ofNat]
    omega
  simp only [enterVector, trapCause_eq, h, hvec]

/-- A task in user mode with its vector enabled: what a trap entry leaves of a core. -/
structure Vectored (c : Core) : Prop where
  mode : c.sys.mode = false
  vecen : c.sys.vecen = true

theorem trapEntry_vectored {s : State} {k : Nat} (h : Vectored (coreAt s k)) (t : TrapInfo) :
    trapEntry s k t = setCore s k (enterVector (coreAt s k) t) := by
  simp [trapEntry, h.mode, h.vecen]

theorem applyDest_mode (x : Ctx) (c : Core) (d : DestVal) :
    (applyDest x c d).sys.mode = c.sys.mode ∧ (applyDest x c d).sys.vecen = c.sys.vecen := by
  cases d <;> simp [applyDest]

theorem applyDests_mode (x : Ctx) (c : Core) (ds : List DestVal) :
    (applyDests x c ds).sys.mode = c.sys.mode ∧ (applyDests x c ds).sys.vecen = c.sys.vecen :=
  List.foldlRecOn (motive := fun d : Core => d.sys.mode = c.sys.mode ∧ d.sys.vecen = c.sys.vecen) ds _ ⟨rfl, rfl⟩ fun d hd e _ =>
    ⟨(applyDest_mode x d e).1.trans hd.1, (applyDest_mode x d e).2.trans hd.2⟩

theorem landAll_mode (c : Core) : (landAll c).sys.mode = c.sys.mode ∧ (landAll c).sys.vecen = c.sys.vecen :=
  List.foldlRecOn (motive := fun d : Core => d.sys.mode = c.sys.mode ∧ d.sys.vecen = c.sys.vecen) _ _ ⟨rfl, rfl⟩ fun _ hd _ _ => hd

theorem flushPending_mode (c : Core) (x : Ctx) :
    (flushPending c x).sys.mode = c.sys.mode ∧ (flushPending c x).sys.vecen = c.sys.vecen :=
  List.foldlRecOn (motive := fun d : Core => d.sys.mode = c.sys.mode ∧ d.sys.vecen = c.sys.vecen) _ _ (landAll_mode c)
    fun d hd p _ => ⟨(applyDests_mode p.ctx d p.dests).1.trans hd.1, (applyDests_mode p.ctx d p.dests).2.trans hd.2⟩

theorem flushPending_vectored {c : Core} (h : Vectored c) (x : Ctx) : Vectored (flushPending c x) :=
  ⟨(flushPending_mode c x).1.trans h.mode, (flushPending_mode c x).2.trans h.vecen⟩

/-- A trap of a main context in user mode with its vector enabled: its results are written and it enters its vector, with the deferred
trap of its window where there is one. -/
theorem takeTrap_vectored {s : State} {k : Nat} (h : Vectored (coreAt s k)) (t : TrapInfo) (a : BitVec 16) :
    takeTrap s k t a = setCore s k (enterVector
      { flushPending (coreAt s k) .main with
        held := if (firstTrap (coreAt s k) t a).hctx.isSome then none else (flushPending (coreAt s k) .main).held }
      (firstTrap (coreAt s k) t a)) := by
  have hv : ∀ (x : Option HeldTrap), Vectored { flushPending (coreAt s k) .main with held := x } := fun x =>
    ⟨(flushPending_vectored h .main).mode, (flushPending_vectored h .main).vecen⟩
  simp only [takeTrap]
  rw [trapEntry_vectored (by rw [coreAt_setCore_self]; exact hv _), coreAt_setCore_self, setCore_setCore]

/-- With nothing pending and no handler's trap it is the trap given. -/
theorem takeTrap_plain {s : State} {k : Nat} {t : TrapInfo} (h : Vectored (coreAt s k)) (hp : (coreAt s k).pending = [])
    (ht : t.hctx = none) (a : BitVec 16) : takeTrap s k t a = setCore s k (enterVector (coreAt s k) t) := by
  rw [takeTrap_vectored h, firstTrap_nil hp, flushPending_nil hp, ht]
  rfl

theorem contextTrap_alone {s : State} {k : Nat} (hg : (coreAt s k).gang = none) (t : TrapInfo) (a : BitVec 16) :
    contextTrap s k .main t a = takeTrap s k t a := by
  simp only [contextTrap, hg]

/-- A trap of a plain core in user mode with its vector enabled. -/
theorem trapped_vectored {s : State} (hp : Plain (focused s)) (h : Vectored (focused s)) (code : BitVec 8) (val : Word) :
    trapped s code val = withFocus s (enterVector (focused s) ⟨code, val, (focused s).pc, (focused s).pc, none, false⟩) := by
  refine (contextTrap_alone (s := { s with freeCtr := s.freeCtr + 1 }) hp.gang _ _).trans ?_
  exact takeTrap_plain (s := { s with freeCtr := s.freeCtr + 1 }) h hp.pending rfl _

/-- A trap of a plain core that has no vector to go to is fatal to its region. -/
theorem trapped_fatal {s : State} (hp : Plain (focused s)) (h : (focused s).sys.mode = true ∨ (focused s).sys.vecen = false)
    (code : BitVec 8) (val : Word) : trapped s code val = coreRegionFault (withFocus s (focused s)) s.focus 5 := by
  have hbad : ((focused s).sys.mode || !(focused s).sys.vecen) = true := by simpa using h
  refine (contextTrap_alone (s := { s with freeCtr := s.freeCtr + 1 }) hp.gang _ _).trans ?_
  have hpend : (coreAt { s with freeCtr := s.freeCtr + 1 } s.focus).pending = [] := hp.pending
  simp only [takeTrap]
  rw [flushPending_nil hpend, firstTrap_nil hpend]
  simp only [trapEntry, coreAt_setCore_self]
  exact if_pos hbad

/-! ## Traps of handler contexts (R141) -/

theorem placeBursts_nil {c : Core} (hb : c.bursts = []) (n : Nat) : placeBursts c n = c := by
  cases n with
  | zero => rfl
  | succ n => simp [placeBursts, hb]

/-- A trap of a handler context with nothing pending and no burst waiting: the context ends, and the trap is held unless one is. -/
theorem handlerTrap_eq {c d : Core} (hp : c.pending = []) (hb : c.bursts = []) {k : Nat}
    (hd : burstHandled (setHandler c k { handlerAt c k with busy := false }) (handlerAt c k).tag true = d) (code : BitVec 8) (val : Word) :
    handlerTrap c k code val = { d with held := if c.held.isSome then c.held else some ⟨code, val, k, (handlerAt c k).pc⟩ } := by
  subst hd
  have hbursts : ∀ d : Core, d.bursts = [] → ∀ tag a, (burstHandled d tag a).bursts = [] := by
    intro d hd tag a
    unfold burstHandled
    split
    · exact hd
    · exact hd
  have hheld : ∀ d : Core, ∀ tag a, (burstHandled d tag a).held = d.held := by
    intro d tag a
    unfold burstHandled
    split <;> rfl
  have hend : endHandler c k true =
      burstHandled (setHandler c k { handlerAt c k with busy := false }) (handlerAt c k).tag true := by
    simp only [endHandler, flushPending_nil hp]
    exact placeBursts_nil (hbursts (setHandler c k _) hb _ _) _
  simp only [handlerTrap, hend, hheld, setHandler_held]

/-- The bulk read that a handler context serves counts its burst, and ends with code 6 unless it has one. -/
theorem burstHandled_none {c : Core} {tag : Nat} (h : ffind c.breads tag = none) (abort : Bool) : burstHandled c tag abort = c := by
  simp only [burstHandled, h]

theorem burstHandled_some {c : Core} {tag : Nat} {b : Bread} (h : ffind c.breads tag = some b) : burstHandled c tag true =
    { c with breads := fset c.breads tag { b with handled := b.handled + 1, code := if b.code = 0 then 6 else b.code } } := by
  simp only [burstHandled, h, Bool.true_and, beq_iff_eq]

/-! ## Issue in a handler context (R130, R142) -/

/-- No breakpoint matches where none is enabled. -/
theorem breakpointAt_none {c : Core} (h : ∀ n, n < 4 → (fget c.sys.dbgpc n 0).getLsbD 0 = false) (x : Ctx) (a : BitVec 16) :
    breakpointAt c x a = none := by
  simp only [breakpointAt, Option.map_eq_none_iff, List.find?_eq_none, List.mem_range]
  intro n hn
  unfold bpMatches
  rw [h n hn]
  simp

theorem boundary_readyIn {s : State} {h : Hdr} {k : Nat} (hr : ReadyIn s h k) : boundary (focused s) (.handler k) = .clear := by
  simp [boundary, heldBoundary, pendingOf_nil hr.pending, hr.watch, breakpointAt_none hr.breakpoints]

theorem hazards_readyIn {s : State} {h : Hdr} {k : Nat} (hr : ReadyIn s h k) (cls : LaClass) (refs : List RegRef) :
    hazardsOf (focused s) (.handler k) cls refs = ⟨[], []⟩ := by
  simp [hazardsOf, pendingOf_nil hr.pending]

section
variable {op : Op} {s : State} {k : Nat} (hr : ReadyIn s op.h k)
include hr

/-- The issue of an instruction in a handler context, by its verdict. -/
theorem issue_readyIn {v : Verdict} (hj : judge op (envOf s s.focus (.handler k) op.word 0) (focused s) = v) :
    issue op s = .next (applyVerdict { s with freeCtr := s.freeCtr + 1 } s.focus (.handler k) (handlerAt (focused s) k).pc v) := by
  rw [issue_of_clear hr.grid hr.ctx (fun h => nomatch h) (boundary_readyIn hr), hj]
  rfl

/-- An instruction that a handler context may not execute traps with E_HANDLER. -/
theorem judge_noHandler (hpriv : op.staticPriv (envOf s s.focus (.handler k) op.word 0) (focused s) = false)
    (hrsv : op.dynRsv (envOf s s.focus (.handler k) op.word 0) (focused s) = false)
    (hdyn : op.dynPriv (envOf s s.focus (.handler k) op.word 0) (focused s) = false) (hno : op.noHandler = true) :
    judge op (envOf s s.focus (.handler k) op.word 0) (focused s) = .trap eHandler op.word := by
  have hx : (envOf s s.focus (.handler k) op.word 0).ctx = .handler k := rfl
  simp only [judge, judgeBody, hpriv, hx, hazards_readyIn hr, Env.isHandler, hno, seenNew_nil, applyDests_nil, hrsv, hdyn]
  simp

omit hr in
/-- An instruction whose word breaks a rule of mode or permission traps with E_PRIV. -/
theorem judge_privIn (hpriv : op.staticPriv (envOf s s.focus (.handler k) op.word 0) (focused s) = true)
    (hrsv : op.rsvReads = []) :
    judge op (envOf s s.focus (.handler k) op.word 0) (focused s) = .trap ePriv op.word := by
  simp only [judge, judgePriv, hpriv, hrsv]
  simp

end

/-- A word that is no instruction traps in a handler context. -/
theorem exec_illegalIn {s : State} {k : Nat} (hr : ReadyIn s Hdr.plain k) (w : Word) :
    exec (.undefinedInstruction w .illegal) s = .next (contextTrap { s with freeCtr := s.freeCtr + 1 } s.focus (.handler k)
      ⟨eIllegal, w, (handlerAt (focused s) k).pc, (handlerAt (focused s) k).pc, none, false⟩ (handlerAt (focused s) k).pc) := by
  refine issue_readyIn (op := { h := Hdr.plain, word := w, body := fun _ _ => .trap eIllegal w }) (v := .trap eIllegal w) hr ?_
  have hx : (envOf s s.focus (.handler k) w 0).ctx = .handler k := rfl
  simp only [judge, judgeBody, hx, hazards_readyIn hr, Env.isHandler]
  simp [anyClash, hr.guard]

theorem exec_rettIn {h : Hdr} {s : State} {k : Nat} (hr : ReadyIn s h k) :
    exec (.rett h) s = .next (contextTrap { s with freeCtr := s.freeCtr + 1 } s.focus (.handler k)
      ⟨if (focused s).sys.mode then eHandler else ePriv, encode (.rett h), (handlerAt (focused s) k).pc,
        (handlerAt (focused s) k).pc, none, false⟩ (handlerAt (focused s) k).pc) := by
  refine issue_readyIn (op := { mkOp (.rett h) h .s [] [] (fun _ c => .ok { core := trapReturn c, stays := true }) with
    staticPriv := fun _ c => !c.sys.mode, noHandler := true, gangBad := fun _ c => c.gang.isSome })
    (v := .trap (if (focused s).sys.mode then eHandler else ePriv) (encode (.rett h))) hr ?_
  cases hm : (focused s).sys.mode with
  | true => exact judge_noHandler hr (by simp [hm]) rfl rfl rfl
  | false => exact judge_privIn (by simp [hm]) rfl

/-! ## What is held for a core, and deferred traps (R136, R141) -/

/-- The trap of a context with a deferred trap in its window is that one, its results written. -/
theorem takeTrap_deferred {s : State} {k : Nat} (hv : Vectored (coreAt s k)) {p : Pending} {l : LateTrap}
    (hfind : (pendingOf (coreAt s k) .main).find? (·.late.isSome) = some p) (hl : p.late = some l) (t : TrapInfo) (a : BitVec 16) :
    takeTrap s k t a = setCore s k (enterVector (flushPending (coreAt s k) .main) ⟨l.code, l.val, p.fpc, a, none, true⟩) := by
  have hfirst : firstTrap (coreAt s k) t a = ⟨l.code, l.val, p.fpc, a, none, true⟩ := by
    simp only [firstTrap, hfind, hl]
  rw [takeTrap_vectored hv, hfirst]
  rfl

/-- A boundary that traps, of a core in no gang: the trap is taken, the match of a watchpoint before it where it consumes one. -/
theorem issue_boundary_trap {op : Op} {s : State} {t : TrapInfo} (hgrid : inGrid s.focus = true) (hctx : s.ctx = .main)
    (hg : (focused s).gang = none) (hb : boundary (focused s) .main = .trap t) (hdrop : dropWatch (focused s) .main = focused s) :
    issue op s = .next (takeTrap (withFocus s (focused s)) s.focus t (focused s).pc) := by
  rw [issue_of_boundary hgrid hctx (fun _ => hg) hb (by simp)]
  have hself : modCore { s with freeCtr := s.freeCtr + 1 } s.focus (fun c => dropWatch c .main) = withFocus s (focused s) :=
    congrArg (setCore _ _) hdrop
  have hcore : coreAt (withFocus s (focused s)) s.focus = focused s := coreAt_setCore_self _ _ _
  simp only [takeBoundary, hself, applyBoundary, hcore, pcOf]
  rw [contextTrap_alone (by rw [hcore]; exact hg)]

/-- GANG that meets a boundary which enters the vector does what any other instruction does. -/
theorem exec_of_issue_running {i : Instr} {s t : State} (hw : i.wf = true) (hi : ∀ op : Op, issue op s = .next t)
    (hrun : (coreAt t t.focus).wait = .run) : exec i s = .next t := by
  by_cases hgang : ∃ h b, i = .gang h b
  · obtain ⟨h, b, rfl⟩ := hgang
    change execGang h b s = _
    simp only [execGang, hi]
    rw [if_neg]
    intro hc
    have hgangs := of_decide_eq_true (Bool.and_eq_true_iff.mp hc).1
    cases hrun.symm.trans hgangs
  · simp only [not_exists] at hgang
    obtain ⟨op, hexec, -⟩ := exec_eq_issue i hw hgang
    rw [hexec, hi]

section
variable {s : State} (hgrid : inGrid s.focus = true) (hctx : s.ctx = .main) (hg : (focused s).gang = none)
  (hv : Vectored (focused s))
include hgrid hctx hg hv

/-- A trap held for the main context is taken before its next issue, whatever stands there. -/
theorem exec_held {i : Instr} (hw : i.wf = true) {t : HeldTrap} (ht : (focused s).held = some t) (hp : (focused s).pending = [])
    (hbp : ∀ n, n < 4 → (fget (focused s).sys.dbgpc n 0).getLsbD 0 = false) :
    exec i s = .next (withFocus s (enterVector { focused s with held := none }
      ⟨t.code, t.val, t.fpc, (focused s).pc, some t.hctx, false⟩)) := by
  have hb : boundary (focused s) .main = .trap ⟨t.code, t.val, t.fpc, (focused s).pc, some t.hctx, false⟩ := by
    simp [boundary, heldBoundary, pendingOf_nil hp, ht, breakpointAt_none hbp, pcOf]
  have hdrop : dropWatch (focused s) .main = focused s := by simp [dropWatch, ht]
  have hcore : coreAt (withFocus s (focused s)) s.focus = focused s := coreAt_setCore_self _ _ _
  refine exec_of_issue_running hw (fun op => (issue_boundary_trap hgrid hctx hg hb hdrop).trans ?_) ?_
  · rw [takeTrap_vectored (by rw [hcore]; exact hv), hcore, firstTrap_nil hp, flushPending_nil hp]
    simp [withFocus]
  · exact congrArg Core.wait (coreAt_setCore_self _ _ _)

/-- A deferred trap whose window is over is taken before the next issue, whatever stands there. -/
theorem exec_deferred {i : Instr} (hw : i.wf = true) {p : Pending} {l : LateTrap}
    (hfind : (pendingOf (focused s) .main).find? (·.late.isSome) = some p) (hl : p.late = some l)
    (hover : p.whole = true ∨ p.left = 0) :
    exec i s = .next (withFocus s (enterVector (flushPending (focused s) .main) ⟨l.code, l.val, p.fpc, (focused s).pc, none, true⟩)) := by
  obtain ⟨hlate, pre, post, hsplit, hpre⟩ := List.find?_eq_some_iff_append.mp hfind
  have hfind' : (pendingOf (focused s) .main).find? (fun p => p.late.isSome && (p.whole || p.left == 0)) = some p := by
    refine List.find?_eq_some_iff_append.mpr ⟨by simpa [hlate] using hover, pre, post, hsplit, fun q hq => ?_⟩
    have := hpre q hq
    simp_all
  have hmem : p ∈ pendingOf (focused s) .main := List.mem_of_find?_eq_some hfind
  have hb : boundary (focused s) .main = .trap ⟨l.code, l.val, p.fpc, (focused s).pc, none, true⟩ := by
    simp only [boundary, hfind', hl, pcOf]
  have hdrop : dropWatch (focused s) .main = focused s := by
    refine if_pos ?_
    rw [Bool.or_eq_true, List.any_eq_true]
    refine .inr ⟨p, hmem, ?_⟩
    rcases hover with h | h <;> simp [h, hlate]
  refine exec_of_issue_running hw (fun op => (issue_boundary_trap hgrid hctx hg hb hdrop).trans ?_) ?_
  · have hcore : coreAt (withFocus s (focused s)) s.focus = focused s := coreAt_setCore_self _ _ _
    rw [takeTrap_deferred (by rw [hcore]; exact hv) (by rw [hcore]; exact hfind) hl, hcore]
    exact congrArg Host.Outcome.next (setCore_setCore _ _ _ _)
  · exact congrArg Core.wait (coreAt_setCore_self _ _ _)

end

/-! ## A trap in a member of a gang (R134) -/

/-- A pass over cores, each step of which changes the core it names and no other. -/
theorem coreAt_foldl_step {α : Type} {key : α → Nat} {step : State → α → State} {f : α → Core → Core} {P : Core → Prop}
    (vs : List α)
    (hstep : ∀ s v, v ∈ vs → P (coreAt s (key v)) → ∀ j, coreAt (step s v) j = if j = key v then f v (coreAt s j) else coreAt s j)
    (hnd : (vs.map key).Nodup) (s : State) (hP : ∀ v, v ∈ vs → P (coreAt s (key v))) :
    (∀ v, v ∈ vs → coreAt (vs.foldl step s) (key v) = f v (coreAt s (key v))) ∧
    ∀ j, j ∉ vs.map key → coreAt (vs.foldl step s) j = coreAt s j := by
  induction vs generalizing s with
  | nil => simp
  | cons v vs ih =>
    obtain ⟨hv, hnd⟩ := List.nodup_cons.mp hnd
    have hfirst := hstep s v List.mem_cons_self (hP v List.mem_cons_self)
    have hne : ∀ w, w ∈ vs → key w ≠ key v := fun w hw h => hv (h ▸ List.mem_map_of_mem hw)
    have hsame : ∀ w, w ∈ vs → coreAt (step s v) (key w) = coreAt s (key w) := fun w hw => by rw [hfirst, if_neg (hne w hw)]
    obtain ⟨hin, hout⟩ := ih (fun s w hw => hstep s w (List.mem_cons_of_mem _ hw)) hnd (step s v) fun w hw => by rw [hsame w hw]; exact hP w (List.mem_cons_of_mem _ hw)
    refine ⟨fun w hw => ?_, fun j hj => ?_⟩
    · rcases List.mem_cons.mp hw with rfl | hw
      · exact (hout _ hv).trans (by rw [hfirst, if_pos rfl])
      · exact (hin w hw).trans (by rw [hsame w hw])
    · simp only [List.map_cons, List.mem_cons, not_or] at hj
      exact (hout j hj.2).trans (by rw [hfirst, if_neg hj.1])

theorem coreAt_modCore (s : State) (k : Nat) (f : Core → Core) (j : Nat) :
    coreAt (modCore s k f) j = if j = k then f (coreAt s j) else coreAt s j := by
  split
  · next h => subst h; exact coreAt_setCore_self _ _ _
  · next h => exact coreAt_setCore_ne _ _ h

/-- Each core that a pass names is changed once. -/
theorem coreAt_foldl_modCore_mem (f : Core → Core) {ks : List Nat} (hnd : ks.Nodup) (s : State) {k : Nat} (hk : k ∈ ks) :
    coreAt (ks.foldl (fun s k => modCore s k f) s) k = f (coreAt s k) :=
  (coreAt_foldl_step (key := id) (f := fun _ => f) (P := fun _ => True) ks (fun s k _ _ j => coreAt_modCore s k f j)
    (by simpa using hnd) s fun _ _ => trivial).1 k hk

/-- A member of a gang that issues: at its leader's PC. -/
def atLeader (a : BitVec 16) (c : Core) : Core := { c with pc := a, lastIssue := 0 }

theorem takeTrap_member {s : State} {k : Nat} {t : TrapInfo} (h : Vectored (coreAt s k) ∧ (coreAt s k).pending = []) (ht : t.hctx = none)
    (a : BitVec 16) (j : Nat) :
    coreAt (takeTrap s k t a) j = if j = k then enterVector (coreAt s j) t else coreAt s j := by
  rw [takeTrap_plain h.1 h.2 ht]
  exact coreAt_modCore s k (fun c => enterVector c t) j

/-- The traps of a gang's members, each at its own core: the gang is gone, and every member without a trap of its own takes
E_GANG. -/
theorem coreAt_gangTraps {s : State} {ks : List Nat} {a : BitVec 16} {vs : List (Nat × Verdict)} (hkeys : vs.map (·.1) = ks)
    (hnd : ks.Nodup) (hs : ∀ k, k ∈ ks → Vectored (coreAt s k) ∧ (coreAt s k).pending = []) {info : Nat → TrapInfo}
    (hvs : ∀ v, v ∈ vs → (∃ code val, v.2 = .trap code val ∧ info v.1 = ⟨code, val, a, a, none, false⟩) ∨
      (v.2.isTrap = false ∧ info v.1 = ⟨eGang, 0, a, a, none, false⟩)) {k : Nat} (hk : k ∈ ks) :
    coreAt (vs.foldl (fun s v => if v.2.isTrap then applyVerdict s v.1 .main a v.2
      else takeTrap s v.1 ⟨eGang, 0, a, a, none, false⟩ a) (ks.foldl (fun s k => modCore s k leaveGang) s)) k =
      enterVector { coreAt s k with gang := none } (info k) := by
  have hleft : ∀ k, k ∈ ks → coreAt (ks.foldl (fun s k => modCore s k leaveGang) s) k = { coreAt s k with gang := none } :=
    fun k hk => coreAt_foldl_modCore_mem leaveGang hnd s hk
  have hmem : ∀ v, v ∈ vs → v.1 ∈ ks := fun v hv => hkeys ▸ List.mem_map_of_mem hv
  have hpass := coreAt_foldl_step (key := (·.1)) (f := fun v c => enterVector c (info v.1))
    (P := fun c => (Vectored c ∧ c.pending = []) ∧ c.gang = none)
    (step := fun s v => if v.2.isTrap then applyVerdict s v.1 .main a v.2 else takeTrap s v.1 ⟨eGang, 0, a, a, none, false⟩ a) vs
    (fun t v hv hP j => ?_) (by rw [hkeys]; exact hnd) (ks.foldl (fun s k => modCore s k leaveGang) s)
    (fun v hv => by
      rw [hleft v.1 (hmem v hv)]
      obtain ⟨hvec, hp⟩ := hs v.1 (hmem v hv)
      exact ⟨⟨⟨hvec.mode, hvec.vecen⟩, hp⟩, rfl⟩)
  · obtain ⟨v, hv, rfl⟩ := List.mem_map.mp (hkeys ▸ hk)
    rw [hpass.1 v hv, hleft v.1 hk]
  · obtain ⟨hc, hg⟩ := hP
    rcases hvs v hv with ⟨code, val, hver, hi⟩ | ⟨hver, hi⟩
    · simp only [hver, hi, Verdict.isTrap, if_true, applyVerdict]
      rw [contextTrap_alone hg]
      exact takeTrap_member hc rfl a j
    · simp only [hver, hi]
      exact takeTrap_member hc rfl a j

/-- A gang with nothing before its issue issues as one. -/
theorem issue_gang {op : Op} {s : State} {g : GangSt} (hgrid : inGrid s.focus = true) (hctx : s.ctx = .main)
    (hg : (focused s).gang = some g) (hb : ∀ k, k ∈ gangKeys g → boundary (coreAt s k) .main = .clear) :
    issue op s = .next (issueGang op { s with freeCtr := s.freeCtr + 1 } g) := by
  have hall : ((gangKeys g).all fun k => decide (boundary (coreAt s k) .main = .clear)) = true :=
    List.all_eq_true.mpr fun k hk => decide_eq_true (hb k hk)
  simp only [issue, hgrid]
  generalize ({ s with freeCtr := s.freeCtr + 1 } : State) = s'
  simp only [focused] at hg
  simp only [hctx, hg, hall]
  rfl

/-- A gang of which some member traps and the others do not. -/
theorem issueGang_traps {op : Op} {s : State} {g : GangSt} (hnd : (gangKeys g).Nodup)
    (hs : ∀ k, k ∈ gangKeys g → Vectored (coreAt s k) ∧ (coreAt s k).pending = [])
    {a : BitVec 16} (ha : (coreAt s (keyOf g.row g.col)).pc = a) {bad : Nat → Prop} [DecidablePred bad] {code : BitVec 8} {val : Nat → Word}
    (htrap : ∀ t k n, k ∈ gangKeys g → coreAt t k = atLeader a (coreAt s k) → bad k →
      judge op (envOf t k .main op.word n) (coreAt t k) = .trap code (val k))
    (hdone : ∀ t k n, k ∈ gangKeys g → coreAt t k = atLeader a (coreAt s k) → ¬ bad k →
      (judge op (envOf t k .main op.word n) (coreAt t k)).isTrap = false)
    (hbad : ∃ k, k ∈ gangKeys g ∧ bad k) {k : Nat} (hk : k ∈ gangKeys g) :
    coreAt (issueGang op s g) k = enterVector { coreAt s k with gang := none, pc := a, lastIssue := 0 }
      (if bad k then ⟨code, val k, a, a, none, false⟩ else ⟨eGang, 0, a, a, none, false⟩) := by
  subst ha
  unfold issueGang
  extract_lets ks a s1 vs
  have hs1 : ∀ j, j ∈ ks → coreAt s1 j = atLeader a (coreAt s j) := fun j hj => coreAt_foldl_modCore_mem (atLeader a) hnd s hj
  have hkeys : vs.map (·.1) = ks := by
    simp only [vs, List.map_map, Function.comp_def]
    exact List.zipIdx_map_fst _ _
  have hverdict : ∀ v, v ∈ vs → v.1 ∈ ks ∧ (bad v.1 → v.2 = .trap code (val v.1)) ∧ (¬ bad v.1 → v.2.isTrap = false) := by
    intro v hv
    obtain ⟨⟨j, n⟩, hj, rfl⟩ := List.mem_map.mp hv
    have hmem : j ∈ ks := List.fst_mem_of_mem_zipIdx hj
    exact ⟨hmem, htrap s1 j n hmem (hs1 j hmem), hdone s1 j n hmem (hs1 j hmem)⟩
  obtain ⟨j, hj, hjbad⟩ := hbad
  obtain ⟨v, hv, rfl⟩ := List.mem_map.mp (show j ∈ vs.map (·.1) by rw [hkeys]; exact hj)
  have hvtrap := (hverdict v hv).2.1 hjbad
  rw [if_neg, if_pos]
  · rw [coreAt_gangTraps hkeys hnd (fun j hj => by rw [hs1 j hj]; exact ⟨⟨(hs j hj).1.mode, (hs j hj).1.vecen⟩, (hs j hj).2⟩)
      (info := fun j => if bad j then ⟨code, val j, a, a, none, false⟩ else ⟨eGang, 0, a, a, none, false⟩) ?_ hk, hs1 k hk]
    · rfl
    · intro w hw
      obtain ⟨-, hwt, hwd⟩ := hverdict w hw
      by_cases hb : bad w.1
      · exact .inl ⟨code, val w.1, hwt hb, if_pos hb⟩
      · exact .inr ⟨hwd hb, if_neg hb⟩
  · exact List.any_eq_true.mpr ⟨v, hv, by rw [hvtrap]; rfl⟩
  · intro hall
    have := List.all_eq_true.mp hall v hv
    rw [hvtrap] at this
    cases this

theorem checkAccess_atLeader (a : BitVec 16) (c : Core) (kind : AccessKind) (al n : Nat) (as : List Nat) :
    checkAccess (atLeader a c) kind al n as = checkAccess c kind al n as := rfl

theorem effAddr_atLeader (s t : State) (k n : Nat) (w : Word) (a : BitVec 16) (m : MemOp) :
    (effAddr (envOf t k .main w n) (atLeader a (coreAt s k)) m).toNat = memAddr { s with focus := k } m := rfl

/-- A misaligned access of some members of a gang: each of them takes its own trap and every other one E_GANG. -/
theorem exec_ld_gang {h : Hdr} {sz : MemSize} {d : Reg} {m : MemOp} {s : State} {g : GangSt} (hgrid : inGrid s.focus = true)
    (hctx : s.ctx = .main) (hg : (focused s).gang = some g) (hnd : (gangKeys g).Nodup)
    (hm : ∀ k, k ∈ gangKeys g → Still (coreAt s k) ∧ guardTrue h (coreAt s k) ∧ Vectored (coreAt s k))
    (hok : ∀ k, k ∈ gangKeys g → memAddr { s with focus := k } m % memBytes sz = 0 →
      checkAccess (coreAt s k) loads (memBytes sz) (memBytes sz) [memAddr { s with focus := k } m] = none)
    (hbad : ∃ k, k ∈ gangKeys g ∧ memAddr { s with focus := k } m % memBytes sz ≠ 0) :
    let a := (coreAt s (keyOf g.row g.col)).pc
    goesOn (exec (.ld h sz d m) s) fun t => ∀ k, k ∈ gangKeys g →
      coreAt t k = enterVector { coreAt s k with gang := none, pc := a, lastIssue := 0 }
        (if memAddr { s with focus := k } m % memBytes sz ≠ 0 then
          ⟨eAlign, BitVec.ofNat 64 (memAddr { s with focus := k } m), a, a, none, false⟩
        else ⟨eGang, 0, a, a, none, false⟩) := by
  intro a
  refine ⟨_, issue_gang hgrid hctx hg fun k hk => boundary_plain (hm k hk).1, fun k hk => ?_⟩
  have hstill : ∀ t j, j ∈ gangKeys g → coreAt t j = atLeader a (coreAt s j) → Still (coreAt t j) ∧ guardTrue h (coreAt t j) := by
    intro t j hj ht
    obtain ⟨hst, hgd, -⟩ := hm j hj
    rw [ht]
    exact ⟨⟨hst.pending, hst.held, hst.watch, hst.breakpoints, hst.ops, hst.breads⟩, hgd⟩
  have haddr : ∀ t j w n, coreAt t j = atLeader a (coreAt s j) →
      (effAddr (envOf t j .main w n) (coreAt t j) m).toNat = memAddr { s with focus := j } m := by
    intro t j w n ht
    rw [ht, effAddr_atLeader]
  refine issueGang_traps (s := { s with freeCtr := s.freeCtr + 1 }) (bad := fun j => memAddr { s with focus := j } m % memBytes sz ≠ 0)
    (code := eAlign) (val := fun j => BitVec.ofNat 64 (memAddr { s with focus := j } m)) hnd (fun j hj => ⟨(hm j hj).2.2, (hm j hj).1.pending⟩) rfl ?_ ?_ hbad hk
  · intro t j n hj ht hmis
    obtain ⟨hst, hgd⟩ := hstill t j hj ht
    have hacc : accessTraps (coreAt t j) loads (memBytes sz) (memBytes sz) [memAddr { s with focus := j } m] eAlign
        (memAddr { s with focus := j } m) := .inl ⟨rfl, [], [], rfl, by simp, hmis⟩
    refine (judge_plain hst rfl hgd allowed_mkOp).trans ?_
    simp only [mkOp, haddr t j _ n ht]
    rw [withAccess_traps hacc]
    rfl
  · intro t j n hj ht hal
    obtain ⟨hst, hgd⟩ := hstill t j hj ht
    have hchk : checkAccess (coreAt t j) loads (memBytes sz) (memBytes sz) [memAddr { s with focus := j } m] = none := by
      rw [ht, checkAccess_atLeader]; exact hok j hj (not_not.mp hal)
    refine (congrArg Verdict.isTrap (judge_plain hst rfl hgd allowed_mkOp)).trans ?_
    simp only [mkOp, haddr t j _ n ht]
    rw [withAccess_ok hchk]
    rfl

/-- Settles O19. -/
theorem trapEntry : Obligations.TrapEntry := by
  unfold Obligations.TrapEntry
  refine ⟨fun s code val hp hm hv => ?_, fun s code val hp h => trapped_fatal hp h code val, fun s k t a hp hb => ⟨?_, ?_⟩,
    fun h s k w hr => ⟨exec_illegalIn hr w, exec_rettIn⟩, fun i s hw hgrid hctx hg hm hv => ⟨?_, ?_⟩,
    fun h sz d m s g hgrid hctx hg hnd hms => ?_⟩
  · rw [trapped_vectored hp ⟨hm, hv⟩]
    exact congrArg _ (enterVector_eq _ _ (by simp))
  · exact fun hnone => congrArg (setCore s s.focus) (handlerTrap_eq hp hb (burstHandled_none (c := setHandler (focused s) k _) hnone true) _ _)
  · exact fun b hsome => congrArg (setCore s s.focus) (handlerTrap_eq hp hb (burstHandled_some hsome) _ _)
  · intro t ht hp hbp hk
    rw [exec_held hgrid hctx hg ⟨hm, hv⟩ hw ht hp hbp, enterVector_eq _ _ rfl]
    simp [Nat.mod_eq_of_lt hk]
  · intro p l hfind hl
    have hentry := enterVector_eq (flushPending (focused s) .main) ⟨l.code, l.val, p.fpc, (focused s).pc, none, true⟩
      (cause := 65536 * p.fpc.toNat + 4096 + l.code.toNat) (by simp)
    refine ⟨fun hover => ?_, fun t => ?_⟩
    · rw [exec_deferred hgrid hctx hg ⟨hm, hv⟩ hw hfind hl hover]
      exact congrArg (fun c => Host.Outcome.next (withFocus s c)) hentry
    · refine congrArg Host.Outcome.next ((contextTrap_alone (s := { s with freeCtr := s.freeCtr + 1 }) hg t _).trans ?_)
      exact (takeTrap_deferred (s := { s with freeCtr := s.freeCtr + 1 }) ⟨hm, hv⟩ hfind hl t _).trans (congrArg (withFocus s) hentry)
  · intro n addr a hok hbad
    exact exec_ld_gang hgrid hctx hg hnd (fun k hk => ⟨(hms k hk).1, (hms k hk).2.1, (hms k hk).2.2.1, (hms k hk).2.2.2⟩) hok hbad

end Sys2Proof.Proofs

/-! Traps on request, RETT, system registers and the narrowing of handles (R124 to R126, R297, R324 to R329). -/

namespace Sys2Proof.Proofs
open Sys2Proof Sys2Proof.Machine Sys2Proof.Laws

/-! ## TRAP, BRK, undefined words and RETT -/

/-- next(PC) and the counters it leaves: nothing else of the core. -/
theorem nextPc_shape (c : Core) (a : BitVec 16) : ∃ lc, (nextPc c .main a).1 = { c with regs := { c.regs with lc := lc } } := by
  simp only [nextPc]
  rcases loopStep (readLc c 1) a with _ | ⟨l1, _ | t⟩
  · dsimp only
    rcases loopStep (readLc c 0) a with _ | ⟨l0, _ | t⟩
    · exact ⟨c.regs.lc, rfl⟩
    · exact ⟨_, rfl⟩
    · exact ⟨_, rfl⟩
  · dsimp only
    rcases loopStep (readLc (writeLc c 1 l1) 0) a with _ | ⟨l0, _ | t⟩ <;> exact ⟨_, rfl⟩
  · exact ⟨_, rfl⟩

theorem countIssue_nil {c : Core} (hp : c.pending = []) (x : Ctx) : countIssue c x = c := by
  cases c; simp_all [countIssue]

/-- A ready instruction that asks for a trap after itself. -/
theorem issue_mkOp_request {i : Instr} {h : Hdr} {cls : LaClass} {reads writes : List RegRef} {body : Env → Core → Out} {s : State}
    {code : BitVec 8} {v : Word} (hr : Ready s h) (hv : Vectored (focused s))
    (hb : body (focusEnv s (encode i)) (focused s) = .request code v) :
    issue (mkOp i h cls reads writes body) s =
      .next (withFocus s (enterVector (nextPc (focused s) .main (focused s).pc).1
        ⟨code, v, (focused s).pc, (nextPc (focused s) .main (focused s).pc).2, none, false⟩)) := by
  have hp := hr.plain.pending
  have hn : (nextPc (focused s) .main (focused s).pc).1.pending = [] ∧ (nextPc (focused s) .main (focused s).pc).1.gang = none ∧
      Vectored (nextPc (focused s) .main (focused s).pc).1 := by
    obtain ⟨lc, hn⟩ := nextPc_shape (focused s) (focused s).pc
    rw [hn]
    exact ⟨hp, hr.plain.gang, hv.mode, hv.vecen⟩
  obtain ⟨hnp, hng, hnv⟩ := hn
  rw [issue_ready hr allowed_mkOp]
  refine congrArg Host.Outcome.next ((congrArg (fun o => applyVerdict _ _ _ _ (verdictOf _ _ o)) hb).trans ?_)
  simp only [verdictOf, applyVerdict]
  rw [if_neg (by simp [pendingOf_nil (c := coreAt { s with freeCtr := s.freeCtr + 1 } s.focus) hp])]
  change contextTrap (setCore _ s.focus (countIssue (nextPc (focused s) .main (focused s).pc).1 .main)) _ _ _ _ = _
  rw [countIssue_nil hnp, contextTrap_alone (by rw [coreAt_setCore_self]; exact hng),
    takeTrap_plain (by rw [coreAt_setCore_self]; exact hnv) (by rw [coreAt_setCore_self]; exact hnp) rfl, coreAt_setCore_self,
    setCore_setCore]
  rfl

/-- A ready instruction whose word breaks a rule of mode or permission, none of whose registers' values breaks a rule before it. -/
theorem issue_priv {op : Op} {s : State} (hr : Ready s op.h) (hpriv : op.staticPriv (focusEnv s op.word) (focused s) = true)
    {code : BitVec 8}
    (hcode : (if op.rsvReads.isEmpty then ePriv else if op.dynRsv (focusEnv s op.word) (focused s) then eRsv else ePriv) = code) :
    issue op s = .next (trapped s code op.word) := by
  have hx : (focusEnv s op.word).ctx = .main := rfl
  have hj : judge op (focusEnv s op.word) (focused s) = .trap code op.word := by
    simp only [judge, judgePriv, hpriv, hx, hazards_plain hr.plain.toStill, engineHolds_plain hr.plain.toStill, Env.isHandler, ← hcode]
    by_cases hg : op.h.g = 0
    · by_cases he : op.rsvReads = [] <;> simp [hg, he]
    · have hgd : guardHolds op (focusEnv s op.word) (focused s) [] = true := guardHolds_of hx hr.guard hg
      by_cases he : op.rsvReads = [] <;> simp [he, hgd]
  rw [issue_of_clear hr.grid hr.ctx (fun _ => hr.plain.gang) (boundary_plain hr.plain.toStill)]
  exact congrArg (fun v => Host.Outcome.next (applyVerdict _ _ _ _ v)) hj

theorem exec_undefined {s : State} (hr : Ready s Hdr.plain) (w : Word) :
    exec (.undefinedInstruction w .illegal) s = .next (trapped s eIllegal w) ∧
    exec (.undefinedInstruction w .reserved) s = .next (trapped s eRsv w) :=
  ⟨exec_trap (op := { h := Hdr.plain, word := w, body := fun _ _ => .trap eIllegal w }) hr ⟨rfl, rfl, rfl, rfl, rfl, rfl, rfl⟩ rfl,
    exec_trap (op := { h := Hdr.plain, word := w, body := fun _ _ => .trap eRsv w }) hr ⟨rfl, rfl, rfl, rfl, rfl, rfl, rfl⟩ rfl⟩

/-- A ready short instruction that sets its PC itself. -/
theorem exec_stays {op : Op} {s : State} {c : Core} (hr : Ready s op.h) (ha : Allowed op (focusEnv s op.word) (focused s))
    (hc : op.cls = .s ∨ op.cls = .b) (hb : op.body (focusEnv s op.word) (focused s) = .ok { core := c, stays := true })
    (hp : c.pending = []) : issue op s = .next (withFocus s (going c)) := by
  rw [exec_short hr ha (by tauto) hb hp]
  simp

/-- RETT at issue. -/
def rettOp (h : Hdr) : Op :=
  { mkOp (.rett h) h .s [] [] (fun _ c => .ok { core := trapReturn c, stays := true }) with
    staticPriv := fun _ c => !c.sys.mode, noHandler := true, gangBad := fun _ c => c.gang.isSome }

theorem exec_rett_eq (h : Hdr) (s : State) : exec (.rett h) s = issue (rettOp h) s := rfl

/-- RETT in system mode. -/
theorem exec_rett {h : Hdr} {s : State} (hr : Ready s h) (hm : (focused s).sys.mode = true) :
    exec (.rett h) s = .next (goTo s { focused s with sys := { (focused s).sys with mode := (focused s).sys.pmode } }
      (focused s).sys.trappc) :=
  exec_stays (op := rettOp h) hr ⟨by simp [rettOp, hm], rfl, rfl, rfl, by simp [rettOp, hr.plain.gang], rfl, rfl⟩ (.inl rfl) rfl
    hr.plain.pending

/-- Settles O20. -/
theorem requestedTrapsAndReturn : Obligations.RequestedTrapsAndReturn := by
  unfold Obligations.RequestedTrapsAndReturn
  refine ⟨fun h imm k s hr hm hv => ⟨issue_mkOp_request hr ⟨hm, hv⟩ rfl, issue_mkOp_request hr ⟨hm, hv⟩ rfl, exec_undefined⟩,
    fun h s hr => ⟨exec_rett hr, fun hm => ?_⟩⟩
  exact issue_priv (op := rettOp h) hr (by simp [rettOp, hm]) rfl

/-- A ready short instruction that changes its core and writes one x register. -/
theorem exec_wx_core {op : Op} {s : State} {c : Core} {d : Reg} {v : Word} (hr : Ready s op.h)
    (ha : Allowed op (focusEnv s op.word) (focused s)) (hc : op.cls = .s)
    (hb : op.body (focusEnv s op.word) (focused s) = wx c d v) (hp : c.pending = []) (hpc : c.pc = (focused s).pc) :
    issue op s = .next (did s (writeX c .main d.toNat v)) := by
  rw [exec_short hr ha (.inl hc) hb hp]
  simp [applyDest, did, past, hpc]

/-! ## RDSYS and CAPNAR (R116 to R119, R324, R329) -/

/-- RDSYS at issue. -/
def rdsysOp (h : Hdr) (d : Reg) (n : BitVec 12) : Op :=
  { mkOp (.rdsys h d n) h .s [] (xs [d]) (fun env c =>
      afterResults n.toNat env c (
        let v := readSys c env.cycle n.toNat
        let c := if n = 0x011 then { c with sys := { c.sys with ecccnt := 0 } } else c
        wx c d v)) with
    staticPriv := fun _ c => !c.sys.mode && readPrivileged n.toNat }

section
variable {h : Hdr} {d : Reg} {n : BitVec 12} {s : State} (hr : Ready s h)
include hr

/-- RDSYS of a register that the mode may read. -/
theorem exec_rdsys (hallowed : (focused s).sys.mode = true ∨ ¬ (0x012 ≤ n.toNat ∧ n.toNat ≤ 0x015)) :
    exec (.rdsys h d n) s = .next (did s (writeX
      (if n = 0x011 then { focused s with sys := { (focused s).sys with ecccnt := 0 } } else focused s) .main d.toNat
      (readSys (focused s) s.cycle n.toNat))) := by
  have hpriv : (!(focused s).sys.mode && readPrivileged n.toNat) = false := by
    simp only [readPrivileged, ← Bool.decide_and]
    rcases hallowed with hm | hn
    · rw [hm]; rfl
    · rw [decide_eq_false hn, Bool.and_false]
  have hframe : (if n = 0x011 then { focused s with sys := { (focused s).sys with ecccnt := 0 } } else focused s).pending = [] ∧
      (if n = 0x011 then { focused s with sys := { (focused s).sys with ecccnt := 0 } } else focused s).pc = (focused s).pc := by
    split <;> exact ⟨hr.plain.pending, rfl⟩
  exact exec_wx_core (op := rdsysOp h d n) hr ⟨hpriv, rfl, rfl, rfl, rfl, rfl, rfl⟩ rfl
    (afterResults_of_no_pending hr.plain.pending _ _ _) hframe.1 hframe.2

theorem exec_rdsys_priv (hm : (focused s).sys.mode = false) (hn : 0x012 ≤ n.toNat ∧ n.toNat ≤ 0x015) :
    exec (.rdsys h d n) s = .next (trapped s ePriv (encode (.rdsys h d n))) := by
  have hpriv : (!(focused s).sys.mode && readPrivileged n.toNat) = true := by
    simp only [readPrivileged, ← Bool.decide_and, hm, decide_eq_true hn]
    rfl
  exact issue_priv (op := rdsysOp h d n) hr hpriv rfl

end

theorem exec_capnar {h : Hdr} {d a b : Reg} {s : State} (hr : Ready s h) : exec (.capnar h d a b) s = .next (
    match narrow s.dev.sealKey (xr s a) (xr s b) with
    | some v => didX s d v
    | none => trapped s eSeal (xr s a)) := by
  cases hn : narrow s.dev.sealKey (xr s a) (xr s b) with
  | some v => exact issue_mkOp_wx hr (show (match narrow s.dev.sealKey (xr s a) (xr s b) with
      | some v => wx (focused s) d v | none => .trap eSeal (xr s a)) = _ by rw [hn])
  | none => exact issue_mkOp_trap hr (show (match narrow s.dev.sealKey (xr s a) (xr s b) with
      | some v => wx (focused s) d v | none => .trap eSeal (xr s a)) = _ by rw [hn])

/-- What a narrowed handle keeps of the old one and of the operand. -/
theorem narrow_eq_some {key : Nat} {x n v : Word} (h : narrow key x n = some v) :
    sealOk key x = true ∧ n.extractLsb' 36 4 &&& ~~~ x.extractLsb' 36 4 = 0 ∧
      v = (n.extractLsb' 36 28 ++ x.extractLsb' 24 12 : BitVec 40) ++ Config.sealOf key (n.extractLsb' 36 28 ++ x.extractLsb' 24 12) := by
  unfold narrow at h
  dsimp only at h
  split at h
  · cases h
  · next hseal =>
    split at h
    · cases h
    · split at h
      · cases h
      · split at h
        · cases h
        · next hrights => exact ⟨by simpa using hseal, by simpa using hrights, (Option.some.inj h).symm⟩

/-- The fields of a handle made with its seal. -/
theorem sealed_fields (key : Nat) (top : BitVec 40) : sealOk key (top ++ Config.sealOf key top) = true ∧
    (top ++ Config.sealOf key top).extractLsb' 24 12 = top.extractLsb' 0 12 ∧
    (top ++ Config.sealOf key top).extractLsb' 36 4 = top.extractLsb' 12 4 := by
  simp (disch := decide) [sealOk, extractLsb'_high, extractLsb'_low]

/-- The two low bits of a number of flags. -/
theorem getLsbD_two_flags (a b : Bool) (r : Nat) : (BitVec.ofNat 64 (bitN a + 2 * bitN b + 4 * r)).getLsbD 0 = a ∧
    (BitVec.ofNat 64 (bitN a + 2 * bitN b + 4 * r)).getLsbD 1 = b := by
  rw [BitVec.getLsbD_ofNat, BitVec.getLsbD_ofNat, Nat.testBit_zero, Nat.testBit_succ, Nat.testBit_zero]
  cases a <;> cases b <;> simp [bitN] <;> omega

/-- The mode bits of STATUS. -/
theorem statusWord_modes (c : Core) : (statusWord c).getLsbD 0 = c.sys.mode ∧ (statusWord c).getLsbD 1 = c.sys.pmode := by
  have h : ∃ r, statusWord c = BitVec.ofNat 64 (bitN c.sys.mode + 2 * bitN c.sys.pmode + 4 * r) :=
    ⟨bitN c.gang.isSome + 2 * bitN (match c.gang with | some g => g.leader | none => false) +
      4 * bitN (match c.gang with | some g => g.block | none => false) + 8 * bitN c.sys.idle, by
        unfold statusWord
        cases c.gang <;> (congr 1; dsimp only; ring)⟩
  obtain ⟨r, hr⟩ := h
  rw [hr]
  exact getLsbD_two_flags _ _ r

/-- Settles O21. -/
theorem systemRegisterReads : Obligations.SystemRegisterReads := by
  unfold Obligations.SystemRegisterReads
  refine ⟨fun h d n s hr => ⟨fun hm hn => ?_, ?_, exec_rdsys_priv hr, rfl, ?_, ?_⟩, fun h d a b s hr => ⟨fun v hv => ⟨?_, ?_, ?_, ?_⟩, ?_, ?_⟩⟩
  · rw [exec_rdsys hr hm, if_neg hn]; rfl
  · rw [exec_rdsys hr (.inr (by decide)), if_pos rfl]; rfl
  · exact (statusWord_modes _).1
  · exact (statusWord_modes _).2
  · rw [exec_capnar hr, hv]
  · obtain ⟨-, -, rfl⟩ := narrow_eq_some hv
    exact (sealed_fields _ _).1
  · obtain ⟨-, -, rfl⟩ := narrow_eq_some hv
    refine (sealed_fields _ _).2.1.trans ?_
    simp (disch := decide) [extractLsb'_low]
  · obtain ⟨-, hrights, rfl⟩ := narrow_eq_some hv
    have : (xr s b).extractLsb' 36 4 = ((xr s b).extractLsb' 36 28 ++ (xr s a).extractLsb' 24 12 : BitVec 40).extractLsb' 12 4 := by
      rw [extractLsb'_high _ _ (by decide)]
      apply BitVec.eq_of_getLsbD_eq
      intro i hi
      simp [hi, show i < 28 by omega]
    rw [this] at hrights
    rw [(sealed_fields _ _).2.2]
    exact hrights
  · intro hn
    rw [exec_capnar hr, hn]
  · intro hseal
    simp [narrow, hseal]

end Sys2Proof.Proofs

/-! Writing system registers (R124 to R126, R325, R326). -/

namespace Sys2Proof.Proofs
open Sys2Proof Sys2Proof.Machine Sys2Proof.Laws

/-! ## Rules that stand before an instruction's effect (R142) -/

/-- The code of the first rule of an instruction's entry, beside those of its word, that a task breaks. -/
def brokenRule (op : Op) (env : Env) (c : Core) : Option (BitVec 8) :=
  if op.dynRsv env c then some eRsv
  else if op.dynPriv env c then some ePriv
  else if op.noMain then some eHandler
  else if op.gangBad env c then some eGang
  else if op.detBad env c then some eDet
  else if anyClash op.groups then some eOverlap
  else none

/-- A ready instruction that breaks a rule of its entry traps with its word. -/
theorem issue_broken {op : Op} {s : State} {code : BitVec 8} (hr : Ready s op.h)
    (hpriv : op.staticPriv (focusEnv s op.word) (focused s) = false)
    (hb : brokenRule op (focusEnv s op.word) (focused s) = some code) : issue op s = .next (trapped s code op.word) := by
  have hx : (focusEnv s op.word).ctx = .main := rfl
  have hbody : judgeBody op (focusEnv s op.word) (focused s) = .trap code op.word := by
    simp only [judgeBody, hx, hazards_plain hr.plain.toStill, engineHolds_plain hr.plain.toStill, Env.isHandler, seenNew_nil,
      applyDests_nil]
    simp only [brokenRule] at hb
    split at hb
    · simp_all
    · split at hb
      · simp_all
      · split at hb
        · simp_all
        · split at hb
          · simp_all
          · split at hb
            · simp_all
            · split at hb
              · simp_all
              · cases hb
  have hj : judge op (focusEnv s op.word) (focused s) = .trap code op.word := by
    simp only [judge, hpriv, hx, hazards_plain hr.plain.toStill, Env.isHandler]
    by_cases hg : op.h.g = 0
    · simp [hg, hbody]
    · simp [hbody, guardHolds_of hx hr.guard hg]
  rw [issue_of_clear hr.grid hr.ctx (fun _ => hr.plain.gang) (boundary_plain hr.plain.toStill)]
  exact congrArg (fun v => Host.Outcome.next (applyVerdict _ _ _ _ v)) hj

/-! ## WRSYS -/

/-- WRSYS at issue. -/
def wrsysOp (h : Hdr) (a : Reg) (n : BitVec 12) : Op :=
  { mkOp (.wrsys h a n) h .s (xs [a]) [] (fun env c =>
      afterResults n.toNat env c (
        match writeSys c n.toNat (env.x c a) env.word with
        | .ok c => done c
        | .trap code v => .trap code v)) with
    staticPriv := fun _ c => !c.sys.mode && !writeOpen n.toNat, noHandler := true,
    detBad := fun env c => decide (n = 0x009) && c.sys.det && !(env.x c a).getLsbD 0,
    rsvReads := if 0x020 ≤ n.toNat ∧ n.toNat ≤ 0x027 then xs [a] else [],
    dynRsv := fun env c => decide (0x020 ≤ n.toNat) && decide (n.toNat ≤ 0x027) && (env.x c a).extractLsb' 32 3 == 7 }

theorem exec_wrsys_eq (h : Hdr) (a : Reg) (n : BitVec 12) (s : State) : exec (.wrsys h a n) s = issue (wrsysOp h a n) s := rfl

section
variable {h : Hdr} {a : Reg} {n : BitVec 12} {s : State} (hr : Ready s h)
include hr

/-- A register with no rule of its own, in a mode that may write it. -/
theorem exec_wrsys_ok {c : Core} (hpriv : (focused s).sys.mode = true ∨ writeOpen n.toNat = true)
    (hspan : ¬ (0x020 ≤ n.toNat ∧ n.toNat ≤ 0x027)) (hdet : n ≠ 0x009 ∨ (focused s).sys.det = false ∨ (xr s a).getLsbD 0 = true)
    (hw : writeSys (focused s) n.toNat (xr s a) (encode (.wrsys h a n)) = .ok c) (hp : c.pending = (focused s).pending)
    (hpc : c.pc = (focused s).pc) : exec (.wrsys h a n) s = .next (did s c) := by
  have hpriv' : (!(focused s).sys.mode && !writeOpen n.toNat) = false := by
    rcases hpriv with h | h <;> simp [h]
  have hrsv : (decide (0x020 ≤ n.toNat) && decide (n.toNat ≤ 0x027) && (xr s a).extractLsb' 32 3 == 7) = false := by
    rw [← Bool.decide_and, decide_eq_false hspan, Bool.false_and]
  have hfree : (decide (n = 0x009) && (focused s).sys.det && !(xr s a).getLsbD 0) = false := by
    rcases hdet with h | h | h
    · rw [decide_eq_false h]; rfl
    · rw [h, Bool.and_false]; rfl
    · rw [h, Bool.not_true, Bool.and_false]
  exact exec_done (op := wrsysOp h a n) hr ⟨hpriv', hrsv, rfl, rfl, rfl, hfree, rfl⟩ (.inl rfl)
    ((afterResults_of_no_pending hr.plain.pending _ _ _).trans (congrArg sysWriteOut hw)) (hp.trans hr.plain.pending) hpc

/-- The reserved code of SPAN traps with E_RSV in either mode. -/
theorem exec_wrsys_rsv (hn : 0x020 ≤ n.toNat ∧ n.toNat ≤ 0x027) (hv : (xr s a).extractLsb' 32 3 = 7) :
    exec (.wrsys h a n) s = .next (trapped s eRsv (encode (.wrsys h a n))) := by
  have hrsv : (wrsysOp h a n).dynRsv (focusEnv s (wrsysOp h a n).word) (focused s) = true := by
    change (decide (0x020 ≤ n.toNat) && decide (n.toNat ≤ 0x027) && (xr s a).extractLsb' 32 3 == 7) = true
    rw [hv, decide_eq_true hn.1, decide_eq_true hn.2]; rfl
  have hreads : (wrsysOp h a n).rsvReads = xs [a] := if_pos hn
  cases hpriv : (wrsysOp h a n).staticPriv (focusEnv s (wrsysOp h a n).word) (focused s) with
  | true => exact issue_priv (op := wrsysOp h a n) hr hpriv (by rw [hrsv, hreads]; rfl)
  | false => exact issue_broken (op := wrsysOp h a n) hr hpriv (if_pos hrsv)

/-- 0 for HAZMODE in a deterministic region. -/
theorem exec_wrsys_det (hd : (focused s).sys.det = true) (hv : (xr s a).getLsbD 0 = false) :
    exec (.wrsys h a 0x009) s = .next (trapped s eDet (encode (.wrsys h a 0x009))) := by
  have hdet : (wrsysOp h a 0x009).detBad (focusEnv s (wrsysOp h a 0x009).word) (focused s) = true := by
    change (decide ((0x009 : BitVec 12) = 0x009) && (focused s).sys.det && !(xr s a).getLsbD 0) = true
    rw [hd, hv]; rfl
  refine issue_broken (op := wrsysOp h a 0x009) hr (by simp [wrsysOp, writeOpen]) ?_
  rw [brokenRule, if_neg (by simp [wrsysOp]), if_neg (by simp [wrsysOp, mkOp]), if_neg (by simp [wrsysOp, mkOp]),
    if_neg (by simp [wrsysOp, mkOp]), if_pos hdet]

/-- A register that user mode may not write. -/
theorem exec_wrsys_priv (hm : (focused s).sys.mode = false) (hn : writeOpen n.toNat = false)
    (hspan : 0x020 ≤ n.toNat → n.toNat ≤ 0x027 → (xr s a).extractLsb' 32 3 ≠ 7) :
    exec (.wrsys h a n) s = .next (trapped s ePriv (encode (.wrsys h a n))) := by
  refine issue_priv (op := wrsysOp h a n) hr (by simp [wrsysOp, hm, hn]) ?_
  have hrsv : (wrsysOp h a n).dynRsv (focusEnv s (wrsysOp h a n).word) (focused s) = false := by
    by_contra hbad
    simp only [wrsysOp, Bool.not_eq_false, Bool.and_eq_true, decide_eq_true_eq, beq_iff_eq] at hbad
    obtain ⟨⟨hlo, hhi⟩, hseven⟩ := hbad
    exact hspan hlo hhi hseven
  rw [hrsv]
  simp

end

/-- The descriptor that a write would leave is set, or the write traps. -/
theorem afterSysWrite_writeSegment (s : State) (k : Nat) (g : Segment) :
    afterSysWrite s (writeSegment (focused s) k g) =
      if g.valid = true ∧ segmentOk (focused s) k g = false then trapped s eBound (BitVec.ofNat 64 (4096 * g.base.toNat))
      else did s (setSegment (focused s) k g) := by
  unfold writeSegment
  by_cases hbad : g.valid = true ∧ segmentOk (focused s) k g = false
  · rw [if_pos hbad, if_pos (by simp [hbad])]
    rfl
  · rw [if_neg hbad, if_neg (by simpa using hbad)]
    rfl

/-! ## What lands in the same cycle -/

/-- A refresh of the readiness of tasks leaves pending results and the PC. -/
theorem refreshReady_frame (c : Core) : (refreshReady c).pending = c.pending ∧ (refreshReady c).pc = c.pc :=
  refreshReady_induct (P := fun d => d.pending = c.pending ∧ d.pc = c.pc) c ⟨rfl, rfl⟩ fun _ _ _ _ _ _ hd => hd

/-- Nothing noted in this cycle adds nothing. -/
theorem landed_nothing {c : Core} (h : landedNow c = { cycle := c.stamp }) :
    (landedNow c).sets = 0 ∧ landedFlags c = 0 ∧
      ∀ f, landedCount c f = 0 ∧ ∀ w, bump32 w (landedCount c f) = w := by
  simp [landedFlags, landedCount, h]

/-- Settles O22. -/
theorem systemRegisterWrites : Obligations.SystemRegisterWrites := by
  unfold Obligations.SystemRegisterWrites
  intro h a s hr
  refine ⟨fun hm => ⟨?_, ?_, ?_, ?_, ?_, ?_, fun k => ?_, fun k => ?_, fun k => ?_, fun k => ⟨?_, fun hspan => ?_⟩, fun n hn => ?_⟩,
    fun hseven k => ?_, ?_, fun hdet => ?_, exec_wrsys_det hr, ?_, ?_, ?_, landed_nothing, fun hm n hn hlist hspan => ?_⟩
  · exact exec_wrsys_ok hr (.inl hm) (by decide) (.inl (by decide)) rfl rfl rfl
  · exact exec_wrsys_ok hr (.inl hm) (by decide) (.inl (by decide)) rfl rfl rfl
  · exact exec_wrsys_ok hr (.inl hm) (by decide) (.inl (by decide)) rfl (refreshReady_frame _).1 (refreshReady_frame _).2
  · exact exec_wrsys_ok hr (.inl hm) (by decide) (.inl (by decide)) rfl rfl rfl
  · exact exec_wrsys_ok hr (.inl hm) (by decide) (.inl (by decide)) rfl rfl rfl
  · exact exec_wrsys_ok hr (.inl hm) (by decide) (.inl (by decide)) rfl rfl rfl
  · fin_cases k <;> exact exec_wrsys_ok hr (.inl hm) (by decide) (.inl (by decide)) rfl rfl rfl
  · fin_cases k <;> exact exec_wrsys_ok hr (.inl hm) (by decide) (.inl (by decide)) rfl rfl rfl
  · fin_cases k <;> exact exec_wrsys_ok hr (.inl hm) (by decide) (.inl (by decide)) rfl rfl rfl
  · exact (exec_wrsys_segment hr hm k (.inl ⟨rfl, rfl⟩)).trans (congrArg Host.Outcome.next (afterSysWrite_writeSegment s k _))
  · exact (exec_wrsys_segment hr hm k (.inr ⟨rfl, hspan, rfl⟩)).trans (congrArg Host.Outcome.next (afterSysWrite_writeSegment s k _))
  · simp only [List.mem_cons, List.not_mem_nil, or_false] at hn
    obtain rfl | rfl | rfl | rfl | rfl | rfl | rfl := hn <;>
      exact exec_wrsys_ok hr (.inl hm) (by decide) (.inl (by decide)) rfl rfl rfl
  · exact exec_wrsys_rsv hr (by fin_cases k <;> decide) hseven
  · exact exec_wrsys_ok hr (.inr rfl) (by decide) (.inl (by decide)) rfl rfl rfl
  · refine exec_wrsys_ok hr (.inr rfl) (by decide) (.inr hdet) (if_neg ?_) rfl rfl
    rcases hdet with h | h <;> simp only [h, Bool.false_and, Bool.not_true, Bool.and_false, Bool.false_eq_true, not_false_eq_true]
  · exact exec_wrsys_ok hr (.inr rfl) (by decide) (.inl (by decide)) rfl rfl rfl
  · exact exec_wrsys_ok hr (.inr rfl) (by decide) (.inl (by decide)) rfl rfl rfl
  · exact exec_wrsys_ok hr (.inr rfl) (by decide) (.inl (by decide)) rfl rfl rfl
  · exact exec_wrsys_priv hr hm (by rw [writeOpen_eq]; simpa using hlist) hspan

end Sys2Proof.Proofs

/-! Tasks, gangs, sleep, waits, fences and barriers (R127 to R135, R230 to R233, R298 to R302, R328, R406 to R410). -/

namespace Sys2Proof.Proofs
open Sys2Proof Sys2Proof.Machine Sys2Proof.Laws

/-! ## Giving up the core (R128) -/

/-- A refresh of the readiness of tasks leaves what no task is. -/
theorem refreshReady_rest (c : Core) : (refreshReady c).wait = c.wait ∧ (refreshReady c).running = c.running ∧
    (refreshReady c).pc = c.pc ∧ (refreshReady c).sram = c.sram ∧ (refreshReady c).pending = c.pending :=
  refreshReady_induct (P := fun d => d.wait = c.wait ∧ d.running = c.running ∧ d.pc = c.pc ∧ d.sram = c.sram ∧ d.pending = c.pending)
    c ⟨rfl, rfl, rfl, rfl, rfl⟩ fun _ _ _ _ _ _ hd => hd

theorem going_of_run {c : Core} (h : c.wait = .run) : going c = c := by
  cases c; simp_all [going]

theorem whenSettled_nil {env : Env} {c : Core} (hp : c.pending = []) (k : Out) : whenSettled env c k = k := by
  simp [whenSettled, pendingOf_nil hp]

theorem unlessOpen_nil {c : Core} (ho : c.opens = []) (k : Out) : unlessOpen c k = k := by
  simp [unlessOpen, lowestOpen, ho]

/-- A task that gives up its core. -/
theorem giveUp_eq {c : Core} {k : Nat} {t : Task} (hk : c.running = some k) (ht : ffind c.tasks k = some t) (pc : BitVec 16)
    (again : Bool) : giveUp c pc again =
      refreshReady { c with running := none, wait := .run, tasks := fset c.tasks k { t with pc := pc, again := again } } := by
  simp only [giveUp, hk, ht]

/-- A ready task instruction in user mode, with no message open. -/
theorem issue_taskOp {i : Instr} {h : Hdr} {body : Env → Core → Out} {s : State} {c : Core} (hr : Ready s h)
    (hm : (focused s).sys.mode = false) (ho : (focused s).opens = [])
    (hb : body (focusEnv s (encode i)) (focused s) = .ok { core := c, stays := true }) (hp : c.pending = []) (hw : c.wait = .run) :
    issue (taskOp i h body) s = .next (withFocus s c) := by
  have hbody : (taskOp i h body).body (focusEnv s (encode i)) (focused s) = .ok { core := c, stays := true } :=
    (unlessOpen_nil ho _).trans ((whenSettled_nil hr.plain.pending _).trans hb)
  refine (exec_stays hr ⟨hm, rfl, rfl, rfl, ?_, rfl, rfl⟩ (.inr rfl) hbody hp).trans (by rw [going_of_run hw])
  simp [taskOp, mkOp, hr.plain.gang]

/-- In system mode a task instruction traps with E_PRIV. -/
theorem issue_taskOp_priv {i : Instr} {h : Hdr} {body : Env → Core → Out} {s : State} (hr : Ready s h)
    (hm : (focused s).sys.mode = true) : issue (taskOp i h body) s = .next (trapped s ePriv (encode i)) :=
  issue_priv (op := taskOp i h body) hr hm rfl

section
variable {h : Hdr} {s : State} {k : Nat} {t : Task} (hr : Ready s h) (hk : (focused s).running = some k)
  (ht : ffind (focused s).tasks k = some t) (hm : (focused s).sys.mode = false) (ho : (focused s).opens = [])
include hr hk ht hm ho

theorem exec_tend : exec (.tend h) s = .next (withFocus s (refreshReady
    { focused s with running := none, wait := .run, tasks := fset (focused s).tasks k { t with pc := t.entry, again := false } })) := by
  rw [← giveUp_eq hk ht]
  refine issue_taskOp hr hm ho ?_ ?_ ?_
  · simp only [hk, Option.bind_some, ht]
  · rw [giveUp_eq hk ht]; exact (refreshReady_rest _).2.2.2.2.trans hr.plain.pending
  · rw [giveUp_eq hk ht]; exact (refreshReady_rest _).1

/-- A task that gives up its core after its instruction. -/
theorem issue_giveUp_next {i : Instr} (again : Bool) :
    issue (taskOp i h fun env c => .ok { core := giveUp (nextPc c .main env.a).1 (nextPc c .main env.a).2 again, stays := true }) s =
      .next (withFocus s (refreshReady { (nextPc (focused s) .main (focused s).pc).1 with
        running := none, wait := .run, tasks := fset (nextPc (focused s) .main (focused s).pc).1.tasks k
          { t with pc := (nextPc (focused s) .main (focused s).pc).2, again := again } })) := by
  obtain ⟨lc, hn⟩ := nextPc_shape (focused s) (focused s).pc
  have hk' : (nextPc (focused s) .main (focused s).pc).1.running = some k := by rw [hn]; exact hk
  have ht' : ffind (nextPc (focused s) .main (focused s).pc).1.tasks k = some t := by rw [hn]; exact ht
  have hp' : (nextPc (focused s) .main (focused s).pc).1.pending = [] := by rw [hn]; exact hr.plain.pending
  rw [← giveUp_eq hk' ht']
  refine issue_taskOp hr hm ho rfl ?_ ?_
  · rw [giveUp_eq hk' ht']; exact (refreshReady_rest _).2.2.2.2.trans hp'
  · rw [giveUp_eq hk' ht']; exact (refreshReady_rest _).1

end

/-! ## Dispatch (R129) -/

/-- What a dispatched task sees. -/
theorem dispatchTask_rest (c : Core) (k : Nat) (t : Task) : (dispatchTask c k t).running = some k ∧ (dispatchTask c k t).pc = t.pc ∧
    (dispatchTask c k t).regs = c.regs ∧ (dispatchTask c k t).sram = c.sram ∧
    (dispatchTask c k t).sys.evflags =
      (if t.onEvent = true ∧ setWins c t = false then c.sys.evflags &&& ~~~(1#32 <<< t.k.toNat) else c.sys.evflags) := by
  unfold dispatchTask
  refine ⟨(refreshReady_rest _).2.1, (refreshReady_rest _).2.2.1, refreshReady_regs _, (refreshReady_rest _).2.2.2.1, ?_⟩
  rw [refreshReady_sys]
  by_cases h : t.onEvent = true ∧ setWins c t = false
  · rw [if_pos h]; simp [h]
  · rw [if_neg h]; exact if_neg (by simpa using h)

/-- Settles O24. -/
theorem tasksAndDispatch : Obligations.TasksAndDispatch := by
  unfold Obligations.TasksAndDispatch
  refine ⟨fun h s k t hr hk ht => ⟨fun hm ho => ⟨exec_tend hr hk ht hm ho, issue_giveUp_next hr hk ht hm ho true,
      issue_giveUp_next hr hk ht hm ho false⟩, fun hm => ⟨issue_taskOp_priv hr hm, issue_taskOp_priv hr hm, issue_taskOp_priv hr hm⟩⟩,
    fun row col s n t hrun hh hres hf hd hg hs hstop hnext => ?_⟩
  have hexec : exec (.taskDispatch row col) s =
      .next (setCore s (keyOf row col) (dispatchTask (refreshReady (coreAt s (keyOf row col))) n t)) := by
    change execTaskDispatch row col s = _
    simp only [execTaskDispatch, hrun, hh, hres, hf, hd, hg, hs, hstop, hnext]
    simp
  obtain ⟨h1, h2, h3, h4, h5⟩ := dispatchTask_rest (refreshReady (coreAt s (keyOf row col))) n t
  refine ⟨_, hexec, ?_⟩
  rw [coreAt_setCore_self]
  refine ⟨h1, h2, h3, h4, h5, fun hw => ?_, fun j hj => coreAt_setCore_ne _ _ hj⟩
  simp only [setWins, Bool.and_eq_true] at hw
  exact hw.1.2

/-- The next address depends on the counters and the address alone. -/
theorem nextPc_congr {c d : Core} (h : c.regs = d.regs) (a : BitVec 16) : (nextPc c .main a).2 = (nextPc d .main a).2 := by
  have h1 : readLc c 1 = readLc d 1 := by simp only [readLc, h]
  have h0 : readLc c 0 = readLc d 0 := by simp only [readLc, h]
  have h01 : ∀ l, readLc (writeLc c 1 l) 0 = readLc (writeLc d 1 l) 0 := fun l => by simp only [readLc, writeLc, h]
  simp only [nextPc, h1]
  rcases loopStep (readLc d 1) a with _ | ⟨l1, _ | t⟩
  · simp only [h0]
    rcases loopStep (readLc d 0) a with _ | ⟨l0, _ | t⟩ <;> rfl
  · simp only [h01]
    rcases loopStep (readLc (writeLc d 1 l1) 0) a with _ | ⟨l0, _ | t⟩ <;> rfl
  · rfl

/-! ## Forming a gang (R300) -/

/-- A core takes its own place in its group. -/
theorem keyOf_rowOf_colOf (k : Nat) : keyOf (rowOf k) (colOf k) = k := by
  simp only [keyOf, rowOf, colOf]; omega

theorem mem_gangKeys_leader (g : GangSt) : keyOf g.row g.col ∈ gangKeys g := by
  unfold gangKeys
  simp only [List.mem_flatMap, List.mem_map, List.mem_range]
  refine ⟨0, ?_, 0, ?_, rfl⟩ <;> split <;> decide

/-- The keys of a gang are those of different cores. -/
theorem gangKeys_nodup (g : GangSt) : (gangKeys g).Nodup := by
  have hinj : ∀ r c r' c', c < 4 → c' < 4 → keyOf (g.row + r) (g.col + c) = keyOf (g.row + r') (g.col + c') → r = r' ∧ c = c' := by
    intro r c r' c' hc hc' h
    simp only [keyOf] at h
    omega
  have hsize : (if g.block then 4 else 2) ≤ 4 := by split <;> decide
  unfold gangKeys
  refine List.nodup_flatMap.mpr ⟨fun r _ => ?_, ?_⟩
  · refine List.Nodup.map_on (fun c hc c' hc' h => ?_) List.nodup_range
    have := List.mem_range.mp hc
    have := List.mem_range.mp hc'
    exact (hinj r c r c' (by omega) (by omega) h).2
  · refine List.nodup_range.imp_of_mem fun {r r'} _ _ hne => ?_
    intro k hk hk'
    obtain ⟨c, hc, rfl⟩ := List.mem_map.mp hk
    obtain ⟨c', hc', h⟩ := List.mem_map.mp hk'
    have := List.mem_range.mp hc
    have := List.mem_range.mp hc'
    exact hne (hinj r' c' r c (by omega) (by omega) h).1.symm

/-- GANG at issue. -/
def gangOp (h : Hdr) (block : Bool) : Op :=
  { mkOp (.gang h block) h .b [] [] (fun env c => whenSettled env c (.wait c (.gang block))) with
    noHandler := true, gangBad := fun _ c => c.gang.isSome }

/-- What GANG makes of its own issue: the group of a core that has come to wait is looked at. -/
def afterGang (block : Bool) : Host.Outcome State Fault Refusal → Host.Outcome State Fault Refusal
  | .next t => .next (if (coreAt t t.focus).wait = .gang block && t.ctx = .main then formGang t t.focus block else t)
  | o => o

theorem exec_gang_eq (h : Hdr) (block : Bool) (s : State) : exec (.gang h block) s = afterGang block (issue (gangOp h block) s) := by
  change execGang h block s = _
  unfold execGang
  rfl

/-- A core that waits at GANG. -/
def atGangWait (s : State) (block : Bool) : State := withFocus s { focused s with wait := .gang block }

/-- GANG of a ready core: it waits, and a gang is formed where the last core has come. -/
theorem exec_gang {h : Hdr} {block : Bool} {s : State} (hr : Ready s h) :
    exec (.gang h block) s = .next (formGang (atGangWait s block) s.focus block) := by
  have hissue : issue (gangOp h block) s = .next (atGangWait s block) :=
    exec_wait (op := gangOp h block) hr ⟨rfl, rfl, rfl, rfl, by simp [gangOp, hr.plain.gang], rfl, rfl⟩
      (whenSettled_nil hr.plain.pending _)
  have hwait : (coreAt (atGangWait s block) s.focus).wait = .gang block := congrArg Core.wait (coreAt_setCore_self _ _ _)
  have hctx : (atGangWait s block).ctx = .main := hr.ctx
  rw [exec_gang_eq, hissue]
  exact congrArg Host.Outcome.next (if_pos (Bool.and_eq_true_iff.mpr ⟨decide_eq_true hwait, decide_eq_true hctx⟩))

theorem coreAt_atGangWait (s : State) (block : Bool) (k : Nat) :
    coreAt (atGangWait s block) k = if k = s.focus then { focused s with wait := .gang block } else coreAt s k := by
  split
  · next h => subst h; exact coreAt_setCore_self _ _ _
  · next h => exact coreAt_setCore_ne _ _ h

section
variable {s : State} {block : Bool} (hp : Plain (focused s))
  (hother : ∀ k, k ∈ gangKeys (groupOf s.focus true) → k ≠ s.focus → atOther block (coreAt s k) = false)
  (hnum : ∀ k, k ∈ gangKeys (groupOf s.focus block) →
    (launchOf s (rowOf k) (colOf k)).map (·.num) = (launchOf s (rowOf s.focus) (colOf s.focus)).map (·.num))
include hother hnum

/-- Where no core near waits at GANG of the other size, and the whole group lies in one region, a gang is formed or the core waits on. -/
theorem formGang_atGangWait : formGang (atGangWait s block) s.focus block =
    (let t := atGangWait s block
     let g := groupOf s.focus block
     let ks := gangKeys g
     if ks.all fun k => (coreAt t k).wait = .gang block then
       if ks.any fun k => (heldBoundary (coreAt t k) .main (coreAt t k).pc).isTrap then refuseGang t ks false
       else ks.foldl (fun u k => modCore u k (joinGang g k
         (nextPc (coreAt t (keyOf g.row g.col)) .main (coreAt t (keyOf g.row g.col)).pc).2)) t
     else t) := by
  have hnear : (((gangKeys (groupOf s.focus true)).filter fun k => atGang (coreAt (atGangWait s block) k)).any fun k =>
      atOther block (coreAt (atGangWait s block) k)) = false := by
    rw [List.any_eq_false]
    intro k hk
    rw [coreAt_atGangWait]
    split
    · simp [atOther]
    · next hne => rw [hother k (List.mem_filter.mp hk).1 hne]; simp
  have hregion : ((gangKeys (groupOf s.focus block)).any fun k =>
      ((launchOf (atGangWait s block) (rowOf k) (colOf k)).map (·.num)) ≠
        ((launchOf (atGangWait s block) (rowOf s.focus) (colOf s.focus)).map (·.num))) = false := by
    rw [List.any_eq_false]
    intro k hk
    exact fun h => of_decide_eq_true h (hnum k hk)
  unfold formGang
  dsimp only
  rw [if_neg (by rw [hnear]; exact Bool.false_ne_true), if_neg (by rw [hregion]; exact Bool.false_ne_true)]

/-- The core waits on while another of its group does not wait at GANG of its size. -/
theorem formGang_waits (h : ∃ k, k ∈ gangKeys (groupOf s.focus block) ∧ k ≠ s.focus ∧ (coreAt s k).wait ≠ .gang block) :
    formGang (atGangWait s block) s.focus block = atGangWait s block := by
  obtain ⟨k, hk, hne, hw⟩ := h
  rw [formGang_atGangWait hother hnum]
  refine if_neg fun hall => hw ?_
  have := of_decide_eq_true (List.all_eq_true.mp hall k hk)
  rwa [coreAt_atGangWait, if_neg hne] at this

include hp

/-- The gang is formed once every core of the group waits and no trap is held at one. -/
theorem formGang_forms (h : ∀ k, k ∈ gangKeys (groupOf s.focus block) → k ≠ s.focus → (coreAt s k).wait = .gang block ∧
      (heldBoundary (coreAt s k) .main (coreAt s k).pc).isTrap = false)
    {k : Nat} (hk : k ∈ gangKeys (groupOf s.focus block)) :
    ∃ c pc, coreAt (formGang (atGangWait s block) s.focus block) k = joinGang (groupOf s.focus block) k pc c ∧
      pc = (nextPc (coreAt s (keyOf (groupOf s.focus block).row (groupOf s.focus block).col)) .main
        (coreAt s (keyOf (groupOf s.focus block).row (groupOf s.focus block).col)).pc).2 := by
  have hall : ((gangKeys (groupOf s.focus block)).all fun k => decide ((coreAt (atGangWait s block) k).wait = .gang block)) = true := by
    refine List.all_eq_true.mpr fun j hj => decide_eq_true ?_
    rw [coreAt_atGangWait]
    split
    · rfl
    · next hne => exact (h j hj hne).1
  have hnone : ((gangKeys (groupOf s.focus block)).any fun k =>
      (heldBoundary (coreAt (atGangWait s block) k) .main (coreAt (atGangWait s block) k).pc).isTrap) = false := by
    rw [List.any_eq_false]
    intro j hj
    rw [coreAt_atGangWait]
    split
    · simp [heldBoundary, hp.held, hp.watch, Boundary.isTrap]
    · next hne => rw [(h j hj hne).2]; exact Bool.false_ne_true
  rw [formGang_atGangWait hother hnum]
  dsimp only
  rw [if_pos hall, if_neg (by rw [hnone]; exact Bool.false_ne_true)]
  obtain ⟨c, hc⟩ := coreAt_foldl_modCore (fun k => joinGang (groupOf s.focus block) k _) (atGangWait s block) hk
  refine ⟨c, _, hc, ?_⟩
  rw [coreAt_atGangWait]
  split
  · next heq => rw [heq]; exact nextPc_congr (by rfl) _
  · rfl

end

/-- A core that has joined a gang. -/
theorem joinGang_eq (g : GangSt) (k : Nat) (pc : BitVec 16) (c : Core) :
    (joinGang g k pc c).gang = some { g with leader := decide (k = keyOf g.row g.col) } ∧ (joinGang g k pc c).wait = .run ∧
      (joinGang g k pc c).pc = pc := by
  unfold joinGang
  dsimp only
  obtain ⟨lc, p, h⟩ := advance_shape { settleAll c with wait := .run, gang := some { g with leader := decide (k = keyOf g.row g.col) } }
    (settleAll c).pc
  rw [h]
  exact ⟨rfl, rfl, rfl⟩

/-! ## Dissolving a gang (R302) -/

/-- A gang whose members all execute: each as its verdict says, and all at the leader's next address. -/
theorem issueGang_done {op : Op} {s : State} {g : GangSt} {f : Nat → Core}
    (hdone : ∀ t k n, k ∈ gangKeys g → coreAt t k = atLeader (coreAt s (keyOf g.row g.col)).pc (coreAt s k) →
      judge op (envOf t k .main op.word n) (coreAt t k) = .done (f k) []) {k : Nat} (hk : k ∈ gangKeys g) :
    coreAt (issueGang op s g) k = { f k with pc := (f (keyOf g.row g.col)).pc } := by
  have hnd := gangKeys_nodup g
  unfold issueGang
  extract_lets ks a s1 vs s2 p
  have hs1 : ∀ j, j ∈ ks → coreAt s1 j = atLeader a (coreAt s j) := fun j hj => coreAt_foldl_modCore_mem (atLeader a) hnd s hj
  have hkeys : vs.map (·.1) = ks := by
    simp only [vs, List.map_map, Function.comp_def]
    exact List.zipIdx_map_fst _ _
  have hverdict : ∀ v, v ∈ vs → v.2 = .done (f v.1) [] := by
    intro v hv
    obtain ⟨⟨j, n⟩, hj, rfl⟩ := List.mem_map.mp hv
    have hmem : j ∈ ks := List.fst_mem_of_mem_zipIdx hj
    exact hdone s1 j n hmem (hs1 j hmem)
  rw [if_pos (List.all_eq_true.mpr fun v hv => by rw [hverdict v hv]; rfl)]
  have hpass := (coreAt_foldl_step (key := (·.1)) (f := fun v _ => f v.1) (P := fun _ => True)
    (step := fun s v => applyVerdict s v.1 .main a v.2) vs
    (fun t v hv _ j => by rw [hverdict v hv]; exact coreAt_modCore t v.1 (fun _ => f v.1) j) (by rw [hkeys]; exact hnd) s1
    (fun _ _ => trivial)).1
  have hcore : ∀ j, j ∈ ks → coreAt (vs.foldl (fun s v => applyVerdict s v.1 .main a v.2) s1) j = f j := by
    intro j hj
    obtain ⟨v, hv, rfl⟩ := List.mem_map.mp (show j ∈ vs.map (·.1) by rw [hkeys]; exact hj)
    exact hpass v hv
  have hp : p = (f (keyOf g.row g.col)).pc := congrArg Core.pc (hcore _ (mem_gangKeys_leader g))
  exact (coreAt_foldl_modCore_mem (fun c => { c with pc := p }) hnd s2 hk).trans (by rw [hcore k hk, hp])

/-- SPLIT at issue. -/
def splitOp (h : Hdr) : Op :=
  { mkOp (.split h) h .b [] [] (fun env c => whenSettled env c (.ok { core := leaveGang (settleAll c) })) with
    noHandler := true, gangBad := fun _ c => c.gang.isNone }

theorem settleAll_nil {c : Core} (hp : c.pending = []) : settleAll c = c := by
  simp only [settleAll, landAll_nil hp]
  cases c; simp_all

/-- A member of a gang after SPLIT. -/
def splitOff (c : Core) (a : BitVec 16) : Core := advance (going { atLeader a c with gang := none }) .main a

theorem splitOff_gang (c : Core) (a : BitVec 16) : (splitOff c a).gang = none := by
  obtain ⟨lc, p, h⟩ := advance_shape (going { atLeader a c with gang := none }) a
  rw [splitOff, h]
  rfl

theorem judge_split {h : Hdr} {s t : State} {k n : Nat} {a : BitVec 16} (ht : coreAt t k = atLeader a (coreAt s k))
    (hs : Still (coreAt s k)) (hg : guardTrue h (coreAt s k)) (hgang : (coreAt s k).gang.isSome = true) :
    judge (splitOp h) (envOf t k .main (splitOp h).word n) (coreAt t k) = .done (splitOff (coreAt s k) a) [] := by
  have hst : Still (coreAt t k) := by rw [ht]; exact ⟨hs.pending, hs.held, hs.watch, hs.breakpoints, hs.ops, hs.breads⟩
  have ha : Allowed (splitOp h) (envOf t k .main (splitOp h).word n) (coreAt t k) := by
    refine ⟨rfl, rfl, rfl, rfl, ?_, rfl, rfl⟩
    rw [ht]
    simp only [splitOp, atLeader]
    rw [← Option.not_isSome, hgang]; rfl
  refine (judge_plain hst rfl (by rw [ht]; exact hg) ha).trans ?_
  have hbody : (splitOp h).body (envOf t k .main (splitOp h).word n) (coreAt t k) = .ok { core := leaveGang (coreAt t k) } := by
    refine (whenSettled_nil hst.pending _).trans ?_
    rw [settleAll_nil hst.pending]
  rw [hbody]
  simp only [verdictOf]
  rw [settle_short rfl hst.pending (.inr (.inl rfl))]
  have hzero : ∀ c : Core, addFlags c 0 0 0 0 = c := addFlags_zero
  have ha : (envOf t k .main (splitOp h).word n).a = a := congrArg Core.pc ht
  simp only [applyDests_nil, hzero, ha, ht]
  rfl

/-- Settles O25. -/
theorem gangsFormAndDissolve : Obligations.GangsFormAndDissolve := by
  unfold Obligations.GangsFormAndDissolve
  refine ⟨fun h block s hr => ?_, fun h s g hgrid hctx hg hms => ?_⟩
  · intro g ks num hother hnum
    refine ⟨fun hwait => ?_, fun hall => ⟨_, exec_gang hr, fun k hk => ?_⟩⟩
    · rw [exec_gang hr, formGang_waits hother hnum hwait]; rfl
    · obtain ⟨c, pc, hc, rfl⟩ := formGang_forms hr.plain hother hnum hall hk
      rw [hc]
      exact joinGang_eq _ _ _ _
  · refine ⟨_, issue_gang (op := splitOp h) hgrid hctx hg fun k hk => boundary_plain (hms k hk).1, fun k hk => ?_⟩
    have hdone := issueGang_done (op := splitOp h) (s := { s with freeCtr := s.freeCtr + 1 }) (g := g)
      (f := fun k => splitOff (coreAt s k) (coreAt s (keyOf g.row g.col)).pc)
      (fun t j n hj ht => judge_split ht (hms j hj).1 (hms j hj).2.1 (hms j hj).2.2) hk
    have hleader : (splitOff (coreAt s (keyOf g.row g.col)) (coreAt s (keyOf g.row g.col)).pc).pc =
        (nextPc (coreAt s (keyOf g.row g.col)) .main (coreAt s (keyOf g.row g.col)).pc).2 := nextPc_congr (by rfl) _
    rw [hdone]
    refine ⟨?_, hleader⟩
    exact splitOff_gang _ _

/-! ## SLEEP, WAITS and FENCE (R232, R328, R406, R407) -/

/-- SLEEP at issue. -/
def sleepOp (h : Hdr) (a : Reg) : Op :=
  { mkOp (.sleep h a) h .b (xs [a]) [] (fun env c =>
      unlessOpen c (
        if c.pending.any fun p => p.ctx = env.ctx then whenSettled env c (done c)
        else if !c.pending.isEmpty || !nothingOutstanding c || delivering c then .stall
        else if wakes c then done c
        else done { c with sleep := .gated env.cycle (env.x c a).toNat })) with
    noHandler := true, gangBad := fun _ c => c.gang.isSome }

theorem exec_sleep {h : Hdr} {a : Reg} {s : State} (hr : Ready s h) (ho : (focused s).opens = [])
    (hn : nothingOutstanding (focused s) = true) (hd : delivering (focused s) = false) :
    exec (.sleep h a) s = .next (did s
      (if wakes (focused s) then focused s else { focused s with sleep := .gated s.cycle (xr s a).toNat })) := by
  have hbody : (sleepOp h a).body (focusEnv s (sleepOp h a).word) (focused s) =
      done (if wakes (focused s) then focused s else { focused s with sleep := .gated s.cycle (xr s a).toNat }) := by
    refine (unlessOpen_nil ho _).trans ?_
    rw [if_neg (by simp [hr.plain.pending]), if_neg (by simp [hr.plain.pending, hn, hd])]
    split <;> rfl
  refine exec_done (op := sleepOp h a) hr ⟨rfl, rfl, rfl, rfl, by simp [sleepOp, hr.plain.gang], rfl, rfl⟩ (.inr rfl) hbody ?_ ?_
  · split <;> exact hr.plain.pending
  · split <;> rfl

/-- WAITS at issue. -/
def waitsOp (h : Hdr) (a b : Reg) : Op :=
  { mkOp (.waits h a b) h .b (xs [a, b]) [] (fun env c =>
      unlessOpen c (
        let ea := (env.x c a).toNat
        match checkAccess c loads 8 8 [ea] with
        | some .stall | none => if c.wait = .met ∨ (env.x c b).toNat ≤ (c.sram.word ea).toNat then done c else .wait c .instr
        | some o => o)) with
    noHandler := true }

theorem exec_waits {h : Hdr} {a b : Reg} {s : State} (hr : Ready s h) (ho : (focused s).opens = [])
    (hok : accessOk s loads 8 8 [(xr s a).toNat]) :
    exec (.waits h a b) s = .next (
      if (focused s).wait = .met ∨ (xr s b).toNat ≤ ((focused s).sram.word (xr s a).toNat).toNat then did s (focused s)
      else withFocus s { focused s with wait := .instr }) := by
  have hbody : (waitsOp h a b).body (focusEnv s (waitsOp h a b).word) (focused s) =
      if (focused s).wait = .met ∨ (xr s b).toNat ≤ ((focused s).sram.word (xr s a).toNat).toNat then done (focused s)
      else .wait (focused s) .instr := by
    refine (unlessOpen_nil ho _).trans ?_
    have hchk : checkAccess (focused s) loads 8 8 [((focusEnv s (waitsOp h a b).word).x (focused s) a).toNat] = none := hok
    simp only [hchk]
    rfl
  have ha : Allowed (waitsOp h a b) (focusEnv s (waitsOp h a b).word) (focused s) := ⟨rfl, rfl, rfl, rfl, rfl, rfl, rfl⟩
  split
  · next hmet => exact exec_done (op := waitsOp h a b) hr ha (.inr rfl) (hbody.trans (if_pos hmet)) hr.plain.pending rfl
  · next hmet => exact exec_wait (op := waitsOp h a b) hr ha (hbody.trans (if_neg hmet))

/-- A fence waits for nothing where no remote write and no capability request within its scope is unanswered. -/
theorem fenceTags_eq_nil (sc : Scope) (key : Nat) (c : Core) : fenceTags sc key c = [] ↔
    ¬ ((∃ o, o ∈ c.ops ∧
        ((o.kind ∈ [EngKind.put, .puts, .radd, .ramo, .dfadd] ∧ inScope sc key (keyOf o.drow o.dcol) = true) ∨
          (o.kind = .awrite ∧ sc ∈ [Scope.wafer, .pod]))) ∨
      ∃ x, x ∈ c.caps ∧ inScope sc key x.2 = true) := by
  have hwaits : ∀ o, fenceWaits sc key o = true ↔
      (o.kind ∈ [EngKind.put, .puts, .radd, .ramo, .dfadd] ∧ inScope sc key (keyOf o.drow o.dcol) = true) ∨
        (o.kind = .awrite ∧ sc ∈ [Scope.wafer, .pod]) := by
    intro o
    unfold fenceWaits
    cases o.kind <;> simp
    cases sc <;> simp
  simp only [fenceTags, List.append_eq_nil_iff, List.map_eq_nil_iff, List.filter_eq_nil_iff, hwaits, not_or, not_exists, not_and]

/-- A ready instruction with engine operations in flight, that names no x register and goes on. -/
theorem issue_busy_done {op : Op} {s : State} {c : Core} (hr : ReadyBusy s op.h []) (hrefs : op.reads ++ op.writes = [])
    (hc : op.cls = .s ∨ op.cls = .b) (ha : Allowed op (focusEnv s op.word) (focused s))
    (hb : op.body (focusEnv s op.word) (focused s) = done c) (hp : c.pending = (focused s).pending) (hpc : c.pc = (focused s).pc) :
    issue op s = .next (did s c) := by
  rw [issue_busy hr (by simp [hrefs]) ha hb]
  simp only [done, verdictOf, applyVerdict, List.foldl_nil]
  rw [settle_short rfl (hp.trans hr.pending) (by tauto)]
  have hzero : ∀ c : Core, addFlags c 0 0 0 0 = c := addFlags_zero
  simp only [applyDests_nil, hzero, did, past, hpc]
  rfl

/-- FENCE at issue. -/
def fenceOp (h : Hdr) (sc : Scope) : Op :=
  { mkOp (.fence h sc) h .b [] [] (fun env c => if (fenceTags sc env.key c).isEmpty then done c else .stall) with
    noHandler := true }

/-- Settles O26. -/
theorem sleepWaitsAndFences : Obligations.SleepWaitsAndFences := by
  unfold Obligations.SleepWaitsAndFences
  refine ⟨fun h a s hr ho hn hd => ⟨fun hw => ?_, fun hw => ?_⟩, fun h a b s hr ho hok => exec_waits hr ho hok,
    fun h sc s hr => ⟨fun hnone => ?_, fun hsome => ?_⟩⟩
  · rw [exec_sleep hr ho hn hd, hw]; rfl
  · rw [exec_sleep hr ho hn hd, hw]; rfl
  · have htags := (fenceTags_eq_nil sc s.focus (focused s)).mpr hnone
    exact issue_busy_done (op := fenceOp h sc) hr rfl (.inr rfl) ⟨rfl, rfl, rfl, rfl, rfl, rfl, rfl⟩
      (if_pos (List.isEmpty_iff.mpr htags)) rfl rfl
  · have htags : fenceTags sc s.focus (focused s) ≠ [] := fun h => (fenceTags_eq_nil sc s.focus (focused s)).mp h hsome
    exact issue_busy (op := fenceOp h sc) hr (by simp [fenceOp, mkOp]) ⟨rfl, rfl, rfl, rfl, rfl, rfl, rfl⟩
      (if_neg fun h => htags (List.isEmpty_iff.mp h))

/-! ## A barrier id that no arrival bit stands for -/

/-- A launch that holds barrier id 5 at pod scope, of which R409 has none. -/
def highPodLaunch : Launch := { placedLaunch with podBar := 0x20 }

/-- A core of that launch that runs code, with nothing in flight. -/
def highPodState : State := { cores := [(0, { runsCode := true })], unrid := { launches := [highPodLaunch] } }

/-- Refutes O27: a launch's mask of barrier ids has eight bits at every scope, and the statement takes any id of it, with no
well-formed instruction asked for. At pod scope id 5 stands for bit 25 of 24 arrival bits: the arrival sets none, so that the core
does not count as arrived though its fence waits for nothing. -/
theorem not_barriersAndEventFlags : ¬ Obligations.BarriersAndEventFlags := by
  unfold Obligations.BarriersAndEventFlags
  intro claims
  have hr : ReadyBusy highPodState Hdr.plain [] :=
    { grid := rfl, ctx := rfl, pending := rfl, held := rfl, watch := rfl, gang := rfl, free := rfl, guard := .inl rfl
      breakpoints := fun n _ => show (fget ([] : FMap (BitVec 23)) n 0).getLsbD 0 = false by simp [fget, ffind] }
  obtain ⟨arrived, -⟩ := claims.1 Hdr.plain 5 .pod highPodState hr rfl (by decide)
  exact absurd ((arrived rfl).mpr (by decide)) (by decide)

end Sys2Proof.Proofs

/-! Vector instructions at a ready core (R331 to R354): a register as the list of its lanes, what a masked result holds, and the
statements about lanes, reductions, vector memory and dot products. -/

namespace Sys2Proof.Proofs
open Sys2Proof Sys2Proof.Machine Sys2Proof.Laws

/-! ## A register as a list of lanes -/

/-- A digit of a number is that digit of the list it was made of. -/
theorem packNat_digit (w : Nat) (l : List Nat) (k : Nat) : packNat w l / 2 ^ (w * k) % 2 ^ w = l.getD k 0 % 2 ^ w := by
  induction l generalizing k with
  | nil => simp [packNat]
  | cons x xs ih =>
    have hx : x % 2 ^ w < 2 ^ w := Nat.mod_lt _ (by positivity)
    cases k with
    | zero => simp [packNat]
    | succ k =>
      rw [packNat, Nat.mul_succ, Nat.add_comm (w * k), Nat.pow_add, ← Nat.div_div_eq_div_mul,
        Nat.add_mul_div_left _ _ (by positivity), Nat.div_eq_of_lt hx, Nat.zero_add, ih, List.getD_cons_succ]

/-- A lane of a packed register, of those that the register holds whole. -/
theorem lane_packV {w k : Nat} (l : List Nat) (hk : w * k + w ≤ 512) : lane w (packV w l) k = l.getD k 0 % 2 ^ w := by
  have h512 : (2 : Nat) ^ 512 = 2 ^ (w * k) * 2 ^ (512 - w * k) := by rw [← Nat.pow_add]; congr 1; omega
  rw [lane, packV, BitVec.toNat_ofNat, Nat.shiftRight_eq_div_pow, h512, Nat.mod_mul_right_div_self,
    Nat.mod_mod_of_dvd _ (Nat.pow_dvd_pow 2 (by omega)), packNat_digit]

/-- A type's lanes lie whole in a register. -/
theorem lane_fits (ty : Ty) {k : Nat} (hk : k < 512 / ty.width) : ty.width * k + ty.width ≤ 512 := by
  have := Nat.mul_le_of_le_div _ _ _ (show k + 1 ≤ 512 / ty.width from hk)
  rwa [Nat.mul_comm, Nat.mul_succ] at this

theorem lane_lt (w : Nat) (v : BitVec 512) (k : Nat) : lane w v k < 2 ^ w := Nat.mod_lt _ (by positivity)

@[simp] theorem lane_mod (w : Nat) (v : BitVec 512) (k : Nat) : lane w v k % 2 ^ w = lane w v k := Nat.mod_eq_of_lt (lane_lt w v k)

theorem getD_map_range {α : Type} (n : Nat) (f : Nat → α) (x : α) {k : Nat} (hk : k < n) : ((List.range n).map f).getD k x = f k := by
  simp [hk]

/-- A lane of a register packed from a function of the index. -/
theorem lane_packV_range {w n k : Nat} (f : Nat → Nat) (hk : w * k + w ≤ 512) (hn : k < n) :
    lane w (packV w ((List.range n).map f)) k = f k % 2 ^ w := by
  rw [lane_packV _ hk, getD_map_range _ _ _ hn]

/-- A masked lane, cut to its width: only an active lane's result may be wider. -/
theorem maskLane_mod (w : Nat) (bit z : Bool) (v : BitVec 512) (k x : Nat) :
    maskLane bit z (lane w v k) x % 2 ^ w = if bit then x % 2 ^ w else if z then 0 else lane w v k := by
  cases bit <;> cases z <;> simp [maskLane]

/-- A lane of a masked result. -/
theorem lane_maskResult {w k : Nat} (mask : BitVec 16) (z : Bool) (old : BitVec 512) (f : Nat → FRes) (hw : w * k + w ≤ 512)
    (hk : k < 512 / w) : lane w (maskResult w mask z old ((List.range (512 / w)).map f)).1 k =
      if mask.getLsbD k then (f k).bits % 2 ^ w else if z then 0 else lane w old k := by
  unfold maskResult
  simp only []
  rw [lane_packV_range _ hw hk, maskLane_mod, getD_map_range _ _ _ hk]

/-! ## Lane arithmetic -/

section
variable {i : Instr} {h : Hdr} {w : Nat} {ty : Ty} {d a b : VReg} {m : Mask} {s : State}

/-- A ready lane instruction owes the results of its active lanes. -/
theorem issue_laneOp {reads : List RegRef} {f : Env → Core → Nat → FRes} (hr : Ready s h) :
    issue (laneOp i h w d m reads f) s = .next (owesLanes s h w d m (f (focusEnv s (encode i)) (focused s))) :=
  issue_mkOp_owesC hr rfl

/-- A ready lane instruction on two sources. -/
theorem issue_laneOp2 {f : Nat → Nat → FRes} (hr : Ready s h) :
    issue (laneOp2 i h ty d a b m f) s = .next (owesLanes s h ty.width d m fun k => f (lanev s ty a k) (lanev s ty b k)) :=
  issue_laneOp hr

/-- A ready lane instruction on one source. -/
theorem issue_laneOp1 {f : Nat → FRes} (hr : Ready s h) :
    issue (laneOp1 i h ty d a m f) s = .next (owesLanes s h ty.width d m fun k => f (lanev s ty a k)) :=
  issue_laneOp hr

/-- A ready arithmetic lane instruction of an integer type. -/
theorem issue_arithLane_int {sat : Bool} {fi : Int → Int → Int} {ff : FVal → FVal → FRes} (hr : Ready s h) (ht : ty.isInt = true) :
    issue (laneOp2 i h ty d a b m (arithLane ty sat fi ff)) s = .next (owesLanes s h ty.width d m fun k =>
      intLane ty sat (fi (tyReadInt ty (lanev s ty a k)) (tyReadInt ty (lanev s ty b k)))) := by
  simp only [issue_laneOp2 hr, arithLane, if_pos ht]

/-- A ready arithmetic lane instruction of a floating-point type. -/
theorem issue_arithLane_float {sat : Bool} {fi : Int → Int → Int} {ff : FVal → FVal → FRes} (hr : Ready s h) (ht : ty.isInt = false) :
    issue (laneOp2 i h ty d a b m (arithLane ty sat fi ff)) s = .next (owesLanes s h ty.width d m fun k =>
      ff (readF ty (lanev s ty a k)) (readF ty (lanev s ty b k))) := by
  simp only [issue_laneOp2 hr, arithLane, ht, Bool.false_eq_true, if_false]

end

/-- Settles O28: the result register is packed from its masked lanes, and each instruction is a lane instruction. -/
theorem vectorArithmetic : Obligations.VectorArithmetic := by
  unfold Obligations.VectorArithmetic
  refine ⟨fun w mask z old f hw k hk => lane_maskResult mask z old f ?_ hk, fun h ty d a b c rm sat m s hr => ⟨fun ht => ?_, fun ht => ?_,
    issue_laneOp hr, issue_laneOp2 hr, issue_laneOp1 hr, issue_laneOp1 hr, fun isMax => issue_laneOp2 hr,
    fun op => issue_laneOp1 hr, issue_laneOp1 hr⟩⟩
  · rcases hw with rfl | rfl <;> omega
  · exact ⟨issue_arithLane_int hr ht, issue_arithLane_int hr ht, issue_arithLane_int hr ht⟩
  · exact ⟨issue_arithLane_float hr ht, issue_arithLane_float hr ht, issue_arithLane_float hr ht⟩

/-! ## Bitwise lanes, compares and conversions -/

theorem testBit_natOfBits (l : List Bool) (k : Nat) : (natOfBits l).testBit k = l.getD k false := by
  induction l generalizing k with
  | nil => simp [natOfBits]
  | cons b bs ih =>
    cases k with
    | zero => cases b <;> simp [natOfBits, Nat.testBit_zero, Nat.add_mod]
    | succ k =>
      have hdiv : ((if b then 1 else 0) + 2 * natOfBits bs) / 2 = natOfBits bs := by
        cases b
        · simp
        · simp; omega
      rw [natOfBits, Nat.testBit_succ, hdiv, ih, List.getD_cons_succ]

/-- The flag that a comparison raises, where that of an active lane is invalid. -/
theorem nvFlag_eq (n : Nat) (act bad : Nat → Bool) :
    (if (List.range n).any (fun k => act k && bad k) then flagNV else 0) =
      raisedBy n act fun k => ⟨0, if bad k then flagNV else 0, 0⟩ := by
  apply BitVec.eq_of_getLsbD_eq
  intro b hb
  rw [Bool.eq_iff_iff, raisedBy_iff]
  by_cases h : (List.range n).any fun k => act k && bad k
  · obtain ⟨k, hk, ha, hbad⟩ : ∃ k, k < n ∧ act k = true ∧ bad k = true := by simpa using h
    rw [if_pos h]
    refine ⟨fun hf => ⟨k, hk, ha, by rwa [if_pos hbad]⟩, ?_⟩
    rintro ⟨j, -, -, hf⟩
    dsimp only at hf
    split at hf
    · exact hf
    · simp at hf
  · rw [if_neg h]
    refine ⟨fun hf => by simp at hf, ?_⟩
    rintro ⟨j, hj, ha, hf⟩
    dsimp only at hf
    split at hf
    · next hbad => exact absurd (by simpa using ⟨j, hj, ha, hbad⟩) h
    · simp at hf

/-- The mask bits that a comparison writes. -/
def vcmpBits (s : State) (op : VCmpOp) (ty : Ty) (e : FReg) (a b : VReg) (m : Mask) : List Bool :=
  (List.range 16).map fun k => decide (k < 512 / ty.width) &&
    (if (fr s m.k).getLsbD k then (vcmpLane op ty (lanev s ty a k) (lanev s ty b k)).1 else !m.z && (fr s e).getLsbD k)

/-- A ready comparison of lanes. -/
theorem exec_vcmp {h : Hdr} {op : VCmpOp} {ty : Ty} {e : FReg} {a b : VReg} {m : Mask} {s : State} (hr : Ready s h) :
    exec (.vcmp h op ty e a b m) s = .next (owes s h [.f e.toNat (BitVec.ofNat 16 (natOfBits (vcmpBits s op ty e a b m)))]
      (raisedBy (512 / ty.width) (fr s m.k).getLsbD fun k =>
        ⟨0, if (vcmpLane op ty (lanev s ty a k) (lanev s ty b k)).2 then flagNV else 0, 0⟩) 0) := by
  rw [← nvFlag_eq]
  exact issue_mkOp_owesC hr rfl

/-- Lane k of a register of which n lanes from lo on take masked results. -/
def sliceLane (w lo n : Nat) (old : BitVec 512) (act : Nat → Bool) (z : Bool) (r : Nat → FRes) (k : Nat) : Nat :=
  if lo ≤ k ∧ k < lo + n then maskLane (act (k - lo)) z (lane w old k) (r (k - lo)).bits else lane w old k

theorem sliceLane_mod (w lo n : Nat) (old : BitVec 512) (act : Nat → Bool) (z : Bool) (r : Nat → FRes) (k : Nat) :
    sliceLane w lo n old act z r k % 2 ^ w =
      if lo ≤ k ∧ k < lo + n then if act (k - lo) then (r (k - lo)).bits % 2 ^ w else if z then 0 else lane w old k
      else lane w old k := by
  unfold sliceLane
  split
  · exact maskLane_mod ..
  · exact lane_mod ..

section
variable (s : State) (ty src : Ty) (a : VReg) (slice : BitVec 4) (rm : RM) (sat : Bool) (m : Mask)

/-- How many elements a conversion of two types moves. -/
def cvtCount : Nat := 512 / max src.width ty.width

/-- Whether the mask makes element j of a conversion active. -/
def cvtActive (j : Nat) : Bool := (fr s m.k).getLsbD (if cvtCount ty src ≤ 16 then j else 16 * j / cvtCount ty src)

/-- Element j of a conversion. -/
def cvtElement (j : Nat) : FRes :=
  convert ty src rm sat (lane src.width (vr s a) (if ty.width ≤ src.width then j else slice.toNat * cvtCount ty src + j))

/-- The first destination lane of a conversion. -/
def cvtFirst : Nat := if src.width ≤ ty.width then 0 else slice.toNat * cvtCount ty src

/-- The register that a conversion leaves. -/
def cvtResult (d : VReg) : BitVec 512 :=
  packV ty.width ((List.range (512 / ty.width)).map (sliceLane ty.width (cvtFirst ty src slice) (cvtCount ty src) (vr s d)
    (cvtActive s ty src m) m.z (cvtElement s ty src a slice rm sat)))

end

/-- A ready conversion of lanes. -/
theorem exec_vcvt {h : Hdr} {ty src : Ty} {d a : VReg} {slice : BitVec 4} {rm : RM} {sat : Bool} {m : Mask} {s : State} (hr : Ready s h) :
    exec (.vcvt h ty src d a slice rm sat m) s = .next (owes s h [.v d.toNat (cvtResult s ty src a slice rm sat m d)]
      (raisedBy (cvtCount ty src) (cvtActive s ty src m) (cvtElement s ty src a slice rm sat))
      (clampedBy (cvtCount ty src) (cvtActive s ty src m) (cvtElement s ty src a slice rm sat))) := by
  have hfirst : (if src.width ≤ ty.width then 0 else slice.toNat * cvtCount ty src + 0) = cvtFirst ty src slice := rfl
  unfold cvtResult
  rw [← hfirst]
  exact issue_mkOp_owesC hr rfl

/-- Settles O29: the mask that VCMP writes and the register that VCVT writes are packed from their bits and lanes. -/
theorem vectorBits : Obligations.VectorBits := by
  unfold Obligations.VectorBits
  intro h ty d a b m s hr
  refine ⟨issue_laneOp2 hr, issue_laneOp2 hr, issue_laneOp2 hr, issue_laneOp2 hr, issue_laneOp1 hr, fun op => issue_laneOp2 hr,
    fun op => issue_laneOp1 hr, issue_laneOp1 hr, fun c => issue_laneOp hr, fun op e => ⟨_, exec_vcmp hr, fun k hk => ?_⟩,
    fun src slice rm sat => ⟨_, exec_vcvt hr, fun k hk => ?_⟩⟩
  · rw [BitVec.getLsbD_ofNat, decide_eq_true hk, Bool.true_and, testBit_natOfBits, vcmpBits, getD_map_range _ _ _ hk]
  · exact (lane_packV_range _ (lane_fits ty hk) hk).trans (sliceLane_mod ..)

/-! ## Reductions and moves -/

section
variable {h : Hdr} {ty : Ty} {d a b c : VReg} {x y : Reg} {s : State} (hr : Ready s h)
include hr

/-- A ready reduction owes its tree. -/
theorem exec_vred {op : RedOp} {rm : RM} {k : FReg} : exec (.vred h op ty x a rm k) s =
    .next (owesR s h x (cvtBits ty (redTree op ty rm 5
      ((List.range (512 / ty.width)).map fun i => if (fr s k).getLsbD i then lanev s ty a i else redIdentity op ty) 0))) :=
  issue_mkOp_owesC hr rfl

end

/-- Settles O30. -/
theorem vectorReductionsAndMoves : Obligations.VectorReductionsAndMoves := by
  unfold Obligations.VectorReductionsAndMoves
  refine ⟨fun h ty d e a rm m k s hr => ⟨fun op => exec_vred hr, fun op => ⟨_, rfl, issue_mkOp_owesC hr rfl⟩⟩,
    fun h ty d a b c x y k m s hr => ⟨issue_laneOp hr, issue_laneOp1 hr, issue_laneOp hr, issue_laneOp hr, issue_laneOp hr,
      issue_laneOp hr, issue_mkOp_owesC hr rfl, issue_mkOp_owesC hr rfl⟩⟩

/-! ## Mask registers and vector memory -/

section
variable {i : Instr} {h : Hdr} {reads writes : List RegRef} {body : Env → Core → Out} {ty : Ty} {d : VReg} {m : Mask} {s : State}
  {ea : Nat → Nat}

/-- A ready load of a lane per address, all of which pass their checks. -/
theorem issue_gather (hr : Ready s h) (hok : accessOk s loads (ty.width / 8) (ty.width / 8) ((liveLanes s ty m.k).map ea))
    (hb : body (focusEnv s (encode i)) (focused s) = gatherLanes (focused s) ty m (vr s d) d ea) :
    issue (mkOp i h .l reads writes body) s = .next (owesLanes s h ty.width d m fun i =>
      laneVal (if (fr s m.k).getLsbD i then (focused s).sram.readLE (ea i) (ty.width / 8) else 0)) :=
  issue_mkOp_owesC hr (hb.trans (withAccess_ok hok _))

/-- A ready store of a lane per address, all of which pass their checks. -/
theorem issue_scatter (hr : Ready s h) (hok : accessOk s stores (ty.width / 8) (ty.width / 8) ((liveLanes s ty m.k).map ea))
    (hb : body (focusEnv s (encode i)) (focused s) = scatterLanes (focused s) ty m (vr s d) ea) :
    issue (mkOp i h .s reads writes body) s = .next (did s { focused s with
      sram := (liveLanes s ty m.k).foldl (fun mem i => mem.writeLE (ea i) (ty.width / 8) (lanev s ty d i)) (focused s).sram }) :=
  issue_mkOp_done hr (hb.trans (withAccess_ok hok _)) rfl rfl

end

/-- A ready load of a register. -/
theorem exec_vld {h : Hdr} {d : VReg} {mo : MemOp} {s : State} (hr : Ready s h) (hok : accessOk s loads 64 64 [memAddr s mo]) :
    exec (.vld h d mo) s = .next (owesV s h d (BitVec.ofNat 512 ((focused s).sram.readLE (memAddr s mo) 64))) :=
  issue_mkOp_owesC hr (withAccess_ok hok _)

/-- A ready store of a register. -/
theorem exec_vst {h : Hdr} {d : VReg} {mo : MemOp} {s : State} (hr : Ready s h) (hok : accessOk s stores 64 64 [memAddr s mo]) :
    exec (.vst h d mo) s = .next (didStore s (memAddr s mo) (leBytes (vr s d).toNat 64)) := by
  rw [← byteSlice_zero]
  exact issue_mkOp_done hr (withAccess_ok hok _) (storeBytes_pending _ _ _) (storeBytes_pc _ _ _)

/-- Settles O31. -/
theorem masksAndVectorMemory : Obligations.MasksAndVectorMemory := by
  unfold Obligations.MasksAndVectorMemory
  refine ⟨fun h d a b s hr => ⟨issue_mkOp_owesC hr rfl, issue_mkOp_owesC hr rfl, issue_mkOp_owesC hr rfl, issue_mkOp_owesC hr rfl,
      issue_mkOp_owesC hr rfl, issue_mkOp_owesC hr rfl, issue_mkOp_owesC hr rfl⟩,
    fun h ty d off x y sc m mo s hr => ⟨exec_vld hr, exec_vst hr,
      fun hok => issue_gather hr hok rfl, fun hok => issue_scatter hr hok rfl, fun hok => issue_gather hr hok rfl,
      fun hok => issue_scatter hr hok rfl⟩⟩

/-! ## Dot products, matrix step, random numbers -/

/-- Lane 32 of a register packed from sixteen lanes. -/
theorem lane_packV_sixteen (f : Nat → Nat) {k : Nat} (hk : k < 16) : lane 32 (packV 32 ((List.range 16).map f)) k = f k % 2 ^ 32 :=
  lane_packV_range f (by omega) hk

/-- A sum of four terms, added up from 0. -/
theorem foldl_range_four (f : Nat → Int) : (List.range 4).foldl (fun acc k => acc + f k) 0 = f 0 + f 1 + f 2 + f 3 := by
  simp [List.range_succ]

/-- Eight elements of a 4 × 4 matrix: rows 2q and 2q + 1. -/
def matRows (el : Nat → Nat → FRes) (q : Nat) : List FRes := (List.range 8).map fun l => el (2 * q + l / 4) (l % 4)

/-- The flags of a matrix's elements, in the order of its rows. -/
theorem matRows_flags (el : Nat → Nat → FRes) : (matRows el 0 ++ matRows el 1).foldl (fun f r => f ||| r.flags) 0 =
    raisedBy 16 (fun _ => true) fun k => el (k / 4) (k % 4) := rfl

/-- An element of a matrix in the registers of its rows. -/
theorem lane_matRows (el : Nat → Nat → FRes) (q p : Nat) {j : Nat} (hp : p < 2) (hj : j < 4) :
    lane 64 (packV 64 ((matRows el q).map (·.bits))) (4 * p + j) = (el (2 * q + p) j).bits % 2 ^ 64 := by
  rw [matRows, List.map_map, lane_packV_range _ (by omega) (by omega)]
  simp only [Function.comp, show (4 * p + j) / 4 = p by omega, show (4 * p + j) % 4 = j by omega]

section
variable (s : State) (rm : RM) (a b c : VReg)

/-- Element (i, j) of the matrix in the registers from v[r] on. -/
def dmmaSource (r : VReg) (i j : Nat) : Nat := lane 64 (readV (focused s) .main (r.toNat + i / 2)) (4 * (i % 2) + j)

/-- Element (i, j) of A · B + C, with the flags of its four steps. -/
def dmmaElement (i j : Nat) : FRes :=
  fmaChain rm ((List.range 4).map fun n => (dmmaSource s a i n, dmmaSource s b n j)) ⟨dmmaSource s c i j, 0, 0⟩

end

/-- A ready DMMA owes the rows of A · B + C. -/
theorem exec_dmma {h : Hdr} {d a b c : VReg} {rm : RM} {s : State} (hr : Ready s h)
    (hg : anyClash [vgroup 2 d, vgroup 2 a, vgroup 2 b, vgroup 2 c] = false) :
    exec (.dmma h d a b c rm) s = .next (owes s h
      [.v d.toNat (packV 64 ((matRows (dmmaElement s rm a b c) 0).map (·.bits))),
        .v (d.toNat + 1) (packV 64 ((matRows (dmmaElement s rm a b c) 1).map (·.bits)))]
      (raisedBy 16 (fun _ => true) fun k => dmmaElement s rm a b c (k / 4) (k % 4)) 0) := by
  rw [← matRows_flags]
  exact issue_long (c := focused s) hr (allowed_groups hg) rfl rfl hr.plain.pending rfl

/-- Ten Philox rounds of lane-quad j of a register, under the key in x[k]. -/
def philoxQuad (s : State) (k : Reg) (c : VReg) (j : Nat) : Nat × Nat × Nat × Nat :=
  philox 10 (lane 32 (vr s c) (4 * j)) (lane 32 (vr s c) (4 * j + 1)) (lane 32 (vr s c) (4 * j + 2)) (lane 32 (vr s c) (4 * j + 3))
    ((xr s k).toNat % 2 ^ 32) ((xr s k).toNat / 2 ^ 32)

/-- Four quads, one after the other, as lanes. -/
def quadLanes (r : Nat → Nat × Nat × Nat × Nat) : List Nat :=
  (List.range 4).flatMap fun j => [(r j).1, (r j).2.1, (r j).2.2.1, (r j).2.2.2]

/-- A ready VRNG owes four quads of Philox words. -/
theorem exec_vrng {h : Hdr} {d : VReg} {k : Reg} {c : VReg} {s : State} (hr : Ready s h) :
    exec (.vrng h d k c) s = .next (owesV s h d (packV 32 (quadLanes (philoxQuad s k c)))) := by
  refine (issue_mkOp_owesC hr rfl).trans ?_
  simp only [Nat.shiftRight_eq_div_pow]
  rfl

theorem quadLanes_getD (r : Nat → Nat × Nat × Nat × Nat) {j : Nat} (hj : j < 4) :
    (quadLanes r).getD (4 * j) 0 = (r j).1 ∧ (quadLanes r).getD (4 * j + 1) 0 = (r j).2.1 ∧
      (quadLanes r).getD (4 * j + 2) 0 = (r j).2.2.1 ∧ (quadLanes r).getD (4 * j + 3) 0 = (r j).2.2.2 := by
  interval_cases j <;> exact ⟨rfl, rfl, rfl, rfl⟩

/-- Settles O32. -/
theorem dotProducts : Obligations.DotProducts := by
  unfold Obligations.DotProducts
  intro h d a b c k m rm s hr
  refine ⟨fun e5 => ⟨_, issue_mkOp_owesC hr rfl, fun i hi => ?_, fun i h4 hi => ?_⟩, fun uns sat => ?_, fun hg => ?_, ?_⟩
  · refine (lane_packV_sixteen _ (by omega)).trans ?_
    rw [if_pos hi]
    exact maskLane_mod ..
  · refine (lane_packV_sixteen _ hi).trans ?_
    rw [if_neg (by omega)]
    rfl
  · refine (issue_laneOp hr).trans ?_
    simp only [foldl_range_four]
    rfl
  · refine ⟨_, _, exec_dmma hr hg, fun i j hi hj => ?_⟩
    by_cases h2 : i < 2
    · rw [if_pos h2, lane_matRows _ _ _ (Nat.mod_lt _ (by decide)) hj, show 2 * 0 + i % 2 = i by omega]
      rfl
    · rw [if_neg h2, lane_matRows _ _ _ (Nat.mod_lt _ (by decide)) hj, show 2 * 1 + i % 2 = i by omega]
      rfl
  · refine ⟨_, exec_vrng hr, fun j hj => ?_⟩
    obtain ⟨h0, h1, h2, h3⟩ := quadLanes_getD (philoxQuad s k c) hj
    rw [lane_packV _ (by omega), lane_packV _ (by omega), lane_packV _ (by omega), lane_packV _ (by omega), h0, h1, h2, h3]
    exact ⟨rfl, rfl, rfl, rfl⟩

end Sys2Proof.Proofs

/-! Block instructions at a ready core (R185 to R193, R356 to R365). -/

namespace Sys2Proof.Proofs
open Sys2Proof Sys2Proof.Machine Sys2Proof.Laws

/-! ## Numbers of blocks -/

/-- A shift to the right of an integer is a floored quotient. -/
theorem align_of_nonneg (v : Int) {s : Int} (hs : 0 ≤ s) : align v s = v / 2 ^ s.toNat := by
  rw [align, if_pos hs, Int.shiftRight_eq_div_pow]
  push_cast
  rfl

/-- A natural number cut by a shift. -/
theorem align_natCast (m n : Nat) : align (m : Int) (n : Int) = ((m / 2 ^ n : Nat) : Int) := by
  rw [align_of_nonneg _ (Int.natCast_nonneg n), Int.toNat_natCast]
  push_cast
  rfl

/-- A natural number clamped from above. -/
theorem satcnt_natCast (m hi : Nat) : satcnt (m : Int) 0 hi = (((min hi m : Nat) : Int), if hi < m then 1 else 0) := by
  unfold satcnt
  rw [if_neg (by omega)]
  split
  · rw [if_pos (by omega)]
    congr 1
    omega
  · rw [if_neg (by omega)]
    congr 1
    omega

/-- How many members of a list pass a test, added up one by one. -/
theorem foldl_count {α : Type} (p : α → Bool) (l : List α) (n : Nat) :
    l.foldl (fun n x => n + if p x then 1 else 0) n = n + (l.filter p).length := by
  induction l generalizing n with
  | nil => rfl
  | cons x xs ih =>
    rw [List.foldl_cons, ih, List.filter_cons]
    split
    · rw [List.length_cons]; omega
    · rw [Nat.add_zero]

/-- The members of a list that a pairing with their images keeps. -/
theorem filter_zip_map {α β : Type} (f : α → β) (p : α × β → Bool) (l : List α) :
    ((l.zip (l.map f)).filter p).length = (l.filter fun x => p (x, f x)).length := by
  induction l with
  | nil => rfl
  | cons x xs ih => simp only [List.map_cons, List.zip_cons_cons, List.filter_cons]; split <;> simp [ih]

/-! ## Instructions with register groups -/

section
variable {i : Instr} {h : Hdr} {cls : LaClass} {reads writes : List RegRef} {body : Env → Core → Out} {gs : List (List RegRef)} {s : State}

/-- A ready long-latency instruction whose register groups do not overlap in part. -/
theorem issue_groups_owesC {dests : List DestVal} {flags : BitVec 5} {n : Counts} (hr : Ready s h) (hg : anyClash gs = false)
    (hb : body (focusEnv s (encode i)) (focused s) = .ok { core := focused s, dests := dests, flags := flags, counts := n }) :
    issue { mkOp i h .l reads writes body with groups := gs } s = .next (owesC s h dests flags n) :=
  issue_long (c := focused s) hr (allowed_groups hg) rfl hb hr.plain.pending rfl

/-- A ready instruction whose register groups do not overlap in part, and that traps. -/
theorem issue_groups_trap {code : BitVec 8} {v : Word} (hr : Ready s h) (hg : anyClash gs = false)
    (hb : body (focusEnv s (encode i)) (focused s) = .trap code v) :
    issue { mkOp i h cls reads writes body with groups := gs } s = .next (trapped s code v) :=
  exec_trap hr (allowed_groups hg) hb

end

/-! ## Conversion -/

/-- A body over a block of which the exponent is not 255. -/
theorem withBlock_ok {v : BitVec 512} (hE : (blockIn v).E ≠ 255) (k : Block → Out) : withBlock v k = k (blockIn v) := if_neg hE

/-- A body over a block whose exponent is 255 traps. -/
theorem withBlock_bad {v : BitVec 512} (hE : (blockIn v).E = 255) (k : Block → Out) : withBlock v k = .trap eFormat (codeVal 15) := if_pos hE

/-- What BCVT owes of a source group. -/
def bcvtResult (src : Ty) (g : GroupSize) (tab : Bool) (w : Word) (bits : Nat) : List Block × Counts :=
  if src = .e2m1 then
    ([(mxBlock (wfield w 16 8) (wfield w 0 8) (groupCodes src bits 32)).1], (mxBlock (wfield w 16 8) (wfield w 0 8) (groupCodes src bits 32)).2)
  else blocksOf (if tab then wfield w 8 8 else dynE (groupData src bits g.count)) (wfield w 0 8) (g.count / 32) (groupData src bits g.count)

section
variable {h : Hdr} {src : Ty} {g : GroupSize} {tab : Bool} {d a : VReg} {x : Reg} {p : Planes} {s : State}

theorem exec_bcvt (hr : Ready s h) (htab : (tab && (wfield (xr s x) 8 8 == 0 || wfield (xr s x) 8 8 == 255)) = false) :
    exec (.bcvt h src g tab d a x) s =
      (let r := bcvtResult src g tab (xr s x) (groupBits (focusEnv s 0) (focused s) a (blockSrcRegs src g))
       .next (owesC s h (r.1.zipIdx.map fun b => .v (d.toNat + b.2) (b.1.setWidth 512)) 0 r.2)) :=
  issue_mkOp_owesC hr (if_neg (ne_true_of_eq_false htab))

theorem exec_bcvt_bad (hr : Ready s h) (hbad : wfield (xr s x) 8 8 = 0 ∨ wfield (xr s x) 8 8 = 255) :
    exec (.bcvt h src g true d a x) s = .next (trapped s eFormat (BitVec.ofNat 64 (2 ^ 63 + wfield (xr s x) 8 8))) := by
  refine issue_mkOp_trap hr (if_pos ?_)
  rw [Bool.true_and, Bool.or_eq_true, beq_iff_eq, beq_iff_eq]
  exact hbad

theorem exec_bunp (hr : Ready s h) (hg : anyClash [[.v a.toNat], vgroup 2 d] = false) (hE : (blockIn (vr s a)).E ≠ 255) :
    exec (.bunp h p d a) s = .next (owes s h
      [.v d.toNat (packV 32 ((List.range 16).map fun i => unpackElem (blockIn (vr s a)) (planeCount p) i)),
        .v (d.toNat + 1) (packV 32 ((List.range 16).map fun i => unpackElem (blockIn (vr s a)) (planeCount p) (16 + i)))] 0 0) :=
  issue_groups_owesC hr hg (withBlock_ok hE _)

theorem exec_bunp_bad (hr : Ready s h) (hg : anyClash [[.v a.toNat], vgroup 2 d] = false) (hE : (blockIn (vr s a)).E = 255) :
    exec (.bunp h p d a) s = .next (trapped s eFormat (BitVec.ofNat 64 (2 ^ 63 + 15))) :=
  issue_groups_trap hr hg (withBlock_bad hE _)

/-- A zero block has no exponent of 255. -/
theorem ne_of_zero {n : Nat} (h : n = 0) : n ≠ 255 := by omega

theorem exec_bsat_zero (hr : Ready s h) (hE : (blockIn (vr s a)).E = 0) :
    exec (.bsat h p d a) s = .next (owesV s h d ((blockIn (vr s a)).setWidth 512)) :=
  issue_mkOp_owesC hr ((withBlock_ok (v := vr s a) (ne_of_zero hE) _).trans (if_pos hE))

theorem exec_bsat (hr : Ready s h) (hE : (blockIn (vr s a)).E ≠ 255) (h0 : (blockIn (vr s a)).E ≠ 0) :
    exec (.bsat h p d a) s =
      (let ms := (blockIn (vr s a)).mags.map (roundMag (planeCount p))
       .next (owes s h [.v d.toNat (((blockIn (vr s a)).withMags (blockIn (vr s a)).E (ms.map fun m => m.1.toNat)).setWidth 512)] 0
         (ms.foldl (fun n m => n + m.2) 0))) :=
  issue_mkOp_owesC hr ((withBlock_ok hE _).trans (if_neg h0))

theorem exec_bsat_bad (hr : Ready s h) (hE : (blockIn (vr s a)).E = 255) :
    exec (.bsat h p d a) s = .next (trapped s eFormat (BitVec.ofNat 64 (2 ^ 63 + 15))) :=
  issue_mkOp_trap hr (withBlock_bad hE _)

/-- A magnitude under another exponent, and whether it clamps. -/
def alignedMag (E e m : Nat) : Int × Nat :=
  if E ≤ e then (align (m : Int) (e - E : Nat), 0) else satcnt ((m : Int) * 2 ^ (E - e)) 0 255

/-- Under an exponent that is no smaller a magnitude is cut. -/
theorem alignedMag_le {E e : Nat} (h : E ≤ e) (m : Nat) : alignedMag E e m = (((m / 2 ^ (e - E) : Nat) : Int), 0) := by
  rw [alignedMag, if_pos h, align_natCast]

/-- Under a smaller exponent a magnitude is clamped. -/
theorem alignedMag_lt {E e : Nat} (h : e < E) (m : Nat) :
    alignedMag E e m = (((min 255 (m * 2 ^ (E - e)) : Nat) : Int), if 255 < m * 2 ^ (E - e) then 1 else 0) := by
  have hcast : (m : Int) * 2 ^ (E - e) = ((m * 2 ^ (E - e) : Nat) : Int) := by push_cast; rfl
  rw [alignedMag, if_neg (by omega), hcast]
  exact satcnt_natCast _ 255

/-- BALIGN looks at its block once the exponent of x[S2] is one of a block. -/
theorem balign_table {o k : Out} {e : Nat} (h0 : e ≠ 0) (h255 : e ≠ 255) : (if e = 0 || e = 255 then o else k) = k :=
  if_neg (by simp [h0, h255])

theorem exec_balign_table (hr : Ready s h) (hbad : wfield (xr s x) 0 8 = 0 ∨ wfield (xr s x) 0 8 = 255) :
    exec (.balign h d a x) s = .next (trapped s eFormat (BitVec.ofNat 64 (2 ^ 63 + wfield (xr s x) 0 8))) := by
  refine issue_mkOp_trap hr (if_pos ?_)
  rw [Bool.or_eq_true, decide_eq_true_eq, decide_eq_true_eq]
  exact hbad

section
variable (hr : Ready s h) (h0 : wfield (xr s x) 0 8 ≠ 0) (h255 : wfield (xr s x) 0 8 ≠ 255)
include hr h0 h255

theorem exec_balign_bad (hE : (blockIn (vr s a)).E = 255) :
    exec (.balign h d a x) s = .next (trapped s eFormat (BitVec.ofNat 64 (2 ^ 63 + 15))) :=
  issue_mkOp_trap hr ((balign_table h0 h255).trans (withBlock_bad hE _))

theorem exec_balign_zero (hE : (blockIn (vr s a)).E = 0) :
    exec (.balign h d a x) s = .next (owesV s h d ((blockIn (vr s a)).setWidth 512)) :=
  issue_mkOp_owesC hr ((balign_table h0 h255).trans ((withBlock_ok (v := vr s a) (ne_of_zero hE) _).trans (if_pos hE)))

/-- A ready BALIGN on a block that is no zero block. -/
theorem exec_balign (hE : (blockIn (vr s a)).E ≠ 255) (hne : (blockIn (vr s a)).E ≠ 0) : exec (.balign h d a x) s =
    (let b := blockIn (vr s a)
     let e := wfield (xr s x) 0 8
     let ms := b.mags.map (alignedMag b.E e)
     .next (owesC s h [.v d.toNat ((b.withMags e (ms.map fun m => m.1.toNat)).setWidth 512)] 0
       ⟨ms.foldl (fun n m => n + m.2) 0, 0, ((b.mags.zip ms).filter fun p => p.1 != 0 && p.2.1 == 0).length⟩)) :=
  issue_mkOp_owesC hr ((balign_table h0 h255).trans ((withBlock_ok (v := vr s a) hE _).trans (if_neg hne)))

/-- A ready BALIGN on a block that is no zero block, by a natural number for each magnitude. -/
theorem exec_balign_of (hE : (blockIn (vr s a)).E ≠ 255) (hne : (blockIn (vr s a)).E ≠ 0) {f : Nat → Nat} {c : Nat → Bool}
    (hf : ∀ m, alignedMag (blockIn (vr s a)).E (wfield (xr s x) 0 8) m = ((f m : Int), if c m then 1 else 0)) :
    exec (.balign h d a x) s = .next (owesC s h
      [.v d.toNat (((blockIn (vr s a)).withMags (wfield (xr s x) 0 8) ((blockIn (vr s a)).mags.map f)).setWidth 512)] 0
      ⟨((blockIn (vr s a)).mags.filter c).length, 0, ((blockIn (vr s a)).mags.filter fun m => m != 0 && f m == 0).length⟩) := by
  have hzero : ∀ m, ((f m : Int) == 0) = (f m == 0) := fun m => by rw [Bool.eq_iff_iff, beq_iff_eq, beq_iff_eq, Int.natCast_eq_zero]
  rw [exec_balign hr h0 h255 hE hne]
  simp [hf, hzero, Function.comp_def, List.foldl_map, foldl_count, filter_zip_map]

end

end

/-- Settles O33: each branch of an entry is one of the body's. -/
theorem blockConversion : Obligations.BlockConversion := by
  unfold Obligations.BlockConversion
  refine ⟨fun h src g d a x s hr => ⟨fun hsrc => ⟨?_, fun h0 h255 => ?_⟩, fun hsrc => ?_, exec_bcvt_bad hr, fun e => issue_mkOp_owesX hr rfl⟩,
    fun h p d a x s hr => ⟨fun hE => ⟨fun hg => exec_bunp hr hg hE, fun hz => ⟨exec_bsat_zero hr hz, fun h0 h255 => exec_balign_zero hr h0 h255 hz⟩,
      fun hne => ⟨exec_bsat hr hE hne, fun h0 h255 => ⟨fun hle => ?_, fun hlt => ?_⟩⟩⟩,
      fun hE => ⟨fun hg => exec_bunp_bad hr hg hE, exec_bsat_bad hr hE, fun h0 h255 => exec_balign_bad hr h0 h255 hE⟩, exec_balign_table hr⟩⟩
  · simpa [bcvtResult, hsrc] using exec_bcvt (src := src) (g := g) (tab := false) (d := d) (a := a) (x := x) hr rfl
  · simpa [bcvtResult, hsrc] using exec_bcvt (src := src) (g := g) (tab := true) (d := d) (a := a) (x := x) hr (by simp [h0, h255])
  · subst hsrc
    exact exec_bcvt hr rfl
  · refine (exec_balign_of hr h0 h255 hE hne (c := fun _ => false) fun m => alignedMag_le hle m).trans ?_
    have htest : ∀ m k : Nat, (m != 0 && k == 0) = decide (m ≠ 0 ∧ k = 0) := fun m k => by
      rw [Bool.eq_iff_iff]; simp
    simp only [htest, List.filter_false, List.length_nil]
  · refine (exec_balign_of hr h0 h255 hE hne
      (f := fun m => min 255 (m * 2 ^ ((blockIn (vr s a)).E - wfield (xr s x) 0 8))) (c := fun m => decide (255 < m * 2 ^ ((blockIn (vr s a)).E - wfield (xr s x) 0 8)))
      fun m => ?_).trans ?_
    · rw [alignedMag_lt hlt]; simp
    · have hnone : ((blockIn (vr s a)).mags.filter fun m =>
          m != 0 && min 255 (m * 2 ^ ((blockIn (vr s a)).E - wfield (xr s x) 0 8)) == 0) = [] := by
        simp
      rw [hnone]
      rfl

end Sys2Proof.Proofs

/-! Tensor instructions at a ready core (R192 to R206, R363 to R380): block checks, slots, tile loads, the products of the array,
and access to tiles. -/

namespace Sys2Proof.Proofs
open Sys2Proof Sys2Proof.Machine Sys2Proof.Laws

/-! ## Stalls and sends -/

/-- A ready instruction that stalls draws a number of free values and does nothing else. -/
theorem issue_stalls {op : Op} {s : State} (hr : Ready s op.h) (ha : Allowed op (focusEnv s op.word) (focused s))
    (hb : op.body (focusEnv s op.word) (focused s) = .stall) : issue op s = .next { s with freeCtr := s.freeCtr + 1 } := by
  rw [issue_ready hr ha, hb]
  rfl

/-- What a core sends changes its flits and their counts alone. -/
theorem send_shape (c : Core) (cls : Nat) (fs : List Flit) : ∃ egress behind injected delivered, send c cls fs =
    { c with egress := egress, behind := behind, injected := injected, delivered := delivered } := by
  unfold send
  split <;> exact ⟨_, _, _, _, rfl⟩

@[simp] theorem send_pending (c : Core) (cls : Nat) (fs : List Flit) : (send c cls fs).pending = c.pending := by
  obtain ⟨e, b, i, d, h⟩ := send_shape c cls fs
  rw [h]

@[simp] theorem send_pc (c : Core) (cls : Nat) (fs : List Flit) : (send c cls fs).pc = c.pc := by
  obtain ⟨e, b, i, d, h⟩ := send_shape c cls fs
  rw [h]

/-! ## Tensor instructions -/

section
variable {i : Instr} {h : Hdr} {cls : LaClass} {reads writes : List RegRef} {body : Env → Core → Out} {s : State}

/-- A tensor instruction has no condition of its own above a hazard. -/
theorem allowed_tensorOp {env : Env} {c : Core} : Allowed (tensorOp i h cls reads writes body) env c := ⟨rfl, rfl, rfl, rfl, rfl, rfl, rfl⟩

/-- A ready tensor instruction that traps. -/
theorem issue_tensor_trap {code : BitVec 8} {v : Word} (hr : Ready s h) (hb : body (focusEnv s (encode i)) (focused s) = .trap code v) :
    issue (tensorOp i h cls reads writes body) s = .next (trapped s code v) :=
  exec_trap hr allowed_tensorOp hb

/-- A ready long-latency tensor instruction. -/
theorem issue_tensor_owes {dests : List DestVal} {flags : BitVec 5} {n : Counts} (hr : Ready s h)
    (hb : body (focusEnv s (encode i)) (focused s) = .ok { core := focused s, dests := dests, flags := flags, counts := n }) :
    issue (tensorOp i h .l reads writes body) s = .next (owesC s h dests flags n) :=
  issue_long (c := focused s) hr allowed_tensorOp rfl hb hr.plain.pending rfl

/-- A ready short tensor instruction that writes a slot. -/
theorem issue_tensor_slot {n : Nat} {sl : Slot} (hr : Ready s h)
    (hb : body (focusEnv s (encode i)) (focused s) = .ok { core := focused s, dests := [.t n sl] }) :
    issue (tensorOp i h .s reads writes body) s = .next (did s (writeSlot (focused s) n sl)) := by
  rw [exec_short hr allowed_tensorOp (.inl rfl) hb hr.plain.pending]
  simp [applyDest, past, did]

/-- A ready array instruction. -/
theorem issue_tensor_tile {n sat : Nat} {a : BitVec 2} {t : Tile} (hr : Ready s h)
    (hb : body (focusEnv s (encode i)) (focused s) = .ok { core := focused s, dests := [.a a.toNat t], counts := ⟨sat, 0, 0⟩ }) :
    issue (tensorOp i h (.array n) reads writes body) s = .next (owesTile s h a t sat) := by
  rw [exec_array (n := n) hr allowed_tensorOp rfl hb hr.plain.pending rfl rfl rfl rfl]
  rfl

end

/-! ## Slots -/

/-- Slots that are claimed let a body go on. -/
theorem withSlots_ok {c : Core} {ts : List Nat} (hc : ∀ n, n ∈ ts → (readSlot c n).claimed = true) (k : Out) : withSlots c ts k = k := by
  have hnone : unclaimed c ts = none := by
    rw [unclaimed, List.find?_eq_none]
    intro n _ hn
    simp only [Bool.and_eq_true, List.contains_iff_mem, Bool.not_eq_true'] at hn
    rw [hc n hn.1] at hn
    exact absurd hn.2 (by decide)
  rw [withSlots, hnone]

/-- The lowest slot that is not claimed traps. -/
theorem withSlots_bad {c : Core} {ts : List Nat} {n : Nat} (h8 : n < 8) (hn : n ∈ ts) (hc : (readSlot c n).claimed = false)
    (hlow : ∀ m, m ∈ ts → (readSlot c m).claimed = false → n ≤ m) (k : Out) : withSlots c ts k = .trap eSlot (BitVec.ofNat 64 n) := by
  have hsome : unclaimed c ts = some n := by
    rw [unclaimed, List.find?_range_eq_some]
    refine ⟨by simp [hn, hc], List.mem_range.2 h8, fun j hj => ?_⟩
    rw [Bool.not_eq_true', Bool.and_eq_false_iff]
    by_cases hm : j ∈ ts
    · exact .inr (by rw [Bool.not_eq_false']; by_contra hf; exact absurd (hlow j hm (by simpa using hf)) (by omega))
    · exact .inl (by simpa using hm)
  rw [withSlots, hsome]

/-- The one slot of a body is not claimed. -/
theorem withSlots_one {c : Core} {t : BitVec 3} (hc : (readSlot c t.toNat).claimed = false) (k : Out) :
    withSlots c [t.toNat] k = .trap eSlot (t.setWidth 64) := by
  have hlow : ∀ m, m ∈ [t.toNat] → (readSlot c m).claimed = false → t.toNat ≤ m := fun m hm _ => by simp at hm; omega
  rw [withSlots_bad (by have := t.isLt; omega) (by simp) hc hlow k, BitVec.ofNat_toNat]

/-- The lower of two slots that are not both claimed. -/
theorem withSlots_two {c : Core} {t u n : BitVec 3}
    (hn : (n = t ∧ (readSlot c t.toNat).claimed = false ∧ ((readSlot c u.toNat).claimed = true ∨ t.toNat ≤ u.toNat)) ∨
      (n = u ∧ (readSlot c u.toNat).claimed = false ∧ ((readSlot c t.toNat).claimed = true ∨ u.toNat ≤ t.toNat))) (k : Out) :
    withSlots c [t.toNat, u.toNat] k = .trap eSlot (n.setWidth 64) := by
  have h8 : n.toNat < 8 := n.isLt
  rw [← BitVec.ofNat_toNat]
  rcases hn with ⟨rfl, hc, ho⟩ | ⟨rfl, hc, ho⟩
  · refine withSlots_bad h8 (by simp) hc (fun m hm hmc => ?_) k
    rcases List.mem_pair.1 hm with rfl | rfl
    · exact le_refl _
    · exact ho.resolve_left (by rw [hmc]; decide)
  · refine withSlots_bad h8 (by simp) hc (fun m hm hmc => ?_) k
    rcases List.mem_pair.1 hm with rfl | rfl
    · exact ho.resolve_left (by rw [hmc]; decide)
    · exact le_refl _

theorem slotPending_nil {c : Core} (hp : c.pending = []) (x : Ctx) (n : Nat) : slotPending c x n = false := by
  simp [slotPending, pendingOf, hp]

/-! ## Block checks and slots -/

section
variable {h : Hdr} {a b : Reg} {t : BitVec 3} {s : State} (hr : Ready s h)
include hr

theorem exec_bchk (hE : wfield (xr s a) 0 8 ≠ 255) : exec (.bchk h a b) s = .next (
    if wfield (xr s a) 24 8 = wfield (xr s b) 0 8 then did s (focused s)
    else trapped s eSkew (BitVec.ofNat 64 (wfield (xr s a) 24 8 + 256 * wfield (xr s b) 0 8))) := by
  by_cases heq : wfield (xr s a) 24 8 = wfield (xr s b) 0 8
  · rw [if_pos heq]
    exact issue_mkOp_done hr ((if_neg hE).trans (if_neg (not_not.2 heq))) rfl rfl
  · rw [if_neg heq]
    exact issue_mkOp_trap hr ((if_neg hE).trans (if_pos heq))

theorem exec_bchk_bad (hE : wfield (xr s a) 0 8 = 255) :
    exec (.bchk h a b) s = .next (trapped s eFormat (BitVec.ofNat 64 (2 ^ 63 + 15))) := issue_mkOp_trap hr (if_pos hE)

theorem exec_bstat (hroom : statRoom s s.focus = true) : exec (.bstat h) s =
    .next (did s { send (focused s) 30 (statFlit (focusEnv s (encode (.bstat h))) (focused s)) with sys := clearCounts (focused s) }) := by
  exact issue_mkOp_done hr (if_pos hroom) (send_pending _ _ _) (send_pc _ _ _)

theorem exec_bstat_stalls (hroom : statRoom s s.focus = false) : exec (.bstat h) s = .next { s with freeCtr := s.freeCtr + 1 } := by
  exact issue_stalls hr allowed_mkOp (if_neg (ne_true_of_eq_false hroom))

theorem exec_trel_bad (hc : (readSlot (focused s) t.toNat).claimed = false) :
    exec (.trel h t) s = .next (trapped s eSlot (t.setWidth 64)) :=
  issue_tensor_trap hr ((if_neg (by rw [slotPending_nil hr.plain.pending]; decide)).trans (withSlots_one hc _))

theorem exec_trel (hc : (readSlot (focused s) t.toNat).claimed = true) :
    exec (.trel h t) s = .next (did s (writeSlot (focused s) t.toNat { readSlot (focused s) t.toNat with claimed := false })) :=
  issue_tensor_slot hr ((if_neg (by rw [slotPending_nil hr.plain.pending]; decide)).trans
    (withSlots_ok (fun n hn => by rw [List.mem_singleton.1 hn]; exact hc) _))

end

/-- Settles O34. -/
theorem blockChecksAndSlots : Obligations.BlockChecksAndSlots := by
  unfold Obligations.BlockChecksAndSlots
  refine ⟨fun h d c a b m s hr => ⟨exec_bchk hr, exec_bchk_bad hr, fun hg => issue_groups_owesC hr hg rfl, exec_bstat hr, fun hl => ?_, exec_bstat_stalls hr⟩,
    fun h t u a s hr => ⟨fun hc => ⟨issue_tensor_slot hr (if_neg (ne_true_of_eq_false hc)), exec_trel_bad hr hc, fun p xa xb fmt tr tab chk =>
      issue_tensor_trap hr (withSlots_one hc _)⟩, fun n hn => ⟨issue_tensor_trap hr (withSlots_two hn _), fun sat => issue_tensor_trap hr (withSlots_two hn _)⟩,
      fun hc => ⟨issue_tensor_trap hr (if_pos hc), exec_trel hr hc⟩⟩⟩
  simp [clearCounts, addedNow, countsBefore, hl]

/-! ## Maps of the entries that are not the default -/

/-- A map made of the numbered entries of a list holds those that the test keeps. -/
theorem ffind_zipIdx_filter {α : Type} (keep : α → Bool) (l : List α) (n k : Nat) :
    ffind (((l.zipIdx n).filter fun p => keep p.1).map fun p => (p.2, p.1)) k =
      if n ≤ k then (l[k - n]?).filter keep else none := by
  induction l generalizing n with
  | nil => simp [ffind]
  | cons x xs ih =>
    have hrest : k ≠ n → ffind (((xs.zipIdx (n + 1)).filter fun p => keep p.1).map fun p => (p.2, p.1)) k =
        if n ≤ k then ((x :: xs)[k - n]?).filter keep else none := fun hk => by
      rw [ih (n + 1)]
      by_cases hle : n + 1 ≤ k
      · rw [if_pos hle, if_pos (by omega), show k - n = k - (n + 1) + 1 by omega, List.getElem?_cons_succ]
      · rw [if_neg hle, if_neg (by omega)]
    rw [List.zipIdx_cons, List.filter_cons]
    by_cases hx : keep x = true
    · rw [if_pos hx, List.map_cons, ffind]
      by_cases hk : k = n
      · subst hk
        rw [if_pos rfl, if_pos (le_refl _), Nat.sub_self, List.getElem?_cons_zero, Option.filter_some_pos hx]
      · rw [if_neg (Ne.symm hk), hrest hk]
    · rw [if_neg hx]
      by_cases hk : k = n
      · subst hk
        rw [ih, if_neg (by omega), if_pos (le_refl _), Nat.sub_self, List.getElem?_cons_zero, Option.filter_some_neg (eq_false_of_ne_true hx)]
      · exact hrest hk

/-- An entry of a map that leaves out the default alone. -/
theorem fget_mapOf {α : Type} [BEq α] [LawfulBEq α] (x : α) (l : List α) (k : Nat) : fget (mapOf (· != x) l) k x = l.getD k x := by
  rw [fget, mapOf, ffind_zipIdx_filter (· != x), if_pos (Nat.zero_le _), Nat.sub_zero, List.getD_eq_getElem?_getD]
  cases l[k]? with
  | none => rfl
  | some y =>
    rw [Option.filter_some]
    split
    · rfl
    · next hy => exact (not_not.1 (bne_iff_ne.not.1 hy)).symm

/-! ## Tile loads -/

/-- Counts of the members of a list, added up. -/
theorem foldl_counts {α : Type} (f : α → Counts) (l : List α) (n : Counts) : l.foldl (fun n r => n.add (f r)) n =
    ⟨n.sat + (l.map fun r => (f r).sat).sum, n.nan + (l.map fun r => (f r).nan).sum, n.ufl + (l.map fun r => (f r).ufl).sum⟩ := by
  induction l generalizing n with
  | nil => rfl
  | cons x xs ih => rw [List.foldl_cons, ih]; simp [Counts.add, Nat.add_assoc]

theorem leNat_lt (bs : List Byte) : leNat bs < 2 ^ (8 * bs.length) := by
  induction bs with
  | nil => exact Nat.one_pos
  | cons b bs ih =>
    have hb := b.isLt
    rw [leNat, List.length_cons, Nat.mul_succ, Nat.pow_add]
    omega

theorem length_readBytes (m : Memory) (a n : Nat) : (m.readBytes a n).length = n := by
  induction n generalizing a with
  | zero => rfl
  | succ n ih => rw [Memory.readBytes, List.length_cons, ih]

theorem readLE_lt (m : Memory) (a n : Nat) : m.readLE a n < 2 ^ (8 * n) := by
  have := leNat_lt (m.readBytes a n)
  rwa [length_readBytes] at this

/-- Terms that are all multiples add up to a multiple. -/
theorem dvd_foldl_add {f : Nat → Nat} {d : Nat} (hf : ∀ p, d ∣ f p) (l : List Nat) (n : Nat) (hn : d ∣ n) :
    d ∣ l.foldl (fun acc p => acc + f p) n := by
  induction l generalizing n with
  | nil => exact hn
  | cons p l ih => exact ih _ (Nat.dvd_add hn (hf p))

/-- The header of a block as it stands in SRAM. -/
theorem nbRow_header (t : TileSrc) (c : Core) (i : Nat) : (t.nbRow c i).toNat % 2 ^ 64 = c.sram.readLE (t.h + 8 * t.r * i) 8 := by
  have hplanes := dvd_foldl_add (f := fun p => c.sram.readLE (t.l + t.ps * p + 4 * t.r * i) 4 * 2 ^ (64 + 32 * p)) (d := 2 ^ 64)
    (fun p => Dvd.dvd.mul_left (Nat.pow_dvd_pow 2 (Nat.le_add_right _ _)) _) (List.range t.planes) 0 (Nat.dvd_zero _)
  rw [TileSrc.nbRow, BitVec.toNat_ofNat, Nat.mod_mod_of_dvd _ (Nat.pow_dvd_pow 2 (by decide : 64 ≤ 320)), Nat.add_mod,
    Nat.mod_eq_zero_of_dvd hplanes, Nat.add_zero, Nat.mod_mod]
  exact Nat.mod_eq_of_lt (readLE_lt _ _ 8)

/-- Rows of blocks and of bytes are counted as they stand. -/
theorem row_counts {t : TileSrc} (hf : t.fmt = .nb ∨ t.fmt = .i8) (c : Core) (i : Nat) : (t.row c i).2 = {} := by
  rcases hf with hf | hf <;> simp [TileSrc.row, hf]

/-- A row of blocks is the block that stands in SRAM. -/
theorem row_nb {t : TileSrc} (hf : t.fmt = .nb) (c : Core) (i : Nat) : (t.row c i).1 = t.nbRow c i := by
  simp [TileSrc.row, hf]

/-- What an instruction of the task in focus reads of an x register. -/
theorem focusEnv_x (s : State) (w : Word) (r : Reg) : (focusEnv s w).x (focused s) r = xr s r := rfl

/-- The slot that a tile load leaves. -/
def loadedSlot (src : TileSrc) (p : Planes) (c : Core) : Slot :=
  slotOf (src.fmt = .i8) (if src.fmt = .i8 then .p8 else p) (((List.range 16).map (src.row c)).map (·.1))

theorem slotRow_loadedSlot (src : TileSrc) (p : Planes) (c : Core) {i : Nat} (hi : i < 16) :
    slotRow (loadedSlot src p c) i = (src.row c i).1 := by
  rw [slotRow, loadedSlot, slotOf, fget_mapOf, List.map_map, getD_map_range _ _ _ hi]
  rfl

section
variable {h : Hdr} {t : BitVec 3} {p : Planes} {xa xb : Reg} {fmt : Ty} {tr tab chk : Bool} {s : State}

/-- A ready tile load, all of whose rows are read and valid. -/
theorem exec_tld (hr : Ready s h) (hc : (readSlot (focused s) t.toNat).claimed = true) (hf : tldFmtOk fmt = true) {src : TileSrc}
    (hsrc : src = ⟨fmt, tr, tab, chk, planeCount p, xr s xa, xr s xb⟩) (hreads : checkReads (focused s) src.reads = none)
    (hlate : src.late (focused s) = none) : exec (.tld h t p xa xb fmt tr tab chk) s =
      .next (owesC s h [.t t.toNat (loadedSlot src p (focused s))] 0
        (((List.range 16).map (src.row (focused s))).foldl (fun n r => n.add r.2) {})) := by
  subst hsrc
  have hbody : ∀ k : Out, (if !tldFmtOk fmt then .trap eFormat (codeVal (tyNumber fmt)) else k) = k := fun k => if_neg (by rw [hf]; decide)
  refine issue_tensor_owes hr ((withSlots_ok (fun n hn => by rw [List.mem_singleton.1 hn]; exact hc) _).trans ((hbody _).trans ?_))
  simp only [focusEnv_x, hreads, hlate]
  rfl

end

/-- Settles O35. -/
theorem tileLoad : Obligations.TileLoad := by
  unfold Obligations.TileLoad
  intro h t p xa xb fmt tr tab chk s hr src hc hf hreads hlate total
  have hzero : fmt = .nb ∨ fmt = .i8 → ∀ f : Counts → Nat, f {} = 0 → total f = 0 := fun hfmt f h0 => by
    simp only [total, row_counts (t := src) hfmt, h0]
    rfl
  refine ⟨loadedSlot src p (focused s), ?_, fun hfmt => ⟨hzero hfmt _ rfl, hzero hfmt _ rfl, hzero hfmt _ rfl⟩, rfl, rfl, rfl,
    fun i hi => slotRow_loadedSlot src p _ hi, fun hnb i hi => ?_⟩
  · rw [exec_tld hr hc hf rfl hreads hlate, foldl_counts]
    simp only [List.map_map, Nat.zero_add]
    rfl
  · rw [slotRow_loadedSlot src p _ hi, row_nb hnb, nbRow_header]
    rfl

/-! ## The array -/

theorem accView_nil {c : Core} (hp : c.pending = []) (x : Ctx) (n : Nat) : accView c x n = readAcc c n := by
  simp [accView, pendingOf, hp]

/-- The pairs of the rows of two slots. -/
theorem tilePairs_slotRows {β : Type} (f : Block → Block → β) (sa sb : Slot) : tilePairs (fun _ _ x y => f x y) (slotRows sa) (slotRows sb) 0 =
    (List.range 256).map fun k => f (slotRow sa (k / 16)) (slotRow sb (k % 16)) := by
  unfold tilePairs slotRows
  refine List.map_congr_left fun k hk => ?_
  have hk : k < 256 := List.mem_range.1 hk
  rw [getD_map_range _ _ _ (by omega : k / 16 < 16), getD_map_range _ _ _ (by omega : k % 16 < 16)]

section
variable {h : Hdr} {a : BitVec 2} {ta tb : BitVec 3} {s : State}

/-- Two claimed slots in one form let a body go on. -/
theorem withForms_ok {c : Core} {i8 : Bool} (hca : (readSlot c ta.toNat).claimed = true) (hcb : (readSlot c tb.toNat).claimed = true)
    (ha : (readSlot c ta.toNat).i8 = i8) (hb : (readSlot c tb.toNat).i8 = i8) (k : Out) : withForms c i8 ta tb k = k := by
  rw [withForms, withSlots_ok (by simp [hca, hcb]), if_pos (by simp [ha, hb])]

/-- A claimed slot in the other form traps. -/
theorem withForms_bad {c : Core} {i8 : Bool} (hca : (readSlot c ta.toNat).claimed = true) (hcb : (readSlot c tb.toNat).claimed = true)
    (hi : (readSlot c ta.toNat).i8 = !i8 ∨ (readSlot c tb.toNat).i8 = !i8) (k : Out) :
    withForms c i8 ta tb k = .trap eFormat (codeVal (if i8 then 15 else 3)) := by
  rw [withForms, withSlots_ok (by simp [hca, hcb]), if_neg (by rcases hi with hi | hi <;> simp [hi])]

/-- The tile that TMMA leaves, with its exponent and the elements it clamps. -/
def tmmaResult (sa sb : Slot) (acc : Tile) : List Int × Int × Nat :=
  accumulate (tileElems acc) acc.exp.toInt ((List.range 256).map fun k =>
    contribution (slotRow sa (k / 16)) (slotRow sb (k % 16)) (planeCount sa.planes) (planeCount sb.planes))

/-- Of two results that clamp nothing or stand under 511, one that clamps stands under 511. -/
theorem clamps_at_top {p : Prop} [Decidable p] {x z : List Int} {y : Int} {n : Nat}
    (hc : (if p then (x, y, 0) else (z, 511, n) : List Int × Int × Nat).2.2 ≠ 0) :
    (if p then (x, y, 0) else (z, 511, n) : List Int × Int × Nat).2.1 = 511 := by
  by_cases hp : p
  · rw [if_pos hp] at hc; exact absurd rfl hc
  · rw [if_neg hp]

/-- Only under the exponent 511 does a product clamp. -/
theorem accumulate_clamps (acc : List Int) (X : Int) (cs : List (Int × Int × Bool)) (hc : (accumulate acc X cs).2.2 ≠ 0) :
    (accumulate acc X cs).2.1 = 511 := by
  unfold accumulate at hc ⊢
  extract_lets live at hc ⊢
  cases hl : live with
  | nil => rw [hl] at hc; exact absurd rfl hc
  | cons =>
    rw [hl] at hc
    exact clamps_at_top hc

theorem exec_tmma (hr : Ready s h) (hca : (readSlot (focused s) ta.toNat).claimed = true) (hcb : (readSlot (focused s) tb.toNat).claimed = true)
    (ha : (readSlot (focused s) ta.toNat).i8 = false) (hb : (readSlot (focused s) tb.toNat).i8 = false) :
    exec (.tmma h a ta tb) s = (let r := tmmaResult (readSlot (focused s) ta.toNat) (readSlot (focused s) tb.toNat) (readAcc (focused s) a.toNat)
      .next (owesTile s h a (tileOf r.1 r.2.1) r.2.2)) := by
  refine issue_tensor_tile hr ((withForms_ok hca hcb ha hb _).trans ?_)
  simp only [accView_nil hr.plain.pending, tmmaResult, ← tilePairs_slotRows fun x y =>
    contribution x y (planeCount (readSlot (focused s) ta.toNat).planes) (planeCount (readSlot (focused s) tb.toNat).planes)]

/-- An element of TMMI, and whether it clamps. -/
def tmmiElement (sat : Bool) (p : Int × Int) : Int × Nat :=
  if sat then satcnt (sext (truncZ p.1 32) 32 + p.2) (-(2 ^ 31)) (2 ^ 31 - 1)
  else (sext (truncZ (sext (truncZ p.1 32) 32 + p.2) 32) 32, 0)

/-- The elements of TMMI. -/
def tmmiElements (sat : Bool) (sa sb : Slot) (acc : Tile) : List (Int × Nat) :=
  (List.range 256).map fun k => tmmiElement sat ((fget acc.el k 0).toInt, byteSum (slotRow sa (k / 16)) (slotRow sb (k % 16)))

/-- The tile that TMMI leaves. -/
def tmmiTile (sat : Bool) (sa sb : Slot) (acc : Tile) : Tile :=
  { tileOf ((tmmiElements sat sa sb acc).map (·.1)) 0 with exp := acc.exp }

theorem exec_tmmi {sat : Bool} (hr : Ready s h) (hca : (readSlot (focused s) ta.toNat).claimed = true)
    (hcb : (readSlot (focused s) tb.toNat).claimed = true) (ha : (readSlot (focused s) ta.toNat).i8 = true)
    (hb : (readSlot (focused s) tb.toNat).i8 = true) : exec (.tmmi h sat a ta tb) s =
      .next (owesTile s h a (tmmiTile sat (readSlot (focused s) ta.toNat) (readSlot (focused s) tb.toNat) (readAcc (focused s) a.toNat))
        ((tmmiElements sat (readSlot (focused s) ta.toNat) (readSlot (focused s) tb.toNat) (readAcc (focused s) a.toNat)).foldl
          (fun n r => n + r.2) 0)) := by
  refine issue_tensor_tile hr ((withForms_ok hca hcb ha hb _).trans ?_)
  simp only [accView_nil hr.plain.pending, tmmiTile, tmmiElements, tilePairs_slotRows byteSum, tileElems, List.zip_map', List.map_map]
  rfl

/-- An element of a tile made of the bit vectors of a list. -/
theorem fget_tileOf (n : Nat) (f : Nat → Int) (X : Int) {k : Nat} (hk : k < n) :
    fget (tileOf ((List.range n).map f) X).el k 0 = BitVec.ofInt 48 (f k) := by
  rw [tileOf, fget_mapOf, List.map_map, getD_map_range _ _ _ hk]
  rfl

end

/-- The signed number in the low bits of an integer. -/
theorem sext_truncZ (v : Int) {n : Nat} (hn : 0 < n) : sext (truncZ v n) n = (BitVec.ofInt n v).toInt := by
  rw [sext_eq hn, truncZ_eq, BitVec.ofNat_toNat, BitVec.setWidth_eq]

/-- A wrapped element of TMMI. -/
theorem ofInt_tmmiElement (x b : Int) : BitVec.ofInt 48 (tmmiElement false (x, b)).1 = (BitVec.ofInt 32 (x + b)).signExtend 48 := by
  simp only [tmmiElement, Bool.false_eq_true, if_false, sext_truncZ _ (show 0 < 32 by decide)]
  rw [BitVec.ofInt_add, BitVec.ofInt_toInt, ← BitVec.ofInt_add, BitVec.signExtend]

/-- The low 32 bits of a tile's element, as a signed number. -/
theorem toInt_setWidth_32 (e : BitVec 48) : (BitVec.ofInt 32 e.toInt).toInt = (e.setWidth 32).toInt := by
  rw [← BitVec.signExtend_eq_setWidth_of_le e (by decide), BitVec.signExtend]

/-- A value clamped between two bounds, and whether it clamps. -/
theorem satcnt_eq {v lo hi : Int} (h : lo ≤ hi) : satcnt v lo hi = (max lo (min hi v), if v < lo ∨ hi < v then 1 else 0) := by
  unfold satcnt
  by_cases h1 : v < lo
  · rw [if_pos h1, if_pos (.inl h1)]; congr 1; omega
  · by_cases h2 : hi < v
    · rw [if_neg h1, if_pos h2, if_pos (.inr h2)]; congr 1; omega
    · rw [if_neg h1, if_neg h2, if_neg (by tauto)]; congr 1; omega

/-- A clamped element of TMMI. -/
theorem tmmiElement_sat (e : BitVec 48) (b : Int) : tmmiElement true (e.toInt, b) =
    (max (-(2 ^ 31)) (min (2 ^ 31 - 1) ((e.setWidth 32).toInt + b)),
      if (e.setWidth 32).toInt + b < -(2 ^ 31) ∨ 2 ^ 31 - 1 < (e.setWidth 32).toInt + b then 1 else 0) := by
  simp only [tmmiElement, if_true, sext_truncZ _ (show 0 < 32 by decide), toInt_setWidth_32]
  exact satcnt_eq (by decide)

/-- A number of 48 bits as an element of a tile. -/
theorem toInt_ofInt_48 {v : Int} (h1 : -(2 ^ 47) ≤ v) (h2 : v < 2 ^ 47) : (BitVec.ofInt 48 v).toInt = v := by
  rw [BitVec.toInt_ofInt, Int.bmod_eq_of_le (by omega) (by omega)]

theorem fget_tmmiTile (sat : Bool) (sa sb : Slot) (acc : Tile) {k : Nat} (hk : k < 256) : fget (tmmiTile sat sa sb acc).el k 0 =
    BitVec.ofInt 48 (tmmiElement sat ((fget acc.el k 0).toInt, byteSum (slotRow sa (k / 16)) (slotRow sb (k % 16)))).1 := by
  rw [tmmiTile, tmmiElements, List.map_map, fget_tileOf 256 _ 0 hk]
  rfl

/-- How many members of a list have a property, added up one by one. -/
theorem foldl_count_prop {α : Type} (p : α → Prop) [DecidablePred p] (l : List α) (n : Nat) :
    l.foldl (fun n x => n + if p x then 1 else 0) n = n + (l.filter fun x => decide (p x)).length := by
  simpa using foldl_count (fun x => decide (p x)) l n

/-- Settles O36. -/
theorem arrayProducts : Obligations.ArrayProducts := by
  unfold Obligations.ArrayProducts
  intro h a ta tb s hr sa sb acc hca hcb
  refine ⟨fun ha hb => ⟨exec_tmma hr hca hcb ha hb, accumulate_clamps _ _ _⟩,
    fun ha hb => ⟨tmmiTile false sa sb acc, (exec_tmmi hr hca hcb ha hb).trans ?_, rfl, fun k hk => ?_⟩,
    fun ha hb => ⟨tmmiTile true sa sb acc, (exec_tmmi hr hca hcb ha hb).trans ?_, rfl, fun k hk => ?_⟩,
    fun hi => issue_tensor_trap hr (withForms_bad (i8 := false) hca hcb hi _),
    fun hi sat => issue_tensor_trap hr (withForms_bad (i8 := true) hca hcb hi _)⟩
  · have hnone : (tmmiElements false sa sb acc).foldl (fun n r => n + r.2) 0 = 0 := by simp [tmmiElements, tmmiElement, List.foldl_map]
    rw [hnone]
  · rw [fget_tmmiTile _ _ _ _ hk, ofInt_tmmiElement]
  · simp only [tmmiElements, tmmiElement_sat, List.foldl_map]
    rw [foldl_count_prop, Nat.zero_add]
  · rw [fget_tmmiTile _ _ _ _ hk, tmmiElement_sat, toInt_ofInt_48 (by omega) (by omega)]

end Sys2Proof.Proofs

/-! Access to tiles at a ready core (R203, R376, R377). -/

namespace Sys2Proof.Proofs
open Sys2Proof Sys2Proof.Machine Sys2Proof.Laws

/-! ## Lists of lanes -/

theorem getD_take {α : Type} (l : List α) (x : α) {n k : Nat} (hk : k < n) : (l.take n).getD k x = l.getD k x := by
  rw [List.getD_eq_getElem?_getD, List.getElem?_take_of_lt hk, List.getD_eq_getElem?_getD]

theorem getD_drop {α : Type} (l : List α) (x : α) (n k : Nat) : (l.drop n).getD k x = l.getD (n + k) x := by
  rw [List.getD_eq_getElem?_getD, List.getElem?_drop, List.getD_eq_getElem?_getD]

theorem zipIdx_map_range {α : Type} (f : Nat → α) (n : Nat) : ((List.range n).map f).zipIdx = (List.range n).map fun j => (f j, j) := by
  apply List.ext_getElem <;> simp

/-- A signed number cut to 64 bits. -/
theorem truncZ_toInt {w : Nat} (e : BitVec w) (n : Nat) : truncZ e.toInt n = (e.signExtend n).toNat := by
  rw [truncZ_eq, BitVec.signExtend]

/-- A field that lies in the low part of a number. -/
theorem fieldN_low {x y p k n : Nat} (hx : x < 2 ^ p) (hk : k + n ≤ p) : fieldN (x + y * 2 ^ p) k n = fieldN x k n := by
  apply Nat.eq_of_testBit_eq
  intro i
  rw [fieldN, fieldN, Nat.testBit_mod_two_pow, Nat.testBit_mod_two_pow, Nat.testBit_shiftRight, Nat.testBit_shiftRight,
    Nat.mul_comm y, Nat.add_comm x, Nat.testBit_two_pow_mul_add _ hx]
  by_cases hi : i < n
  · rw [if_pos (by omega)]
  · rw [decide_eq_false hi, Bool.false_and, Bool.false_and]

/-- A field that lies in the high part of a number. -/
theorem fieldN_high {x y p k n : Nat} (hx : x < 2 ^ p) : fieldN (x + y * 2 ^ p) (p + k) n = fieldN y k n := by
  rw [fieldN, fieldN, Nat.shiftRight_add, Nat.shiftRight_eq_div_pow _ p, Nat.add_mul_div_right _ _ (by positivity),
    Nat.div_eq_of_lt hx, Nat.zero_add]

/-- A sum of two terms, added up from 0. -/
theorem foldl_range_two (f : Nat → Nat) : (List.range 2).foldl (fun acc k => acc + f k) 0 = f 0 + f 1 := by
  simp [List.range_succ]

/-- A field of a lane of a group of two registers. -/
theorem fieldN_groupBits (s : State) (d : VReg) {j n : Nat} (hj : j < 16) (hn : n ≤ 64) :
    fieldN (groupBits (focusEnv s 0) (focused s) d 2) (64 * j) n =
      lane 64 (readV (focused s) .main (d.toNat + j / 8)) (j % 8) % 2 ^ n := by
  have hbits : groupBits (focusEnv s 0) (focused s) d 2 =
      (readV (focused s) .main d.toNat).toNat + (readV (focused s) .main (d.toNat + 1)).toNat * 2 ^ 512 := by
    rw [groupBits, foldl_range_two, Nat.mul_zero, Nat.pow_zero, Nat.mul_one, Nat.mul_one]
    rfl
  have hlane : ∀ (v : BitVec 512) k, fieldN v.toNat (64 * k) n = lane 64 v k % 2 ^ n := fun v k => by
    rw [lane, fieldN, Nat.mod_mod_of_dvd _ (Nat.pow_dvd_pow 2 hn)]
  rw [hbits]
  by_cases h8 : j < 8
  · rw [fieldN_low (BitVec.isLt _) (by omega), hlane, Nat.div_eq_of_lt h8, Nat.mod_eq_of_lt h8, Nat.add_zero]
  · rw [show 64 * j = 512 + 64 * (j - 8) by omega, fieldN_high (BitVec.isLt _), hlane, show j / 8 = 1 by omega, show j % 8 = j - 8 by omega]

/-! ## Tiles -/

/-- An element of a tile whose row i is replaced. -/
theorem fget_setTileRow (t : Tile) {i : Nat} (f : Nat → Int) {k : Nat} (hi : i < 16) (hk : k < 256) :
    fget (setTileRow t i ((List.range 16).map f)).el k 0 = if k / 16 = i then BitVec.ofInt 48 (f (k % 16)) else fget t.el k 0 := by
  have hlist : (tileElems t).take (16 * i) ++ (List.range 16).map f ++ (tileElems t).drop (16 * i + 16) =
      (List.range 256).map fun k => if k / 16 = i then f (k % 16) else (fget t.el k 0).toInt := by
    apply List.ext_getElem
    · simp [tileElems]; omega
    · intro n h1 h2
      have hn : n < 256 := by simpa using h2
      simp only [List.getElem_append, tileElems, List.length_append, List.length_take, List.length_map, List.length_range,
        List.getElem_take, List.getElem_drop, List.getElem_map, List.getElem_range]
      split
      · split
        · rw [if_neg (by omega)]
        · rw [if_pos (by omega), show n - min (16 * i) 256 = n % 16 by omega]
      · rw [if_neg (by omega), show 16 * i + 16 + (n - (min (16 * i) 256 + 16)) = n by omega]
  have hel : (setTileRow t i ((List.range 16).map f)).el = (tileOf ((List.range 256).map fun k =>
      if k / 16 = i then f (k % 16) else (fget t.el k 0).toInt) 0).el := by
    rw [← hlist]; rfl
  rw [hel, fget_tileOf 256 _ 0 hk]
  split
  · rfl
  · rw [BitVec.ofInt_toInt]

/-- A number of 48 bits cut by a shift is one. -/
theorem shifted_bounds {v : Int} (hlo : -(2 ^ 47) ≤ v) (hhi : v < 2 ^ 47) (n : Nat) : -(2 ^ 47) ≤ v / 2 ^ n ∧ v / 2 ^ n < 2 ^ 47 := by
  have hpos : (1 : Int) ≤ 2 ^ n := one_le_pow₀ (by norm_num)
  exact ⟨Int.le_ediv_of_mul_le (by omega) (by nlinarith), Int.ediv_lt_of_lt_mul (by omega) (by nlinarith)⟩

/-- A tile shifted to the right under a larger exponent. -/
theorem shiftTile_spec (t : Tile) {m : Int} (h0 : 0 ≤ m) (hm : t.exp.toInt + m ≤ 511) :
    (shiftTile t m).exp.toInt = t.exp.toInt + m ∧
      ∀ k, k < 256 → (fget (shiftTile t m).el k 0).toInt = (fget t.el k 0).toInt / 2 ^ m.toNat := by
  refine ⟨?_, fun k hk => ?_⟩
  · have := t.exp.le_toInt
    exact (BitVec.toInt_ofInt ..).trans (Int.bmod_eq_of_le (by omega) (by omega))
  · obtain ⟨hlo, hhi⟩ := shifted_bounds (fget t.el k 0).le_toInt (fget t.el k 0).toInt_lt m.toNat
    rw [shiftTile, tileElems, List.map_map, fget_tileOf 256 _ _ hk, Function.comp_apply, align_of_nonneg _ h0, toInt_ofInt_48 hlo hhi]

/-- The exponent that TSH.to reads. -/
theorem sext_wfield_ten (v : Word) : sext (wfield v 0 10) 10 = (v.setWidth 10).toInt := by
  rw [sext_eq (by decide)]
  congr 1
  apply BitVec.eq_of_toNat_eq
  simp [wfield]

/-- The signed number of a field as an element. -/
theorem ofInt_sext {n v : Nat} (hn : 0 < n) : BitVec.ofInt n (sext (v % 2 ^ n) n) = BitVec.ofNat n v := by
  rw [sext_eq hn, BitVec.ofInt_toInt]
  apply BitVec.eq_of_toNat_eq
  simp

/-! ## Rows -/

section
variable {h : Hdr} {a : BitVec 2} {row : BitVec 4} {d : VReg} {x xt : Reg} {n : BitVec 6} {s : State} (hr : Ready s h)
include hr

theorem exec_trdRaw : ∃ v w, exec (.trdRaw h a row d x) s =
      .next (owes s h [.v d.toNat v, .v (d.toNat + 1) w, .x x.toNat ((readAcc (focused s) a.toNat).exp.signExtend 64)] 0 0) ∧
    ∀ j, j < 8 →
      lane 64 v j = ((fget (readAcc (focused s) a.toNat).el (16 * row.toNat + j) 0).signExtend 64).toNat ∧
      lane 64 w j = ((fget (readAcc (focused s) a.toNat).el (16 * row.toNat + (8 + j)) 0).signExtend 64).toNat := by
  refine ⟨_, _, issue_tensor_owes hr rfl, fun j hj => ⟨?_, ?_⟩⟩
  · rw [lane_packV _ (by omega), getD_take _ _ hj, tileRow, List.map_map, getD_map_range _ _ _ (by omega), Function.comp_apply,
      truncZ_toInt, Nat.mod_eq_of_lt (BitVec.isLt _)]
  · rw [lane_packV _ (by omega), getD_drop, tileRow, List.map_map, getD_map_range _ _ _ (by omega), Function.comp_apply,
      truncZ_toInt, Nat.mod_eq_of_lt (BitVec.isLt _)]

theorem exec_trdI32 : ∃ v, exec (.trdI32 h a row d) s = .next (owesV s h d v) ∧
    ∀ j, j < 16 → lane 32 v j = (fget (readAcc (focused s) a.toNat).el (16 * row.toNat + j) 0).toNat % 2 ^ 32 := by
  refine ⟨_, issue_tensor_owes hr rfl, fun j hj => ?_⟩
  rw [lane_packV _ (by omega), tileRow, List.map_map, getD_map_range _ _ _ hj, Function.comp_apply, truncZ_toInt,
    BitVec.signExtend_eq_setWidth_of_le _ (by decide), BitVec.toNat_setWidth, Nat.mod_mod]

theorem exec_twrRaw : ∃ u, exec (.twrRaw h a row d) s = .next (owes s h [.a a.toNat u] 0 0) ∧
    u.exp = (readAcc (focused s) a.toNat).exp ∧ ∀ k, k < 256 → fget u.el k 0 =
      if k / 16 = row.toNat then BitVec.ofNat 48 (lane 64 (readV (focused s) .main (d.toNat + k % 16 / 8)) (k % 8))
      else fget (readAcc (focused s) a.toNat).el k 0 := by
  refine ⟨_, issue_tensor_owes hr rfl, rfl, fun k hk => ?_⟩
  have hel : BitVec.ofInt 48 (sext (fieldN (groupBits (focusEnv s 0) (focused s) d 2) (64 * (k % 16)) 48) 48) =
      BitVec.ofNat 48 (lane 64 (readV (focused s) .main (d.toNat + k % 16 / 8)) (k % 8)) := by
    rw [fieldN_groupBits s d (by omega) (by omega), ofInt_sext (by decide), show k % 16 % 8 = k % 8 by omega]
  refine (fget_setTileRow _ _ row.isLt hk).trans ?_
  rw [← hel]
  rfl

theorem exec_twrI32 : ∃ u, exec (.twrI32 h a row d) s = .next (owes s h [.a a.toNat u] 0 0) ∧
    u.exp = (readAcc (focused s) a.toNat).exp ∧ ∀ k, k < 256 → fget u.el k 0 =
      if k / 16 = row.toNat then (BitVec.ofNat 32 (lane 32 (vr s d) (k % 16))).signExtend 48
      else fget (readAcc (focused s) a.toNat).el k 0 := by
  refine ⟨_, issue_tensor_owes hr rfl, rfl, fun k hk => ?_⟩
  refine (fget_setTileRow _ _ row.isLt hk).trans ?_
  rw [sext_eq (by decide)]
  rfl

theorem exec_tsh : ∃ u, exec (.tsh h a n) s = .next (owes s h [.a a.toNat u] 0 0) ∧
    (let m := min (n.toNat : Int) (511 - (readAcc (focused s) a.toNat).exp.toInt)
     u.exp.toInt = (readAcc (focused s) a.toNat).exp.toInt + m ∧
       ∀ k, k < 256 → (fget u.el k 0).toInt = (fget (readAcc (focused s) a.toNat).el k 0).toInt / 2 ^ m.toNat) := by
  have hlt := (readAcc (focused s) a.toNat).exp.toInt_lt
  exact ⟨_, issue_tensor_owes hr rfl, shiftTile_spec _ (by omega) (by omega)⟩

theorem exec_tshTo : exec (.tshTo h a x) s = .next (owes s h [.a a.toNat
    (if (readAcc (focused s) a.toNat).exp.toInt < ((xr s x).setWidth 10).toInt then
      shiftTile (readAcc (focused s) a.toNat) (((xr s x).setWidth 10).toInt - (readAcc (focused s) a.toNat).exp.toInt)
    else readAcc (focused s) a.toNat)] 0 0) := by
  rw [← sext_wfield_ten]
  exact issue_tensor_owes hr rfl

end

/-! ## Rescaled rows -/

@[simp] theorem nanRes_sat (ty : Ty) (nv : Bool) : (nanRes ty nv).sat = 0 := rfl

/-- Rounding clamps nothing. -/
@[simp] theorem roundF_sat (ty : Ty) (rm : RM) (neg : Bool) (m : Nat) (e : Int) (sticky : Bool) : (roundF ty rm neg m e sticky).sat = 0 := by
  unfold roundF
  extract_lets
  split
  · rfl
  · split
    · rfl
    · split <;> rfl

@[simp] theorem addFin_sat (ty : Ty) (rm : RM) (n1 : Bool) (m1 : Nat) (e1 : Int) (n2 : Bool) (m2 : Nat) (e2 : Int) :
    (addFin ty rm n1 m1 e1 n2 m2 e2).sat = 0 := by
  unfold addFin
  extract_lets
  split
  · rfl
  · exact roundF_sat ..

/-- A fused step clamps nothing. -/
theorem fmaF_sat (ty : Ty) (rm : RM) (a b c : FVal) : (fmaF ty rm a b c).sat = 0 := by
  unfold fmaF
  extract_lets
  split
  · rfl
  · split
    · rfl
    · split
      · exact addFin_sat ..
      · rfl
      · split <;> rfl
      · rfl

/-- Element j of a rescaled row: scaled by the tile's exponent, and fused with the factor and the term of its column. -/
def tcvtElement (s : State) (a : BitVec 2) (row : BitVec 4) (xt : Reg) (rm : RM) (j : Nat) : FRes :=
  let e := (fget (readAcc (focused s) a.toNat).el (16 * row.toNat + j) 0).toInt
  let w := (focused s).sram.readLE ((xr s xt).toNat + 8 * j) 8
  fmaF .f32 rm (.fin (decide (e < 0)) e.natAbs (readAcc (focused s) a.toNat).exp.toInt) (readF .f32 (w % 2 ^ 32)) (readF .f32 (w / 2 ^ 32))

theorem exec_tcvt {h : Hdr} {a : BitVec 2} {row : BitVec 4} {xt : Reg} {d : VReg} {rm : RM} {s : State} (hr : Ready s h)
    (hok : accessOk s loads 8 8 ((List.range 16).map fun j => (xr s xt).toNat + 8 * j)) : exec (.tcvt h a row xt d rm) s =
      .next (owes s h [.v d.toNat (packV 32 ((List.range 16).map fun j => (tcvtElement s a row xt rm j).bits))]
        (raisedBy 16 (fun _ => true) (tcvtElement s a row xt rm)) 0) := by
  have hrow : ((tileRow (readAcc (focused s) a.toNat) row.toNat).zipIdx.map fun e =>
      let w := (focused s).sram.readLE ((xr s xt).toNat + 8 * e.2) 8
      fmaF .f32 rm (.fin (decide (e.1 < 0)) e.1.natAbs (readAcc (focused s) a.toNat).exp.toInt) (readF .f32 (w % 2 ^ 32))
        (readF .f32 (w / 2 ^ 32))) = (List.range 16).map (tcvtElement s a row xt rm) := by
    rw [tileRow, zipIdx_map_range, List.map_map]
    rfl
  have hrun : exec (.tcvt h a row xt d rm) s = .next (owesC s h
      [.v d.toNat (packV 32 (((List.range 16).map (tcvtElement s a row xt rm)).map (·.bits)))]
      (((List.range 16).map (tcvtElement s a row xt rm)).foldl (fun f r => f ||| r.flags) 0)
      ⟨((List.range 16).map (tcvtElement s a row xt rm)).foldl (fun n r => n + r.sat) 0, 0, 0⟩) := by
    rw [← hrow]
    exact issue_tensor_owes hr (withAccess_ok hok _)
  have hsat : clampedBy 16 (fun _ => true) (tcvtElement s a row xt rm) = 0 := clampedBy_zero _ _ _ fun k => fmaF_sat ..
  rw [hrun, List.map_map, List.foldl_map, List.foldl_map]
  exact congrArg (fun n => Host.Outcome.next (owes s h _ (raisedBy 16 (fun _ => true) (tcvtElement s a row xt rm)) n)) hsat

/-- Settles O37. -/
theorem tileAccess : Obligations.TileAccess := by
  unfold Obligations.TileAccess
  refine ⟨fun h a row d x n s hr => ⟨issue_tensor_owes hr rfl, exec_trdRaw hr, exec_trdI32 hr, exec_twrRaw hr, exec_twrI32 hr, issue_tensor_owes hr rfl,
      exec_tsh hr, fun hlt => ?_, fun hle => ?_, issue_tensor_owes hr rfl, issue_tensor_owes hr rfl⟩,
    fun h a row xt x d rm q s hr => ⟨fun hok => ⟨_, exec_tcvt hr hok, fun j hj => lane_packV_sixteen _ hj⟩, fun cls hq => ?_, fun hq => ?_⟩⟩
  · have hmax := ((xr s x).setWidth 10).toInt_lt
    refine ⟨_, (exec_tshTo hr).trans (by rw [if_pos hlt]), ?_, (shiftTile_spec _ (by omega) (by omega)).2⟩
    rw [shiftTile, tileOf, add_sub_cancel, BitVec.ofInt_toInt]
  · rw [exec_tshTo hr, if_neg (by omega)]
  · refine issue_tensor_owes hr ?_
    simp only [hq]
    rfl
  · refine issue_tensor_trap hr ?_
    simp only [hq]

end Sys2Proof.Proofs

/-! Queue registers, routing entries, the task table and the cellar at a ready core (R383 to R386, R394 to R397). -/

namespace Sys2Proof.Proofs
open Sys2Proof Sys2Proof.Machine Sys2Proof.Laws

theorem wfield_eq (v : Word) (k n : Nat) : wfield v k n = (v.extractLsb' k n).toNat := by
  rw [BitVec.extractLsb'_toNat]
  rfl

/-- Whether a handle reaches a core, as the injection checks see it (R119). -/
theorem handleReaches_iff (s : State) (w : Word) (hd : Word) (right row col : Nat) :
    handleReaches (focusEnv s w) hd right row col = true ↔ reachedBy s hd right row col := by
  rw [handleReaches, Bool.and_eq_true, Bool.and_eq_true, and_assoc]
  rfl

/-! ## Bindings -/

/-- A body on a register that may be rebound. -/
theorem rebinding_ok {c : Core} {q : Nat} (hm : mayRebind c q = true) (k : Out) : rebinding c q k = k := if_pos hm

/-- A body on a register that is held. -/
theorem rebinding_held {c : Core} {q : BitVec 4} (hm : mayRebind c q.toNat = false) (k : Out) :
    rebinding c q.toNat k = .trap eQueue (q.setWidth 64) := by
  rw [rebinding, hm, BitVec.ofNat_toNat]
  rfl

/-- QBIND.in at issue. -/
def qbindInOp (h : Hdr) (q : BitVec 4) (cls : BitVec 5) : Op :=
  { mkOp (.qbindIn h q cls) h .s [] [.q q.toNat] (fun _ c => rebinding c q.toNat (bind c q (.inQ cls))) with
    staticPriv := fun env c => !classReceivable env c cls.toNat }

/-- QBIND.out at issue. -/
def qbindOutOp (h : Hdr) (q : BitVec 4) (cls : BitVec 5) (a hd : Reg) : Op :=
  { mkOp (.qbindOut h q cls a hd) h .s (xs [a, hd]) [.q q.toNat] (fun env c =>
      rebinding c q.toNat (
        let v := env.x c a
        let hv := env.x c hd
        let t := absTarget env.launch (if hd = 0 then none else some hv) v
        if hd ≠ 0 && !handleReaches env hv 36 t.1 t.2 then .trap eSeal hv
        else if wfield v 57 6 ≠ 0 || (hd = 0 && !inShape env.launch v) || 224 ≤ t.1 || 384 ≤ t.2 ||
            unavailable env.dev t.1 t.2 then .trap eBound v
        else bind c q (.outQ cls t.1 t.2 (if hd = 0 then 0 else hv)))) with
    staticPriv := fun env _ => !classAllowed env.launch cls.toNat }

/-- QBIND.larder at issue. -/
def qbindLarderOp (h : Hdr) (q : BitVec 4) (a : Reg) : Op :=
  { mkOp (.qbindLarder h q a) h .s (xs [a]) [.q q.toNat] (fun env c =>
      rebinding c q.toNat (
        let v := env.x c a
        if 47 < wfield v 0 6 then .trap eBound v else bind c q (.larder (wfield v 0 6) (wfield v 8 4)))) with
    dynPriv := fun env c => decide (wfield (env.x c a) 0 6 ≤ 47) && !bindsLarder env.launch (wfield (env.x c a) 0 6) }

/-- Whether a class may be received from, in the words of the launch and the mode. -/
theorem classReceivable_iff (s : State) (w : Word) (cls : BitVec 5) : classReceivable (focusEnv s w) (focused s) cls.toNat = true ↔
    classAllowed (launchHere s) cls.toNat = true ∨ cls = 24 ∧ (focused s).sys.mode = true := by
  have h24 : (cls.toNat == 24) = true ↔ cls = 24 := by rw [beq_iff_eq, ← BitVec.toNat_inj]; rfl
  rw [classReceivable, Bool.or_eq_true, Bool.and_eq_true, h24]
  rfl

/-- The core that an address of QBIND.out names. -/
def bindTarget (s : State) (a hd : Reg) : Nat × Nat := absTarget (launchHere s) (if hd = 0 then none else some (xr s hd)) (xr s a)

/-- Whether QBIND.out has no core to bind at its address. -/
def bindBad (s : State) (a hd : Reg) : Prop :=
  (xr s a).extractLsb' 57 6 ≠ 0 ∨ (hd = 0 ∧ inShape (launchHere s) (xr s a) = false) ∨ 224 ≤ (bindTarget s a hd).1 ∨
    384 ≤ (bindTarget s a hd).2 ∨ unavailable s.dev (bindTarget s a hd).1 (bindTarget s a hd).2 = true

/-- An address that names a core of the grid, in the shape where no handle stands, is one to bind. -/
theorem not_bindBad {s : State} {a hd : Reg} (hwaf : (xr s a).extractLsb' 57 6 = 0)
    (hshape : hd = 0 → inShape (launchHere s) (xr s a) = true) (hrow : (bindTarget s a hd).1 < 224) (hcol : (bindTarget s a hd).2 < 384)
    (hav : unavailable s.dev (bindTarget s a hd).1 (bindTarget s a hd).2 = false) : ¬ bindBad s a hd := by
  rintro (hbad | ⟨h0, hbad⟩ | hbad | hbad | hbad)
  · exact hbad hwaf
  · rw [hshape h0] at hbad; exact absurd hbad (by decide)
  · exact absurd hrow (Nat.not_lt.2 hbad)
  · exact absurd hcol (Nat.not_lt.2 hbad)
  · rw [hav] at hbad; exact absurd hbad (by decide)

/-- The test of QBIND.out, as the model writes it. -/
theorem bindBad_iff (s : State) (a hd : Reg) :
    (wfield (xr s a) 57 6 ≠ 0 || (hd = 0 && !inShape (launchHere s) (xr s a)) || 224 ≤ (bindTarget s a hd).1 ||
      384 ≤ (bindTarget s a hd).2 || unavailable s.dev (bindTarget s a hd).1 (bindTarget s a hd).2 : Bool) = true ↔ bindBad s a hd := by
  have hw : wfield (xr s a) 57 6 ≠ 0 ↔ (xr s a).extractLsb' 57 6 ≠ 0 := by
    rw [wfield_eq, ne_eq, ne_eq, ← BitVec.toNat_inj]; rfl
  simp only [Bool.or_eq_true, decide_eq_true_eq, Bool.and_eq_true, Bool.not_eq_true', hw, bindBad, or_assoc]

section
variable {h : Hdr} {q : BitVec 4} {cls : BitVec 5} {a hd : Reg} {p : BitVec 3} {s : State}

theorem allowed_qbindIn (hcls : classAllowed (launchHere s) cls.toNat = true ∨ cls = 24 ∧ (focused s).sys.mode = true) :
    Allowed (qbindInOp h q cls) (focusEnv s (qbindInOp h q cls).word) (focused s) :=
  ⟨congrArg not ((classReceivable_iff s _ cls).2 hcls), rfl, rfl, rfl, rfl, rfl, rfl⟩

theorem allowed_qbindOut (hcls : classAllowed (launchHere s) cls.toNat = true) :
    Allowed (qbindOutOp h q cls a hd) (focusEnv s (qbindOutOp h q cls a hd).word) (focused s) :=
  ⟨congrArg not hcls, rfl, rfl, rfl, rfl, rfl, rfl⟩

/-- The handle of QBIND.out reaches its target, or there is none. -/
theorem qbindOut_sealed (hs : hd = 0 ∨ reachedBy s (xr s hd) 36 (bindTarget s a hd).1 (bindTarget s a hd).2) (w : Word) :
    (hd ≠ 0 && !handleReaches (focusEnv s w) (xr s hd) 36 (bindTarget s a hd).1 (bindTarget s a hd).2 : Bool) = false := by
  rcases hs with rfl | hs
  · rfl
  · rw [(handleReaches_iff ..).2 hs, Bool.not_true, Bool.and_false]

variable (hr : Ready s h)
include hr

/-- A ready instruction that binds a register. -/
theorem issue_bind {op : Op} {b : QBind} (hh : op.h = h) (ha : Allowed op (focusEnv s op.word) (focused s)) (hc : op.cls = .s)
    (hb : op.body (focusEnv s op.word) (focused s) = bind (focused s) q b) : issue op s = .next (didBind s q b) := by
  subst hh
  exact exec_done hr ha (.inl hc) hb hr.plain.pending rfl

theorem exec_qbindIn_priv (hcls : classAllowed (launchHere s) cls.toNat = false) (hsys : cls ≠ 24 ∨ (focused s).sys.mode = false) :
    exec (.qbindIn h q cls) s = .next (trapped s ePriv (encode (.qbindIn h q cls))) := by
  have hno : ¬ (classAllowed (launchHere s) cls.toNat = true ∨ cls = 24 ∧ (focused s).sys.mode = true) := by
    rintro (hok | ⟨rfl, hmode⟩)
    · rw [hcls] at hok; exact absurd hok (by decide)
    · rcases hsys with hne | hno
      · exact hne rfl
      · rw [hno] at hmode; exact absurd hmode (by decide)
  have hbad : classReceivable (focusEnv s (encode (.qbindIn h q cls))) (focused s) cls.toNat = false :=
    Bool.eq_false_iff.2 fun hok => hno ((classReceivable_iff s _ cls).1 hok)
  exact issue_priv (op := qbindInOp h q cls) hr (congrArg not hbad) rfl

theorem exec_qbindOut_priv (hcls : classAllowed (launchHere s) cls.toNat = false) :
    exec (.qbindOut h q cls a hd) s = .next (trapped s ePriv (encode (.qbindOut h q cls a hd))) :=
  issue_priv (op := qbindOutOp h q cls a hd) hr (congrArg not hcls) rfl

section
variable (hm : mayRebind (focused s) q.toNat = true)
include hm

theorem exec_qbindIn (hcls : classAllowed (launchHere s) cls.toNat = true ∨ cls = 24 ∧ (focused s).sys.mode = true) :
    exec (.qbindIn h q cls) s = .next (didBind s q (.inQ cls)) :=
  issue_bind (op := qbindInOp h q cls) hr rfl (allowed_qbindIn hcls) rfl (rebinding_ok hm _)

theorem exec_qbindOut (hcls : classAllowed (launchHere s) cls.toNat = true)
    (hs : hd = 0 ∨ reachedBy s (xr s hd) 36 (bindTarget s a hd).1 (bindTarget s a hd).2) (hok : ¬ bindBad s a hd) :
    exec (.qbindOut h q cls a hd) s =
      .next (didBind s q (.outQ cls (bindTarget s a hd).1 (bindTarget s a hd).2 (if hd = 0 then 0 else xr s hd))) :=
  issue_bind (op := qbindOutOp h q cls a hd) hr rfl (allowed_qbindOut hcls) rfl ((rebinding_ok hm _).trans
    ((if_neg (ne_true_of_eq_false (qbindOut_sealed hs _))).trans (if_neg fun hbad => hok ((bindBad_iff s a hd).1 hbad))))

theorem exec_qbindOut_bad (hcls : classAllowed (launchHere s) cls.toNat = true)
    (hs : hd = 0 ∨ reachedBy s (xr s hd) 36 (bindTarget s a hd).1 (bindTarget s a hd).2) (hbad : bindBad s a hd) :
    exec (.qbindOut h q cls a hd) s = .next (trapped s eBound (xr s a)) :=
  exec_trap (op := qbindOutOp h q cls a hd) hr (allowed_qbindOut hcls) ((rebinding_ok hm _).trans
    ((if_neg (ne_true_of_eq_false (qbindOut_sealed hs _))).trans (if_pos ((bindBad_iff s a hd).2 hbad))))

theorem exec_qbindOut_seal (hcls : classAllowed (launchHere s) cls.toNat = true) (h0 : hd ≠ 0)
    (hs : ¬ reachedBy s (xr s hd) 36 (bindTarget s a hd).1 (bindTarget s a hd).2) :
    exec (.qbindOut h q cls a hd) s = .next (trapped s eSeal (xr s hd)) := by
  have hno : (hd ≠ 0 && !handleReaches (focusEnv s (qbindOutOp h q cls a hd).word) (xr s hd) 36 (bindTarget s a hd).1
      (bindTarget s a hd).2 : Bool) = true := by
    rw [Bool.eq_false_iff.2 fun hok => hs ((handleReaches_iff ..).1 hok), decide_eq_true h0]
    rfl
  exact exec_trap (op := qbindOutOp h q cls a hd) hr (allowed_qbindOut hcls) ((rebinding_ok hm _).trans (if_pos hno))

theorem exec_qbindPantry : exec (.qbindPantry h q p) s = .next (
    if (pantryAt (focused s) p.toNat).valid = true ∧ (pantryAt (focused s) p.toNat).outbound = false then didBind s q (.pantry p.toNat 0)
    else trapped s eBound ((pantryAt (focused s) p.toNat).base.setWidth 64)) := by
  have htest : ((pantryAt (focused s) p.toNat).valid && !(pantryAt (focused s) p.toNat).outbound) = true ↔
      (pantryAt (focused s) p.toNat).valid = true ∧ (pantryAt (focused s) p.toNat).outbound = false := by
    rw [Bool.and_eq_true, Bool.not_eq_true']
  split
  · next hok => exact issue_bind (op := mkOp _ h .s [] _ _) hr rfl allowed_mkOp rfl ((rebinding_ok hm _).trans (if_pos (htest.2 hok)))
  · next hno => exact issue_mkOp_trap hr ((rebinding_ok hm _).trans (if_neg fun hok => hno (htest.1 hok)))

theorem exec_qbindLarder : exec (.qbindLarder h q a) s = .next (
    if 47 < ((xr s a).extractLsb' 0 6).toNat then trapped s eBound (xr s a)
    else if bindsLarder (launchHere s) ((xr s a).extractLsb' 0 6).toNat = true then
      didBind s q (.larder ((xr s a).extractLsb' 0 6).toNat ((xr s a).extractLsb' 8 4).toNat)
    else trapped s ePriv (encode (.qbindLarder h q a))) := by
  rw [← wfield_eq, ← wfield_eq]
  have hpriv : (qbindLarderOp h q a).dynPriv (focusEnv s (qbindLarderOp h q a).word) (focused s) =
      (decide (wfield (xr s a) 0 6 ≤ 47) && !bindsLarder (launchHere s) (wfield (xr s a) 0 6)) := rfl
  have hallowed : (decide (wfield (xr s a) 0 6 ≤ 47) && !bindsLarder (launchHere s) (wfield (xr s a) 0 6)) = false →
      Allowed (qbindLarderOp h q a) (focusEnv s (qbindLarderOp h q a).word) (focused s) := fun hok =>
    ⟨rfl, rfl, hok, rfl, rfl, rfl, rfl⟩
  split
  · next hbig =>
    exact exec_trap (op := qbindLarderOp h q a) hr (hallowed (by rw [decide_eq_false (by omega)]; rfl)) ((rebinding_ok hm _).trans (if_pos hbig))
  · next hsmall =>
    split
    · next hb =>
      exact issue_bind (op := qbindLarderOp h q a) hr rfl (hallowed (by rw [hb, Bool.not_true, Bool.and_false])) rfl
        ((rebinding_ok hm _).trans (if_neg hsmall))
    · next hb =>
      refine issue_broken (op := qbindLarderOp h q a) hr rfl ?_
      have hbroken : (decide (wfield (xr s a) 0 6 ≤ 47) && !bindsLarder (launchHere s) (wfield (xr s a) 0 6)) = true := by
        rw [decide_eq_true (by omega), Bool.eq_false_iff.2 hb]; rfl
      exact if_pos (hpriv.trans hbroken)

theorem exec_qbindCap : exec (.qbindCap h q a) s = .next (
    if sealOk s.dev.sealKey (xr s a) = true then didBind s q (.cap (xr s a)) else trapped s eSeal (xr s a)) := by
  split
  · next hok => exact issue_bind (op := mkOp _ h .s _ _ _) hr rfl allowed_mkOp rfl ((rebinding_ok hm _).trans (if_pos hok))
  · next hno => exact issue_mkOp_trap hr ((rebinding_ok hm _).trans (if_neg hno))

theorem exec_qfree : exec (.qfree h q) s = .next (didBind s q .unbound) :=
  issue_bind (op := mkOp _ h .s [] _ _) hr rfl allowed_mkOp rfl (rebinding_ok hm _)

end
end

/-! ## Routing entries, the task table, the cellar -/

/-- CLSET at issue. -/
def clsetOp (h : Hdr) (cls : BitVec 5) (a : Reg) : Op :=
  { mkOp (.clset h cls a) h .s (xs [a]) [] (fun env c =>
      let e := (env.x c a).setWidth 32
      if (List.range 5).any fun d => (List.range 4).any fun o => (routeOut e d).getLsbD o && leadsOut env o then .trap eSeal 0
      else done (setRoute c cls.toNat e)) with
    staticPriv := fun env _ => !classAllowed env.launch cls.toNat,
    dynRsv := fun env c => routeReserved ((env.x c a).setWidth 32), rsvReads := xs [a], noHandler := true,
    detBad := fun env c => c.sys.det && (env.x c a).extractLsb' 0 2 == 2 }

/-- CLGET at issue. -/
def clgetOp (h : Hdr) (d : Reg) (cls : BitVec 5) : Op :=
  { mkOp (.clget h d cls) h .s [] (xs [d]) (fun _ c => wx c d ((routeEntry c cls.toNat).setWidth 64)) with noHandler := true }

/-- The task that TBIND enters. -/
def boundTask (v : Word) : Task :=
  { entry := v.setWidth 16, pc := v.setWidth 16, prio := v.extractLsb' 16 2, onEvent := v.getLsbD 18, k := v.extractLsb' 19 5 }

/-- TBIND at issue. -/
def tbindOp (h : Hdr) (k : BitVec 5) (a : Reg) : Op :=
  { mkOp (.tbind h k a) h .s (xs [a]) [] (fun env c =>
      let v := env.x c a
      let entry : BitVec 16 := v.setWidth 16
      if entry.toNat % 8 ≠ 0 then .trap eAlign (entry.setWidth 64)
      else done (refreshReady { c with tasks := fset c.tasks k.toNat (boundTask v) })) with
    dynPriv := fun env c => !(env.x c a).getLsbD 18 && !classReceivable env c (wfield (env.x c a) 19 5),
    noHandler := true, gangBad := fun _ c => c.gang.isSome }

/-- TUNB at issue. -/
def tunbOp (h : Hdr) (k : BitVec 5) : Op :=
  { mkOp (.tunb h k) h .s [] [] (fun _ c => done { c with tasks := fdel c.tasks k.toNat }) with
    noHandler := true, gangBad := fun _ c => c.gang.isSome }

/-- The test of CELLAR's range, as the model writes it. -/
theorem cellar_test (c : Core) (n size : Nat) :
    (0x80000 < n + size || overPantry c n size : Bool) = true ↔ 0x80000 < n + size ∨ overPantry c n size = true := by
  rw [Bool.or_eq_true, decide_eq_true_eq]

/-- CELLAR at issue. -/
def cellarOp (h : Hdr) (m : BitVec 5) (a : Reg) : Op :=
  { mkOp (.cellar h m a) h .s (xs [a]) [] (fun env c =>
      let base : BitVec 19 := (env.x c a).setWidth 19
      let size := 4096 * m.toNat
      if !(cellarEntries c).isEmpty then .trap eQueue 0
      else if m = 0 then done { c with cellar := none }
      else if base.toNat % 4096 ≠ 0 then .trap eAlign (base.setWidth 64)
      else if 0x80000 < base.toNat + size || overPantry c base.toNat size then .trap eBound (base.setWidth 64)
      else done { c with cellar := some (base, size), sram := clearStamps c.sram base.toNat (cellarCount size) }) with
    staticPriv := fun _ c => !c.sys.mode }

/-- MODE of a routing entry, in the register that holds it. -/
theorem mode_setWidth (v : Word) : (v.setWidth 32 : BitVec 32).extractLsb' 0 2 = v.extractLsb' 0 2 := by
  apply BitVec.eq_of_toNat_eq
  simp only [BitVec.extractLsb'_toNat, BitVec.toNat_setWidth, Nat.shiftRight_zero]
  exact Nat.mod_mod_of_dvd _ (Nat.pow_dvd_pow 2 (by decide))

section
variable {h : Hdr} {cls : BitVec 5} {a d : Reg} {k m : BitVec 5} {s : State}

theorem gang_isSome (hr : Ready s h) : (focused s).gang.isSome = false := by
  rw [hr.plain.gang]
  rfl

theorem allowed_clset (hcls : classAllowed (launchHere s) cls.toNat = true) (hrsv : routeReserved ((xr s a).setWidth 32) = false)
    (hdet : (focused s).sys.det = false ∨ ((xr s a).setWidth 32 : BitVec 32).extractLsb' 0 2 ≠ 2) :
    Allowed (clsetOp h cls a) (focusEnv s (clsetOp h cls a).word) (focused s) := by
  have hfree : ((focused s).sys.det && (xr s a).extractLsb' 0 2 == 2) = false := by
    rcases hdet with hdet | hdet
    · rw [hdet]; rfl
    · rw [beq_eq_false_iff_ne.2 (mode_setWidth (xr s a) ▸ hdet), Bool.and_false]
  exact ⟨congrArg not hcls, hrsv, rfl, rfl, rfl, hfree, rfl⟩

theorem allowed_cellar (hmode : (focused s).sys.mode = true) : Allowed (cellarOp h m a) (focusEnv s (cellarOp h m a).word) (focused s) :=
  ⟨congrArg not hmode, rfl, rfl, rfl, rfl, rfl, rfl⟩

variable (hr : Ready s h)
include hr

theorem exec_clset (hcls : classAllowed (launchHere s) cls.toNat = true) (hrsv : routeReserved ((xr s a).setWidth 32) = false)
    (hdet : (focused s).sys.det = false ∨ ((xr s a).setWidth 32 : BitVec 32).extractLsb' 0 2 ≠ 2) :
    exec (.clset h cls a) s = .next (
      if ((List.range 5).any fun i => (List.range 4).any fun o =>
        (routeOut ((xr s a).setWidth 32) i).getLsbD o && leadsOut (focusEnv s (encode (.clset h cls a))) o) = true then trapped s eSeal 0
      else did s (setRoute (focused s) cls.toNat ((xr s a).setWidth 32))) := by
  have ha := allowed_clset (h := h) hcls hrsv hdet
  split
  · next hout => exact exec_trap (op := clsetOp h cls a) hr ha (if_pos hout)
  · next hin => exact exec_done (op := clsetOp h cls a) hr ha (.inl rfl) (if_neg hin) hr.plain.pending rfl

theorem exec_clset_rsv (hcls : classAllowed (launchHere s) cls.toNat = true) (hrsv : routeReserved ((xr s a).setWidth 32) = true) :
    exec (.clset h cls a) s = .next (trapped s eRsv (encode (.clset h cls a))) :=
  issue_broken (op := clsetOp h cls a) hr (congrArg not hcls) (if_pos hrsv)

theorem exec_clset_det (hcls : classAllowed (launchHere s) cls.toNat = true) (hrsv : routeReserved ((xr s a).setWidth 32) = false)
    (hdet : (focused s).sys.det = true) (hmode : ((xr s a).setWidth 32 : BitVec 32).extractLsb' 0 2 = 2) :
    exec (.clset h cls a) s = .next (trapped s eDet (encode (.clset h cls a))) := by
  have hbad : ((focused s).sys.det && (xr s a).extractLsb' 0 2 == 2) = true := by
    rw [hdet, Bool.true_and, beq_iff_eq, ← mode_setWidth]
    exact hmode
  refine issue_broken (op := clsetOp h cls a) hr (congrArg not hcls) ?_
  exact (if_neg (ne_true_of_eq_false hrsv)).trans ((if_neg Bool.false_ne_true).trans ((if_neg Bool.false_ne_true).trans
    ((if_neg Bool.false_ne_true).trans (if_pos hbad))))

theorem exec_clget : exec (.clget h d cls) s = .next (didX s d ((routeEntry (focused s) cls.toNat).setWidth 64)) :=
  exec_wx (op := clgetOp h d cls) hr ⟨rfl, rfl, rfl, rfl, rfl, rfl, rfl⟩ rfl rfl

theorem exec_tbind (hcls : (xr s a).getLsbD 18 = true ∨ classAllowed (launchHere s) ((xr s a).extractLsb' 19 5).toNat = true) :
    exec (.tbind h k a) s = .next (
      if (xr s a).toNat % 8 ≠ 0 then trapped s eAlign (((xr s a).setWidth 16 : BitVec 16).setWidth 64)
      else did s (refreshReady { focused s with tasks := fset (focused s).tasks k.toNat (boundTask (xr s a)) })) := by
  have hpriv : (!(xr s a).getLsbD 18 && !classReceivable (focusEnv s (tbindOp h k a).word) (focused s) (wfield (xr s a) 19 5)) = false := by
    rcases hcls with hev | hcls
    · rw [hev]; rfl
    · rw [wfield_eq, (classReceivable_iff s _ _).2 (.inl hcls), Bool.not_true, Bool.and_false]
  have ha : Allowed (tbindOp h k a) (focusEnv s (tbindOp h k a).word) (focused s) := ⟨rfl, rfl, hpriv, rfl, gang_isSome hr, rfl, rfl⟩
  have hmod : ((xr s a).setWidth 16 : BitVec 16).toNat % 8 = (xr s a).toNat % 8 := by rw [BitVec.toNat_setWidth]; omega
  obtain ⟨-, -, hpc, -, hpend⟩ := refreshReady_rest { focused s with tasks := fset (focused s).tasks k.toNat (boundTask (xr s a)) }
  rw [← hmod]
  split
  · next hal => exact exec_trap (op := tbindOp h k a) hr ha (if_pos hal)
  · next hal => exact exec_done (op := tbindOp h k a) hr ha (.inl rfl) (if_neg hal) (hpend.trans hr.plain.pending) hpc

theorem exec_tunb : exec (.tunb h k) s = .next (did s { focused s with tasks := fdel (focused s).tasks k.toNat }) :=
  exec_done (op := tunbOp h k) hr ⟨rfl, rfl, rfl, rfl, gang_isSome hr, rfl, rfl⟩ (.inl rfl) rfl hr.plain.pending rfl

theorem exec_cellar_priv (hm : (focused s).sys.mode = false) :
    exec (.cellar h m a) s = .next (trapped s ePriv (encode (.cellar h m a))) :=
  issue_priv (op := cellarOp h m a) hr (congrArg not hm) rfl

section
variable (hmode : (focused s).sys.mode = true)
include hmode

theorem exec_cellar_holds (he : cellarEntries (focused s) ≠ []) : exec (.cellar h m a) s = .next (trapped s eQueue 0) :=
  exec_trap (op := cellarOp h m a) hr (allowed_cellar hmode) (if_pos (by simpa using he))

variable (he : cellarEntries (focused s) = [])
include he

theorem exec_cellar_none : exec (.cellar h 0 a) s = .next (did s { focused s with cellar := none }) :=
  exec_done (op := cellarOp h 0 a) hr (allowed_cellar hmode) (.inl rfl) ((if_neg (by simp [he])).trans (if_pos rfl)) hr.plain.pending rfl

theorem exec_cellar_align (h0 : m ≠ 0) (hal : ((xr s a).setWidth 19 : BitVec 19).toNat % 4096 ≠ 0) :
    exec (.cellar h m a) s = .next (trapped s eAlign (((xr s a).setWidth 19 : BitVec 19).setWidth 64)) :=
  exec_trap (op := cellarOp h m a) hr (allowed_cellar hmode) ((if_neg (by simp [he])).trans ((if_neg h0).trans (if_pos hal)))

variable (h0 : m ≠ 0) (hal : ((xr s a).setWidth 19 : BitVec 19).toNat % 4096 = 0)
include h0 hal

theorem exec_cellar_bound (hb : 0x80000 < ((xr s a).setWidth 19 : BitVec 19).toNat + 4096 * m.toNat ∨
      overPantry (focused s) ((xr s a).setWidth 19 : BitVec 19).toNat (4096 * m.toNat) = true) :
    exec (.cellar h m a) s = .next (trapped s eBound (((xr s a).setWidth 19 : BitVec 19).setWidth 64)) :=
  exec_trap (op := cellarOp h m a) hr (allowed_cellar hmode) ((if_neg (by simp [he])).trans ((if_neg h0).trans
    ((if_neg (not_not.2 hal)).trans (if_pos ((cellar_test ..).2 hb)))))

theorem exec_cellar_ok (hb : ((xr s a).setWidth 19 : BitVec 19).toNat + 4096 * m.toNat ≤ 0x80000)
    (hp : overPantry (focused s) ((xr s a).setWidth 19 : BitVec 19).toNat (4096 * m.toNat) = false) :
    exec (.cellar h m a) s = .next (did s { focused s with
      cellar := some ((xr s a).setWidth 19, 4096 * m.toNat)
      sram := clearStamps (focused s).sram ((xr s a).setWidth 19 : BitVec 19).toNat (28 * m.toNat) }) := by
  have hcount : cellarCount (4096 * m.toNat) = 28 * m.toNat := by rw [cellarCount, Nat.mul_div_cancel_left _ (by decide)]
  rw [← hcount]
  exact exec_done (op := cellarOp h m a) hr (allowed_cellar hmode) (.inl rfl) ((if_neg (by simp [he])).trans ((if_neg h0).trans
    ((if_neg (not_not.2 hal)).trans (if_neg fun hbad => ((cellar_test ..).1 hbad).elim (by omega) (ne_true_of_eq_false hp))))) hr.plain.pending rfl

end
end

/-- Settles O38. -/
theorem bindingsAndEntries : Obligations.BindingsAndEntries := by
  unfold Obligations.BindingsAndEntries
  refine ⟨fun h q s hr => ⟨fun hm => ⟨fun cls => ⟨exec_qbindIn hr hm, exec_qbindIn_priv hr⟩, fun cls a hcls => ?_, fun cls a hd hcls => ?_,
      fun cls a hd => exec_qbindOut_priv hr, fun cls a hd hcls h0 => ?_, fun p => exec_qbindPantry hr hm, fun a => exec_qbindLarder hr hm,
      fun a => exec_qbindCap hr hm, exec_qfree hr hm⟩,
      fun hm => ⟨issue_mkOp_trap hr (rebinding_held hm _), fun p => issue_mkOp_trap hr (rebinding_held hm _),
        fun a => issue_mkOp_trap hr (rebinding_held hm _), fun cls hcls =>
          ⟨exec_trap (op := qbindInOp h q cls) hr (allowed_qbindIn (.inl hcls)) (rebinding_held hm _),
            fun a hd => exec_trap (op := qbindOutOp h q cls a hd) hr (allowed_qbindOut hcls) (rebinding_held hm _)⟩⟩,
      fun d => issue_mkOp_wx hr rfl, fun hq => by simp only [qstatWord, hq]⟩,
    fun h a d s hr => ⟨fun cls => exec_clset hr, fun cls hcls => ⟨exec_clset_rsv hr hcls, exec_clset_det hr hcls⟩, fun cls => exec_clget hr,
      fun k => ⟨exec_tbind hr, exec_tunb hr⟩, fun m => ⟨fun hmode he => ⟨fun h0 => ?_, exec_cellar_ok hr hmode he, exec_cellar_align hr hmode he,
        exec_cellar_bound hr hmode he⟩, exec_cellar_holds hr, exec_cellar_priv hr⟩⟩⟩
  · intro v t hwaf hshape hrow hcol hav
    exact exec_qbindOut (hd := 0) hr hm hcls (.inl rfl) (not_bindBad hwaf (fun _ => hshape) hrow hcol hav)
  · intro v t hs hbad
    exact exec_qbindOut_bad hr hm hcls hs hbad
  · intro v t
    have ht : bindTarget s a hd = t := by rw [bindTarget, if_neg h0]
    rw [← ht]
    refine ⟨fun hs hwaf hrow hcol hav => ?_, exec_qbindOut_seal hr hm hcls h0⟩
    rw [exec_qbindOut hr hm hcls (.inr hs) (not_bindBad hwaf (fun hz => absurd hz h0) hrow hcol hav), if_neg h0]
  · subst h0
    exact exec_cellar_none hr hmode he

end Sys2Proof.Proofs

/-! Receiving from classes and pantries at a ready core (R167, R380, R387, R391, R392). -/

namespace Sys2Proof.Proofs
open Sys2Proof Sys2Proof.Machine Sys2Proof.Laws

/-! ## Instructions that write several registers at once -/

theorem applyDests_pc (c : Core) (ds : List DestVal) : (applyDests .main c ds).pc = c.pc := by
  induction ds generalizing c with
  | nil => rfl
  | cons d ds ih =>
    have hd : (applyDest .main c d).pc = c.pc := by cases d <;> simp [applyDest]
    exact (ih _).trans hd

/-- A ready short instruction that changes its core and writes registers at once. -/
theorem exec_dests {op : Op} {s : State} {c : Core} {ds : List DestVal} (hr : Ready s op.h)
    (ha : Allowed op (focusEnv s op.word) (focused s)) (hc : op.cls = .s ∨ op.cls = .b)
    (hb : op.body (focusEnv s op.word) (focused s) = .ok { core := c, dests := ds }) (hp : c.pending = [])
    (hpc : c.pc = (focused s).pc) : issue op s = .next (did s (applyDests .main c ds)) := by
  have hzero : ∀ c, addFlags c 0 0 0 0 = c := addFlags_zero
  rw [exec_short hr ha (by tauto) hb hp]
  simp only [List.foldl_nil, hzero, did, past, applyDests_pc, hpc]
  rfl

/-! ## Flits -/

/-- A word of a flit's payload. -/
theorem ofNat_flitField (f : Flit) (k : Nat) : BitVec.ofNat 64 (flitField f (8 * k) 8) = f.payload.extractLsb' (64 * k) 64 := by
  apply BitVec.eq_of_toNat_eq
  rw [BitVec.toNat_ofNat, BitVec.extractLsb'_toNat, flitField, ← Nat.mul_assoc]
  exact Nat.mod_mod _ _

/-- EXP and CHUNK of a PSUM flit in one word. -/
theorem psumWord_eq (e : Int) (ch : BitVec 15) : BitVec.ofNat 64 (truncZ e 10 + ch.toNat * 2 ^ 16) =
    ((ch.setWidth 48 : BitVec 48) ++ (BitVec.ofInt 16 e &&& 0x3FF) : BitVec 64) := by
  have hch := ch.isLt
  have hlow : (BitVec.ofInt 16 e &&& 0x3FF).toNat = truncZ e 10 := by
    rw [BitVec.toNat_and, BitVec.toNat_ofInt, truncZ, show (0x3FF : BitVec 16).toNat = 2 ^ 10 - 1 from rfl, Nat.and_two_pow_sub_one_eq_mod]
    omega
  have hlt : truncZ e 10 < 2 ^ 10 := truncZ_lt e 10
  apply BitVec.eq_of_toNat_eq
  rw [BitVec.toNat_append, hlow, ← Nat.shiftLeft_add_eq_or_of_lt (by omega), BitVec.toNat_setWidth, BitVec.toNat_ofNat, Nat.shiftLeft_eq]
  omega

section
variable {i : Instr} {h : Hdr} {reads writes : List RegRef} {body : Env → Core → Out} {s : State}

/-- A body with no message open, by its outcome. -/
theorem issue_b_dests {c : Core} {ds : List DestVal} (hr : Ready s h)
    (hb : body (focusEnv s (encode i)) (focused s) = .ok { core := c, dests := ds }) (hp : c.pending = [])
    (hpc : c.pc = (focused s).pc) : issue (mkOp i h .b reads writes body) s = .next (did s (applyDests .main c ds)) :=
  exec_dests hr allowed_mkOp (.inr rfl) hb hp hpc

theorem issue_b_waits (hr : Ready s h) (hb : body (focusEnv s (encode i)) (focused s) = .wait (focused s) .instr) :
    issue (mkOp i h .b reads writes body) s = .next (withFocus s { focused s with wait := .instr }) :=
  exec_wait hr allowed_mkOp hb

end

/-- A body on a valid inbound pantry. -/
theorem withPantry_ok {c : Core} {p : Nat} (hvalid : (pantryAt c p).valid = true) (hin : (pantryAt c p).outbound = false)
    (k : Pantry → Out) : withPantry c p k = k (pantryAt c p) :=
  if_pos (by rw [hvalid, hin]; rfl)

theorem popOr_none {c : Core} {cls : Nat} (hn : popFlit c cls = none) (k : Flit → Core → Out) : popOr c cls k = .wait c .instr := by
  rw [popOr, hn]

theorem popOr_some {c c' : Core} {cls : Nat} {f : Flit} (hf : popFlit c cls = some (f, c')) (k : Flit → Core → Out) :
    popOr c cls k = k f (refreshReady c') := by
  rw [popOr, hf]

section
variable {h : Hdr} {d : Reg} {v : VReg} {q : BitVec 4} {s : State} (hr : Ready s h) (ho : (focused s).opens = [])
include hr ho

section
variable {cls : BitVec 5} (hq : readQ (focused s) q.toNat = .inQ cls)
include hq

theorem exec_pop_waits {k : BitVec 4} (hn : popFlit (focused s) cls.toNat = none) :
    exec (.pop h d q k) s = .next (withFocus s { focused s with wait := .instr }) := by
  refine issue_b_waits hr ((unlessOpen_nil ho _).trans ?_)
  simp only [hq]
  exact popOr_none hn _

theorem exec_vpop_waits (hn : popFlit (focused s) cls.toNat = none) :
    exec (.vpop h v q) s = .next (withFocus s { focused s with wait := .instr }) := by
  refine issue_b_waits hr ((unlessOpen_nil ho _).trans ?_)
  simp only [hq]
  exact popOr_none hn _

section
variable {f : Flit} {c : Core} (hf : popFlit (focused s) cls.toNat = some (f, c)) (hp : c.pending = []) (hpc : c.pc = (focused s).pc)
include hf hp hpc

theorem exec_pop {k : BitVec 4} : exec (.pop h d q k) s =
    .next (did s (writeX (refreshReady c) .main d.toNat (f.payload.extractLsb' (64 * k.toNat) 64))) := by
  obtain ⟨-, -, hrpc, -, hrp⟩ := refreshReady_rest c
  rw [← ofNat_flitField]
  refine issue_b_dests (c := refreshReady c) (ds := [.x d.toNat _]) hr ((unlessOpen_nil ho _).trans ?_) (hrp.trans hp) (hrpc.trans hpc)
  simp only [hq]
  exact popOr_some hf _

theorem exec_vpop : exec (.vpop h v q) s = .next (did s (writeV (writeV (refreshReady c) .main v.toNat
    (f.payload.extractLsb' 0 512)) .main (v.toNat + 1) (f.payload.extractLsb' 512 512))) := by
  obtain ⟨-, -, hrpc, -, hrp⟩ := refreshReady_rest c
  refine issue_b_dests (c := refreshReady c) (ds := [.v v.toNat _, .v (v.toNat + 1) _]) hr ((unlessOpen_nil ho _).trans ?_) (hrp.trans hp)
    (hrpc.trans hpc)
  simp only [hq]
  exact popOr_some hf _

theorem exec_trecv (hk : flitKind f = 10) : exec (.trecv h v d q) s = .next (did s (writeX (writeV (writeV (refreshReady c) .main v.toNat
    (f.payload.extractLsb' 0 512)) .main (v.toNat + 1) (f.payload.extractLsb' 512 512)) .main d.toNat
      (((flitChunk f).setWidth 48 : BitVec 48) ++ (BitVec.ofInt 16 (flitExp f) &&& 0x3FF)))) := by
  obtain ⟨-, -, hrpc, -, hrp⟩ := refreshReady_rest c
  rw [← psumWord_eq]
  refine exec_dests (op := tensorOp _ h .b _ _ _) (c := refreshReady c) (ds := [.v v.toNat _, .v (v.toNat + 1) _, .x d.toNat _]) hr
    allowed_tensorOp (.inr rfl) ((unlessOpen_nil ho _).trans ?_) (hrp.trans hp) (hrpc.trans hpc)
  simp only [hq, hf]
  exact if_neg (not_not.2 hk)

end
end

section
variable {p o : Nat} (hq : readQ (focused s) q.toNat = .pantry p o) (hvalid : (pantryAt (focused s) p).valid = true)
  (hin : (pantryAt (focused s) p).outbound = false)
include hq hvalid hin

theorem exec_pop_pantry (ha : 0 < ((pantryAt (focused s) p).fill - (pantryAt (focused s) p).cur).toNat) : exec (.pop h d q 0) s =
    (let x := pantryAt (focused s) p
     .next (did s (writeX (writeQ (setPantry (focused s) p { x with cur := if o = 3 then x.cur + 1 else x.cur }) q.toNat
       (.pantry p ((o + 1) % 4))) .main d.toNat ((focused s).sram.word (sectorAddr x x.cur + 8 * o))))) := by
  refine issue_b_dests (c := writeQ _ _ _) (ds := [.x d.toNat _]) hr ((unlessOpen_nil ho _).trans ?_) hr.plain.pending rfl
  simp only [hq]
  exact (if_neg (not_not.2 rfl)).trans ((withPantry_ok hvalid hin _).trans (if_neg (Nat.pos_iff_ne_zero.1 ha)))

theorem exec_vpop_pantry (h0 : o = 0) (hw : 4 ≤ pantryW (pantryAt (focused s) p))
    (ha : 4 ≤ ((pantryAt (focused s) p).fill - (pantryAt (focused s) p).cur).toNat) : exec (.vpop h v q) s =
    (let x := pantryAt (focused s) p
     let b := bitsOfBytes 1024 ((List.range 4).flatMap fun i =>
       (focused s).sram.readBytes (sectorAddr x (x.cur + BitVec.ofNat 32 i)) 32)
     .next (did s (writeV (writeV (setPantry (focused s) p { x with cur := x.cur + 4 }) .main v.toNat (b.extractLsb' 0 512)) .main
       (v.toNat + 1) (b.extractLsb' 512 512)))) := by
  refine issue_b_dests (c := setPantry _ _ _) (ds := [.v v.toNat _, .v (v.toNat + 1) _]) hr ((unlessOpen_nil ho _).trans ?_) hr.plain.pending rfl
  simp only [hq]
  exact (if_neg (not_not.2 h0)).trans ((withPantry_ok hvalid hin _).trans ((if_neg (Nat.not_lt.2 hw)).trans (if_neg (Nat.not_lt.2 ha))))

end
end

section
variable {h : Hdr} {d : Reg} {q : BitVec 4} {cls : BitVec 5} {s : State} (hr : Ready s h) (hq : readQ (focused s) q.toNat = .inQ cls)
include hr hq

theorem exec_qpeek_none {k : BitVec 5} (hn : popFlit (focused s) cls.toNat = none) : exec (.qpeek h d q k) s = .next (didX s d 0) := by
  refine issue_mkOp_wx hr ?_
  simp only [hq, headFlit, hn, Option.map_none]

theorem exec_qpeek_some {k : BitVec 5} {f : Flit} {c : Core} (hf : popFlit (focused s) cls.toNat = some (f, c)) :
    exec (.qpeek h d q k) s = .next (didX s d (if k = 16 then f.side else f.payload.extractLsb' (64 * k.toNat) 64)) := by
  rw [← ofNat_flitField]
  refine issue_mkOp_wx hr ?_
  simp only [hq, headFlit, hf, Option.map_some]

end

/-- Settles O39. -/
theorem receiving : Obligations.Receiving := by
  unfold Obligations.Receiving
  intro h d q s hr
  refine ⟨fun cls hq ho => ⟨fun hn => ⟨fun k => exec_pop_waits hr ho hq hn, fun v => exec_vpop_waits hr ho hq hn, fun k => exec_qpeek_none hr hq hn⟩,
    fun f c hf hp hpc => ⟨fun k => exec_pop hr ho hq hf hp hpc, fun v _ => exec_vpop hr ho hq hf hp hpc, fun k hk => ?_, exec_qpeek_some hr hq hf,
      fun v hkind _ => exec_trecv hr ho hq hf hp hpc hkind⟩, fun f fs hqueue => by simp only [popFlit, hqueue]⟩,
    fun p o hq ho => ?_⟩
  · have hne : k ≠ 16 := fun heq => by rw [heq] at hk; exact absurd hk (by decide)
    rw [exec_qpeek_some hr hq hf, if_neg hne]
  · intro x hvalid hin
    exact ⟨exec_pop_pantry hr ho hq hvalid hin, fun v _ => exec_vpop_pantry hr ho hq hvalid hin⟩

end Sys2Proof.Proofs

/-! Sending flits, messages and capability requests at a ready core (R148 to R150, R172, R379, R388, R389, R392). -/

namespace Sys2Proof.Proofs
open Sys2Proof Sys2Proof.Machine Sys2Proof.Laws

/-- The group of two registers from v[r] on, as one word. -/
def vpair (s : State) (r : VReg) : BitVec 1024 := readV (focused s) .main (r.toNat + 1) ++ vr s r

theorem groupBits_two (s : State) (w : Word) (r : VReg) : groupBits (focusEnv s w) (focused s) r 2 = (vpair s r).toNat := by
  have hlow := (vr s r).isLt
  rw [vpair, BitVec.toNat_append, ← Nat.shiftLeft_add_eq_or_of_lt hlow, Nat.shiftLeft_eq, groupBits, foldl_range_two, Nat.mul_zero,
    Nat.pow_zero, Nat.mul_one, Nat.mul_one, Nat.add_comm]
  rfl

section
variable {i : Instr} {h : Hdr} {cls : LaClass} {reads writes : List RegRef} {body : Env → Core → Out} {s : State} {c : Core}

/-- A ready instruction of class B that changes its core alone. -/
theorem issue_b_done (hr : Ready s h) (hb : body (focusEnv s (encode i)) (focused s) = done c) (hp : c.pending = (focused s).pending)
    (hpc : c.pc = (focused s).pc) : issue (mkOp i h .b reads writes body) s = .next (did s c) :=
  exec_done hr allowed_mkOp (.inr rfl) hb (hp.trans hr.plain.pending) hpc

/-- A ready instruction that waits. -/
theorem issue_mkOp_wait {w : Wait} (hr : Ready s h) (hb : body (focusEnv s (encode i)) (focused s) = .wait c w) :
    issue (mkOp i h cls reads writes body) s = .next (withFocus s { c with wait := w }) :=
  exec_wait hr allowed_mkOp hb

end

/-! ## What sending leaves of a core -/

theorem sendNow_shape (c : Core) (cls : Nat) (fs : List Flit) : ∃ egress injected delivered, sendNow c cls fs =
    { c with egress := egress, injected := injected, delivered := delivered } := ⟨_, _, _, rfl⟩

@[simp] theorem sendNow_pending (c : Core) (cls : Nat) (fs : List Flit) : (sendNow c cls fs).pending = c.pending := rfl
@[simp] theorem sendNow_pc (c : Core) (cls : Nat) (fs : List Flit) : (sendNow c cls fs).pc = c.pc := rfl
@[simp] theorem sendNow_opens (c : Core) (cls : Nat) (fs : List Flit) : (sendNow c cls fs).opens = c.opens := rfl

theorem sendBehind_rest (c : Core) (cls : Nat) : (sendBehind c cls).pending = c.pending ∧ (sendBehind c cls).pc = c.pc := by
  unfold sendBehind
  split <;> exact ⟨rfl, rfl⟩

/-- Flits sent on an OUT binding without a handle, to an available core of the region. -/
theorem sendBound_own {s : State} {row col : Nat} (hown : inOwn s row col) (hav : unavailable s.dev row col = false)
    (put : Core → Nat → List Flit → Core) (w : Word) (c : Core) (cls : Nat) (fs : Bool → List Flit) (k : Core → Out) :
    sendBound put (focusEnv s w) c cls row col 0 fs k = k (put c cls ((fs false).map fun x => { x with gen := 0 })) := by
  have hin : inOwnRegion (focusEnv s w) row col = true := by
    obtain ⟨l, hl, hin⟩ := hown
    rw [inOwnRegion, show (focusEnv s w).launch = some l from hl]
    exact hin
  have hav' : unavailable (focusEnv s w).dev row col = false := hav
  have hfor : isForeign (focusEnv s w) 0 row col = false := rfl
  unfold sendBound
  rw [if_neg (by simp), if_neg (by simp [hin, hav']), hfor]
  rfl

/-! ## Messages on an OUT binding -/

/-- A core that goes on with its messages replaced. -/
theorem opens_wait (c : Core) (ops : FMap OpenMsg) (x : Wait) :
    { ({ c with opens := ops } : Core) with wait := x } = { c with wait := x, opens := ops } := rfl

/-- A flit of a message of the core in focus to a core of its region. -/
def ownFlit (s : State) (cls : BitVec 5) (row col : Nat) (p : BitVec 1024) (i n : Nat) : Flit :=
  msgFlit (focusEnv s 0) cls.toNat row col i n false p

/-- The message after len bytes are joined to it. -/
def joinedMsg (o : OpenMsg) (len v : Nat) : OpenMsg :=
  let all := o.part.toNat + v * 2 ^ (8 * (o.cursor % 128))
  { o with cursor := o.cursor + len, part := BitVec.ofNat 1024 (if 128 ≤ o.cursor % 128 + len then all / 2 ^ 1024 else all) }

/-- The flit that joined bytes complete. -/
def joinedFlit (s : State) (cls : BitVec 5) (row col : Nat) (o : OpenMsg) (v : Nat) : Flit :=
  ownFlit s cls row col (BitVec.ofNat 1024 (o.part.toNat + v * 2 ^ (8 * (o.cursor % 128)))) (o.cursor / 128) o.flits

/-- The core once len bytes are joined to its open message: a flit that they complete is sent. -/
def joinedCore (s : State) (q : BitVec 4) (cls : BitVec 5) (row col : Nat) (o : OpenMsg) (len v : Nat) : Core :=
  sendBehind { (if 128 ≤ o.cursor % 128 + len then sendNow (focused s) cls.toNat [joinedFlit s cls row col o v] else focused s) with
    opens := fset (focused s).opens q.toNat (joinedMsg o len v) } cls.toNat

section
variable {h : Hdr} {a : Reg} {w : VReg} {q : BitVec 4} {cls : BitVec 5} {row col : Nat} {s : State}

/-- The body of PUSH and VPUSH with no message open. -/
theorem pushOut_alone (hother : otherOpen (focused s) q.toNat cls = none) (hroom : (egressOf (focused s) cls.toNat).length < 2)
    (hown : inOwn s row col) (hav : unavailable s.dev row col = false) (ho : ffind (focused s).opens q.toNat = none) (wd : Word)
    (len v : Nat) : pushOut (focusEnv s wd) (focused s) q cls row col 0 len v =
      done (sendNow (focused s) cls.toNat [ownFlit s cls row col (BitVec.ofNat 1024 v) 0 1]) := by
  have hfree : inputFree (focused s) cls.toNat = true := decide_eq_true hroom
  unfold pushOut
  simp only [hother, ho, hfree, Bool.not_true, Bool.false_eq_true, if_false]
  exact sendBound_own hown hav ..

/-- The body of PUSH and VPUSH that join bytes to an open message. -/
theorem pushOut_joins (hother : otherOpen (focused s) q.toNat cls = none) (hroom : (egressOf (focused s) cls.toNat).length < 2)
    (hown : inOwn s row col) (hav : unavailable s.dev row col = false) {o : OpenMsg} (ho : ffind (focused s).opens q.toNat = some o)
    (wd : Word) {len : Nat} (hlen : o.cursor + len ≤ 128 * o.flits) (v : Nat) :
    pushOut (focusEnv s wd) (focused s) q cls row col 0 len v = done (joinedCore s q cls row col o len v) := by
  have hfree : inputFree (focused s) cls.toNat = true := decide_eq_true hroom
  unfold pushOut joinedCore joinedMsg
  simp only [hother, ho, hfree, Bool.not_true, Bool.false_eq_true, if_false]
  rw [if_neg (by omega)]
  by_cases hfull : 128 ≤ o.cursor % 128 + len
  · have happ : appendMsg o len v = (some (BitVec.ofNat 1024 (o.part.toNat + v * 2 ^ (8 * (o.cursor % 128)))), joinedMsg o len v) := by
      rw [appendMsg, if_neg (by omega), joinedMsg, if_pos hfull]
    simp only [happ, if_pos hfull]
    refine (sendBound_own hown hav ..).trans ?_
    rw [joinedMsg, if_pos hfull]
    rfl
  · have happ : appendMsg o len v = (none, joinedMsg o len v) := by
      rw [appendMsg, if_pos (by omega), joinedMsg, if_neg hfull]
    simp only [happ, if_neg hfull]
    rw [joinedMsg, if_neg hfull]

theorem joinedCore_rest (s : State) (q : BitVec 4) (cls : BitVec 5) (row col : Nat) (o : OpenMsg) (len v : Nat) :
    (joinedCore s q cls row col o len v).pending = (focused s).pending ∧ (joinedCore s q cls row col o len v).pc = (focused s).pc := by
  obtain ⟨hp, hpc⟩ := sendBehind_rest { (if 128 ≤ o.cursor % 128 + len then sendNow (focused s) cls.toNat [joinedFlit s cls row col o v]
    else focused s) with opens := fset (focused s).opens q.toNat (joinedMsg o len v) } cls.toNat
  refine ⟨hp.trans ?_, hpc.trans ?_⟩
  · dsimp only; split <;> rfl
  · dsimp only; split <;> rfl

/-- The core once MCLOSE has sent the next n flits of its message. -/
def closing (s : State) (cls : BitVec 5) (row col : Nat) (o : OpenMsg) (n : Nat) : Core :=
  sendNow (focused s) cls.toNat ((List.range n).map fun j => ownFlit s cls row col (if j = 0 then o.part else 0) (o.cursor / 128 + j) o.flits)

/-- What MCLOSE sends. -/
theorem sendBound_closing (hown : inOwn s row col) (hav : unavailable s.dev row col = false) (wd : Word) (o : OpenMsg) (n : Nat)
    (k : Core → Out) : sendBound sendNow (focusEnv s wd) (focused s) cls.toNat row col 0 (fun f => (List.range n).map fun j =>
      msgFlit (focusEnv s wd) cls.toNat row col (o.cursor / 128 + j) o.flits f (if j = 0 then o.part else 0)) k =
      k (closing s cls row col o n) := by
  rw [sendBound_own hown hav, List.map_map]
  rfl

variable (hr : Ready s h) (hq : readQ (focused s) q.toNat = .outQ cls row col 0)
include hr hq

/-- PUSH, by its body. -/
theorem exec_push {c : Core} (hb : pushOut (focusEnv s (encode (.push h q a))) (focused s) q cls row col 0 8 (xr s a).toNat = done c)
    (hp : c.pending = (focused s).pending) (hpc : c.pc = (focused s).pc) : exec (.push h q a) s = .next (did s c) := by
  refine issue_b_done hr ?_ hp hpc
  simp only [hq]
  exact hb

/-- VPUSH on an OUT binding, by its body. -/
theorem exec_vpush {c : Core} (hb : pushOut (focusEnv s (encode (.vpush h q w))) (focused s) q cls row col 0 128 (vpair s w).toNat = done c)
    (hp : c.pending = (focused s).pending) (hpc : c.pc = (focused s).pc) : exec (.vpush h q w) s = .next (did s c) := by
  refine issue_b_done hr ?_ hp hpc
  simp only [hq, groupBits_two]
  exact hb

theorem exec_mopen {n : BitVec 5} (hother : otherOpen (focused s) q.toNat cls = none) (ho : ffind (focused s).opens q.toNat = none) :
    exec (.mopen h q n) s = .next (did s { focused s with opens := fset (focused s).opens q.toNat ⟨n.toNat + 1, 0, 0⟩ }) := by
  refine issue_mkOp_done hr ?_ rfl rfl
  simp only [hq, hother, ho]
  rfl

theorem exec_mclose_closed (ho : ffind (focused s).opens q.toNat = none) : exec (.mclose h q) s = .next (trapped s eQueue (q.setWidth 64)) := by
  refine issue_mkOp_trap hr ?_
  simp only [hq, ho]
  rfl

section
variable {o : OpenMsg} (ho : ffind (focused s).opens q.toNat = some o)
include ho

theorem exec_mclose_done (hall : o.cursor = 128 * o.flits) :
    exec (.mclose h q) s = .next (did s { focused s with opens := fdel (focused s).opens q.toNat }) := by
  refine issue_mkOp_done hr ?_ rfl rfl
  simp only [hq, ho]
  exact if_pos (by omega)

variable (hown : inOwn s row col) (hav : unavailable s.dev row col = false)
include hown hav

theorem exec_mclose_sends (hi : o.cursor / 128 < o.flits)
    (hleft : o.flits - o.cursor / 128 ≤ 2 - (egressOf (focused s) cls.toNat).length) : exec (.mclose h q) s =
      .next (did s (sendBehind { closing s cls row col o (o.flits - o.cursor / 128) with opens := fdel (focused s).opens q.toNat } cls.toNat)) := by
  have hrest := sendBehind_rest { closing s cls row col o (o.flits - o.cursor / 128) with opens := fdel (focused s).opens q.toNat } cls.toNat
  refine issue_mkOp_done hr ?_ hrest.1 hrest.2
  simp only [hq, ho, Nat.min_eq_left hleft]
  exact (if_neg (by omega)).trans ((if_neg (by omega)).trans ((sendBound_closing hown hav ..).trans (if_pos hleft)))

theorem exec_mclose_stays (hroom : (egressOf (focused s) cls.toNat).length < 2)
    (hleft : 2 - (egressOf (focused s) cls.toNat).length < o.flits - o.cursor / 128) : exec (.mclose h q) s =
    .next (withFocus s { closing s cls row col o (2 - (egressOf (focused s) cls.toNat).length) with
      wait := .run
      opens := fset (focused s).opens q.toNat
        { o with cursor := 128 * (o.cursor / 128 + (2 - (egressOf (focused s) cls.toNat).length)), part := 0 } }) := by
  rw [← opens_wait]
  refine issue_mkOp_wait hr ?_
  simp only [hq, ho, Nat.min_eq_right (Nat.le_of_lt hleft)]
  exact (if_neg (by omega)).trans ((if_neg (by omega)).trans ((sendBound_closing hown hav ..).trans (if_neg (by omega))))

end
end

/-! ## Partial sums -/

/-- A ready short tensor instruction that changes its core and counts clamped values. -/
theorem issue_tensor_counts {i : Instr} {h : Hdr} {reads writes : List RegRef} {body : Env → Core → Out} {s : State} {c : Core} {n : Nat}
    (hr : Ready s h) (hb : body (focusEnv s (encode i)) (focused s) = .ok { core := c, counts := ⟨n, 0, 0⟩ })
    (hp : c.pending = (focused s).pending) (hpc : c.pc = (focused s).pc) :
    issue (tensorOp i h .s reads writes body) s = .next (did s (addFlags c 0 n 0 0)) := by
  rw [exec_short hr allowed_tensorOp (.inl rfl) hb (hp.trans hr.plain.pending)]
  simp only [List.foldl_nil, applyDests_nil, did, past, addFlags_pc, hpc]
  rfl

/-- The sums that TSEND sends of a row. -/
def sentSums (s : State) (cls : BitVec 5) (k : BitVec 2) (row : BitVec 4) : List Int × Int × Nat :=
  rowSums (tileRow (readAcc (focused s) k.toNat) row.toNat) (readAcc (focused s) k.toNat).exp.toInt
    (floorAt (fget (focused s).sendFloor cls.toNat []) (fget (focused s).chunk cls.toNat 0))

section
variable {h : Hdr} {q : BitVec 4} {cls : BitVec 5} {row col : Nat} {s : State} (hr : Ready s h)
  (hq : readQ (focused s) q.toNat = .outQ cls row col 0)
include hr hq

theorem exec_tsend {k : BitVec 2} {r : BitVec 4} (hroom : (egressOf (focused s) cls.toNat).length < 2) (hown : inOwn s row col)
    (hav : unavailable s.dev row col = false) (hbehind : (behindOf (focused s) cls.toNat).length < 2) : exec (.tsend h k r q) s =
      .next (did s (addFlags (send
        { focused s with chunk := fset (focused s).chunk cls.toNat (fget (focused s).chunk cls.toNat 0 + 1) } cls.toNat
        [{ payload := BitVec.ofNat 1024 (packNat 64 ((sentSums s cls k r).1.map (truncZ · 32))),
           side := sidePsum cls.toNat row col false (sentSums s cls k r).2.1 (fget (focused s).chunk cls.toNat 0).toNat }])
        0 (sentSums s cls k r).2.2 0 0)) := by
  have hfree : sendFree (focused s) cls.toNat = true := by
    rw [sendFree, inputFree, decide_eq_true hroom, decide_eq_true hbehind]
    rfl
  refine issue_tensor_counts hr ?_ (send_pending ..) (send_pc ..)
  simp only [hq, hfree, Bool.not_true, Bool.false_eq_true, if_false]
  exact sendBound_own hown hav ..

theorem exec_tsendOpen {n : BitVec 8} : exec (.tsendOpen h q n) s = .next (did s { focused s with
    chunk := fset (focused s).chunk cls.toNat 0
    sendFloor := fdel (focused s).sendFloor cls.toNat
    depth := if isRoot (routeOf (focused s) cls.toNat) = true then fset (focused s).depth cls.toNat n.toNat else (focused s).depth }) := by
  refine exec_done (op := tensorOp _ h .s [.q q.toNat] [] _) hr allowed_tensorOp (.inl rfl) ?_ hr.plain.pending rfl
  simp only [tensorOp, mkOp, hq]

end

/-! ## Capability requests -/

theorem toNat_append_eq {m n : Nat} (x : BitVec m) (y : BitVec n) : (x ++ y).toNat = x.toNat * 2 ^ n + y.toNat := by
  rw [BitVec.toNat_append, ← Nat.shiftLeft_add_eq_or_of_lt y.isLt, Nat.shiftLeft_eq]

/-- The word of a capability request with tag 0. -/
theorem capPayload_eq (hd : Word) (v : BitVec 1024) :
    BitVec.ofNat 1024 (hd.toNat + fieldN v.toNat 64 128 * 2 ^ 64 + 0 * 2 ^ 192 + (v.toNat / 2 ^ 240) * 2 ^ 240) =
      (v.extractLsb' 240 784 ++ 0#48 ++ v.extractLsb' 64 128 ++ hd : BitVec 1024) := by
  have hv := v.isLt
  have hhigh : (v.extractLsb' 240 784).toNat = v.toNat / 2 ^ 240 := by
    rw [BitVec.extractLsb'_toNat, Nat.shiftRight_eq_div_pow]
    exact Nat.mod_eq_of_lt (Nat.div_lt_of_lt_mul (by rw [← Nat.pow_add]; exact hv))
  have hmid : (v.extractLsb' 64 128).toNat = fieldN v.toNat 64 128 := BitVec.extractLsb'_toNat ..
  have hsum : hd.toNat + fieldN v.toNat 64 128 * 2 ^ 64 + 0 * 2 ^ 192 + (v.toNat / 2 ^ 240) * 2 ^ 240 =
      (v.extractLsb' 240 784 ++ 0#48 ++ v.extractLsb' 64 128 ++ hd : BitVec 1024).toNat := by
    rw [toNat_append_eq, toNat_append_eq, toNat_append_eq, hhigh, hmid, BitVec.toNat_zero]
    ring
  rw [hsum, BitVec.ofNat_toNat, BitVec.setWidth_eq]

/-- The fields of the sideband of a first flit. -/
theorem sideFirst_fields {cls kind row col srow scol : Nat} (fr : Bool) (hcls : cls < 32) (hkind : kind < 16) (hrow : row < 512) (hcol : col < 512)
    (hsrow : srow < 512) (hscol : scol < 512) {f : Flit} (hf : f.side = sideFirst cls kind row col fr 0 srow scol) :
    flitCls f = cls ∧ flitKind f = kind ∧ flitDrow f = row ∧ flitDcol f = col ∧ flitSrow f = srow ∧ flitScol f = scol ∧
      flitForeign f = fr := by
  have hside : f.side.toNat = cls + 2 ^ 5 * kind + 2 ^ 14 * row + 2 ^ 23 * col + 2 ^ 38 * fr.toNat + 2 ^ 44 * srow + 2 ^ 53 * scol := by
    rw [hf, sideFirst, sideLow, BitVec.toNat_ofNat]
    cases fr <;> simp <;> omega
  have hfr : fr.toNat < 2 := Bool.toNat_lt fr
  simp only [flitCls, flitKind, flitDrow, flitDcol, flitSrow, flitScol, flitForeign, BitVec.extractLsb'_toNat, hside,
    Nat.shiftRight_eq_div_pow, BitVec.getLsbD, Nat.testBit_eq_decide_div_mod_eq]
  refine ⟨by omega, by omega, by omega, by omega, by omega, by omega, ?_⟩
  rw [show (cls + 2 ^ 5 * kind + 2 ^ 14 * row + 2 ^ 23 * col + 2 ^ 38 * fr.toNat + 2 ^ 44 * srow + 2 ^ 53 * scol) / 2 ^ 38 % 2 = fr.toNat by
    omega]
  cases fr <;> rfl

/-- The capability request that VPUSH sends with tag 0. -/
def capRequest (s : State) (hd : Word) (v : BitVec 1024) : Flit :=
  let row := (hd.extractLsb' 56 8).toNat + (v.extractLsb' 208 16).toNat
  let col := (hd.extractLsb' 47 9).toNat + (v.extractLsb' 224 16).toNat
  { payload := v.extractLsb' 240 784 ++ 0#48 ++ v.extractLsb' 64 128 ++ hd,
    side := sideFirst 25 14 row col (isForeign (focusEnv s 0) hd row col) 0 (rowOf s.focus) (colOf s.focus)
    gen := hd.extractLsb' 24 12 }

section
variable {h : Hdr} {w : VReg} {q : BitVec 4} {hd : Word} {row col : Nat} {s : State}

/-- The body of VPUSH on a CAP binding, with no request unanswered. -/
theorem pushCap_first (wd : Word) {v : BitVec 1024} (hrow : row = (hd.extractLsb' 56 8).toNat + (v.extractLsb' 208 16).toNat)
    (hcol : col = (hd.extractLsb' 47 9).toNat + (v.extractLsb' 224 16).toNat) (hop : (v.extractLsb' 64 8).toNat ∈ [1, 2])
    (hs : reachedBy s hd 39 row col) (hcaps : (focused s).caps = []) (hqueue : queueOf (focused s) 27 = [])
    (hroom : (egressOf (focused s) 25).length < 2) (hav : unavailable s.dev row col = false) :
    pushCap (focusEnv s wd) (focused s) hd v.toNat = done { send (focused s) 25 [capRequest s hd v] with caps := [(0, keyOf row col)] } := by
  obtain ⟨hseal, hright, hrect⟩ := hs
  have hfield : ∀ k n, (v.extractLsb' k n).toNat = fieldN v.toNat k n := fun k n => BitVec.extractLsb'_toNat ..
  have hrow' : wfield hd 56 8 + fieldN v.toNat 208 16 = row := by rw [hrow, wfield_eq, hfield]
  have hcol' : wfield hd 47 9 + fieldN v.toNat 224 16 = col := by rw [hcol, wfield_eq, hfield]
  have hop' : capRight (fieldN v.toNat 64 8) = some 39 := by
    rw [← hfield]
    rcases List.mem_pair.1 hop with h | h <;> rw [h] <;> rfl
  have hfree : inputFree (focused s) 25 = true := decide_eq_true hroom
  have htag : capTag (focused s) = some 0 := by rw [capTag, hcaps]; rfl
  have hkey : sealOk (focusEnv s wd).dev.sealKey hd = true := hseal
  have hav' : unavailable (focusEnv s wd).dev row col = false := hav
  unfold pushCap
  simp only [hrow', hcol', hop', hkey, hright, hrect, hcaps, hqueue, hfree, htag, hav']
  subst hrow hcol
  rw [capPayload_eq]
  exact (if_neg (by decide)).trans ((if_neg (by decide)).trans (if_neg (by decide)))

theorem exec_vpush_cap {v : BitVec 1024} (hr : Ready s h) (hq : readQ (focused s) q.toNat = .cap hd) (hv : v = vpair s w)
    (hrow : row = (hd.extractLsb' 56 8).toNat + (v.extractLsb' 208 16).toNat)
    (hcol : col = (hd.extractLsb' 47 9).toNat + (v.extractLsb' 224 16).toNat) (hop : (v.extractLsb' 64 8).toNat ∈ [1, 2])
    (hs : reachedBy s hd 39 row col) (hcaps : (focused s).caps = []) (hqueue : queueOf (focused s) 27 = [])
    (hroom : (egressOf (focused s) 25).length < 2) (hav : unavailable s.dev row col = false) : exec (.vpush h q w) s =
      .next (did s { send (focused s) 25 [capRequest s hd v] with caps := [(0, keyOf row col)] }) := by
  refine issue_b_done hr ?_ (send_pending ..) (send_pc ..)
  simp only [hq, groupBits_two, ← hv]
  exact pushCap_first _ hrow hcol hop hs hcaps hqueue hroom hav

end

/-- The coordinates of the core in focus, one of the grid. -/
theorem inGrid_bounds {k : Nat} (hg : inGrid k = true) : rowOf k < 512 ∧ colOf k < 512 := by
  rw [inGrid, Bool.and_eq_true, decide_eq_true_eq, decide_eq_true_eq] at hg
  omega

/-- Whether a core lies in the region of the core in focus, as an instruction sees it. -/
theorem inOwnRegion_iff (s : State) (w : Word) (row col : Nat) : inOwnRegion (focusEnv s w) row col = true ↔ inOwn s row col := by
  have hl : (focusEnv s w).launch = launchHere s := rfl
  rw [inOwnRegion, hl, inOwn]
  cases launchHere s with
  | none => simp
  | some l => simp

theorem isForeign_iff (s : State) (w hd : Word) (row col : Nat) :
    isForeign (focusEnv s w) hd row col = true ↔ hd ≠ 0 ∧ ¬ inOwn s row col := by
  rw [isForeign, Bool.and_eq_true, bne_iff_ne, Bool.not_eq_true', ← Bool.not_eq_true, inOwnRegion_iff]

/-- Settles O40. -/
theorem sending : Obligations.Sending := by
  unfold Obligations.Sending
  intro h a w q s hr
  refine ⟨fun cls row col hq hother hroom hown hav => ?_, fun hd hq _ => ?_⟩
  · refine ⟨fun ho => ⟨?_, fun _ => ?_, fun n => exec_mopen hr hq hother ho, exec_mclose_closed hr hq ho⟩,
      fun o ho => ⟨⟨fun hlen => ?_, fun hlen _ => ?_⟩, exec_mclose_done hr hq ho, ⟨exec_mclose_sends hr hq ho hown hav, fun hleft => ?_⟩⟩,
      fun k r hbehind => exec_tsend hr hq hroom hown hav hbehind, fun n => exec_tsendOpen hr hq⟩
    · rw [← BitVec.ofNat_toNat]
      exact exec_push hr hq (pushOut_alone hother hroom hown hav ho _ 8 _) rfl rfl
    · refine (exec_vpush hr hq (pushOut_alone hother hroom hown hav ho _ 128 _) rfl rfl).trans ?_
      rw [BitVec.ofNat_toNat, BitVec.setWidth_eq]
      rfl
    · obtain ⟨hp, hpc⟩ := joinedCore_rest s q cls row col o 8 (xr s a).toNat
      exact exec_push hr hq (pushOut_joins hother hroom hown hav ho _ hlen _) hp hpc
    · obtain ⟨hp, hpc⟩ := joinedCore_rest s q cls row col o 128 (vpair s w).toNat
      exact exec_vpush hr hq (pushOut_joins hother hroom hown hav ho _ hlen _) hp hpc
    · exact exec_mclose_stays hr hq ho hown hav hroom hleft
  · intro v row col hop hs hcaps hqueue hroom hav f
    refine ⟨exec_vpush_cap hr hq rfl rfl rfl hop hs hcaps hqueue hroom hav, fun hrow hcol => ?_⟩
    obtain ⟨hgr, hgc⟩ := inGrid_bounds hr.grid
    obtain ⟨hcls, hkind, hdrow, hdcol, hsrow, hscol, hfor⟩ :=
      sideFirst_fields (f := f) (isForeign (focusEnv s 0) hd row col) (by decide) (by decide) hrow hcol hgr hgc rfl
    refine ⟨hcls, hkind, hdrow, hdcol, hsrow, hscol, ?_⟩
    rw [hfor]
    exact isForeign_iff s 0 hd row col

end Sys2Proof.Proofs

/-! Engine operations of a ready core: transfers, remote atomics and attic accesses (R208 to R216, R398 to R405). -/

namespace Sys2Proof.Proofs
open Sys2Proof Sys2Proof.Machine Sys2Proof.Laws

/-! ## Issue of an engine operation -/

/-- RADD (R403). -/
def raddOp (h : Hdr) (op : RaddOp) (o : EngOp) : Op :=
  { engineOp (.radd h op o) h o (engReads o true) (xs [o.xs])
      (transferBody .radd 5 (raddCode op) true o (fun xx => if op = .addSum then wfield xx 32 10 else 0)
        (fun _ _ => none) (fun xx => op ≠ .addSum && wfield xx 32 10 != 0)) with
    detBad := fun _ c => c.sys.det && decide (op = .addF32) }

/-- RAMO (R404). -/
def ramoOp (h : Hdr) (op : RamoOp) (o : EngOp) (cmp : Reg) : Op :=
  { engineOp (.ramo h op o cmp) h o (engReads o false ++ if op = .cas then xs [cmp] else []) (xs [o.xs, o.xd])
      (amoBody .ramo (ramoCode op) o (fun env c => if op = .cas then env.x c cmp else env.x c o.xx)
        (fun env c => if op = .cas then env.x c o.xx else 0)) with
    detBad := fun _ c => c.sys.det }

section
variable {h : Hdr} {o : EngOp} {s : State} (hcls : classAllowed (launchHere s) o.cls.toNat = true)
include hcls

/-- The launch may use the class of an engine operation. -/
theorem engineOp_staticPriv {op : Op} (hp : op.staticPriv = fun env _ => !classAllowed env.launch o.cls.toNat) :
    op.staticPriv (focusEnv s op.word) (focused s) = false := by
  rw [hp]
  exact congrArg Bool.not hcls

theorem allowed_engineOp {i : Instr} {reads writes : List RegRef} {body : Env → Core → Out} :
    Allowed (engineOp i h o reads writes body) (focusEnv s (encode i)) (focused s) :=
  ⟨congrArg Bool.not hcls, rfl, rfl, rfl, rfl, rfl, rfl⟩

theorem allowed_raddOp {op : RaddOp} (hdet : (focused s).sys.det = false ∨ op ≠ .addF32) :
    Allowed (raddOp h op o) (focusEnv s (raddOp h op o).word) (focused s) := by
  refine ⟨congrArg Bool.not hcls, rfl, rfl, rfl, rfl, ?_, rfl⟩
  rcases hdet with hd | hop
  · exact (congrArg (· && decide (op = .addF32)) hd).trans (Bool.false_and _)
  · exact (congrArg ((focused s).sys.det && ·) (decide_eq_false hop)).trans (Bool.and_false _)

theorem allowed_ramoOp {op : RamoOp} {cmp : Reg} (hdet : (focused s).sys.det = false) :
    Allowed (ramoOp h op o cmp) (focusEnv s (ramoOp h op o cmp).word) (focused s) :=
  ⟨congrArg Bool.not hcls, rfl, rfl, rfl, rfl, hdet, rfl⟩

/-- In a deterministic region RADD.f32 and RAMO trap (R235). -/
theorem exec_radd_det (hr : Ready s h) (hdet : (focused s).sys.det = true) :
    exec (.radd h .addF32 o) s = .next (trapped s eDet (encode (.radd h .addF32 o))) := by
  refine issue_broken (op := raddOp h .addF32 o) hr (congrArg Bool.not hcls) ?_
  have hbad : (raddOp h .addF32 o).detBad (focusEnv s (raddOp h .addF32 o).word) (focused s) = true :=
    congrArg (· && true) hdet
  exact (if_neg Bool.false_ne_true).trans ((if_neg Bool.false_ne_true).trans ((if_neg Bool.false_ne_true).trans
    ((if_neg Bool.false_ne_true).trans (if_pos hbad))))

theorem exec_ramo_det (hr : Ready s h) (hdet : (focused s).sys.det = true) (op : RamoOp) (cmp : Reg) :
    exec (.ramo h op o cmp) s = .next (trapped s eDet (encode (.ramo h op o cmp))) := by
  refine issue_broken (op := ramoOp h op o cmp) hr (congrArg Bool.not hcls) ?_
  exact (if_neg Bool.false_ne_true).trans ((if_neg Bool.false_ne_true).trans ((if_neg Bool.false_ne_true).trans
    ((if_neg Bool.false_ne_true).trans (if_pos hdet))))

end

/-- A ready instruction of class E that changes its core and writes registers at once. -/
theorem issue_e_dests {op : Op} {s : State} {c : Core} (ds : List DestVal) (hr : Ready s op.h)
    (ha : Allowed op (focusEnv s op.word) (focused s)) (hc : op.cls = .e)
    (hb : op.body (focusEnv s op.word) (focused s) = .ok { core := c, dests := ds }) (hp : c.pending = (focused s).pending)
    (hpc : c.pc = (focused s).pc) : issue op s = .next (did s (applyDests .main c ds)) := by
  have hzero : ∀ c, addFlags c 0 0 0 0 = c := addFlags_zero
  rw [exec_short hr ha (by tauto) hb (hp.trans hr.plain.pending)]
  simp only [List.foldl_nil, hzero, did, past, applyDests_pc, hpc]
  rfl

/-! ## Addresses -/

/-- A number from an upper field of a word is 0 as the field is. -/
theorem wfield_eq_zero (v : Word) (k n : Nat) : wfield v k n = 0 ↔ v.extractLsb' k n = 0 := by
  rw [wfield_eq, ← BitVec.toNat_inj]
  rfl

/-- An address whose checks of R211 all pass. -/
theorem coreAddrStatus_reaches {s : State} {hd : Option Word} {v : Word} {n : Nat} (w : Word) (hok : coreReaches s hd v n) :
    coreAddrStatus (focusEnv s w) hd v n = none := by
  obtain ⟨h63, hwaf, hto, hav, hlt, hlen⟩ := hok
  have hl : (focusEnv s w).launch = launchHere s := rfl
  have hoff : offsetOf v = (v.extractLsb' 0 39).toNat := wfield_eq v 0 39
  have hav' : unavailable (focusEnv s w).dev (absTarget (launchHere s) hd v).1 (absTarget (launchHere s) hd v).2 = false := hav
  have hwaf' := (wfield_eq_zero v 57 6).2 hwaf
  have hbound : ¬ ((decide (0x80000 < offsetOf v + n) || decide (0x80000 ≤ offsetOf v)) = true) := by
    rw [Bool.or_eq_true, decide_eq_true_eq, decide_eq_true_eq, hoff]
    omega
  unfold coreAddrStatus
  simp only [h63, hwaf', hl, hav', Bool.false_eq_true, if_false, ne_eq, not_true_eq_false, if_neg hbound]
  cases hd with
  | none =>
    have hshape : inShape (launchHere s) v = true := hto
    simp [hshape]
  | some g =>
    obtain ⟨hrow, hcol, hreach⟩ := hto
    have hreach' := (handleReaches_iff s w g 36 _ _).2 hreach
    simp [hreach', Nat.not_le.2 hrow, Nat.not_le.2 hcol]

/-- An address that R211 refuses. -/
theorem coreAddrStatus_refuses {s : State} {hd : Option Word} {v : Word} {code : Nat} (w : Word) (n : Nat)
    (hno : coreRefuses s hd v code) : coreAddrStatus (focusEnv s w) hd v n = some code := by
  obtain ⟨h63, hwhy⟩ := hno
  have hl : (focusEnv s w).launch = launchHere s := rfl
  unfold coreAddrStatus
  simp only [h63, hl, Bool.false_eq_true, if_false]
  cases hd with
  | none =>
    obtain ⟨hshape, rfl⟩ := hwhy
    simp [hshape, stRange]
  | some g =>
    obtain ⟨hwaf, hrow, hcol, hreach, rfl⟩ := hwhy
    have hreach' : handleReaches (focusEnv s w) g 36 _ _ = false :=
      Bool.eq_false_iff.2 fun hyes => hreach ((handleReaches_iff s w g 36 _ _).1 hyes)
    simp [hreach', Nat.not_le.2 hrow, Nat.not_le.2 hcol, (wfield_eq_zero v 57 6).2 hwaf, stSeal]

/-! ## Nothing in flight -/

theorem inFlight_still {c : Core} (hc : Still c) : inFlight c = 0 := by rw [inFlight, hc.ops, hc.breads]; rfl

theorem destRanges_still {c : Core} (hc : Still c) : destRanges c = [] := by rw [destRanges, hc.ops, hc.breads]; rfl

theorem sourceRanges_still {c : Core} (hc : Still c) : sourceRanges c = [] := by rw [sourceRanges, hc.ops]; rfl

theorem rangesHeld_still {c : Core} (hc : Still c) : rangesHeld c = 0 := by
  rw [rangesHeld, destRanges_still hc, sourceRanges_still hc]
  rfl

theorem rangeConflict_still {c : Core} (hc : Still c) (src : Bool) (a n : Nat) : rangeConflict c src a n = false := by
  rw [rangeConflict, destRanges_still hc, sourceRanges_still hc]
  simp

theorem transferRange_still {c : Core} (hc : Still c) (src : Bool) {a : Word} {n : Nat} (hb : boundOk c a.toNat n = true) :
    transferRange c src a n = none := by
  rw [transferRange, hb, rangeConflict_still hc, inFlight_still hc, rangesHeld_still hc]
  rfl

/-! ## Transfers -/

/-- The low 32 bits of x[X]: a transfer's length. -/
def transferLen (s : State) (o : EngOp) : Nat := ((xr s o.xx).extractLsb' 0 32).toNat

/-- Addresses and length are multiples of 32, and the local range lies within bounds. -/
structure Fits (s : State) (o : EngOp) : Prop where
  here : (xr s o.xd).toNat % 32 = 0
  len : transferLen s o % 32 = 0
  some : transferLen s o ≠ 0
  there : (xr s o.xa).toNat % 32 = 0
  bound : boundOk (focused s) (xr s o.xd).toNat (transferLen s o) = true

/-- The value with which a transfer traps for its alignment (R213). -/
def Misfits (s : State) (o : EngOp) (val : Word) : Prop :=
  let n : BitVec 32 := (xr s o.xx).extractLsb' 0 32
  ((xr s o.xd).toNat % 32 ≠ 0 ∧ val = xr s o.xd) ∨
  ((xr s o.xd).toNat % 32 = 0 ∧ (n.toNat % 32 ≠ 0 ∨ n = 0) ∧ val = n.setWidth 64) ∨
  ((xr s o.xd).toNat % 32 = 0 ∧ n.toNat % 32 = 0 ∧ n ≠ 0 ∧ (xr s o.xa).toNat % 32 ≠ 0 ∧ val = xr s o.xa)

/-- What a transfer asks of the engine. -/
def transferReq (s : State) (o : EngOp) (kind : EngKind) (src : Bool) : EngReq :=
  ⟨kind, o, handleOf s o, xr s o.xa, transferLen s o, src, (xr s o.xd).toNat, (transferLen s o + 3967) / 3968⟩

/-- The core once a transfer has entered its engine. -/
def transferring (s : State) (o : EngOp) (kind : EngKind) (fkind op ex : Nat) (src : Bool) (sig : Option PutsSignal) : Core :=
  send (enterEngine (focused s) (engEntry (focusEnv s 0) (focused s) (transferReq s o kind src) false sig)) o.cls.toNat
    (transferFlits (focusEnv s 0) (focused s) (transferReq s o kind src) fkind op ex src)

/-- The core once an operation that is refused has written its status word. -/
def refusedCore (s : State) (o : EngOp) (code : Nat) : Core := writeX (focused s) .main o.xs.toNat (statusOf code 0)

section
variable {s : State} {o : EngOp} (w : Word)

theorem transferLen_eq : wfield (xr s o.xx) 0 32 = transferLen s o := wfield_eq ..

theorem transferAlign_fits (hf : Fits s o) : transferAlign (focusEnv s w) (focused s) o = none := by
  have hlen : ¬ ((decide (transferLen s o % 32 ≠ 0) || decide (transferLen s o = 0)) = true) := by
    simp [hf.len, hf.some]
  unfold transferAlign
  simp only [focusEnv_x, transferLen_eq]
  exact (if_neg (not_not.2 hf.here)).trans ((if_neg hlen).trans (if_neg (not_not.2 hf.there)))

theorem transferAlign_misfits {val : Word} (hm : Misfits s o val) :
    transferAlign (focusEnv s w) (focused s) o = some (.trap eAlign val) := by
  have hzero : ∀ n : BitVec 32, n = 0 ↔ n.toNat = 0 := fun n => ⟨fun h => congrArg _ h, fun h => BitVec.eq_of_toNat_eq h⟩
  have hval : BitVec.ofNat 64 (transferLen s o) = ((xr s o.xx).extractLsb' 0 32).setWidth 64 := by
    rw [transferLen, BitVec.ofNat_toNat]
  unfold transferAlign
  simp only [focusEnv_x, transferLen_eq, hval]
  rcases hm with ⟨hhere, rfl⟩ | ⟨hhere, hlen, rfl⟩ | ⟨hhere, hlen, hsome, hthere, rfl⟩
  · exact if_pos hhere
  · have hbad : (decide (transferLen s o % 32 ≠ 0) || decide (transferLen s o = 0)) = true := by
      rw [Bool.or_eq_true, decide_eq_true_eq, decide_eq_true_eq]
      exact hlen.imp id (hzero _).1
    exact (if_neg (not_not.2 hhere)).trans (if_pos hbad)
  · have hgood : ¬ ((decide (transferLen s o % 32 ≠ 0) || decide (transferLen s o = 0)) = true) := by
      rw [Bool.or_eq_true, decide_eq_true_eq, decide_eq_true_eq, not_or]
      exact ⟨not_not.2 hlen, fun h0 => hsome ((hzero _).2 h0)⟩
    exact (if_neg (not_not.2 hhere)).trans ((if_neg hgood).trans (if_pos hthere))

variable {kind : EngKind} {fkind op : Nat} {src : Bool} {ex : Word → Nat} {sig : Env → Core → Option PutsSignal} {refuse : Word → Bool}

/-- A signal word that is a multiple of 8, where the transfer has one. -/
def signalOk (g : Option PutsSignal) : Prop := ∀ x, g = some x → x.addr.toNat % 8 = 0

theorem transferBody_fits (hf : Fits s o) (hsig : signalOk (sig (focusEnv s w) (focused s))) :
    transferBody kind fkind op src o ex sig refuse (focusEnv s w) (focused s) =
      transferBody.rest kind fkind op src o ex refuse (focusEnv s w) (focused s) (sig (focusEnv s w) (focused s)) := by
  unfold transferBody
  rw [transferAlign_fits w hf]
  dsimp only
  split
  · next g hg => rw [hg]; exact if_neg (not_not.2 (hsig g hg))
  · next hg => rw [hg]

variable (hs : Still (focused s)) (hf : Fits s o) (g : Option PutsSignal)
include hs hf

theorem transferRest_reaches (hok : coreReaches s (handleOf s o) (xr s o.xa) (transferLen s o)) (hno : refuse (xr s o.xx) = false) :
    transferBody.rest kind fkind op src o ex refuse (focusEnv s w) (focused s) g =
      done (transferring s o kind fkind op (ex (xr s o.xx)) src g) := by
  have hd : engHandle (focusEnv s w) (focused s) o = handleOf s o := rfl
  unfold transferBody.rest
  simp only [focusEnv_x, transferLen_eq, transferRange_still hs src hf.bound, hd, coreAddrStatus_reaches w hok, hno]
  rfl

theorem transferRest_refused {code : Nat} (hno : coreRefuses s (handleOf s o) (xr s o.xa) code) :
    transferBody.rest kind fkind op src o ex refuse (focusEnv s w) (focused s) g = engRefused (focused s) o false code := by
  have hd : engHandle (focusEnv s w) (focused s) o = handleOf s o := rfl
  unfold transferBody.rest
  simp only [focusEnv_x, transferLen_eq, transferRange_still hs src hf.bound, hd, coreAddrStatus_refuses w _ hno]

end

/-- A transfer that traps for its alignment. -/
theorem transferBody_misfits {s : State} {o : EngOp} (w : Word) {kind : EngKind} {fkind op : Nat} {src : Bool} {ex : Word → Nat}
    {sig : Env → Core → Option PutsSignal} {refuse : Word → Bool} {val : Word} (hm : Misfits s o val) :
    transferBody kind fkind op src o ex sig refuse (focusEnv s w) (focused s) = .trap eAlign val := by
  unfold transferBody
  rw [transferAlign_misfits w hm]

/-- A transfer whose signal word is no multiple of 8. -/
theorem transferBody_signal {s : State} {o : EngOp} (w : Word) {kind : EngKind} {fkind op : Nat} {src : Bool} {ex : Word → Nat}
    {sig : Env → Core → Option PutsSignal} {refuse : Word → Bool} {g : PutsSignal}
    (hal : transferAlign (focusEnv s w) (focused s) o = none) (hg : sig (focusEnv s w) (focused s) = some g)
    (h8 : g.addr.toNat % 8 ≠ 0) :
    transferBody kind fkind op src o ex sig refuse (focusEnv s w) (focused s) = .trap eAlign (g.addr.setWidth 64) := by
  unfold transferBody
  rw [hal, hg]
  exact if_pos h8

/-! ## The transfer instructions -/

theorem transferring_rest (s : State) (o : EngOp) (kind : EngKind) (fkind op ex : Nat) (src : Bool) (sig : Option PutsSignal) :
    (transferring s o kind fkind op ex src sig).pending = (focused s).pending ∧
      (transferring s o kind fkind op ex src sig).pc = (focused s).pc := ⟨send_pending .., send_pc ..⟩

/-- The signal of a PUTS. -/
def putsSignal (s : State) (o : EngOp) (inc : Reg) : PutsSignal := ⟨(xr s o.xx).extractLsb' 32 19, xr s inc, false⟩

section
variable {op : Op} {s : State} {o : EngOp} {kind : EngKind} {fkind code : Nat} {src : Bool} {ex : Word → Nat}
  {sig : Env → Core → Option PutsSignal} {refuse : Word → Bool} (hr : Ready s op.h)
  (ha : Allowed op (focusEnv s op.word) (focused s)) (hc : op.cls = .e)
  (hb : op.body = transferBody kind fkind code src o ex sig refuse)
include hr ha hb

theorem issue_transfer_misfits {val : Word} (hm : Misfits s o val) : issue op s = .next (trapped s eAlign val) :=
  exec_trap hr ha (by rw [hb]; exact transferBody_misfits _ hm)

include hc
variable (hf : Fits s o) (hsig : signalOk (sig (focusEnv s op.word) (focused s)))
include hf hsig

theorem issue_transfer_reaches (hok : coreReaches s (handleOf s o) (xr s o.xa) (transferLen s o)) (hno : refuse (xr s o.xx) = false) :
    issue op s = .next (did s (transferring s o kind fkind code (ex (xr s o.xx)) src (sig (focusEnv s op.word) (focused s)))) := by
  obtain ⟨hp, hpc⟩ := transferring_rest s o kind fkind code (ex (xr s o.xx)) src (sig (focusEnv s op.word) (focused s))
  refine issue_e_dests [] hr ha hc ?_ hp hpc
  rw [hb, transferBody_fits _ hf hsig, transferRest_reaches _ hr.plain.toStill hf _ hok hno]
  rfl

theorem issue_transfer_refused {st : Nat} (hno : coreRefuses s (handleOf s o) (xr s o.xa) st) :
    issue op s = .next (did s (refusedCore s o st)) := by
  refine issue_e_dests [.x o.xs.toNat (statusOf st 0)] hr ha hc ?_ rfl rfl
  rw [hb, transferBody_fits _ hf hsig, transferRest_refused _ hr.plain.toStill hf _ hno]
  rfl

end

/-- The bits above a multiple of 8. -/
theorem signalOk_puts {s : State} {o : EngOp} (inc : Reg) (h8 : (xr s o.xx).extractLsb' 32 3 = 0) : signalOk (some (putsSignal s o inc)) := by
  intro x hx
  obtain rfl := Option.some.inj hx
  have h : ((xr s o.xx).extractLsb' 32 3).toNat = 0 := congrArg BitVec.toNat h8
  rw [BitVec.extractLsb'_toNat] at h
  show ((xr s o.xx).extractLsb' 32 19).toNat % 8 = 0
  rw [BitVec.extractLsb'_toNat]
  omega

theorem signalOk_none : signalOk none := fun _ hx => by cases hx

/-! ## Flits of a transfer -/

/-- The fields of the part that all sidebands of a message share. -/
theorem side_fields {f : Flit} {cls kind fidx row col : Nat} {fr : Bool} (hcls : cls < 32) (hrow : row < 512) (hcol : col < 512)
    (hf : f.side.toNat % 2 ^ 39 = sideLow cls kind fidx row col 0 fr) :
    flitCls f = cls ∧ flitDrow f = row ∧ flitDcol f = col ∧ flitForeign f = fr := by
  have hlow : f.side.toNat % 2 ^ 39 = cls + 2 ^ 5 * (kind % 16) + 2 ^ 9 * (fidx % 32) + 2 ^ 14 * row + 2 ^ 23 * col + 2 ^ 38 * fr.toNat := by
    rw [hf, sideLow]
    cases fr <;> simp <;> omega
  have hfr : fr.toNat < 2 := Bool.toNat_lt fr
  simp only [flitCls, flitDrow, flitDcol, flitForeign, BitVec.extractLsb'_toNat, Nat.shiftRight_eq_div_pow, BitVec.getLsbD,
    Nat.testBit_eq_decide_div_mod_eq]
  refine ⟨by omega, by omega, by omega, ?_⟩
  rw [show f.side.toNat / 2 ^ 38 % 2 = fr.toNat by omega]
  cases fr <;> rfl

theorem sideLow_lt (cls kind fidx row col : Nat) (fr : Bool) : sideLow cls kind fidx row col 0 fr < 2 ^ 39 := by
  rw [sideLow]
  split <;> omega

/-- Every flit of a message carries its class, its target and FOREIGN. -/
theorem messageFlits_fields {cls kind row col srow scol : Nat} {fr : Bool} {ps : List (BitVec 1024)} {f : Flit}
    (hcls : cls < 32) (hrow : row < 512) (hcol : col < 512) (hf : f ∈ messageFlits cls kind row col fr srow scol ps) :
    flitCls f = cls ∧ flitDrow f = row ∧ flitDcol f = col ∧ flitForeign f = fr := by
  obtain ⟨p, -, rfl⟩ := List.mem_map.1 hf
  by_cases h0 : p.2 = 0
  · have hlow := sideLow_lt cls kind 0 row col fr
    refine side_fields (kind := kind) (fidx := 0) hcls hrow hcol ?_
    simp only [if_pos h0, sideFirst, BitVec.toNat_ofNat]
    omega
  · have hlow := sideLow_lt cls kind p.2 row col fr
    refine side_fields (kind := kind) (fidx := p.2) hcls hrow hcol ?_
    simp only [if_neg h0, sideLater, BitVec.toNat_ofNat]
    omega

/-- Every flit of a message under a handle carries, FOREIGN, the handle's GEN. -/
theorem coreMessage_fields {env : Env} {cls kind : Nat} {t : Nat × Nat} {hd : Option Word} {desc : Nat → BitVec 1024}
    {data : List Byte} {f : Flit} (hcls : cls < 32) (hrow : t.1 < 512) (hcol : t.2 < 512)
    (hf : f ∈ coreMessage env cls kind t hd desc data) : flitCls f = cls ∧ flitDrow f = t.1 ∧ flitDcol f = t.2 ∧
      flitForeign f = isForeign env (hd.getD 0) t.1 t.2 ∧ (flitForeign f = true → f.gen = genOf (hd.getD 0)) := by
  obtain ⟨x, hx, rfl⟩ := List.mem_map.1 hf
  obtain ⟨h1, h2, h3, h4⟩ := messageFlits_fields hcls hrow hcol hx
  refine ⟨h1, h2, h3, h4, fun hfor => ?_⟩
  have hyes : isForeign env (hd.getD 0) t.1 t.2 = true := h4.symm.trans hfor
  simp only [if_pos hyes, BitVec.ofNat_toNat, BitVec.setWidth_eq]

/-- Every flit of a transfer carries its class, its target, FOREIGN and the handle's GEN. -/
theorem transferFlits_fields {s : State} {o : EngOp} {r : EngReq} {kind op ex : Nat} {data : Bool} {f : Flit}
    (hro : r.o = o) (hhd : r.hd = handleOf s o) (hrow : (absTarget (launchHere s) r.hd r.remote).1 < 512)
    (hcol : (absTarget (launchHere s) r.hd r.remote).2 < 512)
    (hf : f ∈ transferFlits (focusEnv s 0) (focused s) r kind op ex data) :
    flitCls f = o.cls.toNat ∧ flitDrow f = (absTarget (launchHere s) r.hd r.remote).1 ∧
      flitDcol f = (absTarget (launchHere s) r.hd r.remote).2 ∧
      (flitForeign f = true ↔ (xr s o.handle ≠ 0 ∧ o.handle ≠ 0) ∧
        ¬ inOwn s (absTarget (launchHere s) r.hd r.remote).1 (absTarget (launchHere s) r.hd r.remote).2) ∧
      (flitForeign f = true → f.gen = (xr s o.handle).extractLsb' 24 12) := by
  subst hro
  obtain ⟨i, -, hi⟩ := List.mem_flatMap.1 hf
  obtain ⟨h1, h2, h3, h4, h5⟩ := coreMessage_fields r.o.cls.isLt hrow hcol hi
  refine ⟨h1, h2, h3, ?_⟩
  rw [h4, isForeign_iff]
  by_cases h0 : r.o.handle = 0
  · rw [hhd, handleOf, if_pos h0]
    exact ⟨by simp [h0], fun hno => absurd rfl hno.1⟩
  · have hg : r.hd.getD 0 = xr s r.o.handle := by rw [hhd, handleOf, if_neg h0]; rfl
    rw [hg]
    refine ⟨⟨fun hne => ⟨⟨hne.1, h0⟩, hne.2⟩, fun hne => ⟨hne.1.1, hne.2⟩⟩, fun hfor => ?_⟩
    have := h5 (h4.trans ((isForeign_iff ..).2 (by rw [hg]; exact hfor)))
    rw [this, hg]
    rfl

/-! ## The obligation -/

section
variable {h : Hdr} {o : EngOp} {s : State} (hr : Ready s h) (hcls : classAllowed (launchHere s) o.cls.toNat = true)
include hr hcls

section
variable (hf : Fits s o) (hok : coreReaches s (handleOf s o) (xr s o.xa) (transferLen s o))
include hf hok

theorem exec_put : exec (.put h o) s = .next (did s (transferring s o .put 1 0 0 true none)) :=
  issue_transfer_reaches (op := engineOp (.put h o) h o _ _ _) (sig := fun _ _ => none) (ex := fun _ => 0) hr (allowed_engineOp hcls) rfl rfl
    hf signalOk_none hok rfl

theorem exec_puts (inc : Reg) (h8 : (xr s o.xx).extractLsb' 32 3 = 0) :
    exec (.puts h o inc) s = .next (did s (transferring s o .puts 1 0 0 true (some (putsSignal s o inc)))) :=
  issue_transfer_reaches (op := engineOp (.puts h o inc) h o _ _ _)
    (sig := fun env c => some ⟨(env.x c o.xx).extractLsb' 32 19, env.x c inc, false⟩) (ex := fun _ => 0) hr (allowed_engineOp hcls) rfl rfl
    hf (signalOk_puts inc h8) hok rfl

theorem exec_get : exec (.get h o) s = .next (did s (transferring s o .get 3 0 0 false none)) :=
  issue_transfer_reaches (op := engineOp (.get h o) h o _ _ _) (sig := fun _ _ => none) (ex := fun _ => 0) hr (allowed_engineOp hcls) rfl rfl
    hf signalOk_none hok rfl

theorem exec_radd {op : RaddOp} (hdet : (focused s).sys.det = false ∨ op ≠ .addF32)
    (hexp : op = .addSum ∨ (xr s o.xx).extractLsb' 32 10 = 0) : exec (.radd h op o) s =
      .next (did s (transferring s o .radd 5 (raddCode op) (if op = .addSum then ((xr s o.xx).extractLsb' 32 10).toNat else 0) true none)) := by
  have hno : (decide (op ≠ .addSum) && wfield (xr s o.xx) 32 10 != 0) = false := by
    rcases hexp with hop | hz
    · simp [hop]
    · simp [(wfield_eq_zero (xr s o.xx) 32 10).2 hz]
  rw [← wfield_eq]
  exact issue_transfer_reaches (op := raddOp h op o) (sig := fun _ _ => none)
    (ex := fun xx => if op = .addSum then wfield xx 32 10 else 0) hr (allowed_raddOp hcls hdet) rfl rfl hf signalOk_none hok hno

end

section
variable {st : Nat} (hf : Fits s o) (hno : coreRefuses s (handleOf s o) (xr s o.xa) st)
include hf hno

theorem exec_put_refused : exec (.put h o) s = .next (did s (refusedCore s o st)) :=
  issue_transfer_refused (op := engineOp (.put h o) h o _ _ _) (sig := fun _ _ => none) hr (allowed_engineOp hcls) rfl rfl
    hf signalOk_none hno

theorem exec_puts_refused (inc : Reg) (h8 : (xr s o.xx).extractLsb' 32 3 = 0) :
    exec (.puts h o inc) s = .next (did s (refusedCore s o st)) :=
  issue_transfer_refused (op := engineOp (.puts h o inc) h o _ _ _)
    (sig := fun env c => some ⟨(env.x c o.xx).extractLsb' 32 19, env.x c inc, false⟩) hr (allowed_engineOp hcls) rfl rfl
    hf (signalOk_puts inc h8) hno

theorem exec_get_refused : exec (.get h o) s = .next (did s (refusedCore s o st)) :=
  issue_transfer_refused (op := engineOp (.get h o) h o _ _ _) (sig := fun _ _ => none) hr (allowed_engineOp hcls) rfl rfl
    hf signalOk_none hno

theorem exec_radd_refused {op : RaddOp} (hdet : (focused s).sys.det = false ∨ op ≠ .addF32) :
    exec (.radd h op o) s = .next (did s (refusedCore s o st)) :=
  issue_transfer_refused (op := raddOp h op o) (sig := fun _ _ => none) hr (allowed_raddOp hcls hdet) rfl rfl hf signalOk_none hno

end

theorem exec_puts_signal {inc : Reg} (hal : transferAlign (focusEnv s (encode (.puts h o inc))) (focused s) o = none)
    (h8 : ((xr s o.xx).extractLsb' 32 19).toNat % 8 ≠ 0) :
    exec (.puts h o inc) s = .next (trapped s eAlign (((xr s o.xx).extractLsb' 32 19).setWidth 64)) := by
  exact exec_trap (op := engineOp (.puts h o inc) h o _ _ _) hr (allowed_engineOp hcls)
    (transferBody_signal (sig := fun env c => some ⟨(env.x c o.xx).extractLsb' 32 19, env.x c inc, false⟩) (g := putsSignal s o inc)
      _ hal rfl h8)

section
variable {val : Word} (hm : Misfits s o val)
include hm

theorem exec_put_misfits : exec (.put h o) s = .next (trapped s eAlign val) :=
  issue_transfer_misfits (op := engineOp (.put h o) h o _ _ _) (sig := fun _ _ => none) (ex := fun _ => 0) hr (allowed_engineOp hcls)
    rfl hm

theorem exec_puts_misfits (inc : Reg) : exec (.puts h o inc) s = .next (trapped s eAlign val) :=
  issue_transfer_misfits (op := engineOp (.puts h o inc) h o _ _ _) (ex := fun _ => 0)
    (sig := fun env c => some ⟨(env.x c o.xx).extractLsb' 32 19, env.x c inc, false⟩) hr (allowed_engineOp hcls) rfl hm

theorem exec_get_misfits : exec (.get h o) s = .next (trapped s eAlign val) :=
  issue_transfer_misfits (op := engineOp (.get h o) h o _ _ _) (sig := fun _ _ => none) (ex := fun _ => 0) hr (allowed_engineOp hcls)
    rfl hm

theorem exec_radd_misfits {op : RaddOp} (hdet : (focused s).sys.det = false ∨ op ≠ .addF32) :
    exec (.radd h op o) s = .next (trapped s eAlign val) :=
  issue_transfer_misfits (op := raddOp h op o) (sig := fun _ _ => none) (ex := fun xx => if op = .addSum then wfield xx 32 10 else 0) hr
    (allowed_raddOp hcls hdet) rfl hm

theorem exec_awrite_misfits : exec (.awrite h o) s = .next (trapped s eAlign val) :=
  exec_trap (op := engineOp (.awrite h o) h o _ _ (atticBody .awrite true o)) hr (allowed_engineOp hcls) (by
    show atticBody .awrite true o (focusEnv s _) (focused s) = _
    unfold atticBody
    rw [transferAlign_misfits _ hm])

theorem exec_aread_misfits : exec (.aread h o) s = .next (trapped s eAlign val) :=
  exec_trap (op := engineOp (.aread h o) h o _ _ (atticBody .aread false o)) hr (allowed_engineOp hcls) (by
    show atticBody .aread false o (focusEnv s _) (focused s) = _
    unfold atticBody
    rw [transferAlign_misfits _ hm])

end
end

/-- Settles O41. -/
theorem transfers : Obligations.Transfers := by
  unfold Obligations.Transfers
  refine ⟨fun h o s hr hcls => ?_, fun h o inc s hr hcls => ⟨fun val hm => ?_, fun hgood h8 => ?_, exec_radd_det hcls hr⟩⟩
  · intro hd n a v t e flits sent det hhere hlen hsome hthere hbound
    have hf : Fits s o := ⟨hhere, hlen, hsome, hthere, hbound⟩
    refine ⟨fun hok => ⟨exec_put hr hcls hf hok, exec_puts hr hcls hf hok, exec_get hr hcls hf hok,
      fun op hdet hexp => exec_radd hr hcls hf hok hdet hexp, fun hrow hcol e kind op ex f hmem => ?_⟩,
      fun code hno => ⟨exec_put_refused hr hcls hf hno, exec_get_refused hr hcls hf hno, exec_puts_refused hr hcls hf hno,
      fun op hdet => exec_radd_refused hr hcls hf hno hdet⟩⟩
    exact transferFlits_fields (r := ⟨e.kind, o, hd, v, n, e.src, a.toNat, e.msgs⟩) rfl rfl hrow hcol hmem
  · exact ⟨exec_put_misfits hr hcls hm, exec_puts_misfits hr hcls hm inc, exec_get_misfits hr hcls hm,
      fun op hdet => exec_radd_misfits hr hcls hm hdet,
      exec_awrite_misfits hr hcls hm, exec_aread_misfits hr hcls hm⟩
  · obtain ⟨hhere, hlen, hsome, hthere⟩ := hgood
    refine exec_puts_signal hr hcls ?_ h8
    have hne : transferLen s o ≠ 0 := fun h0 => hsome (BitVec.eq_of_toNat_eq h0)
    have hgood' : ¬ ((decide (transferLen s o % 32 ≠ 0) || decide (transferLen s o = 0)) = true) := by
      rw [Bool.or_eq_true, decide_eq_true_eq, decide_eq_true_eq, not_or]
      exact ⟨not_not.2 hlen, hne⟩
    unfold transferAlign
    simp only [focusEnv_x, transferLen_eq]
    exact (if_neg (not_not.2 hhere)).trans ((if_neg hgood').trans (if_neg (not_not.2 hthere)))

end Sys2Proof.Proofs

/-! Remote atomics and attic accesses of a ready core (R404, R405). -/

namespace Sys2Proof.Proofs
open Sys2Proof Sys2Proof.Machine Sys2Proof.Laws

/-! ## Remote atomics -/

/-- What a remote atomic asks of the engine. -/
def amoReq (s : State) (o : EngOp) (kind : EngKind) : EngReq := ⟨kind, o, handleOf s o, xr s o.xa, 8, true, 0, 1⟩

/-- The core once a remote atomic has entered its engine, with its request sent. -/
def asking (s : State) (o : EngOp) (kind : EngKind) (op : Nat) (val1 val2 : Word) : Core :=
  send (enterEngine (focused s) (engEntry (focusEnv s 0) (focused s) (amoReq s o kind) true none)) o.cls.toNat
    (coreMessage (focusEnv s 0) o.cls.toNat 6 (absTarget (launchHere s) (handleOf s o) (xr s o.xa)) (handleOf s o)
      (fun gen => descPayload ((xr s o.xa).extractLsb' 0 39).toNat 0 0 (tagFirst (focused s).nextTag 1).toNat op val1.toNat val2.toNat gen 0) [])

section
variable {s : State} {o : EngOp} (w : Word) {kind : EngKind} {op : Nat} {val1 val2 : Env → Core → Word}

theorem amoBody_misfits (hal : (xr s o.xa).toNat % 8 ≠ 0) :
    amoBody kind op o val1 val2 (focusEnv s w) (focused s) = .trap eAlign (xr s o.xa) := by
  unfold amoBody
  simp only [focusEnv_x]
  exact if_pos hal

variable (hs : Still (focused s)) (hal : (xr s o.xa).toNat % 8 = 0)
include hs hal

theorem amoBody_reaches (hok : coreReaches s (handleOf s o) (xr s o.xa) 8) :
    amoBody kind op o val1 val2 (focusEnv s w) (focused s) =
      done (asking s o kind op (val1 (focusEnv s w) (focused s)) (val2 (focusEnv s w) (focused s))) := by
  have hd : engHandle (focusEnv s w) (focused s) o = handleOf s o := rfl
  have hoff : offsetOf (xr s o.xa) = ((xr s o.xa).extractLsb' 0 39).toNat := wfield_eq _ 0 39
  unfold amoBody
  simp only [focusEnv_x, hd, coreAddrStatus_reaches w hok, inFlight_still hs, hoff]
  exact (if_neg (not_not.2 hal)).trans (if_neg (by decide))

theorem amoBody_refused {code : Nat} (hno : coreRefuses s (handleOf s o) (xr s o.xa) code) :
    amoBody kind op o val1 val2 (focusEnv s w) (focused s) = engRefused (focused s) o true code := by
  have hd : engHandle (focusEnv s w) (focused s) o = handleOf s o := rfl
  unfold amoBody
  simp only [focusEnv_x, hd, coreAddrStatus_refuses w _ hno, inFlight_still hs]
  exact (if_neg (not_not.2 hal)).trans (if_neg (by decide))

end

/-- The core once a remote atomic that is refused has written its destination and its status word. -/
def amoRefused (s : State) (o : EngOp) (code : Nat) : Core :=
  writeX (writeX (focused s) .main o.xd.toNat 0) .main o.xs.toNat (statusOf code 0)

section
variable {op : Op} {s : State} {o : EngOp} {kind : EngKind} {code : Nat} {val1 val2 : Env → Core → Word} (hr : Ready s op.h)
  (ha : Allowed op (focusEnv s op.word) (focused s)) (hb : op.body = amoBody kind code o val1 val2)
include hr ha hb

theorem issue_amo_misfits (hal : (xr s o.xa).toNat % 8 ≠ 0) : issue op s = .next (trapped s eAlign (xr s o.xa)) :=
  exec_trap hr ha (by rw [hb]; exact amoBody_misfits _ hal)

variable (hc : op.cls = .e) (hal : (xr s o.xa).toNat % 8 = 0)
include hc hal

theorem issue_amo_reaches (hok : coreReaches s (handleOf s o) (xr s o.xa) 8) : issue op s = .next (did s
    (asking s o kind code (val1 (focusEnv s op.word) (focused s)) (val2 (focusEnv s op.word) (focused s)))) := by
  refine issue_e_dests [] hr ha hc ?_ (send_pending ..) (send_pc ..)
  rw [hb, amoBody_reaches _ hr.plain.toStill hal hok]
  rfl

theorem issue_amo_refused {st : Nat} (hno : coreRefuses s (handleOf s o) (xr s o.xa) st) :
    issue op s = .next (did s (amoRefused s o st)) := by
  refine issue_e_dests [.x o.xd.toNat 0, .x o.xs.toNat (statusOf st 0)] hr ha hc ?_ rfl rfl
  rw [hb, amoBody_refused _ hr.plain.toStill hal hno]
  rfl

end

/-- The first value of a RAMO. -/
def ramoFirst (op : RamoOp) (o : EngOp) (cmp : Reg) (env : Env) (c : Core) : Word := if op = .cas then env.x c cmp else env.x c o.xx
/-- The second value of a RAMO. -/
def ramoSecond (op : RamoOp) (o : EngOp) (env : Env) (c : Core) : Word := if op = .cas then env.x c o.xx else 0

section
variable {h : Hdr} {o : EngOp} {s : State} (hr : Ready s h) (hcls : classAllowed (launchHere s) o.cls.toNat = true)
include hr hcls

theorem exec_dfadd_misfits (hal : (xr s o.xa).toNat % 8 ≠ 0) : exec (.dfadd h o) s = .next (trapped s eAlign (xr s o.xa)) :=
  issue_amo_misfits (op := engineOp (.dfadd h o) h o _ _ _) (val1 := fun env c => env.x c o.xx) (val2 := fun _ _ => 0) hr
    (allowed_engineOp hcls) rfl hal

theorem exec_ramo_misfits (op : RamoOp) (cmp : Reg) (hdet : (focused s).sys.det = false) (hal : (xr s o.xa).toNat % 8 ≠ 0) :
    exec (.ramo h op o cmp) s = .next (trapped s eAlign (xr s o.xa)) :=
  issue_amo_misfits (op := ramoOp h op o cmp) (val1 := ramoFirst op o cmp) (val2 := ramoSecond op o) hr (allowed_ramoOp hcls hdet) rfl hal

variable (hal : (xr s o.xa).toNat % 8 = 0)
include hal

theorem exec_dfadd (hok : coreReaches s (handleOf s o) (xr s o.xa) 8) :
    exec (.dfadd h o) s = .next (did s (asking s o .dfadd 4 (xr s o.xx) 0)) :=
  issue_amo_reaches (op := engineOp (.dfadd h o) h o _ _ _) (val1 := fun env c => env.x c o.xx) (val2 := fun _ _ => 0) hr
    (allowed_engineOp hcls) rfl rfl hal hok

theorem exec_dfadd_refused {st : Nat} (hno : coreRefuses s (handleOf s o) (xr s o.xa) st) :
    exec (.dfadd h o) s = .next (did s (amoRefused s o st)) :=
  issue_amo_refused (op := engineOp (.dfadd h o) h o _ _ _) (val1 := fun env c => env.x c o.xx) (val2 := fun _ _ => 0) hr
    (allowed_engineOp hcls) rfl rfl hal hno

theorem exec_ramo (op : RamoOp) (cmp : Reg) (hdet : (focused s).sys.det = false) (hok : coreReaches s (handleOf s o) (xr s o.xa) 8) :
    exec (.ramo h op o cmp) s = .next (did s (asking s o .ramo (ramoCode op)
      (if op = .cas then xr s cmp else xr s o.xx) (if op = .cas then xr s o.xx else 0))) :=
  issue_amo_reaches (op := ramoOp h op o cmp) (val1 := ramoFirst op o cmp) (val2 := ramoSecond op o) hr (allowed_ramoOp hcls hdet) rfl rfl
    hal hok

theorem exec_ramo_refused {st : Nat} (op : RamoOp) (cmp : Reg) (hdet : (focused s).sys.det = false)
    (hno : coreRefuses s (handleOf s o) (xr s o.xa) st) : exec (.ramo h op o cmp) s = .next (did s (amoRefused s o st)) :=
  issue_amo_refused (op := ramoOp h op o cmp) (val1 := ramoFirst op o cmp) (val2 := ramoSecond op o) hr (allowed_ramoOp hcls hdet) rfl rfl
    hal hno

end

/-! ## Attic accesses -/

/-- What an attic access asks of the engine. -/
def atticReq (s : State) (o : EngOp) (kind : EngKind) (write : Bool) : EngReq :=
  ⟨kind, o, none, 0, transferLen s o, write, (xr s o.xd).toNat, (transferLen s o + 3967) / 3968⟩

/-- The core once an attic access has entered its engine, for larder k. -/
def atticCore (s : State) (o : EngOp) (kind : EngKind) (write : Bool) (k : Nat) : Core :=
  send (enterEngine (focused s) { engEntry (focusEnv s 0) (focused s) (atticReq s o kind write) false none with
      drow := larderRow k, dcol := larderCol k }) o.cls.toNat
    (atticFlits (focusEnv s 0) (focused s) o.cls.toNat k write ((xr s o.xa).setWidth 48).toNat (xr s o.xd).toNat (transferLen s o))

section
variable {op : Op} {s : State} {o : EngOp} {kind : EngKind} {write : Bool} (hr : Ready s op.h)
  (ha : Allowed op (focusEnv s op.word) (focused s)) (hc : op.cls = .e) (hb : op.body = atticBody kind write o) (hf : Fits s o)
include hr ha hc hb hf

theorem issue_attic {k : Nat} (hk : (launchHere s).bind homeLarder = some k) (h63 : (xr s o.xa).getLsbD 63 = true)
    (hva : (xr s o.xa).extractLsb' 48 15 = 0) : issue op s = .next (did s (atticCore s o kind write k)) := by
  have hl : (focusEnv s op.word).launch.bind homeLarder = some k := hk
  have hst : atticAddrStatus (focusEnv s op.word) (xr s o.xa) = none := by
    simp [atticAddrStatus, h63, (wfield_eq_zero (xr s o.xa) 48 15).2 hva, hl]
  have h48 : (xr s o.xa).toNat % 2 ^ 48 = ((xr s o.xa).setWidth 48).toNat := (BitVec.toNat_setWidth ..).symm
  refine issue_e_dests [] hr ha hc ?_ (send_pending ..) (send_pc ..)
  rw [hb]
  unfold atticBody
  simp only [transferAlign_fits _ hf, focusEnv_x, transferLen_eq, transferRange_still hr.plain.toStill write hf.bound, hst, hl, h48]
  rfl

theorem issue_attic_unbound (hk : (launchHere s).bind homeLarder = none) : issue op s = .next (did s (refusedCore s o 5)) := by
  have hl : (focusEnv s op.word).launch.bind homeLarder = none := hk
  have hst : atticAddrStatus (focusEnv s op.word) (xr s o.xa) = some stRange := by simp [atticAddrStatus, hl]
  refine issue_e_dests [.x o.xs.toNat (statusOf 5 0)] hr ha hc ?_ rfl rfl
  rw [hb]
  unfold atticBody
  simp only [transferAlign_fits _ hf, focusEnv_x, transferLen_eq, transferRange_still hr.plain.toStill write hf.bound, hst]
  rfl

end

section
variable {h : Hdr} {o : EngOp} {s : State} (hr : Ready s h) (hcls : classAllowed (launchHere s) o.cls.toNat = true) (hf : Fits s o)
include hr hcls hf

theorem exec_awrite {k : Nat} (hk : (launchHere s).bind homeLarder = some k) (h63 : (xr s o.xa).getLsbD 63 = true)
    (hva : (xr s o.xa).extractLsb' 48 15 = 0) : exec (.awrite h o) s = .next (did s (atticCore s o .awrite true k)) :=
  issue_attic (op := engineOp (.awrite h o) h o _ _ _) hr (allowed_engineOp hcls) rfl rfl hf hk h63 hva

theorem exec_aread {k : Nat} (hk : (launchHere s).bind homeLarder = some k) (h63 : (xr s o.xa).getLsbD 63 = true)
    (hva : (xr s o.xa).extractLsb' 48 15 = 0) : exec (.aread h o) s = .next (did s (atticCore s o .aread false k)) :=
  issue_attic (op := engineOp (.aread h o) h o _ _ _) hr (allowed_engineOp hcls) rfl rfl hf hk h63 hva

theorem exec_awrite_unbound (hk : (launchHere s).bind homeLarder = none) : exec (.awrite h o) s = .next (did s (refusedCore s o 5)) :=
  issue_attic_unbound (op := engineOp (.awrite h o) h o _ _ _) hr (allowed_engineOp hcls) rfl rfl hf hk

theorem exec_aread_unbound (hk : (launchHere s).bind homeLarder = none) : exec (.aread h o) s = .next (did s (refusedCore s o 5)) :=
  issue_attic_unbound (op := engineOp (.aread h o) h o _ _ _) hr (allowed_engineOp hcls) rfl rfl hf hk

end

/-- Settles O42. -/
theorem remoteAtomicsAndAttic : Obligations.RemoteAtomicsAndAttic := by
  unfold Obligations.RemoteAtomicsAndAttic
  intro h o s hr hcls hd v t e asked
  refine ⟨fun hal hok => ⟨fun hdet cmp => ?_, exec_dfadd hr hcls hal hok⟩,
    fun hal code hno => ⟨fun hdet op cmp => exec_ramo_refused hr hcls hal op cmp hdet hno, exec_dfadd_refused hr hcls hal hno⟩,
    fun hal => ⟨fun hdet op cmp => exec_ramo_misfits hr hcls op cmp hdet hal, exec_dfadd_misfits hr hcls hal⟩,
    exec_ramo_det hcls hr, ?_⟩
  · exact ⟨exec_ramo hr hcls hal .add cmp hdet hok, exec_ramo hr hcls hal .swap cmp hdet hok, exec_ramo hr hcls hal .cas cmp hdet hok⟩
  · intro n a hhere hlen hsome hthere hbound
    have hf : Fits s o := ⟨hhere, hlen, hsome, hthere, hbound⟩
    exact ⟨fun k hk h63 hva => ⟨exec_awrite hr hcls hf hk h63 hva, exec_aread hr hcls hf hk h63 hva⟩,
      fun hk => ⟨exec_awrite_unbound hr hcls hf hk, exec_aread_unbound hr hcls hf hk⟩⟩

end Sys2Proof.Proofs

/-! Bulk reads and larder commands of a ready core (R243, R262 to R267, R414). -/

namespace Sys2Proof.Proofs
open Sys2Proof Sys2Proof.Machine Sys2Proof.Laws

theorem setEvents_rest (c : Core) (m : BitVec 32) : (setEvents c m).pending = c.pending ∧ (setEvents c m).pc = c.pc := by
  obtain ⟨-, -, hpc, -, hp⟩ := refreshReady_rest { c with
    sys := { c.sys with evflags := c.sys.evflags ||| m }, landed := { landedNow c with sets := (landedNow c).sets ||| m } }
  exact ⟨hp, hpc⟩

/-- A ready instruction of class E that changes its core and has something land elsewhere. -/
theorem issue_e_posts {op : Op} {s : State} {c : Core} (ps : List Post) (hr : Ready s op.h)
    (ha : Allowed op (focusEnv s op.word) (focused s)) (hc : op.cls = .e)
    (hb : op.body (focusEnv s op.word) (focused s) = .ok { core := c, posts := ps }) (hp : c.pending = (focused s).pending)
    (hpc : c.pc = (focused s).pc) : issue op s = .next (ps.foldl applyPost (did s c)) := by
  have hzero : ∀ c, addFlags c 0 0 0 0 = c := addFlags_zero
  rw [exec_short hr ha (by tauto) hb (hp.trans hr.plain.pending)]
  simp only [applyDests_nil, hzero, did, past, hpc]
  rfl

/-! ## BREAD -/

/-- What BREAD does once its descriptor is read. -/
def breadRun (sr : Reg) (ev : BitVec 5) (he : BitVec 16) (arg v : Word) (d : BreadDesc) (env : Env) (c : Core) : Out :=
  let dr := directRange d
  if d.direct && dr.2 != 0 && !boundOk c dr.1 dr.2 then .trap eBound (BitVec.ofNat 64 d.dest)
  else if (d.direct && (rangeConflict c false dr.1 dr.2 || decide (16 ≤ rangesHeld c))) || 32 ≤ inFlight c then .stall
  else
    match breadTag c with
    | none => .stall
    | some tag =>
      match breadStatus env v d with
      | some code => breadAtOnce c sr ev code
      | none =>
        if burstTotal d = 0 then breadAtOnce c sr ev stOk
        else
          let b : Bread := ⟨sr.toNat, ev, he, arg, v, d, burstTotal d, 0, 0, 0, 0, false⟩
          let posts :=
            if v.getLsbD 63 then
              match env.launch, env.launch.bind homeLarder with
              | some l, some k => [Post.serve k ⟨l.num, tag, ev, v, env.row, env.col, d, arg, he, 0, 0⟩]
              | _, _ => []
            else
              let t := absTarget env.launch none v
              [Post.source (keyOf t.1 t.2) ⟨env.row, env.col, tag, offsetOf v, d, 0⟩]
          .ok { core := { c with breads := fset c.breads tag b }, posts := posts }

/-- The body of BREAD. -/
def breadBody (sr xa xd xx : Reg) (ev : BitVec 5) (he : BitVec 16) (env : Env) (c : Core) : Out :=
  match checkAccess c loads 8 48 [(env.x c xd).toNat] with
  | some o => o
  | none =>
    match readDesc c.sram (env.x c xd).toNat with
    | none => breadAtOnce c sr ev stRange
    | some d => breadRun sr ev he (env.x c xx) (env.x c xa) d env c

/-- BREAD (R262 to R267). -/
def breadOp (h : Hdr) (sr xa xd xx : Reg) (ev : BitVec 5) (he : BitVec 16) : Op :=
  { mkOp (.bread h sr xa xd xx ev he) h .e (xs [xa, xd, xx]) (xs [sr]) (breadBody sr xa xd xx ev he) with noHandler := true }

theorem exec_bread_eq (h : Hdr) (sr xa xd xx : Reg) (ev : BitVec 5) (he : BitVec 16) (s : State) :
    exec (.bread h sr xa xd xx ev he) s = issue (breadOp h sr xa xd xx ev he) s := rfl

theorem allowed_breadOp {h : Hdr} {sr xa xd xx : Reg} {ev : BitVec 5} {he : BitVec 16} {env : Env} {c : Core} :
    Allowed (breadOp h sr xa xd xx ev he) env c := ⟨rfl, rfl, rfl, rfl, rfl, rfl, rfl⟩

/-- The core once a bulk read has completed as it issued, with a status and its event flag. -/
def breadEnded (s : State) (sr : Reg) (ev : BitVec 5) (code : Nat) : Core :=
  writeX (setEvents (focused s) (1#32 <<< ev.toNat)) .main sr.toNat (statusOf code 0)

/-- The core once a bulk read holds its first tag. -/
def breadHeld (s : State) (sr xx : Reg) (ev : BitVec 5) (he : BitVec 16) (v : Word) (d : BreadDesc) : Core :=
  { focused s with breads := [(0, ⟨sr.toNat, ev, he, xr s xx, v, d, burstTotal d, 0, 0, 0, 0, false⟩)] }

/-- The source core of a bulk read has it to serve. -/
def sourcePost (s : State) (v : Word) (d : BreadDesc) : Post :=
  .source (keyOf (absTarget (launchHere s) none v).1 (absTarget (launchHere s) none v).2)
    ⟨rowOf s.focus, colOf s.focus, 0, (v.extractLsb' 0 39).toNat, d, 0⟩

/-- The home larder of a launch has a bulk read to serve. -/
def servePost (s : State) (l : Launch) (k : Nat) (xx : Reg) (ev : BitVec 5) (he : BitVec 16) (v : Word) (d : BreadDesc) : Post :=
  .serve k ⟨l.num, 0, ev, v, rowOf s.focus, colOf s.focus, d, xr s xx, he, 0, 0⟩

section
variable {h : Hdr} {sr xa xd xx : Reg} {ev : BitVec 5} {he : BitVec 16} {s : State} {d : BreadDesc}

theorem breadBody_run (hok : accessOk s loads 8 48 [(xr s xd).toNat])
    (hd : readDesc (focused s).sram (xr s xd).toNat = some d) (w : Word) : breadBody sr xa xd xx ev he (focusEnv s w) (focused s) =
    breadRun sr ev he (xr s xx) (xr s xa) d (focusEnv s w) (focused s) := by
  unfold breadBody
  rw [accessOk] at hok
  simp only [focusEnv_x, hok, hd]

/-- A bulk read that nothing in flight holds up: it completes at once, or it is held. -/
theorem breadRun_free (hr : Ready s h)
    (hin : d.direct = true → (directRange d).2 ≠ 0 → inBounds (focused s) (directRange d).1 (directRange d).2) (w : Word) : breadRun sr ev he (xr s xx) (xr s xa) d (focusEnv s w) (focused s) =
    match breadStatus (focusEnv s 0) (xr s xa) d with
    | some code => breadAtOnce (focused s) sr ev code
    | none => if burstTotal d = 0 then breadAtOnce (focused s) sr ev stOk
      else .ok {
        core := breadHeld s sr xx ev he (xr s xa) d
        posts := if (xr s xa).getLsbD 63 then
            match launchHere s, (launchHere s).bind homeLarder with
            | some l, some k => [servePost s l k xx ev he (xr s xa) d]
            | _, _ => []
          else [sourcePost s (xr s xa) d] } := by
  have hoff : offsetOf (xr s xa) = ((xr s xa).extractLsb' 0 39).toNat := wfield_eq ..
  have hst := hr.plain.toStill
  have hfits : ¬ ((d.direct && (directRange d).2 != 0 && !boundOk (focused s) (directRange d).1 (directRange d).2) = true) := by
    rw [Bool.and_eq_true, Bool.and_eq_true, bne_iff_ne, Bool.not_eq_true']
    rintro ⟨⟨hdir, hlen⟩, hno⟩
    exact Bool.false_ne_true (hno.symm.trans ((boundOk_iff ..).2 (hin hdir hlen)))
  have htag : breadTag (focused s) = some 0 := by rw [breadTag, hst.breads]; rfl
  have hfree : ¬ ((d.direct && (rangeConflict (focused s) false (directRange d).1 (directRange d).2 ||
      decide (16 ≤ rangesHeld (focused s))) || decide (32 ≤ inFlight (focused s))) = true) := by
    rw [rangeConflict_still hst, rangesHeld_still hst, inFlight_still hst]
    simp
  have hset : ∀ b : Bread, fset (focused s).breads 0 b = [(0, b)] := fun b => by rw [hst.breads]; rfl
  unfold breadRun
  simp only [if_neg hfits, if_neg hfree, htag, hset, hoff]
  rfl

end

section
variable {h : Hdr} {sr xa xd xx : Reg} {ev : BitVec 5} {he : BitVec 16} {s : State} (hr : Ready s h)
include hr

/-- BREAD whose descriptor's address fails a check. -/
theorem exec_bread_traps {code : BitVec 8} {w : Nat} (ht : accessTraps (focused s) loads 8 48 [(xr s xd).toNat] code w) :
    exec (.bread h sr xa xd xx ev he) s = .next (trapped s code (BitVec.ofNat 64 w)) := by
  refine exec_trap (op := breadOp h sr xa xd xx ev he) hr allowed_breadOp ?_
  show breadBody sr xa xd xx ev he (focusEnv s _) (focused s) = _
  unfold breadBody
  simp only [focusEnv_x, checkAccess_of_accessTraps ht]

/-- A bulk read that completes at once. -/
theorem issue_bread_ends (code : Nat) (hb : breadBody sr xa xd xx ev he (focusEnv s (breadOp h sr xa xd xx ev he).word) (focused s) =
    breadAtOnce (focused s) sr ev code) : exec (.bread h sr xa xd xx ev he) s = .next (did s (breadEnded s sr ev code)) := by
  obtain ⟨hp, hpc⟩ := setEvents_rest (focused s) (1#32 <<< ev.toNat)
  exact issue_e_dests (op := breadOp h sr xa xd xx ev he) [.x sr.toNat (statusOf code 0)] hr allowed_breadOp rfl hb hp hpc

variable (hok : accessOk s loads 8 48 [(xr s xd).toNat])
include hok

theorem exec_bread_limits (hd : readDesc (focused s).sram (xr s xd).toNat = none) :
    exec (.bread h sr xa xd xx ev he) s = .next (did s (breadEnded s sr ev 5)) := by
  refine issue_bread_ends hr 5 ?_
  unfold breadBody
  rw [accessOk] at hok
  simp only [focusEnv_x, hok, hd]
  rfl

variable {d : BreadDesc} (hd : readDesc (focused s).sram (xr s xd).toNat = some d)
include hd

theorem exec_bread_unfit (hdir : d.direct = true) (hlen : (directRange d).2 ≠ 0)
    (hout : ¬ inBounds (focused s) (directRange d).1 (directRange d).2) :
    exec (.bread h sr xa xd xx ev he) s = .next (trapped s eBound (BitVec.ofNat 64 d.dest)) := by
  refine exec_trap (op := breadOp h sr xa xd xx ev he) hr allowed_breadOp ((breadBody_run hok hd _).trans ?_)
  have hno : boundOk (focused s) (directRange d).1 (directRange d).2 = false :=
    Bool.eq_false_iff.2 fun hyes => hout ((boundOk_iff ..).1 hyes)
  exact if_pos (by simp [hdir, hlen, hno])

variable (hin : d.direct = true → (directRange d).2 ≠ 0 → inBounds (focused s) (directRange d).1 (directRange d).2)
include hin

theorem exec_bread_refused {code : Nat} (hs : breadStatus (focusEnv s 0) (xr s xa) d = some code) :
    exec (.bread h sr xa xd xx ev he) s = .next (did s (breadEnded s sr ev code)) := by
  refine issue_bread_ends hr code ((breadBody_run hok hd _).trans ((breadRun_free hr hin _).trans ?_))
  rw [hs]

variable (hs : breadStatus (focusEnv s 0) (xr s xa) d = none)
include hs

theorem exec_bread_empty (h0 : burstTotal d = 0) :
    exec (.bread h sr xa xd xx ev he) s = .next (did s (breadEnded s sr ev 0)) := by
  refine issue_bread_ends hr 0 ((breadBody_run hok hd _).trans ((breadRun_free hr hin _).trans ?_))
  rw [hs]
  exact if_pos h0

theorem exec_bread_source (h0 : burstTotal d ≠ 0) (h63 : (xr s xa).getLsbD 63 = false) :
    exec (.bread h sr xa xd xx ev he) s = .next (applyPost (did s (breadHeld s sr xx ev he (xr s xa) d))
      (sourcePost s (xr s xa) d)) := by
  refine issue_e_posts (op := breadOp h sr xa xd xx ev he) (c := breadHeld s sr xx ev he (xr s xa) d) [sourcePost s (xr s xa) d] hr allowed_breadOp rfl
    ((breadBody_run hok hd _).trans ((breadRun_free hr hin _).trans ?_)) rfl rfl
  rw [hs]
  simp only [if_neg h0, h63]
  rfl

theorem exec_bread_served {l : Launch} {k : Nat} (h0 : burstTotal d ≠ 0) (h63 : (xr s xa).getLsbD 63 = true)
    (hl : launchHere s = some l) (hk : homeLarder l = some k) :
    exec (.bread h sr xa xd xx ev he) s = .next (applyPost (did s (breadHeld s sr xx ev he (xr s xa) d))
      (servePost s l k xx ev he (xr s xa) d)) := by
  refine issue_e_posts (op := breadOp h sr xa xd xx ev he) (c := breadHeld s sr xx ev he (xr s xa) d) [servePost s l k xx ev he (xr s xa) d] hr allowed_breadOp rfl
    ((breadBody_run hok hd _).trans ((breadRun_free hr hin _).trans ?_)) rfl rfl
  rw [hs]
  simp only [if_neg h0, h63, hl, Option.bind_some, hk]
  rfl

end

/-! ## LSUB -/

/-- The body of LSUB on a register bound to context k of larder n. -/
def lsubBody (sr xa : Reg) (n k : Nat) (env : Env) (c : Core) : Out :=
  let a := (env.x c xa).toNat
  match checkAccess c loads 16 16 [a] with
  | some o => o
  | none =>
    if 32 ≤ inFlight c || !inputFree c 29 then .stall
    else
      let tag := tagFirst c.nextTag 1
      let e : EngineOp :=
        { kind := .lsub, xs := sr.toNat, xd := 0, tag := tag, msgs := 1, answers := [], cls := 29, drow := larderRow n,
          dcol := larderCol n, handle := 0, lo := 0, len := 0, src := true, signal := none }
      done (send (enterEngine c e) 29
        (larderFlits env n (larderPayload 4 k 0 tag.toNat 0 (c.sram.readLE a 8) (c.sram.readLE (a + 8) 8))))

/-- LSUB (R243, R414). -/
def lsubOp (h : Hdr) (sr xa : Reg) (q : BitVec 4) : Op :=
  { mkOp (.lsub h sr xa q) h .e (xs [xa] ++ [.q q.toNat]) (xs [sr]) (fun env c =>
      match readQ c q.toNat with
      | .larder n k => lsubBody sr xa n k env c
      | _ => badQueue q) with
    noHandler := true }

/-- The core once LSUB has sent its command to context k of larder n. -/
def lsubSent (s : State) (sr xa : Reg) (n k : Nat) : Core :=
  let tag := tagFirst (focused s).nextTag 1
  send (enterEngine (focused s) ⟨.lsub, sr.toNat, 0, tag, 1, [], 29, larderRow n, larderCol n, 0, 0, 0, true, none, []⟩) 29
    (larderFlits (focusEnv s 0) n (larderPayload 4 k 0 tag.toNat 0 ((focused s).sram.readLE (xr s xa).toNat 8)
      ((focused s).sram.readLE ((xr s xa).toNat + 8) 8)))

section
variable {h : Hdr} {sr xa : Reg} {q : BitVec 4} {s : State} (hr : Ready s h)

theorem allowed_lsubOp {env : Env} {c : Core} : Allowed (lsubOp h sr xa q) env c := ⟨rfl, rfl, rfl, rfl, rfl, rfl, rfl⟩

include hr

theorem exec_lsub_unbound (hq : readQ (focused s) q.toNat = .unbound) :
    exec (.lsub h sr xa q) s = .next (trapped s eQueue (q.setWidth 64)) := by
  refine exec_trap (op := lsubOp h sr xa q) hr allowed_lsubOp ?_
  simp only [lsubOp, mkOp, hq]
  rfl

variable {n k : Nat} (hq : readQ (focused s) q.toNat = .larder n k)
include hq

theorem exec_lsub_traps {code : BitVec 8} {w : Nat} (ht : accessTraps (focused s) loads 16 16 [(xr s xa).toNat] code w) :
    exec (.lsub h sr xa q) s = .next (trapped s code (BitVec.ofNat 64 w)) := by
  refine exec_trap (op := lsubOp h sr xa q) hr allowed_lsubOp ?_
  simp only [lsubOp, mkOp, hq, lsubBody, focusEnv_x, checkAccess_of_accessTraps ht]

theorem exec_lsub (hroom : (egressOf (focused s) 29).length < 2) (hok : accessOk s loads 16 16 [(xr s xa).toNat]) :
    exec (.lsub h sr xa q) s = .next (did s (lsubSent s sr xa n k)) := by
  have hfree : inputFree (focused s) 29 = true := decide_eq_true hroom
  rw [accessOk] at hok
  refine issue_e_dests (op := lsubOp h sr xa q) [] hr allowed_lsubOp rfl ?_ (send_pending ..) (send_pc ..)
  simp only [lsubOp, mkOp, hq, lsubBody, focusEnv_x, hok, hfree, inFlight_still hr.plain.toStill]
  rfl

end

/-- Settles O43. -/
theorem bulkReadsAndCommands : Obligations.BulkReadsAndCommands := by
  unfold Obligations.BulkReadsAndCommands
  intro h sr xa xd xx ev he s hr v at_
  refine ⟨fun hok => ⟨exec_bread_limits hr hok, fun d hd => ⟨exec_bread_unfit hr hok hd, fun hin =>
    ⟨fun code hs => exec_bread_refused hr hok hd hin hs, fun hs => ⟨exec_bread_empty hr hok hd hin hs,
      exec_bread_source hr hok hd hin hs, fun l k => exec_bread_served hr hok hd hin hs⟩⟩⟩⟩,
    fun code w => exec_bread_traps hr, fun q n k w code hq => exec_lsub_traps hr hq,
    fun q n k hq hroom hok => exec_lsub hr hq hroom hok, fun q => exec_lsub_unbound hr⟩

end Sys2Proof.Proofs

/-! Handler contexts: their short instructions, the end of a burst, and the end of a cycle (R130, R266, R269, R411 to R413). -/

namespace Sys2Proof.Proofs
open Sys2Proof Sys2Proof.Machine Sys2Proof.Laws

/-! ## The end of a cycle -/

theorem ffind_mapValues {α β : Type} (f : α → β) (m : FMap α) (k : Nat) : ffind (m.map fun e => (e.1, f e.2)) k = (ffind m k).map f := by
  induction m with
  | nil => rfl
  | cons e m ih =>
    by_cases hk : e.1 = k
    · simp [ffind, hk]
    · simp [ffind, hk, ih]

/-- A router's note of what waits changes that router alone. -/
theorem tickClass_rest (s : State) (k : Nat) (lg : Option (Nat × Nat)) (cls : Nat) : ∃ r, tickClass s k lg cls = { s with routers := r } := by
  have hhead : ∀ d, ∃ r, noteHead s k lg d cls = { s with routers := r } := by
    intro d
    unfold noteHead
    dsimp only
    split <;> exact ⟨_, rfl⟩
  have hfirst : ∃ r, (if (ffind (routerAt s k).entry (128 + cls)).isNone = true then noteHead s k lg 4 cls else s) = { s with routers := r } := by
    split
    · exact hhead 4
    · exact ⟨_, rfl⟩
  obtain ⟨r, hr⟩ := hfirst
  unfold tickClass
  rw [hr]
  dsimp only
  split
  · exact ⟨_, rfl⟩
  · split <;> exact ⟨_, rfl⟩

/-- What a step keeps but for the routers, any number of steps keep but for the routers. -/
theorem foldl_routers {α : Type} {f : State → α → State} (hf : ∀ s a, ∃ r, f s a = { s with routers := r }) (l : List α) (s : State) :
    ∃ r, l.foldl f s = { s with routers := r } := by
  induction l generalizing s with
  | nil => exact ⟨s.routers, rfl⟩
  | cons a l ih =>
    obtain ⟨r, hr⟩ := hf s a
    obtain ⟨r', hr'⟩ := ih (f s a)
    exact ⟨r', by rw [List.foldl_cons, hr', hr]⟩

theorem tickRouters_rest (s : State) : ∃ r, tickRouters s = { s with routers := r } :=
  foldl_routers (fun s k => foldl_routers (fun s cls => tickClass_rest s k _ cls) _ s) _ s

theorem settleFaults_none {s : State} (hf : s.dev.faults = []) : settleFaults s = s := by
  unfold settleFaults
  rw [hf]
  rfl

/-- What a cycle that ends with no fault noted does. -/
theorem elapse_running {s : State} (hf : s.dev.faults = []) (hs : s.dev.stopped = false) (n : Nat) : ∃ r, elapse s n =
    { s with routers := r, cores := s.cores.map (fun e => (e.1, tickCore n (settleBreads (readWaits s e.2)))), cycle := s.cycle + n,
             live := s.live + n } := by
  obtain ⟨r, hr⟩ := tickRouters_rest { s with cores := s.cores.map fun e => (e.1, settleBreads (readWaits s e.2)) }
  refine ⟨r, ?_⟩
  unfold elapse
  rw [settleFaults_none hf]
  simp only [hs, Bool.false_eq_true, if_false, hr, List.map_map]
  rfl

theorem elapse_stopped {s : State} (hf : s.dev.faults = []) (hs : s.dev.stopped = true) (n : Nat) : elapse s n =
    { s with cores := s.cores.map (fun e => (e.1, tickCore n e.2)), cycle := s.cycle + n } := by
  unfold elapse
  rw [settleFaults_none hf]
  simp only [hs, if_true]

/-- A core that the machine lists, once every core has changed. -/
theorem coreAt_mapValues {cores : FMap Core} (f : Core → Core) {s t : State} {k : Nat} {c : Core} (ht : t.cores = cores.map fun e => (e.1, f e.2))
    (hs : s.cores = cores) (hc : ffind s.cores k = some c) : coreAt t k = f c := by
  rw [coreAt, fget, ht, ffind_mapValues, ← hs, hc]
  rfl

theorem focused_mapValues (f : Core → Core) {s t : State} {c : Core} (ht : t.cores = s.cores.map fun e => (e.1, f e.2))
    (hfocus : t.focus = s.focus) (hc : ffind s.cores s.focus = some c) : focused t = f c := by
  rw [focused, hfocus]
  exact coreAt_mapValues f ht rfl hc

theorem focused_elapse_stopped {s : State} {c : Core} (hf : s.dev.faults = []) (hs : s.dev.stopped = true)
    (hc : ffind s.cores s.focus = some c) (n : Nat) : focused (elapse s n) = tickCore n c := by
  rw [elapse_stopped hf hs]
  exact focused_mapValues (s := s) (tickCore n) rfl rfl hc

theorem focused_elapse_running {s : State} {c : Core} (hf : s.dev.faults = []) (hs : s.dev.stopped = false)
    (hc : ffind s.cores s.focus = some c) (n : Nat) : focused (elapse s n) = tickCore n (settleBreads (readWaits s c)) := by
  obtain ⟨r, hel⟩ := elapse_running hf hs n
  rw [hel]
  exact focused_mapValues (s := s) (fun c => tickCore n (settleBreads (readWaits s c))) rfl rfl hc

/-! ## The end of a bulk read -/

theorem refreshReady_breads (c : Core) : (refreshReady c).breads = c.breads :=
  refreshReady_induct (P := fun d => d.breads = c.breads) c rfl fun _ _ _ _ _ _ hd => hd

theorem readX_refreshReady (c : Core) (n : Nat) : readX (refreshReady c) .main n = readX c .main n := by
  unfold readX
  rw [refreshReady_regs]

theorem readWaits_rest (s : State) (c : Core) : (readWaits s c).breads = c.breads := by
  unfold readWaits
  dsimp only
  split <;> (split <;> rfl)

/-- A core's only bulk read, handled to its end: its status word is there and its event flag is set. -/
theorem settleBreads_over {c : Core} {tag : Nat} {b : Bread} (hb : c.breads = [(tag, b)]) (hover : breadOver b = true) :
    (settleBreads c).breads = [] ∧ (settleBreads c).sys.evflags.getLsbD b.ev.toNat = true ∧
      (b.xs ≠ 0 → readX (settleBreads c) .main b.xs = statusOf b.code b.sectors) := by
  have hset : settleBreads c =
      setEvents (writeX { c with breads := fdel c.breads tag } .main b.xs (statusOf b.code b.sectors)) (1#32 <<< b.ev.toNat) := by
    rw [settleBreads, hb]
    simp only [List.foldl_cons, List.foldl_nil, finishBread, hb, ffind, if_true, hover]
  have hev : b.ev.toNat < 32 := b.ev.isLt
  rw [hset, setEvents]
  refine ⟨?_, ?_, fun hxs => ?_⟩
  · rw [refreshReady_breads]
    simp only [writeX, hb, fdel]
    split <;> simp
  · rw [refreshReady_sys]
    simp [hev]
  · rw [readX_refreshReady]
    simp [readX, writeX, hxs]

/-! ## Issue in a handler context -/

/-- An operation that handler context k may execute. -/
structure AllowedIn (op : Op) (env : Env) (c : Core) : Prop where
  staticPriv : op.staticPriv env c = false
  dynRsv : op.dynRsv env c = false
  dynPriv : op.dynPriv env c = false
  noHandler : op.noHandler = false
  registers : (op.reads ++ op.writes).any handlerForbids = false
  gangBad : op.gangBad env c = false
  detBad : op.detBad env c = false
  groups : anyClash op.groups = false

/-- What an instruction of handler context k sees. -/
def handlerEnv (s : State) (k : Nat) (w : Word) : Env := envOf s s.focus (.handler k) w 0

section
variable {op : Op} {s : State} {k : Nat} {e : Effect} (hr : ReadyIn s op.h k)
  (ha : AllowedIn op (handlerEnv s k op.word) (focused s)) (hc : op.cls = .s)
  (hb : op.body (handlerEnv s k op.word) (focused s) = .ok e) (hp : e.core.pending = [])
  (hj : e.jump = none) (hn : e.counts = {}) (hposts : e.posts = [])
include hr ha hc hb hp hj hn hposts

/-- A short instruction of a handler context. -/
theorem exec_handler : issue op s = .next (withFocus s
    (let c := addFlags (applyDests (.handler k) e.core e.dests) e.flags 0 0 0
     if e.stays then c else setPc c (.handler k) ((handlerAt (focused s) k).pc + 8))) := by
  have hx : (handlerEnv s k op.word).ctx = .handler k := rfl
  have ha' : (handlerEnv s k op.word).a = (handlerAt (focused s) k).pc := rfl
  have hsettle : settle op (handlerEnv s k op.word) [] [] e =
      (let c := addFlags (applyDests (.handler k) e.core e.dests) e.flags 0 0 0
       if e.stays then c else setPc c (.handler k) ((handlerAt (focused s) k).pc + 8)) := by
    have hcore : { e.core with pending := [] } = e.core := by rw [← hp]
    simp [settle, hc, hx, ha', hj, hn, hp, giveWay_nil, countIssue, hcore, advance, nextPc]
    rfl
  have hbody : judgeBody op (handlerEnv s k op.word) (focused s) = .done (settle op (handlerEnv s k op.word) [] [] e) [] := by
    have hw : windowTrap op (handlerEnv s k op.word) (focused s) e = none := by
      simp [windowTrap, hx, pendingOf_nil hr.pending]
    simp only [judgeBody, hx, hazards_readyIn hr, Env.isHandler, seenNew_nil, applyDests_nil, ha.dynRsv, ha.dynPriv, ha.noHandler,
      ha.registers, ha.gangBad, ha.detBad, ha.groups, hb, hw, hposts]
    simp [hr.guard]
  have hjudge : judge op (handlerEnv s k op.word) (focused s) = .done (settle op (handlerEnv s k op.word) [] [] e) [] := by
    simp only [judge, ha.staticPriv, hbody]
    simp [hr.guard]
  rw [issue_readyIn hr hjudge, hsettle]
  rfl

end

section
variable {h : Hdr} {s : State} {k : Nat} (hr : ReadyIn s h k)
include hr

/-! ## HMOV, HST and HADD -/

/-- The coordinate of a burst that HMOV reads. -/
def burstCoord (x : Handler) : BurstCoord → Word
  | .bix => x.bix.setWidth 64
  | .bxc => x.bxc.setWidth 64
  | .byc => x.byc.setWidth 64
  | .bcnt => x.bcnt.setWidth 64

/-- HMOV (R411). -/
def hmovOp (h : Hdr) (d : Reg) (src : BurstCoord) : Op :=
  { mkOp (.hmov h d src) h .s [] (xs [d]) (fun env c => wx c d (match src with
      | .bix => (envHandler env c).bix.setWidth 64
      | .bxc => (envHandler env c).bxc.setWidth 64
      | .byc => (envHandler env c).byc.setWidth 64
      | .bcnt => (envHandler env c).bcnt.setWidth 64)) with
    noMain := true }

theorem exec_hmovIn {d : Reg} (hd : d.toNat < 16) (src : BurstCoord) : exec (.hmov h d src) s =
    .next (inHandler s k (writeX (focused s) (.handler k) d.toNat (burstCoord (handlerAt (focused s) k) src))) := by
  have hzero : ∀ c, addFlags c 0 0 0 0 = c := addFlags_zero
  have ha : AllowedIn (hmovOp h d src) (handlerEnv s k (hmovOp h d src).word) (focused s) :=
    ⟨rfl, rfl, rfl, rfl, by simp [hmovOp, mkOp, xs, handlerForbids, hd], rfl, rfl, rfl⟩
  refine (exec_handler (op := hmovOp h d src)
    (e := { core := focused s, dests := [.x d.toNat (burstCoord (handlerAt (focused s) k) src)] }) hr ha rfl (by cases src <;> rfl)
    hr.pending rfl rfl rfl).trans ?_
  simp only [hzero]
  rfl

omit hr in
/-- The registers of an address that a handler context may name. -/
theorem memRefs_allowed {m : MemOp} (hbase : m.base.toNat < 16) (hindex : m.index.toNat < 16) : (memRefs m).any handlerForbids = false := by
  unfold memRefs
  split <;> simp [handlerForbids, hbase, hindex]

/-- The words of a handler context's two vector registers, as one number. -/
def burstBits (c : Core) (x : Ctx) : Nat := (readV c x 0).toNat + (readV c x 1).toNat * 2 ^ 512

/-- HST (R412). -/
def hstOp (h : Hdr) (sz : StSize) (m : MemOp) : Op :=
  { mkOp (.hst h sz m) h .s (memRefs m ++ [.v 0, .v 1]) [] (fun env c =>
      let a := (effAddr env c m).toNat
      let n := (envHandler env c).bcnt.toNat
      let w := stBytes sz
      withAccess c stores w w ((List.range (n / w)).map fun i => a + w * i)
        (done (storeBytes c a (leBytes (burstBits c env.ctx) n)))) with
    noMain := true }

section
variable {m : MemOp} (hbase : m.base.toNat < 16) (hindex : m.index.toNat < 16) {sz : StSize}
include hbase hindex

theorem exec_hstIn (hok : checkAccess (focused s) stores (stBytes sz) (stBytes sz)
      ((List.range ((handlerAt (focused s) k).bcnt.toNat / stBytes sz)).map fun i => handlerAddr s k m + stBytes sz * i) = none) :
    exec (.hst h sz m) s = .next (inHandler s k (storeBytes (focused s) (handlerAddr s k m)
      (leBytes (burstBits (focused s) (.handler k)) (handlerAt (focused s) k).bcnt.toNat))) := by
  have hzero : ∀ c, addFlags c 0 0 0 0 = c := addFlags_zero
  have ha : AllowedIn (hstOp h sz m) (handlerEnv s k (hstOp h sz m).word) (focused s) :=
    ⟨rfl, rfl, rfl, rfl, by simp [hstOp, mkOp, memRefs_allowed hbase hindex, handlerForbids], rfl, rfl, rfl⟩
  refine (exec_handler (op := hstOp h sz m)
    (e := { core := storeBytes (focused s) (handlerAddr s k m) (leBytes (burstBits (focused s) (.handler k)) (handlerAt (focused s) k).bcnt.toNat) }) hr ha rfl
      (withAccess_ok hok _) hr.pending rfl rfl rfl).trans ?_
  simp only [hzero]
  rfl

/-- The flags of the lanes that HADD adds. -/
def haddFlags (c : Core) (sz : StSize) (fp : Bool) (v : BitVec 512) (a : Nat) : BitVec 5 :=
  ((List.range (512 / (8 * stBytes sz))).map fun i =>
    haddLane sz fp (lane (8 * stBytes sz) (BitVec.ofNat 512 (c.sram.readLE a 64)) i) (lane (8 * stBytes sz) v i)).foldl
      (fun f r => f ||| r.flags) 0

/-- The 64 bytes that HADD stores. -/
def haddBytes (c : Core) (sz : StSize) (fp : Bool) (v : BitVec 512) (a : Nat) : List Byte :=
  byteSlice (packV (8 * stBytes sz) (((List.range (512 / (8 * stBytes sz))).map fun i =>
    haddLane sz fp (lane (8 * stBytes sz) (BitVec.ofNat 512 (c.sram.readLE a 64)) i) (lane (8 * stBytes sz) v i)).map (·.bits))) 0 64

omit hr hbase hindex in
theorem added_eq (c : Core) (fp : Bool) (v : BitVec 512) (a : Nat) :
    added c sz fp v a = addFlags (storeBytes c a (haddBytes c sz fp v a)) (haddFlags c sz fp v a) 0 0 0 := rfl

/-- The body of HADD. -/
def haddBody (sz : StSize) (fp : Bool) (v : VReg) (m : MemOp) (env : Env) (c : Core) : Out :=
  withAccess c updates 64 64 [(effAddr env c m).toNat] (.ok {
    core := storeBytes c (effAddr env c m).toNat (haddBytes c sz fp (env.v c v) (effAddr env c m).toNat)
    flags := haddFlags c sz fp (env.v c v) (effAddr env c m).toNat })

/-- HADD (R413). -/
def haddOp (h : Hdr) (sz : StSize) (fp : Bool) (v : VReg) (m : MemOp) : Op :=
  mkOp (.hadd h sz fp v m) h .s (.v v.toNat :: memRefs m) [] (haddBody sz fp v m)

theorem exec_haddIn {fp : Bool} {v : VReg} (hv : v.toNat < 2) (hok : checkAccess (focused s) updates 64 64 [handlerAddr s k m] = none) :
    exec (.hadd h sz fp v m) s =
      .next (inHandler s k (added (focused s) sz fp (readV (focused s) (.handler k) v.toNat) (handlerAddr s k m))) := by
  have ha : AllowedIn (haddOp h sz fp v m) (handlerEnv s k (haddOp h sz fp v m).word) (focused s) :=
    ⟨rfl, rfl, rfl, rfl, by simp [haddOp, mkOp, memRefs_allowed hbase hindex, handlerForbids, hv], rfl, rfl, rfl⟩
  exact exec_handler (op := haddOp h sz fp v m)
    (e := { core := storeBytes (focused s) (handlerAddr s k m)
              (haddBytes (focused s) sz fp (readV (focused s) (.handler k) v.toNat) (handlerAddr s k m))
            flags := haddFlags (focused s) sz fp (readV (focused s) (.handler k) v.toNat) (handlerAddr s k m) }) hr ha rfl
    (withAccess_ok hok _) ((storeBytes_pending ..).trans hr.pending) rfl rfl rfl

end

/-! ## HEND -/

/-- HEND (R411). -/
def hendOp (h : Hdr) : Op :=
  { mkOp (.hend h) h .s [] [] (fun env c =>
      match env.ctx with
      | .handler k => .ok { core := endHandler c k false, stays := true }
      | .main => done c) with
    noMain := true }

/-- The core in focus with handler context k freed and its burst counted. -/
def handled (s : State) (k : Nat) : Core :=
  let x := handlerAt (focused s) k
  let freed := setHandler (focused s) k { x with busy := false }
  match ffind (focused s).breads x.tag with
  | none => freed
  | some b => { freed with breads := fset (focused s).breads x.tag { b with handled := b.handled + 1 } }

omit hr in
theorem handled_rest (s : State) (k : Nat) : (handled s k).pending = (focused s).pending ∧ (handled s k).bursts = (focused s).bursts ∧
    (handled s k).handlers = (setHandler (focused s) k { handlerAt (focused s) k with busy := false }).handlers := by
  unfold handled
  dsimp only
  split <;> exact ⟨rfl, rfl, rfl⟩

omit hr in
theorem endHandler_eq (hp : (focused s).pending = []) : endHandler (focused s) k false = placeBursts (handled s k) 8 := by
  have hbreads : (setHandler (focused s) k { handlerAt (focused s) k with busy := false }).breads = (focused s).breads := rfl
  unfold endHandler handled burstHandled
  rw [flushPending_nil hp]
  dsimp only
  rw [hbreads]
  cases ffind (focused s).breads (handlerAt (focused s) k).tag <;> rfl

theorem exec_hendIn {c : Core} (hc : placeBursts (handled s k) 8 = c) (hp : c.pending = []) : exec (.hend h) s = .next (withFocus s c) := by
  have hzero : ∀ c, addFlags c 0 0 0 0 = c := addFlags_zero
  have ha : AllowedIn (hendOp h) (handlerEnv s k (hendOp h).word) (focused s) := ⟨rfl, rfl, rfl, rfl, rfl, rfl, rfl, rfl⟩
  have hbody : (hendOp h).body (handlerEnv s k (hendOp h).word) (focused s) = .ok { core := c, stays := true } := by
    rw [← hc, ← endHandler_eq hr.pending]
    rfl
  refine (exec_handler (op := hendOp h) (e := { core := c, stays := true }) hr ha rfl hbody hp rfl rfl rfl).trans ?_
  simp only [hzero]
  rfl

theorem exec_hendIn_idle (hb : (focused s).bursts = []) : exec (.hend h) s = .next (withFocus s (handled s k)) := by
  obtain ⟨hp, hbursts, -⟩ := handled_rest s k
  exact exec_hendIn hr (placeBursts_nil (hbursts.trans hb) 8) (hp.trans hr.pending)

omit hr in
/-- A burst that waits starts in the one handler context that is free. -/
theorem placeBursts_one {c : Core} {w : Burst} {ws : List Burst} {br : Bread} (hk : k < 8) (hb : c.bursts = w :: ws)
    (hbusy : ∀ j, j < 8 → j ≠ k → (handlerAt c j).busy = true) (hfree : (handlerAt c k).busy = false) (hbr : ffind c.breads w.tag = some br)
    (n : Nat) : placeBursts c (n + 1) = setHandler { c with bursts := ws } k (startHandler w br.he br.arg) := by
  have hfind : (List.range 8).find? (fun j => !(handlerAt c j).busy) = some k := by
    have hat : ∀ j, j < 8 → (!(handlerAt c j).busy) = decide (j = k) := by
      intro j hj
      by_cases hjk : j = k
      · simp [hjk, hfree]
      · simp [hjk, hbusy j hj hjk]
    rw [List.find?_congr fun j hj => hat j (List.mem_range.1 hj)]
    have : ∀ k < 8, (List.range 8).find? (fun j => decide (j = k)) = some k := by decide
    exact this k hk
  have hall : ∀ d : Core, d.handlers = (setHandler { c with bursts := ws } k (startHandler w br.he br.arg)).handlers →
      (List.range 8).find? (fun j => !(handlerAt d j).busy) = none := by
    intro d hd
    rw [List.find?_eq_none]
    intro j hj
    have hat : handlerAt d j = handlerAt (setHandler { c with bursts := ws } k (startHandler w br.he br.arg)) j := by
      simp only [handlerAt, hd]
    rw [hat]
    by_cases hjk : j = k
    · simp [hjk, handlerAt, setHandler, startHandler]
    · simp only [handlerAt, setHandler]
      rw [fget_fset_ne _ _ _ hjk]
      rw [show (fget c.handlers j {}).busy = true from hbusy j (List.mem_range.1 hj) hjk]
      decide
  have hstop : ∀ m, placeBursts (setHandler { c with bursts := ws } k (startHandler w br.he br.arg)) m =
      setHandler { c with bursts := ws } k (startHandler w br.he br.arg) := by
    intro m
    cases m with
    | zero => rfl
    | succ m =>
      rw [placeBursts]
      split
      · next hfound => rw [hall _ rfl] at hfound; cases hfound
      · rfl
  have hget : ∀ d, fget c.breads w.tag d = br := fun d => by rw [fget, hbr]; rfl
  rw [placeBursts]
  simp only [hb, hfind, hget, hstop]

theorem exec_hendIn_next {w : Burst} {ws : List Burst} {br : Bread} (hb : (focused s).bursts = w :: ws) (hk : k < 8)
    (hbusy : ∀ j, j < 8 → j ≠ k → (handlerAt (focused s) j).busy = true) (hbr : ffind (handled s k).breads w.tag = some br) :
    exec (.hend h) s = .next (withFocus s (setHandler { handled s k with bursts := ws } k (startHandler w br.he br.arg))) := by
  obtain ⟨hp, hbursts, hhandlers⟩ := handled_rest s k
  refine exec_hendIn hr (placeBursts_one hk (hbursts.trans hb) (fun j hj hjk => ?_) ?_ hbr 7) (hp.trans hr.pending)
  · rw [handlerAt, hhandlers]
    exact (congrArg Handler.busy (fget_fset_ne _ _ _ hjk)).trans (hbusy j hj hjk)
  · rw [handlerAt, hhandlers]
    exact congrArg Handler.busy (fget_fset_self ..)

/-- The last burst of a bulk read handled, the read ends as the cycle does, unless the wafer is stopped. -/
theorem elapse_hendIn {b : Bread} (hb : (focused s).bursts = []) (hbreads : (focused s).breads = [((handlerAt (focused s) k).tag, b)])
    (hover : breadOver { b with handled := b.handled + 1 } = true) (hf : s.dev.faults = []) :
    goesOn (elapseOutcome 1 (exec (.hend h) s)) fun t =>
      if s.dev.stopped = true then ffind (focused t).breads (handlerAt (focused s) k).tag = some { b with handled := b.handled + 1 }
      else (focused t).breads = [] ∧ (focused t).sys.evflags.getLsbD b.ev.toNat = true ∧
        (b.xs ≠ 0 → readX (focused t) .main b.xs = statusOf b.code b.sectors) := by
  rw [exec_hendIn_idle hr hb]
  refine ⟨elapse (withFocus s (handled s k)) 1, rfl, ?_⟩
  dsimp only
  have hone : (handled s k).breads = [((handlerAt (focused s) k).tag, { b with handled := b.handled + 1 })] := by
    simp only [handled, hbreads, ffind, if_true, fset]
  have hcore : ffind (withFocus s (handled s k)).cores s.focus = some (handled s k) := ffind_fset_self ..
  split
  · next hstop =>
    rw [focused_elapse_stopped (s := withFocus s (handled s k)) hf hstop hcore]
    show ffind (handled s k).breads _ = _
    rw [hone, ffind, if_pos rfl]
  · next hrun =>
    rw [focused_elapse_running (s := withFocus s (handled s k)) hf (Bool.eq_false_iff.2 hrun) hcore]
    exact settleBreads_over (b := { b with handled := b.handled + 1 }) ((readWaits_rest ..).trans hone) hover

end

/-! ## In a task -/

section
variable {h : Hdr} {s : State} (hr : Ready s h)
include hr

theorem exec_hadd {m : MemOp} {sz : StSize} {fp : Bool} {v : VReg} (hok : accessOk s updates 64 64 [memAddr s m]) :
    exec (.hadd h sz fp v m) s = .next (did s (added (focused s) sz fp (vr s v) (memAddr s m))) := by
  refine (exec_short (op := haddOp h sz fp v m)
    (e := { core := storeBytes (focused s) (memAddr s m) (haddBytes (focused s) sz fp (vr s v) (memAddr s m))
            flags := haddFlags (focused s) sz fp (vr s v) (memAddr s m) }) hr allowed_mkOp (.inl rfl)
    (withAccess_ok hok _) ((storeBytes_pending ..).trans hr.plain.pending)).trans ?_
  simp only [List.foldl_nil, applyDests_nil, did, past, added_eq, addFlags_pc, storeBytes_pc]
  rfl

/-- A handler's instruction in a task. -/
theorem issue_noMain {op : Op} (hh : op.h = h) (hpriv : op.staticPriv = fun _ _ => false) (hrsv : op.dynRsv = fun _ _ => false)
    (hdyn : op.dynPriv = fun _ _ => false) (hno : op.noMain = true) : issue op s = .next (trapped s eHandler op.word) := by
  subst hh
  refine issue_broken hr (by rw [hpriv]) ?_
  unfold brokenRule
  rw [hrsv, hdyn, hno]
  rfl

end

/-- Settles O44. -/
theorem handlerInstructions : Obligations.HandlerInstructions := by
  unfold Obligations.HandlerInstructions
  intro h d m s
  refine ⟨fun k hr => ?_, fun hr => ?_⟩
  · refine ⟨fun src hd => (exec_hmovIn hr hd src).trans (by cases src <;> rfl),
      fun sz fp v hbase hindex => ⟨exec_hstIn hr hbase hindex, fun hok hv => exec_haddIn hr hbase hindex hv hok⟩,
      exec_hendIn_idle hr, fun w ws br => exec_hendIn_next hr, fun b => elapse_hendIn hr⟩
  · exact ⟨fun sz fp v => exec_hadd hr, issue_noMain (op := hendOp h) hr rfl rfl rfl rfl rfl,
      fun src => issue_noMain (op := hmovOp h d src) hr rfl rfl rfl rfl rfl,
      fun sz => issue_noMain (op := hstOp h sz m) hr rfl rfl rfl rfl rfl⟩

end Sys2Proof.Proofs

/-! Pantries and larder control of a ready core (R231, R242, R258 to R261, R414, R415). -/

namespace Sys2Proof.Proofs
open Sys2Proof Sys2Proof.Machine Sys2Proof.Laws

/-- An outcome decided by a condition. -/
theorem next_ite {p : Prop} [Decidable p] {o : Host.Outcome State Fault Refusal} {t u : State} (hyes : p → o = .next t)
    (hno : ¬ p → o = .next u) : o = .next (if p then t else u) := by
  split
  · next h => exact hyes h
  · next h => exact hno h

/-! ## Pantry instructions -/

section
variable {h : Hdr} {p : BitVec 3} {d a : Reg} {s : State} {x : Pantry} {n : Nat} (hr : Ready s h) (hx : pantryAt (focused s) p.toNat = x)
  (hn : ((xr s a).extractLsb' 0 32).toNat = n)

omit hr hx in
include hn in
theorem countOf_focused (w : Word) : countOf (focusEnv s w) (focused s) a = n := (wfield_eq (xr s a) 0 32).trans hn

omit hn hr in
include hx in
theorem onPantry_valid (hv : x.valid = true) (k : Pantry → Out) : onPantry (focused s) p k = k x := by
  subst hx
  exact if_pos hv

omit hn hr in
include hx in
theorem onPantry_invalid (hv : x.valid = false) (k : Pantry → Out) : onPantry (focused s) p k = .trap eBound (x.base.setWidth 64) := by
  subst hx
  exact if_neg (ne_true_of_eq_false hv)

include hr hx

theorem exec_prel_invalid (hv : x.valid = false) : exec (.prel h p a) s = .next (trapped s eBound (x.base.setWidth 64)) :=
  issue_mkOp_trap hr (onPantry_invalid hx hv _)

theorem exec_pcur_invalid (hv : x.valid = false) : exec (.pcur h d p a) s = .next (trapped s eBound (x.base.setWidth 64)) :=
  issue_mkOp_trap hr (onPantry_invalid hx hv _)

/-- PWAIT (R231, R261). -/
def pwaitOp (h : Hdr) (p : BitVec 3) (a : Reg) : Op :=
  { mkOp (.pwait h p a) h .b (xs [a]) [] (fun env c =>
      unlessOpen c (onPantry c p fun x =>
        if pantryW x < countOf env c a then badPantry x
        else if countOf env c a ≤ (if x.outbound then pantryFree x else pantryAvail x) then done c
        else .wait c .instr)) with
    noHandler := true }

omit hr hx in
theorem allowed_pwaitOp {env : Env} {c : Core} : Allowed (pwaitOp h p a) env c := ⟨rfl, rfl, rfl, rfl, rfl, rfl, rfl⟩

theorem exec_pwait_invalid (ho : (focused s).opens = []) (hv : x.valid = false) :
    exec (.pwait h p a) s = .next (trapped s eBound (x.base.setWidth 64)) :=
  exec_trap (op := pwaitOp h p a) hr allowed_pwaitOp ((unlessOpen_nil ho _).trans (onPantry_invalid hx hv _))

variable (hv : x.valid = true)
include hn hv

theorem exec_pwait (ho : (focused s).opens = []) : exec (.pwait h p a) s = .next (
    if pantryW x < n then trapped s eBound (x.base.setWidth 64)
    else if n ≤ (if x.outbound then pantryFree x else pantryAvail x) then did s (focused s)
    else withFocus s { focused s with wait := .instr }) := by
  have hbody : (pwaitOp h p a).body (focusEnv s (pwaitOp h p a).word) (focused s) =
      if pantryW x < n then badPantry x
      else if n ≤ (if x.outbound then pantryFree x else pantryAvail x) then done (focused s)
      else .wait (focused s) .instr := by
    refine (unlessOpen_nil ho _).trans ((onPantry_valid hx hv _).trans ?_)
    rw [countOf_focused hn]
  refine next_ite (fun hbig => ?_) fun hbig => next_ite (fun hin => ?_) fun hin => ?_
  · exact exec_trap (op := pwaitOp h p a) hr allowed_pwaitOp (hbody.trans (if_pos hbig))
  · exact exec_done (op := pwaitOp h p a) hr allowed_pwaitOp (.inr rfl) (hbody.trans ((if_neg hbig).trans (if_pos hin))) hr.plain.pending rfl
  · exact exec_wait (op := pwaitOp h p a) hr allowed_pwaitOp (hbody.trans ((if_neg hbig).trans (if_neg hin)))

theorem exec_prel : exec (.prel h p a) s = .next (
    if (if x.outbound then pantryFree x else (x.cur - x.rel).toNat) < n then trapped s eBound (x.base.setWidth 64)
    else did s (setPantry (focused s) p.toNat { x with rel := x.rel + BitVec.ofNat 32 n })) := by
  have hbody : ∀ w, (onPantry (focused s) p fun x =>
      if (if x.outbound then pantryFree x else (x.cur - x.rel).toNat) < countOf (focusEnv s w) (focused s) a then badPantry x
      else done (setPantry (focused s) p.toNat { x with rel := x.rel + BitVec.ofNat 32 (countOf (focusEnv s w) (focused s) a) })) =
      if (if x.outbound then pantryFree x else (x.cur - x.rel).toNat) < n then badPantry x
      else done (setPantry (focused s) p.toNat { x with rel := x.rel + BitVec.ofNat 32 n }) := by
    intro w
    rw [countOf_focused hn]
    exact onPantry_valid hx hv _
  exact next_ite (fun hbig => issue_mkOp_trap hr ((hbody _).trans (if_pos hbig)))
    fun hin => issue_mkOp_done hr ((hbody _).trans (if_neg hin)) rfl rfl

theorem exec_pcur_in (hin : x.outbound = false) : exec (.pcur h d p a) s = .next (
    if pantryAvail x < n then trapped s eBound (x.base.setWidth 64)
    else did s (writeX (setPantry (focused s) p.toNat { x with cur := x.cur + BitVec.ofNat 32 n }) .main d.toNat
      (BitVec.ofNat 64 (sectorAddr x x.cur)))) := by
  have hbody : ∀ w, (onPantry (focused s) p fun x =>
      if x.outbound then
        if countOf (focusEnv s w) (focused s) a ≠ 0 then badPantry x else wx (focused s) d (BitVec.ofNat 64 (sectorAddr x x.rel))
      else if pantryAvail x < countOf (focusEnv s w) (focused s) a then badPantry x
      else wx (setPantry (focused s) p.toNat { x with cur := x.cur + BitVec.ofNat 32 (countOf (focusEnv s w) (focused s) a) }) d
        (BitVec.ofNat 64 (sectorAddr x x.cur))) =
      if pantryAvail x < n then badPantry x
      else wx (setPantry (focused s) p.toNat { x with cur := x.cur + BitVec.ofNat 32 n }) d (BitVec.ofNat 64 (sectorAddr x x.cur)) := by
    intro w
    rw [countOf_focused hn]
    exact (onPantry_valid hx hv _).trans (if_neg (ne_true_of_eq_false hin))
  exact next_ite (fun hbig => issue_mkOp_trap hr ((hbody _).trans (if_pos hbig)))
    fun hfew => exec_wx_core (op := mkOp _ h .s (xs [a]) (xs [d]) _) hr allowed_mkOp rfl ((hbody _).trans (if_neg hfew)) hr.plain.pending rfl

theorem exec_pcur_out (hout : x.outbound = true) : exec (.pcur h d p a) s = .next (
    if n ≠ 0 then trapped s eBound (x.base.setWidth 64) else didX s d (BitVec.ofNat 64 (sectorAddr x x.rel))) := by
  have hbody : ∀ w, (onPantry (focused s) p fun x =>
      if x.outbound then
        if countOf (focusEnv s w) (focused s) a ≠ 0 then badPantry x else wx (focused s) d (BitVec.ofNat 64 (sectorAddr x x.rel))
      else if pantryAvail x < countOf (focusEnv s w) (focused s) a then badPantry x
      else wx (setPantry (focused s) p.toNat { x with cur := x.cur + BitVec.ofNat 32 (countOf (focusEnv s w) (focused s) a) }) d
        (BitVec.ofNat 64 (sectorAddr x x.cur))) =
      if n ≠ 0 then badPantry x else wx (focused s) d (BitVec.ofNat 64 (sectorAddr x x.rel)) := by
    intro w
    rw [countOf_focused hn]
    exact (onPantry_valid hx hv _).trans (if_pos hout)
  exact next_ite (fun hmore => issue_mkOp_trap hr ((hbody _).trans (if_pos hmore)))
    fun h0 => issue_mkOp_wx hr ((hbody _).trans (if_neg h0))

end

/-! ## PSET -/

/-- The body of PSET (R261). -/
def psetBody (p : BitVec 3) (a : Reg) (env : Env) (c : Core) : Out :=
  let v := env.x c a
  let base : BitVec 19 := v.setWidth 19
  let lz := wfield v 20 3
  let size := 2 ^ (lz + 12)
  if 6 < lz then .trap eBound (base.setWidth 64)
  else if base.toNat % size ≠ 0 then .trap eAlign (base.setWidth 64)
  else if windowTaken c p.toNat base.toNat size then .trap eBound (base.setWidth 64)
  else
    done (resetPantry { c with own := c.own ||| (1#8 <<< p.toNat) } p.toNat
      { base := base, logsz := lz + 12, valid := v.getLsbD 25, outbound := v.getLsbD 24, sets := (pantryAt c p.toNat).sets + 1 })

/-- PSET (R140, R261). -/
def psetOp (h : Hdr) (p : BitVec 3) (a : Reg) : Op :=
  { mkOp (.pset h p a) h .s (xs [a]) [] (psetBody p a) with
    dynPriv := fun _ c => !c.sys.mode && strangePantry c p }

/-- The core once PSET has set a pantry. -/
def pantrySet (s : State) (p : BitVec 3) (v : Word) : Core :=
  resetPantry { focused s with own := (focused s).own ||| (1#8 <<< p.toNat) } p.toNat
    ⟨v.setWidth 19, (v.extractLsb' 20 3).toNat + 12, v.getLsbD 25, v.getLsbD 24, 0, 0, 0, (pantryAt (focused s) p.toNat).sets + 1⟩

theorem resetPantry_rest (c : Core) (p : Nat) (x : Pantry) : (resetPantry c p x).pending = c.pending ∧ (resetPantry c p x).pc = c.pc :=
  ⟨rfl, rfl⟩

section
variable {h : Hdr} {p : BitVec 3} {a : Reg} {s : State} (hr : Ready s h)

theorem strangePantry_iff (c : Core) (p : BitVec 3) :
    strangePantry c p = true ↔ (pantryAt c p.toNat).valid = true ∧ c.own.getLsbD p.toNat = false := by
  rw [strangePantry, Bool.and_eq_true, Bool.not_eq_true']

include hr

theorem exec_pset_priv (hmode : (focused s).sys.mode = false)
    (hold : (pantryAt (focused s) p.toNat).valid = true ∧ (focused s).own.getLsbD p.toNat = false) :
    exec (.pset h p a) s = .next (trapped s ePriv (encode (.pset h p a))) := by
  have hbad : (!(focused s).sys.mode && strangePantry (focused s) p) = true := by
    rw [hmode, (strangePantry_iff ..).2 hold]
    rfl
  exact issue_broken (op := psetOp h p a) hr rfl ((if_neg Bool.false_ne_true).trans (if_pos hbad))

theorem exec_pset (hok : (focused s).sys.mode = true ∨
      ¬ ((pantryAt (focused s) p.toNat).valid = true ∧ (focused s).own.getLsbD p.toNat = false)) :
    exec (.pset h p a) s = .next (
      if ((xr s a).extractLsb' 20 3).toNat = 7 then trapped s eBound (((xr s a).setWidth 19 : BitVec 19).setWidth 64)
      else if ((xr s a).setWidth 19 : BitVec 19).toNat % 2 ^ (((xr s a).extractLsb' 20 3).toNat + 12) ≠ 0 then
        trapped s eAlign (((xr s a).setWidth 19 : BitVec 19).setWidth 64)
      else if windowTaken (focused s) p.toNat ((xr s a).setWidth 19 : BitVec 19).toNat (2 ^ (((xr s a).extractLsb' 20 3).toNat + 12)) = true then
        trapped s eBound (((xr s a).setWidth 19 : BitVec 19).setWidth 64)
      else did s (pantrySet s p (xr s a))) := by
  have hgood : (!(focused s).sys.mode && strangePantry (focused s) p) = false := by
    rcases hok with hmode | hown
    · rw [hmode]; rfl
    · rw [Bool.eq_false_iff.2 fun hyes => hown ((strangePantry_iff ..).1 hyes), Bool.and_false]
  have hlz : ((xr s a).extractLsb' 20 3).toNat < 8 := ((xr s a).extractLsb' 20 3).isLt
  have ha : Allowed (psetOp h p a) (focusEnv s (psetOp h p a).word) (focused s) := ⟨rfl, rfl, hgood, rfl, rfl, rfl, rfl⟩
  have hbody : psetBody p a (focusEnv s (psetOp h p a).word) (focused s) =
      if 6 < ((xr s a).extractLsb' 20 3).toNat then .trap eBound (((xr s a).setWidth 19 : BitVec 19).setWidth 64)
      else if ((xr s a).setWidth 19 : BitVec 19).toNat % 2 ^ (((xr s a).extractLsb' 20 3).toNat + 12) ≠ 0 then
        .trap eAlign (((xr s a).setWidth 19 : BitVec 19).setWidth 64)
      else if windowTaken (focused s) p.toNat ((xr s a).setWidth 19 : BitVec 19).toNat (2 ^ (((xr s a).extractLsb' 20 3).toNat + 12)) then
        .trap eBound (((xr s a).setWidth 19 : BitVec 19).setWidth 64)
      else done (pantrySet s p (xr s a)) := by
    unfold psetBody pantrySet
    simp only [focusEnv_x, wfield_eq]
  refine next_ite (fun h7 => ?_) fun h7 => next_ite (fun hal => ?_) fun hal => next_ite (fun htaken => ?_) fun htaken => ?_
  · exact exec_trap (op := psetOp h p a) hr ha (hbody.trans (if_pos (by omega)))
  · exact exec_trap (op := psetOp h p a) hr ha (hbody.trans ((if_neg (by omega)).trans (if_pos hal)))
  · exact exec_trap (op := psetOp h p a) hr ha (hbody.trans ((if_neg (by omega)).trans ((if_neg hal).trans (if_pos htaken))))
  · obtain ⟨hp, hpc⟩ := resetPantry_rest { focused s with own := (focused s).own ||| (1#8 <<< p.toNat) } p.toNat
      ⟨(xr s a).setWidth 19, ((xr s a).extractLsb' 20 3).toNat + 12, (xr s a).getLsbD 25, (xr s a).getLsbD 24, 0, 0, 0,
        (pantryAt (focused s) p.toNat).sets + 1⟩
    exact exec_done (op := psetOp h p a) hr ha (.inl rfl) (hbody.trans ((if_neg (by omega)).trans ((if_neg hal).trans (if_neg htaken))))
      (hp.trans hr.plain.pending) hpc

end

/-! ## Larder control -/

/-- The core once a larder operation has been sent. -/
def lctlSent (s : State) (v : Word) (op va : Nat) : Core :=
  send (focused s) 29 (larderFlits (focusEnv s 0) (v.extractLsb' 0 6).toNat
    (larderPayload op (v.extractLsb' 8 4).toNat (v.extractLsb' 16 4).toNat 0 va 0 0))

section
variable {i : Instr} {h : Hdr} {a : Reg} {more : List Reg} {op va : Nat} {f : Env → Core → Nat} {s : State} (hr : Ready s h)
include hr

/-- A larder operation on a number that names no larder. -/
theorem issue_lctl_bound (hn : 47 < ((xr s a).extractLsb' 0 6).toNat) :
    issue (lctlOp i h a more op f) s = .next (trapped s eBound (xr s a)) := by
  have ha : Allowed (lctlOp i h a more op f) (focusEnv s (encode i)) (focused s) := by
    refine ⟨rfl, rfl, ?_, rfl, rfl, rfl, rfl⟩
    show (!(focused s).sys.mode && decide (wfield (xr s a) 0 6 ≤ 47) && !bindsLarder (launchHere s) (wfield (xr s a) 0 6)) = false
    rw [wfield_eq, decide_eq_false (Nat.not_le.2 hn), Bool.and_false, Bool.false_and]
  exact exec_trap (op := lctlOp i h a more op f) hr ha (if_pos (Nat.lt_of_lt_of_eq hn (wfield_eq (xr s a) 0 6).symm))

variable (hn : ((xr s a).extractLsb' 0 6).toNat ≤ 47)
include hn

/-- A larder operation on a larder that the launch does not bind. -/
theorem issue_lctl_unbound (hb : bindsLarder (launchHere s) ((xr s a).extractLsb' 0 6).toNat = false) :
    issue (lctlOp i h a more op f) s = .next (
      if (focused s).sys.mode = true then did s (focused s) else trapped s ePriv (encode i)) := by
  rw [← wfield_eq] at hn hb
  have hpriv : (lctlOp i h a more op f).dynPriv (focusEnv s (encode i)) (focused s) = !(focused s).sys.mode := by
    show (!(focused s).sys.mode && decide (wfield (xr s a) 0 6 ≤ 47) && !bindsLarder (launchHere s) (wfield (xr s a) 0 6)) = _
    rw [decide_eq_true hn, hb, Bool.and_true, Bool.not_false, Bool.and_true]
  have hbody : (lctlOp i h a more op f).body (focusEnv s (encode i)) (focused s) = done (focused s) :=
    (if_neg (Nat.not_lt.2 hn)).trans (if_pos (congrArg Bool.not hb))
  refine next_ite (fun hm => ?_) fun hm => ?_
  · have ha : Allowed (lctlOp i h a more op f) (focusEnv s (encode i)) (focused s) :=
      ⟨rfl, rfl, hpriv.trans (congrArg Bool.not hm), rfl, rfl, rfl, rfl⟩
    exact exec_done (op := lctlOp i h a more op f) hr ha (.inl rfl) hbody hr.plain.pending rfl
  · exact issue_broken (op := lctlOp i h a more op f) hr rfl ((if_neg Bool.false_ne_true).trans
      (if_pos (hpriv.trans (congrArg Bool.not (Bool.eq_false_iff.2 hm)))))

/-- A larder operation on a larder that the launch binds. -/
theorem issue_lctl (hva : f (focusEnv s (encode i)) (focused s) = va)
    (hb : bindsLarder (launchHere s) ((xr s a).extractLsb' 0 6).toNat = true) (hroom : (egressOf (focused s) 29).length < 2) :
    issue (lctlOp i h a more op f) s = .next (did s (lctlSent s (xr s a) op va)) := by
  have hfree : inputFree (focused s) 29 = true := decide_eq_true hroom
  rw [← wfield_eq] at hn hb
  have hpriv : (lctlOp i h a more op f).dynPriv (focusEnv s (encode i)) (focused s) = false := by
    show (!(focused s).sys.mode && decide (wfield (xr s a) 0 6 ≤ 47) && !bindsLarder (launchHere s) (wfield (xr s a) 0 6)) = _
    rw [hb, Bool.not_true, Bool.and_false]
  have hbody : (lctlOp i h a more op f).body (focusEnv s (encode i)) (focused s) = done (lctlSent s (xr s a) op va) := by
    refine (if_neg (Nat.not_lt.2 hn)).trans ((if_neg ?_).trans ((if_neg ?_).trans ?_))
    · exact ne_true_of_eq_false (congrArg Bool.not hb)
    · exact ne_true_of_eq_false (congrArg Bool.not hfree)
    · rw [hva, lctlSent]
      simp only [← wfield_eq]
      rfl
  exact exec_done (op := lctlOp i h a more op f) hr ⟨rfl, rfl, hpriv, rfl, rfl, rfl, rfl⟩ (.inl rfl) hbody
    ((send_pending ..).trans hr.plain.pending) (send_pc ..)

end

section
variable {h : Hdr} {a b : Reg} {s : State} {i : Instr}

/-- The larder operations. -/
theorem exec_lctl (hi : i ∈ [Instr.lctlStart h a b, .lctlRing h a b, .lctlStop h a, .lctlCsig h a]) :
    ∃ more op f, exec i s = issue (lctlOp i h a more op f) s := by
  simp only [List.mem_cons, List.not_mem_nil, or_false] at hi
  rcases hi with rfl | rfl | rfl | rfl
  · exact ⟨[b], 0, fun env c => wfield (env.x c b) 0 48, rfl⟩
  · exact ⟨[b], 1, fun env c => wfield (env.x c b) 0 48, rfl⟩
  · exact ⟨[], 2, fun _ _ => 0, rfl⟩
  · exact ⟨[], 3, fun _ _ => 0, rfl⟩

end

/-- Settles O45. -/
theorem pantriesAndLarderControl : Obligations.PantriesAndLarderControl := by
  unfold Obligations.PantriesAndLarderControl
  refine ⟨fun h p d a s hr => ?_, fun h a b s hr => ?_⟩
  · intro x n n32 bad
    have hn32 : BitVec.ofNat 32 n = n32 := by rw [BitVec.ofNat_toNat, BitVec.setWidth_eq]
    refine ⟨fun hv => ⟨exec_prel_invalid hr rfl hv, exec_pcur_invalid hr rfl hv, fun ho => exec_pwait_invalid hr rfl ho hv⟩,
      fun hv hin => ⟨?_, ?_, fun ho => ?_⟩, fun hv hout => ⟨?_, exec_pcur_out hr rfl rfl hv hout, fun ho => ?_⟩,
      exec_pset_priv hr, exec_pset hr⟩
    · rw [exec_prel hr rfl rfl hv, hn32]
      rw [if_neg (show ¬ (pantryAt (focused s) p.toNat).outbound = true from ne_true_of_eq_false hin)]
    · rw [exec_pcur_in hr rfl rfl hv hin, hn32]
      rfl
    · rw [exec_pwait hr rfl rfl hv ho]
      rw [if_neg (show ¬ (pantryAt (focused s) p.toNat).outbound = true from ne_true_of_eq_false hin)]
      rfl
    · rw [exec_prel hr rfl rfl hv, hn32]
      rw [if_pos (show (pantryAt (focused s) p.toNat).outbound = true from hout)]
      rfl
    · rw [exec_pwait hr rfl rfl hv ho]
      rw [if_pos (show (pantryAt (focused s) p.toNat).outbound = true from hout)]
      rfl
  · intro v n va sent
    have hva : wfield (xr s b) 0 48 = va := wfield_eq ..
    refine ⟨fun hn hb hroom => ⟨?_, ?_, ?_, ?_⟩, fun hn hb i hi => ?_, fun hn i hi => ?_⟩
    · exact issue_lctl (f := fun env c => wfield (env.x c b) 0 48) hr hn hva hb hroom
    · exact issue_lctl (f := fun env c => wfield (env.x c b) 0 48) hr hn hva hb hroom
    · exact issue_lctl (f := fun _ _ => 0) hr hn rfl hb hroom
    · exact issue_lctl (f := fun _ _ => 0) hr hn rfl hb hroom
    · obtain ⟨more, op, f, he⟩ := exec_lctl (s := s) hi
      exact he.trans (issue_lctl_unbound hr hn hb)
    · obtain ⟨more, op, f, he⟩ := exec_lctl (s := s) hi
      exact he.trans (issue_lctl_bound hr hn)

end Sys2Proof.Proofs

/-! Events of the device at the host ports, and boot (R43 to R51, R107, R108). -/

namespace Sys2Proof.Proofs
open Sys2Proof Sys2Proof.Machine Sys2Proof.Laws

/-! ## Ports -/

@[simp] theorem portAt_setPort_self (s : State) (p : HostPort) (x : Port) : portAt (setPort s p x) p = x := by cases p <;> rfl

theorem portAt_setPort_ne (s : State) {p q : HostPort} (x : Port) (h : q ≠ p) : portAt (setPort s p x) q = portAt s q := by
  cases p with
  | p0 => cases q with
    | p0 => exact absurd rfl h
    | p1 => rfl
  | p1 => cases q with
    | p0 => rfl
    | p1 => exact absurd rfl h

theorem setPort_setPort (s : State) (p : HostPort) (x y : Port) : setPort (setPort s p x) p y = setPort s p y := by cases p <;> rfl

theorem setPort_portAt (s : State) (p : HostPort) : setPort s p (portAt s p) = s := by cases p <;> rfl

@[simp] theorem setPort_cycle (s : State) (p : HostPort) (x : Port) : (setPort s p x).cycle = s.cycle := by cases p <;> rfl
@[simp] theorem setPort_unrid (s : State) (p : HostPort) (x : Port) : (setPort s p x).unrid = s.unrid := by cases p <;> rfl
@[simp] theorem setPort_cores (s : State) (p : HostPort) (x : Port) : (setPort s p x).cores = s.cores := by cases p <;> rfl

theorem sendMsix_eq (s : State) (p : HostPort) (v : Nat) : sendMsix s p v =
    if (portAt s p).up = true then
      setPort s p (if msixMasked (portAt s p) v then { portAt s p with msixPending := (portAt s p).msixPending ||| (1#64 <<< v) }
        else { portAt s p with msix := (portAt s p).msix ++ [v] })
    else s := by
  unfold sendMsix modPort hostUp
  cases (portAt s p).up <;> rfl

/-- A message changes what a port has sent or holds alone. -/
theorem sendMsix_rest (s : State) (p : HostPort) (v : Nat) :
    ∃ m n, sendMsix s p v = setPort s p { portAt s p with msix := m, msixPending := n } := by
  rw [sendMsix_eq]
  split
  · split
    · exact ⟨_, _, rfl⟩
    · exact ⟨_, _, rfl⟩
  · exact ⟨(portAt s p).msix, (portAt s p).msixPending, (setPort_portAt s p).symm⟩

/-- A port at which an event has occurred in this cycle. -/
def withEvent (x : Port) (n : Nat) (occurred : EventCycle) (msix : List Nat) (held : BitVec 64) : Port :=
  { x with event := x.event ||| (1#9 <<< n), events := { occurred with occurred := occurred.occurred ||| (1#9 <<< n) },
           msix := msix, msixPending := held }

theorem portEvent_eq (s : State) (p : HostPort) (n : Nat) :
    ∃ m h, portEvent s p n = setPort s p (withEvent (portAt s p) n (eventsNow s (portAt s p)) m h) := by
  unfold portEvent modPort
  dsimp only
  split
  · obtain ⟨m, h, hm⟩ := sendMsix_rest (setPort s p { portAt s p with
      event := (portAt s p).event ||| (1#9 <<< n)
      events := { eventsNow s (portAt s p) with occurred := (eventsNow s (portAt s p)).occurred ||| (1#9 <<< n) } }) p 0
    refine ⟨m, h, hm.trans ?_⟩
    rw [portAt_setPort_self, setPort_setPort]
    rfl
  · exact ⟨(portAt s p).msix, (portAt s p).msixPending, rfl⟩

/-- An event of the device changes the two ports alone. -/
theorem raiseEvent_eq (s : State) (n : Nat) : ∃ m0 h0 m1 h1, raiseEvent s n = { s with
    port0 := withEvent s.port0 n (eventsNow s s.port0) m0 h0
    port1 := withEvent s.port1 n (eventsNow s s.port1) m1 h1 } := by
  obtain ⟨m0, h0, hp0⟩ := portEvent_eq s .p0 n
  obtain ⟨m1, h1, hp1⟩ := portEvent_eq (portEvent s .p0 n) .p1 n
  refine ⟨m0, h0, m1, h1, ?_⟩
  unfold raiseEvent
  rw [hp1, hp0]
  rfl

section
variable (s : State) (n : Nat)

@[simp] theorem raiseEvent_dev : (raiseEvent s n).dev = s.dev := by
  obtain ⟨m0, h0, m1, h1, h⟩ := raiseEvent_eq s n
  rw [h]

@[simp] theorem raiseEvent_unrid : (raiseEvent s n).unrid = s.unrid := by
  obtain ⟨m0, h0, m1, h1, h⟩ := raiseEvent_eq s n
  rw [h]

@[simp] theorem raiseEvent_cores : (raiseEvent s n).cores = s.cores := by
  obtain ⟨m0, h0, m1, h1, h⟩ := raiseEvent_eq s n
  rw [h]

theorem portAt_raiseEvent (p : HostPort) :
    ∃ m h, portAt (raiseEvent s n) p = withEvent (portAt s p) n (eventsNow s (portAt s p)) m h := by
  obtain ⟨m0, h0, m1, h1, h⟩ := raiseEvent_eq s n
  rw [h]
  cases p
  · exact ⟨m0, h0, rfl⟩
  · exact ⟨m1, h1, rfl⟩

theorem raiseEvent_event (p : HostPort) (hn : n < 9) : (portAt (raiseEvent s n) p).event.getLsbD n = true := by
  obtain ⟨m, h, hp⟩ := portAt_raiseEvent s n p
  rw [hp]
  simp [withEvent, hn]

theorem raiseEvent_up (p : HostPort) : (portAt (raiseEvent s n) p).up = (portAt s p).up := by
  obtain ⟨m, h, hp⟩ := portAt_raiseEvent s n p
  rw [hp]
  rfl

end

/-! ## Entries -/

theorem endEntry_rest (s : State) (k : EntryKey) (status detail result : Nat) :
    ∃ es, endEntry s k status detail result = { s with unrid := { s.unrid with entries := es } } := by
  unfold endEntry
  split
  · split
    · exact ⟨s.unrid.entries, rfl⟩
    · exact ⟨_, rfl⟩
  · exact ⟨s.unrid.entries, rfl⟩

@[simp] theorem endEntry_dev (s : State) (k : EntryKey) (status detail result : Nat) : (endEntry s k status detail result).dev = s.dev := by
  obtain ⟨es, h⟩ := endEntry_rest s k status detail result
  rw [h]

/-! ## What keeps the device's registers -/

/-- What every step of a fold keeps, the fold keeps. -/
theorem foldl_dev {α : Type} {f : State → α → State} (hf : ∀ s a, (f s a).dev = s.dev) (l : List α) (s : State) :
    (l.foldl f s).dev = s.dev := by
  induction l generalizing s with
  | nil => rfl
  | cons a l ih => exact (ih _).trans (hf s a)

/-- STATE and the stop as another state has them, in the device's registers. -/
def SameRun (s t : State) : Prop := t.dev.st = s.dev.st ∧ t.dev.stopped = s.dev.stopped

theorem sameRun_of_dev {s t : State} (h : t.dev = s.dev) : SameRun s t := by rw [SameRun, h]; exact ⟨rfl, rfl⟩

theorem SameRun.trans {s t u : State} (h : SameRun s t) (h' : SameRun t u) : SameRun s u := ⟨h'.1.trans h.1, h'.2.trans h.2⟩

theorem foldl_sameRun {α : Type} {f : State → α → State} (hf : ∀ s a, SameRun s (f s a)) (l : List α) (s : State) :
    SameRun s (l.foldl f s) := by
  induction l generalizing s with
  | nil => exact ⟨rfl, rfl⟩
  | cons a l ih => exact (hf s a).trans (ih _)

@[simp] theorem modCore_dev (s : State) (k : Nat) (f : Core → Core) : (modCore s k f).dev = s.dev := rfl

@[simp] theorem flushWrites_dev (s : State) (x : LCtx) : (flushWrites s x).dev = s.dev := by
  refine foldl_dev (fun s r => ?_) _ s
  split <;> rfl

@[simp] theorem flushLarders_dev (s : State) (l : Launch) : (flushLarders s l).dev = s.dev := by
  refine foldl_dev (fun s x => ?_) _ s
  split
  · exact foldl_dev (fun s (c : Nat × LCtx) => flushWrites_dev s c.2) _ s
  · rfl

@[simp] theorem dropLaunch_dev (s : State) (l : Launch) : (dropLaunch s l).dev = s.dev := by
  unfold dropLaunch
  exact foldl_dev (fun s k => modCore_dev s k _) _ _

@[simp] theorem endLaunch_dev (s : State) (l : Launch) (status detail result : Nat) (pre : Nat × Nat) :
    (endLaunch s l status detail result pre).dev = s.dev := by
  unfold endLaunch
  rw [dropLaunch_dev]
  split <;> simp

@[simp] theorem abortRegion_dev (s : State) (f : FaultRec) : (abortRegion s f).dev = s.dev := by
  unfold abortRegion
  split
  · rfl
  · refine (foldl_dev (fun s k => ?_) _ _).trans ?_
    · split <;> rfl
    · rw [endLaunch_dev]
      refine (foldl_dev (fun s k => modCore_dev s k _) _ _).trans ?_
      exact (flushLarders_dev _ _).trans (raiseEvent_dev _ _)

theorem foldl_abortRegion_dev (fs : List FaultRec) (s : State) : (fs.foldl abortRegion s).dev = s.dev :=
  foldl_dev abortRegion_dev fs s

@[simp] theorem writeDump_dev (s : State) (sram : Bool) (cause prow pcol : Nat) : (writeDump s sram cause prow pcol).dev = s.dev := by
  unfold writeDump modPort
  dsimp only
  split <;> simp

/-! ## Faults as the cycle ends -/

/-- Of several faults the header names a wafer-wide one where there is one. -/
theorem headerFault_wafer {fs : List FaultRec} (h : ∃ f ∈ fs, f.launch = none) : ∃ g, headerFault fs = some g ∧ g.launch = none := by
  induction fs with
  | nil => simp at h
  | cons f fs ih =>
    rw [headerFault]
    cases hg : headerFault fs with
    | none =>
      refine ⟨f, rfl, ?_⟩
      obtain ⟨x, hx, hn⟩ := h
      rcases List.mem_cons.1 hx with rfl | hx
      · exact hn
      · obtain ⟨g, hg', -⟩ := ih ⟨x, hx, hn⟩
        rw [hg] at hg'
        cases hg'
    | some g =>
      dsimp only
      by_cases hgn : g.launch = none
      · split
        · exact ⟨g, rfl, hgn⟩
        · next hno =>
          refine ⟨f, rfl, ?_⟩
          by_contra hfn
          rw [← Option.isNone_iff_eq_none] at hgn hfn
          simp [outranks, hgn, hfn] at hno
      · have hfn : f.launch = none := by
          obtain ⟨x, hx, hn⟩ := h
          rcases List.mem_cons.1 hx with rfl | hx
          · exact hn
          · obtain ⟨g', hg', hgn'⟩ := ih ⟨x, hx, hn⟩
            rw [hg] at hg'
            cases hg'
            exact absurd hgn' hgn
        have hno : outranks g f = false := by
          rw [← Option.isNone_iff_eq_none] at hgn hfn
          simp [outranks, Bool.eq_false_iff.2 hgn, hfn]
        rw [hno]
        exact ⟨f, rfl, hfn⟩

/-- A wafer-wide fault stands among those noted once it is joined to them. -/
theorem joinFault_wafer (fs : List FaultRec) (f : FaultRec) (hf : f.launch = none) : ∃ g ∈ joinFault fs f, g.launch = none := by
  unfold joinFault
  split
  · exact ⟨f, by simp, hf⟩
  · next g hg =>
    have hmem := List.mem_of_find?_eq_some hg
    have hlaunch : g.launch = none := by
      have := List.find?_some hg
      rw [decide_eq_true_eq] at this
      rw [this, hf]
    split
    · refine ⟨f, List.mem_map.2 ⟨g, hmem, if_pos (hlaunch.trans hf.symm)⟩, hf⟩
    · exact ⟨g, hmem, hlaunch⟩

theorem fatalStop_dev (s : State) (cause : Nat) :
    (fatalStop s cause).dev = { s.dev with st := .fatal, releaseHeld := false, wave := none, inWaves := false } := by
  unfold fatalStop
  refine (foldl_dev (fun s e => endEntry_dev ..) _ _).trans ?_
  simp

theorem assertStop_stopped (s : State) : (assertStop s).dev.stopped = true := by
  unfold assertStop stopWafer
  split
  · next h => exact h
  · rfl

theorem assertStop_st (s : State) : (assertStop s).dev.st = s.dev.st := by
  unfold assertStop stopWafer
  split <;> rfl

/-- A wafer-wide fault noted leaves FATAL as the cycle ends, with the wafer stopped. -/
theorem settleFaults_wafer {s : State} (h : ∃ f ∈ s.dev.faults, f.launch = none) :
    (settleFaults s).dev.st = .fatal ∧ (settleFaults s).dev.stopped = true := by
  obtain ⟨g, hg, hn⟩ := headerFault_wafer h
  unfold settleFaults
  rw [hg]
  have hnone : g.launch.isNone = true := by rw [hn]; rfl
  simp only [hnone, if_true]
  rw [fatalStop_dev, foldl_abortRegion_dev, modDev_dev, writeDump_dev]
  exact ⟨rfl, assertStop_stopped s⟩

theorem waferFault_faults {s : State} (hst : s.dev.st ≠ .fatal) (cause prow pcol : Nat) :
    ∃ f ∈ (waferFault s cause prow pcol).dev.faults, f.launch = none := by
  unfold waferFault
  rw [if_neg hst]
  exact joinFault_wafer _ _ rfl

/-! ## Failed cores at boot -/

theorem regionFault_st (s : State) (num cause prow pcol : Nat) : SameRun s (regionFault s num cause prow pcol) := by
  unfold regionFault
  split
  · exact ⟨rfl, rfl⟩
  · next l hl =>
    split
    · exact ⟨rfl, rfl⟩
    · have hdev := foldl_dev (fun s k => modCore_dev s k fun c => { c with resetting := true }) (regionKeys l) s
      exact (sameRun_of_dev hdev).trans ⟨rfl, rfl⟩

theorem abortCovering_sameRun (s : State) (hit : Launch → Bool) (cause prow pcol : Nat) :
    SameRun s (abortCovering s hit cause prow pcol) :=
  foldl_sameRun (fun s (l : Launch) => regionFault_st s l.num cause prow pcol) _ s

theorem unrecorded_sameRun (s : State) (l : LineRec) (prow pcol : Nat) : SameRun s (unrecorded s l prow pcol) := by
  have hdev : SameRun s (modDev s fun d =>
      if l.row then { d with unavailBands := d.unavailBands ||| (1#7 <<< (l.index / 33)) }
      else { d with unavailCols := d.unavailCols ||| (1#12 <<< (l.index / 33)) }) := by
    rw [SameRun, modDev_dev]
    split <;> exact ⟨rfl, rfl⟩
  unfold unrecorded
  exact hdev.trans (abortCovering_sameRun ..)

theorem appendRecord_sameRun {s t : State} {l : LineRec} {reason prow pcol cycle : Nat}
    (h : appendRecord s l reason prow pcol cycle = some t) : SameRun s t := by
  unfold appendRecord at h
  dsimp only at h
  split at h
  · split at h
    · cases h
    · cases h
      exact ⟨rfl, rfl⟩
  · cases h

theorem retireMaps_sameRun (d : Device) (l : LineRec) : (retireMaps d l).st = d.st ∧ (retireMaps d l).stopped = d.stopped := by
  unfold retireMaps
  split <;> exact ⟨rfl, rfl⟩

theorem bootFailure_sameRun (s : State) (prow pcol : Nat) : SameRun s (bootFailure s prow pcol) := by
  unfold bootFailure
  split
  · exact ⟨rfl, rfl⟩
  · dsimp only
    split
    · exact unrecorded_sameRun ..
    · next t ht => exact (appendRecord_sameRun ht).trans (retireMaps_sameRun t.dev _)

theorem bootFailures_sameRun (s : State) (fs : List (Nat × Nat)) : SameRun s (bootFailures s fs) :=
  foldl_sameRun (fun s k => bootFailure_sameRun s (rowOf k) (colOf k)) _ s

theorem bootFailures_nil (s : State) : bootFailures s [] = s := by
  have hnone : (waferKeys.filter fun k => ([] : List (Nat × Nat)).contains (rowOf k, colOf k)) = [] :=
    List.filter_eq_nil_iff.2 fun k _ => by simp
  rw [bootFailures, hnone]
  rfl

/-! ## Device reset and power -/

theorem exec_deviceReset_sound (env : BootEnv) (s : State) (hr : env.failedRouters = []) : exec (.deviceReset env) s =
    .next (modDev (bootFailures (readFlash (resetBase env s)) env.failedCores) fun d => { d with st := .patchwait }) := by
  show execDeviceReset env s = _
  unfold execDeviceReset
  rw [hr]

theorem exec_deviceReset_failed (env : BootEnv) (s : State) {r : Nat × Nat} {rs : List (Nat × Nat)} (hr : env.failedRouters = r :: rs) :
    exec (.deviceReset env) s =
      .next (settleFaults (waferFault (bootFailures (readFlash (resetBase env s)) env.failedCores) causeRouter r.1 r.2)) := by
  show execDeviceReset env s = _
  unfold execDeviceReset
  rw [hr]

/-- A failed router at boot leaves FATAL. -/
theorem deviceReset_fatal (env : BootEnv) (s : State) (r : Nat × Nat) :
    (settleFaults (waferFault (bootFailures (readFlash (resetBase env s)) env.failedCores) causeRouter r.1 r.2)).dev.st = .fatal := by
  refine (settleFaults_wafer (waferFault_faults ?_ ..)).1
  rw [(bootFailures_sameRun _ env.failedCores).1]
  exact fun h => by cases h

theorem tornFlash_sound {s : State} (h : s.dev.failing = []) : tornFlash s = s.dev.flash := by
  unfold tornFlash
  rw [h]

/-! ## The patch window -/

/-- The state once the patch window has ended with no patch and no notify recorded. -/
def booted (s : State) : State := raiseEvent { s with dev := { s.dev with st := .ready } } 7

theorem endPatchwait_plain {s : State} (hp : s.dev.patchLen = 0) (hn : s.unrid.notifies = []) : endPatchwait s = booted s := by
  have hnone : (booted s).unrid.notifies = [] := by rw [booted, raiseEvent_unrid]; exact hn
  have hsame : ∀ t : State, t.unrid.notifies = [] → (modUnrid t fun u => { u with notifies := [] }) = t := by
    intro t ht
    unfold modUnrid
    dsimp only
    rw [← ht]
  unfold endPatchwait
  rw [if_pos hp]
  show applyNotifies (booted s) = _
  rw [applyNotifies, hnone, hsame _ hnone]
  rfl

/-- Settles O46. -/
theorem bootEvents : Obligations.BootEvents := by
  unfold Obligations.BootEvents
  intro s
  refine ⟨fun env => ⟨fun hr => ⟨_, exec_deviceReset_sound env s hr, rfl⟩, fun hr hc => ⟨_, exec_deviceReset_sound env s hr, ?_⟩,
    fun hr => ?_⟩, fun hf => ⟨_, rfl, rfl, rfl, ?_, rfl, rfl⟩, fun hst hp hn => ?_⟩
  · rw [hc, bootFailures_nil]
    exact ⟨rfl, rfl, rfl, rfl, rfl, rfl, rfl, rfl⟩
  · obtain ⟨r, rs, hrs⟩ := List.exists_cons_of_ne_nil hr
    exact ⟨_, exec_deviceReset_failed env s hrs, deviceReset_fatal env s r⟩
  · rw [tornFlash_sound hf]
  · have hend := endPatchwait_plain hp hn
    refine ⟨fun hc => ?_, fun p => ⟨fun ho => ?_, fun ho => ?_⟩, raiseEvent_event _ 7 .p0 (by decide), raiseEvent_event _ 7 .p1 (by decide)⟩
    · exact (if_pos ⟨hst, hc⟩).trans (congrArg Host.Outcome.next hend)
    · have hown : ownsBoot s p = true := beq_iff_eq.2 ho
      exact congrArg Host.Outcome.next ((if_pos ⟨hst, rfl, hown⟩).trans hend)
    · have hown : ¬ ownsBoot s p = true := fun h => ho (beq_iff_eq.1 h)
      exact congrArg Host.Outcome.next (if_neg fun h => hown h.2.2)

end Sys2Proof.Proofs

/-! Registers of the host and management ports, semaphores and host links (R30, R43 to R48, R67 to R69, R72). -/

namespace Sys2Proof.Proofs
open Sys2Proof Sys2Proof.Machine Sys2Proof.Laws

/-! ## EVENT and EVMASK -/

section
variable (s : State) (p : HostPort) (v : Word)

theorem eventsNow_occurred (x : Port) : (eventsNow s x).occurred = if x.events.cycle = s.cycle then x.events.occurred else 0 := by
  unfold eventsNow
  split <;> rfl

theorem eventsNow_cycle (x : Port) : (eventsNow s x).cycle = s.cycle := by
  unfold eventsNow
  split
  · next h => exact h
  · rfl

/-- The port once a write of EVENT has cleared its bits. -/
def eventCleared (x : Port) : Port :=
  let clr := v.setWidth 9 &&& ~~~(eventsNow s x).occurred
  { x with event := x.event &&& ~~~clr, events := { eventsNow s x with cleared := (eventsNow s x).cleared ||| (x.event &&& clr) } }

theorem writeEvent_eq : writeEvent s p v = setPort s p (eventCleared s v (portAt s p)) := rfl

/-- A bit whose event occurs in the same cycle stays set. -/
theorem eventWrite_sets {e : Nat} (he : e < 9) : (portAt (writeEvent (raiseEvent s e) p v) p).event.getLsbD e = true := by
  obtain ⟨m, h, hp⟩ := portAt_raiseEvent s e p
  have hcycle : (raiseEvent s e).cycle = s.cycle := by
    obtain ⟨m0, h0, m1, h1, hr⟩ := raiseEvent_eq s e
    rw [hr]
  have hnow : (eventsNow (raiseEvent s e) (withEvent (portAt s p) e (eventsNow s (portAt s p)) m h)).occurred =
      (eventsNow s (portAt s p)).occurred ||| (1#9 <<< e) := by
    rw [eventsNow_occurred, hcycle]
    exact if_pos (eventsNow_cycle s (portAt s p))
  rw [writeEvent_eq, portAt_setPort_self, hp, eventCleared, hnow]
  simp [withEvent, he]

theorem sendMsix_evmask (n : Nat) : sendMsix (setPort s p { portAt s p with evmask := v }) p n =
    if (portAt s p).up = true then
      setPort s p (if msixMasked (portAt s p) n = true then
        { portAt s p with evmask := v, msixPending := (portAt s p).msixPending ||| (1#64 <<< n) }
        else { portAt s p with evmask := v, msix := (portAt s p).msix ++ [n] })
    else setPort s p { portAt s p with evmask := v } := by
  rw [sendMsix_eq, portAt_setPort_self, setPort_setPort]
  rfl

theorem exec_evmaskWrite : exec (.evmaskWrite p v) s = .next (
    if (portAt s p).event &&& (v &&& ~~~(portAt s p).evmask).setWidth 9 ≠ 0 then
      sendMsix (setPort s p { portAt s p with evmask := v }) p 0
    else setPort s p { portAt s p with evmask := v }) := rfl

end

/-! ## Semaphores -/

/-- A semaphore that a port no longer owns. -/
def freed (p : HostPort) (h : Hsem) : Hsem := if h.owner.toNat = portId p then { h with owner := 0 } else h

theorem semAt_freeSems (s : State) (p : HostPort) (k : Nat) :
    (semAt (freeSems s p) k).owner = if (semAt s k).owner.toNat = portId p then 0 else (semAt s k).owner := by
  have hmap : (freeSems s p).dev.hsem = s.dev.hsem.map fun h => (h.1, freed p h.2) :=
    List.map_congr_left fun h _ => by unfold freed; split <;> rfl
  rw [semAt, hmap, semAt, fget, fget, ffind_mapValues]
  cases ffind s.dev.hsem k with
  | none => cases p <;> rfl
  | some h =>
    show (freed p h).owner = if h.owner.toNat = portId p then 0 else h.owner
    unfold freed
    split <;> rfl

/-! ## What queue records and the copies kept of them leave -/

/-- A change of host memory and of what is kept of queues alone. -/
structure QueueKept (s t : State) : Prop where
  dev : t.dev = s.dev
  unrid : ∃ keep, t.unrid = { s.unrid with keep := keep }
  up : ∀ p, (portAt t p).up = (portAt s p).up

theorem QueueKept.refl (s : State) : QueueKept s s := ⟨rfl, ⟨s.unrid.keep, rfl⟩, fun _ => rfl⟩

theorem QueueKept.trans {s t u : State} (h : QueueKept s t) (h' : QueueKept t u) : QueueKept s u := by
  obtain ⟨keep, hk⟩ := h.unrid
  obtain ⟨keep', hk'⟩ := h'.unrid
  exact ⟨h'.dev.trans h.dev, ⟨keep', by rw [hk', hk]⟩, fun p => (h'.up p).trans (h.up p)⟩

theorem hostWrite_up (s : State) (p q : HostPort) (a : Nat) (bs : List Byte) : (portAt (hostWrite s p a bs) q).up = (portAt s q).up := by
  unfold hostWrite
  split
  · by_cases hq : q = p
    · subst hq
      rw [modPort, portAt_setPort_self]
    · rw [modPort, portAt_setPort_ne _ _ hq]
  · rfl

theorem hostWrite_unrid (s : State) (p : HostPort) (a : Nat) (bs : List Byte) : (hostWrite s p a bs).unrid = s.unrid := by
  unfold hostWrite modPort
  split
  · exact setPort_unrid ..
  · rfl

@[simp] theorem hostWrite_dev (s : State) (p : HostPort) (a : Nat) (bs : List Byte) : (hostWrite s p a bs).dev = s.dev := by
  unfold hostWrite modPort
  split
  · exact setPort_dev ..
  · rfl

theorem putRecord_unrid (s : State) (q o n v : Nat) : (putRecord s q o n v).unrid = s.unrid := hostWrite_unrid ..

@[simp] theorem putRecord_dev (s : State) (q o n v : Nat) : (putRecord s q o n v).dev = s.dev := hostWrite_dev ..

theorem putRecord_kept (s : State) (q o n v : Nat) : QueueKept s (putRecord s q o n v) :=
  ⟨putRecord_dev .., ⟨s.unrid.keep, putRecord_unrid ..⟩, fun _ => hostWrite_up ..⟩

theorem setKeep_kept (s : State) (q : Nat) (k : QKeep) : QueueKept s (setKeep s q k) := ⟨rfl, ⟨_, rfl⟩, fun _ => rfl⟩

theorem cutUnmapped_kept (p : HostPort) (s : State) (q : Nat) : QueueKept s (cutUnmapped p s q) := by
  unfold cutUnmapped
  dsimp only
  split
  · exact .refl s
  · split
    · exact setKeep_kept ..
    · split
      · exact putRecord_kept ..
      · exact .refl s

theorem foldl_cutUnmapped_kept (p : HostPort) (l : List Nat) (s : State) : QueueKept s (l.foldl (cutUnmapped p) s) := by
  induction l generalizing s with
  | nil => exact .refl s
  | cons q l ih => exact (cutUnmapped_kept p s q).trans (ih _)

/-! ## Queues cut off -/

theorem keepAt_of_unrid {s t : State} (h : t.unrid = s.unrid) (q : Nat) : keepAt t q = keepAt s q := by rw [keepAt, h, keepAt]

/-- What has been cut off stays so. -/
theorem cutUnmapped_cut (p : HostPort) (s : State) (a q : Nat) (h : (keepAt s q).cut.isSome = true) :
    (keepAt (cutUnmapped p s a) q).cut.isSome = true := by
  unfold cutUnmapped
  dsimp only
  split
  · exact h
  · split
    · by_cases hq : q = a
      · subst hq
        rw [setKeep, keepAt, modUnrid, fget_fset_self]
        rfl
      · rw [setKeep, keepAt, modUnrid, fget_fset_ne _ _ _ hq]
        exact h
    · split
      · rw [keepAt_of_unrid (putRecord_unrid ..)]
        exact h
      · exact h

/-- A queue in no slot whose record lies behind the port is cut off. -/
theorem cutUnmapped_self {p : HostPort} {s : State} {q : Nat} (hp : portOf s.unrid.qtbase = p) (hq : queueSlot s q = none) :
    (keepAt (cutUnmapped p s q) q).cut.isSome = true := by
  unfold cutUnmapped
  dsimp only
  split
  · next h =>
    rw [hq, Option.isSome_none, Bool.or_false] at h
    exact h
  · rw [if_pos (show (recordPlace s q).1 = p from hp), setKeep, keepAt, modUnrid, fget_fset_self]
    rfl

theorem queueSlot_kept {s t : State} (h : QueueKept s t) (q : Nat) : queueSlot t q = queueSlot s q := by
  obtain ⟨keep, hk⟩ := h.unrid
  rw [queueSlot, hk, queueSlot]

theorem foldl_cutUnmapped_cut {p : HostPort} (l : List Nat) {s : State} {q : Nat} (hp : portOf s.unrid.qtbase = p)
    (hq : queueSlot s q = none) (hmem : q ∈ l ∨ (keepAt s q).cut.isSome = true) :
    (keepAt (l.foldl (cutUnmapped p) s) q).cut.isSome = true := by
  induction l generalizing s with
  | nil => exact hmem.resolve_left (by simp)
  | cons a l ih =>
    have hkept := cutUnmapped_kept p s a
    obtain ⟨keep, hk⟩ := hkept.unrid
    refine ih (by rw [hk]; exact hp) (by rw [queueSlot_kept hkept]; exact hq) ?_
    rcases hmem with hmem | hcut
    · rcases List.mem_cons.1 hmem with rfl | hmem
      · exact .inr (cutUnmapped_self hp hq)
      · exact .inl hmem
    · exact .inr (cutUnmapped_cut p s a q hcut)

/-! ## A host link that goes down -/

/-- The state with a port's link down, its semaphores freed and the queues in no slot cut off. -/
def linkCut (s : State) (p : HostPort) : State :=
  let t := freeSems (modPort s p fun x => { x with up := false }) p
  (List.range t.unrid.qtlen.toNat).foldl (cutUnmapped p) t

/-- A slot cut off where its ring or its record lies behind a port. -/
def slotCut (p : HostPort) (base : Word) (x : QSlot) : QSlot := if portOf x.ring = p ∨ portOf base = p then { x with cut := true } else x

/-- The state once a host link has gone down. -/
def linkLost (s : State) (p : HostPort) : State :=
  raiseEvent (modUnrid (linkCut s p) fun u =>
    { u with slots := u.slots.map fun x => if portOf x.2.ring = p ∨ portOf u.qtbase = p then (x.1, { x.2 with cut := true }) else x }) 6

section
variable {s : State} {p : HostPort}

theorem exec_hostLinkDown (hup : (portAt s p).up = true) : exec (.hostLinkDown p) s = .next (linkLost s p) := by
  have hno : ¬ ((!hostUp s p) = true) := by rw [hostUp, hup]; decide
  exact if_neg hno

theorem linkCut_kept (s : State) (p : HostPort) : QueueKept (freeSems (modPort s p fun x => { x with up := false }) p) (linkCut s p) :=
  foldl_cutUnmapped_kept ..

theorem linkCut_unrid (s : State) (p : HostPort) : ∃ keep, (linkCut s p).unrid = { s.unrid with keep := keep } := by
  obtain ⟨keep, hk⟩ := (linkCut_kept s p).unrid
  refine ⟨keep, hk.trans ?_⟩
  show { (setPort s p _).unrid with keep := keep } = _
  rw [setPort_unrid]

theorem linkLost_up (s : State) (p : HostPort) : (portAt (linkLost s p) p).up = false := by
  rw [linkLost, raiseEvent_up]
  refine Eq.trans (b := (portAt (linkCut s p) p).up) (by cases p <;> rfl) (((linkCut_kept s p).up p).trans ?_)
  exact Eq.trans (b := (portAt (setPort s p { portAt s p with up := false }) p).up) (by cases p <;> rfl)
    (congrArg Port.up (portAt_setPort_self ..))

theorem linkLost_event (s : State) (p : HostPort) : (portAt (linkLost s p) p).event.getLsbD 6 = true :=
  raiseEvent_event _ 6 p (by decide)

theorem semAt_linkLost (s : State) (p : HostPort) (k : Nat) :
    (semAt (linkLost s p) k).owner = if (semAt s k).owner.toNat = portId p then 0 else (semAt s k).owner := by
  have hdev : (linkLost s p).dev = (freeSems (modPort s p fun x => { x with up := false }) p).dev :=
    (raiseEvent_dev ..).trans (linkCut_kept s p).dev
  have hsame : semAt (modPort s p fun x => { x with up := false }) k = semAt s k := by
    rw [semAt, modPort, setPort_dev, semAt]
  rw [semAt, hdev, ← semAt, semAt_freeSems, hsame]

theorem linkLost_unrid (s : State) (p : HostPort) : ∃ keep, (linkLost s p).unrid =
    { s.unrid with keep := keep, slots := s.unrid.slots.map fun x => (x.1, slotCut p s.unrid.qtbase x.2) } := by
  obtain ⟨keep, hk⟩ := linkCut_unrid s p
  refine ⟨keep, (raiseEvent_unrid ..).trans ?_⟩
  have hmap : (s.unrid.slots.map fun x => if portOf x.2.ring = p ∨ portOf s.unrid.qtbase = p then (x.1, { x.2 with cut := true }) else x) =
      s.unrid.slots.map fun x => (x.1, slotCut p s.unrid.qtbase x.2) :=
    List.map_congr_left fun x _ => by unfold slotCut; split <;> rfl
  rw [modUnrid, hk, ← hmap]

theorem linkLost_slots {m : Nat} {x : QSlot} (hm : ffind s.unrid.slots m = some x) (hp : portOf x.ring = p ∨ portOf s.unrid.qtbase = p) :
    (ffind (linkLost s p).unrid.slots m).map (·.cut) = some true := by
  obtain ⟨keep, hk⟩ := linkLost_unrid s p
  rw [hk]
  dsimp only
  rw [ffind_mapValues, hm, Option.map_some, slotCut, if_pos hp, Option.map_some]

theorem linkLost_keep (hp : portOf s.unrid.qtbase = p) {q : Nat} (hq : q < s.unrid.qtlen.toNat) (hslot : queueSlot s q = none) :
    (keepAt (linkLost s p) q).cut.isSome = true := by
  have hunrid : (freeSems (modPort s p fun x => { x with up := false }) p).unrid = s.unrid := setPort_unrid ..
  have hkeep : keepAt (linkLost s p) q = keepAt (linkCut s p) q := by
    rw [keepAt, linkLost, raiseEvent_unrid]
    rfl
  rw [hkeep]
  refine foldl_cutUnmapped_cut _ (by rw [hunrid]; exact hp) ?_ (.inl ?_)
  · rw [queueSlot, hunrid]
    exact hslot
  · rw [hunrid]
    exact List.mem_range.2 hq

end

theorem exec_hostLinkUp {s : State} {p : HostPort} (h : portOf s.unrid.qtbase ≠ p ∨ s.unrid.keep = []) :
    exec (.hostLinkUp p) s = .next (setPort s p { portAt s p with up := true }) := by
  have hunrid : (modPort s p fun x => { x with up := true }).unrid = s.unrid := setPort_unrid ..
  show execHostLinkUp p s = _
  unfold execHostLinkUp
  dsimp only
  rw [hunrid]
  rcases h with hne | hk
  · exact if_neg hne
  · rw [hk]
    split <;> rfl

/-! ## Registers -/

section
variable (s : State) (p : HostPort) (v : Word)

theorem exec_registerWrite_bar0_odd {off size : Nat} (h : size ≠ 8 ∨ off % 8 ≠ 0) : exec (.registerWrite (.bar0 p) off size v) s = .next s := by
  have hgo : ¬ (off = 0x50 ∧ size = 8) := by omega
  show Host.Outcome.next (if off = 0x50 ∧ size = 8 then writeBootgo s p v else bar0Write s p off size v) = _
  rw [if_neg hgo]
  exact congrArg Host.Outcome.next (if_pos h)

theorem exec_registerWrite_bar2 (n : BitVec 6) :
    exec (.registerWrite (.bar2 p) (4096 * n.toNat) 8 v) s = exec (.notifyWrite p n v) s := by
  have hn := n.isLt
  have hdiv : 4096 * n.toNat / 4096 = n.toNat := Nat.mul_div_cancel_left _ (by decide)
  show Host.Outcome.next (bar2Write s p (4096 * n.toNat) 8 v) = .next (notifyWrite s p n.toNat v)
  rw [bar2Write, if_pos ⟨rfl, Nat.mul_mod_right .., by rw [hdiv]; exact hn⟩, hdiv]

theorem exec_registerWrite_bar2_odd {off size : Nat} (h : size ≠ 8 ∨ off % 4096 ≠ 0 ∨ 64 * 4096 ≤ off) :
    exec (.registerWrite (.bar2 p) off size v) s = .next s := by
  show Host.Outcome.next (bar2Write s p off size v) = _
  rw [bar2Write, if_neg (by omega)]

theorem bootControl_owner {f : Device → Device} (ho : (semAt s 0).owner.toNat = portId p) : bootControl s p f = modDev s f :=
  if_pos (beq_iff_eq.2 ho)

theorem bootControl_other {f : Device → Device} (ho : (semAt s 0).owner.toNat ≠ portId p) : bootControl s p f = s :=
  if_neg fun h => ho (beq_iff_eq.1 h)

theorem writeQscan_eq (hlo : 1900 ≤ (v.extractLsb' 0 32).toNat) (hhi : (v.extractLsb' 0 32).toNat ≤ 1900000) :
    writeQscan s v = { s with unrid := { s.unrid with qscan := v.extractLsb' 0 32 } } := by
  unfold writeQscan modUnrid
  dsimp only
  rw [wfield_eq, Nat.min_eq_right hhi, Nat.max_eq_right hlo, BitVec.ofNat_toNat, BitVec.setWidth_eq]

theorem writeQtbase_idle (h : s.unrid.qtlen = 0) :
    writeQtbase s v = { s with unrid := { s.unrid with qtbase := v &&& 0xFFFF_FFFF_FFFF_F001 } } := if_pos h

theorem writeQtlen_start (h : s.unrid.qtlen = 0) (h0 : v ≠ 0) (hmax : v.toNat ≤ 1024) : writeQtlen s v = { s with unrid := { s.unrid with
    qtlen := v.setWidth 11
    keep := s.unrid.keep.map fun k => (k.1, { cut := if hostUp s (portOf s.unrid.qtbase) = true then none else k.2.cut }) } } := by
  unfold writeQtlen
  rw [if_neg (Nat.not_lt.2 hmax), if_neg h0, if_pos h]
  unfold restartKeep modUnrid
  cases hostUp s (portOf s.unrid.qtbase) <;> rfl

theorem writeQtlen_busy (h : s.unrid.qtlen ≠ 0) (h0 : v ≠ 0) : writeQtlen s v = s := by
  by_cases hbig : 1024 < v.toNat
  · exact if_pos hbig
  · exact (if_neg hbig).trans ((if_neg h0).trans (if_neg h))

theorem writeQtlen_stop (h : s.unrid.slots ≠ []) : writeQtlen s 0 = { s with unrid := { s.unrid with qtstop := true } } := by
  have hne : ¬ (s.unrid.slots.isEmpty = true) := fun he => h (List.isEmpty_iff.1 he)
  unfold writeQtlen
  rw [if_neg (by decide), if_pos rfl, if_neg hne]
  rfl

end

/-- Settles O47. -/
theorem portRegisters : Obligations.PortRegisters := by
  unfold Obligations.PortRegisters
  refine ⟨fun s p v n => ⟨?_, fun e he => ⟨_, rfl, eventWrite_sets s p v he⟩, ?_, ?_, ⟨_, rfl, fun k _ => semAt_freeSems s p k, rfl⟩,
    fun hup => ⟨_, exec_hostLinkDown hup, linkLost_up s p, linkLost_event s p, fun k _ => ?_, ?_, fun m x => linkLost_slots⟩,
    fun hup hp => ⟨_, exec_hostLinkDown hup, fun q => linkLost_keep hp⟩, exec_hostLinkUp⟩, fun s p v => ?_⟩
  · intro x fell
    refine ⟨_, rfl, ?_, ?_⟩
    · rw [writeEvent_eq, portAt_setPort_self, eventCleared, eventsNow_occurred]
    · rw [writeEvent_eq, portAt_setPort_self]
      rfl
  · intro x fresh masked
    refine ⟨fun h => ?_, fun hf hup hm => ?_, fun hf hup hm => ?_⟩
    · rw [exec_evmaskWrite, sendMsix_evmask]
      by_cases hf : fresh = 0
      · rw [if_neg (not_not.2 hf)]
      · have hdown : ¬ (portAt s p).up = true := ne_true_of_eq_false (h.resolve_left hf)
        rw [if_pos hf, if_neg hdown]
    · rw [exec_evmaskWrite, sendMsix_evmask, if_pos hf, if_pos hup,
        if_neg (show ¬ msixMasked (portAt s p) 0 = true from ne_true_of_eq_false hm)]
    · rw [exec_evmaskWrite, sendMsix_evmask, if_pos hf, if_pos hup, if_pos (show msixMasked (portAt s p) 0 = true from hm)]
      rfl
  · intro m took
    refine ⟨fun ho => ?_, fun ho => ⟨?_, fun ht => ?_, fun ht => ?_⟩, fun ho => ?_, fun ho => ?_⟩
    · exact congrArg Host.Outcome.next (if_neg ho)
    · refine congrArg Host.Outcome.next ((if_pos ho).trans ?_)
      show setSem (setPort s p { portAt s p with readData := m.owner.setWidth 64 }) n.toNat _ = _
      rw [ho]
      cases p <;> rfl
    · show Host.Outcome.next (readSemTie s n.toNat) = _
      unfold readSemTie
      simp only [show (semAt s n.toNat).lastTieLost1 = false from ht, show (semAt s n.toNat).owner = 0 from ho]
      rfl
    · show Host.Outcome.next (readSemTie s n.toNat) = _
      unfold readSemTie
      simp only [show (semAt s n.toNat).lastTieLost1 = true from ht, show (semAt s n.toNat).owner = 0 from ho]
      rfl
    · refine congrArg Host.Outcome.next (if_pos ⟨ho, ?_⟩)
      cases p <;> rfl
    · exact congrArg Host.Outcome.next (if_neg fun h => ho h.1)
  · rw [semAt_linkLost]
    split
    · cases p <;> decide
    · next h => exact h
  · obtain ⟨keep, hk⟩ := linkLost_unrid s p
    rw [hk]
  · intro wrote
    refine ⟨fun off size => exec_registerWrite_bar0_odd s p v, exec_registerWrite_bar2 s p v,
      fun off size => exec_registerWrite_bar2_odd s p v, fun ho => ⟨?_, ?_⟩, fun ho => ⟨?_, ?_⟩, rfl, rfl, fun hlo hhi => ?_, rfl, rfl,
      fun h => ⟨?_, fun h0 hmax => ?_⟩, fun h => ⟨?_, fun h0 => ?_⟩, fun h => ?_, fun h => ?_⟩
    · exact congrArg Host.Outcome.next (bootControl_owner s p ho)
    · exact congrArg Host.Outcome.next (bootControl_owner s p ho)
    · exact congrArg Host.Outcome.next (bootControl_other s p ho)
    · exact congrArg Host.Outcome.next (bootControl_other s p ho)
    · exact congrArg Host.Outcome.next (writeQscan_eq s v hlo hhi)
    · exact congrArg Host.Outcome.next (writeQtbase_idle s v h)
    · exact congrArg Host.Outcome.next (writeQtlen_start s v h h0 hmax)
    · exact congrArg Host.Outcome.next (if_neg h)
    · exact congrArg Host.Outcome.next (writeQtlen_busy s v h h0)
    · exact congrArg Host.Outcome.next (writeQtlen_stop s h)
    · exact congrArg Host.Outcome.next (if_pos h)

end Sys2Proof.Proofs

/-! The wafer stop, inspection and the flash over the management port, and power events (R23, R54, R98 to R105). -/

namespace Sys2Proof.Proofs
open Sys2Proof Sys2Proof.Machine Sys2Proof.Laws

/-! ## The wafer stop -/

section
variable {s : State}

theorem assertStop_held (h : s.dev.stopped = true) :
    assertStop s = { s with dev := { s.dev with stopHost := true, releaseHeld := false } } := by
  unfold assertStop stopWafer
  rw [if_pos h]
  rfl

theorem assertStop_running (h : s.dev.stopped = false) : assertStop s = { s with
    cores := s.cores.map fun e => (e.1, abandonGang e.2)
    dev := { s.dev with stopped := true, stopAt := s.cycle, stopCycles := stopTime s, stopHost := true, releaseHeld := false } } := by
  unfold assertStop stopWafer
  rw [if_neg (ne_true_of_eq_false h)]
  rfl

theorem stopTime_le (s : State) : (stopTime s).toNat ≤ 80 := by
  rw [stopTime, BitVec.toNat_ofNat]
  omega

end

/-! ## Inspection -/

section
variable (s : State) (v : Word)

omit s v in
theorem bitN_eq (b : Bool) : bitN b = b.toNat := by
  cases b <;> rfl

theorem inspected_eq : inspected s.dev = keyOf (s.dev.icoord.extractLsb' 0 9).toNat (s.dev.icoord.extractLsb' 16 9).toNat := by
  rw [inspected, wfield_eq, wfield_eq]

theorem inspectedWord_eq : inspectedWord s.dev = ((s.dev.ispace.extractLsb' 0 4).toNat, (s.dev.ispace.extractLsb' 8 24).toNat) := by
  rw [inspectedWord, wfield_eq, wfield_eq]

variable {s} {k space i : Nat} (hk : inspected s.dev = k) (hw : inspectedWord s.dev = (space, i))
include hk hw

theorem exec_idataRead_out (h : inGrid k = false ∨ spaceWords space ≤ i) :
    exec .idataRead s = .next { s with dev := { s.dev with ierr := true, i3cData := 0 } } := by
  show execIdataRead s = _
  unfold execIdataRead
  simp only [hk, hw]
  rw [if_pos (by rcases h with h | h <;> simp [h])]
  rfl

theorem exec_idataRead_in (hg : inGrid k = true) (hi : i < spaceWords space) : exec .idataRead s = .next {
    returnI3c (if (space, i) = (2, 0x011) then modCore s k fun c => inspectTaken c space i else s)
      (inspectRead (coreAt s k) s.cycle space i (Config.freeWord s.freeCtr)) with freeCtr := s.freeCtr + 1 } := by
  show execIdataRead s = _
  unfold execIdataRead
  simp only [hk, hw]
  rw [if_neg (by simp [hg, hi])]

theorem writeIdata_eq : writeIdata s v =
    if !inGrid k then refuseInspect s
    else if space = 7 then modCore s k haltCore
    else if space = 8 then modCore s k fun c => { c with halted := false }
    else if spaceWords space ≤ i then refuseInspect s
    else if (coreAt s k).halted || s.dev.stopped then modCore s k fun c => refreshReady (inspectWrite c space i v)
    else refuseInspect s := by
  unfold writeIdata
  rw [hk, hw]

omit hk in
theorem exec_idataHalt (h7 : space = 7) : exec .idataHalt s = .next (writeIdata s 0) := if_pos (by rw [hw]; exact h7)

omit hk in
theorem exec_idataResume (h8 : space = 8) : exec .idataResume s = .next (writeIdata s 0) := if_pos (by rw [hw]; exact h8)

end

theorem inspectRead_ecccnt (c : Core) (cycle : Nat) (free : Word) : inspectRead c cycle 2 0x011 free = c.sys.ecccnt.setWidth 64 := rfl

/-! ## The flash -/

/-- The flash with the boot configuration erased. -/
def configErased (m : Memory) : Memory := { m with cells := m.cells.filter fun c => decide (0x10_0000 ≤ c.1) }

theorem cellFind_filter (p : Nat → Bool) (m : List Host.Cell) (k : Nat) :
    cellFind (m.filter fun e => p e.1) k = if p k then cellFind m k else none := by
  induction m with
  | nil => simp [cellFind]
  | cons e m ih =>
    rw [List.filter_cons]
    by_cases hk : e.1 = k
    · subst hk
      cases hp : p e.1 <;> simp [cellFind, ih, hp]
    · cases hp : p e.1 <;> simp [cellFind, ih, hk]

theorem read_configErased_low {m : Memory} (hf : m.fill = .const 0xFF) {a : Nat} (ha : a < 0x10_0000) : (configErased m).read a = 0xFF := by
  have hnone : cellFind (configErased m).cells a = none :=
    (cellFind_filter (fun k => decide (0x10_0000 ≤ k)) m.cells a).trans (if_neg (by simpa using ha))
  rw [Memory.read, hnone]
  show m.fill.byte a = _
  rw [hf]
  rfl

theorem read_configErased_high (m : Memory) {a : Nat} (ha : 0x10_0000 ≤ a) : (configErased m).read a = m.read a := by
  have hsome : cellFind (configErased m).cells a = cellFind m.cells a :=
    (cellFind_filter (fun k => decide (0x10_0000 ≤ k)) m.cells a).trans (if_pos (by simpa using ha))
  rw [Memory.read, hsome]
  rfl

section
variable {s : State} (v : Word)

theorem flashWord_low {d : Device} (h : d.faddr.toNat < 0x20_0000) : flashWord d = d.flash.word d.faddr.toNat := if_neg (Nat.not_le.2 h)

theorem exec_fdataRead (hb : s.dev.fbusy = false) (h : s.dev.faddr.toNat < 0x20_0000) : exec .fdataRead s = .next { s with
    dev := { s.dev with i3cData := s.dev.flash.word s.dev.faddr.toNat, faddr := s.dev.faddr + 8 } } := by
  rw [← flashWord_low h]
  exact if_neg (ne_true_of_eq_false hb)

theorem eraseConfig_idle (hb : s.dev.fbusy = false) :
    eraseConfig s = { s with dev := { s.dev with flash := configErased s.dev.flash, fbusy := true } } := if_neg (ne_true_of_eq_false hb)

end

/-! ## Power -/

/-- The state once a power trip is noted. -/
def tripped (s : State) : State := waferFault (raiseIbi (raiseEvent s 1) 2) causePower 0xFFFF 0xFFFF

theorem assertStop_rest (s : State) : (assertStop s).port0 = s.port0 ∧ (assertStop s).port1 = s.port1 ∧ (assertStop s).cycle = s.cycle := by
  unfold assertStop stopWafer
  split <;> exact ⟨rfl, rfl, rfl⟩

theorem assertStop_dev (s : State) : (assertStop s).dev.stopHost = true ∧ (assertStop s).dev.ibi = s.dev.ibi ∧
    (assertStop s).dev.faults = s.dev.faults := by
  unfold assertStop stopWafer
  split <;> exact ⟨rfl, rfl, rfl⟩

theorem tripped_eq {s : State} (hst : s.dev.st ≠ .fatal) : tripped s =
    modDev (assertStop (raiseIbi (raiseEvent s 1) 2)) fun d =>
      { d with faults := joinFault d.faults ⟨none, causePower, 0xFFFF, 0xFFFF, (assertStop (raiseIbi (raiseEvent s 1) 2)).cycle⟩ } := by
  have hst' : ¬ (raiseIbi (raiseEvent s 1) 2).dev.st = .fatal := by
    show ¬ (raiseEvent s 1).dev.st = .fatal
    rw [raiseEvent_dev]
    exact hst
  exact if_neg hst'

theorem endEntries_ports (l : List Entry) (status detail result : Nat) (s : State) (p : HostPort) :
    portAt (l.foldl (fun s e => endEntry s e.key status detail result) s) p = portAt s p := by
  induction l generalizing s with
  | nil => rfl
  | cons e l ih =>
    refine (ih _).trans ?_
    obtain ⟨es, h⟩ := endEntry_rest s e.key status detail result
    dsimp only
    rw [h]
    cases p <;> rfl

theorem fatalStop_event (s : State) (cause : Nat) (p : HostPort) : (portAt (fatalStop s cause) p).event.getLsbD 2 = true := by
  unfold fatalStop
  dsimp only
  rw [endEntries_ports]
  exact raiseEvent_event _ 2 p (by decide)

theorem settleFaults_event {s : State} (h : ∃ f ∈ s.dev.faults, f.launch = none) (p : HostPort) :
    (portAt (settleFaults s) p).event.getLsbD 2 = true := by
  obtain ⟨g, hg, hn⟩ := headerFault_wafer h
  unfold settleFaults
  rw [hg]
  have hnone : g.launch.isNone = true := by rw [hn]; rfl
  simp only [hnone, if_true]
  exact fatalStop_event ..

theorem goesFatal_of_wafer {s : State} (h : ∃ f ∈ s.dev.faults, f.launch = none) : goesFatal s :=
  ⟨(settleFaults_wafer h).1, (settleFaults_wafer h).2, settleFaults_event h .p0, settleFaults_event h .p1⟩

/-- Settles O48. -/
theorem stopInspectionAndFlash : Obligations.StopInspectionAndFlash := by
  unfold Obligations.StopInspectionAndFlash
  refine ⟨fun s v => ⟨fun h => ?_, fun h => ⟨_, rfl, ?_⟩, ?_, ?_, ?_⟩, fun s v => ⟨?_, fun hb => ⟨fun h => exec_fdataRead hb h, fun h => ?_, fun h => ?_,
    ?_⟩, fun hb => ⟨?_, ?_, ?_⟩, ?_, rfl, ?_, fun hst => ?_⟩⟩
  · exact congrArg Host.Outcome.next (assertStop_held h)
  · rw [assertStop_running h]
    exact ⟨rfl, rfl, stopTime_le s, rfl, (if_neg (ne_true_of_eq_false h)).symm⟩
  · rfl
  · show Host.Outcome.next (modDev (returnI3c s (wstat s.dev)) fun d => { d with ierr := false }) = _
    rw [wstat, bitN_eq, bitN_eq]
    rfl
  · intro k space i refused
    have hk : inspected s.dev = k := inspected_eq s
    have hw : inspectedWord s.dev = (space, i) := inspectedWord_eq s
    refine ⟨fun hg hi hne => ?_, fun hg hsp hix => ⟨_, exec_idataRead_in hk hw hg ?_, ?_⟩, exec_idataRead_out hk hw, fun hg => ?_,
      fun hg h7 h8 hi => ⟨fun hh => ?_, fun hh hst => ?_⟩, fun hg => ⟨fun h7 => ?_, fun h8 => ?_⟩⟩
    · rw [exec_idataRead_in hk hw hg hi, if_neg fun h => hne (Prod.mk.inj h)]
      rfl
    · rw [hsp, hix]; decide
    · rw [hsp, hix, if_pos rfl]
      refine ⟨inspectRead_ecccnt _ s.cycle (Config.freeWord s.freeCtr), ?_⟩
      show (coreAt (setCore s k _) k).sys.ecccnt = 0
      rw [coreAt_setCore_self]
      rfl
    · exact congrArg Host.Outcome.next ((writeIdata_eq v hk hw).trans (if_pos (by rw [hg]; rfl)))
    · refine congrArg Host.Outcome.next ((writeIdata_eq v hk hw).trans ((if_neg (by rw [hg]; decide)).trans ((if_neg h7).trans
        ((if_neg h8).trans ((if_neg (Nat.not_le.2 hi)).trans (if_pos ?_))))))
      rw [Bool.or_eq_true]
      exact hh
    · refine congrArg Host.Outcome.next ((writeIdata_eq v hk hw).trans ((if_neg (by rw [hg]; decide)).trans ((if_neg h7).trans
        ((if_neg h8).trans ((if_neg (Nat.not_le.2 hi)).trans (if_neg ?_))))))
      rw [hh, hst]
      decide
    · rw [exec_idataHalt hw h7]
      exact congrArg Host.Outcome.next ((writeIdata_eq 0 hk hw).trans ((if_neg (by rw [hg]; decide)).trans (if_pos h7)))
    · rw [exec_idataResume hw h8]
      exact congrArg Host.Outcome.next ((writeIdata_eq 0 hk hw).trans ((if_neg (by rw [hg]; decide)).trans ((if_neg (by omega)).trans
        (if_pos h8))))
  · show Host.Outcome.next (if v.toNat % 8 ≠ 0 then flashErr s else modDev s fun d => { d with faddr := v.setWidth 26 }) = _
    by_cases h : v.toNat % 8 = 0
    · rw [if_neg (not_not.2 h), if_pos h]
      rfl
    · rw [if_pos h, if_neg h]
      rfl
  · exact congrArg Host.Outcome.next ((if_neg (ne_true_of_eq_false hb)).trans (if_neg (Nat.not_le.2 h)))
  · exact congrArg Host.Outcome.next ((if_neg (ne_true_of_eq_false hb)).trans (if_pos h))
  · refine ⟨_, congrArg Host.Outcome.next (eraseConfig_idle hb), rfl, fun hf a => read_configErased_low hf, fun a => read_configErased_high _⟩
  · exact congrArg Host.Outcome.next (if_pos hb)
  · exact congrArg Host.Outcome.next (if_pos hb)
  · exact if_pos hb
  · show execFstatRead s = _
    dsimp only [execFstatRead]
    rw [bitN_eq, bitN_eq, bitN_eq]
    rfl
  · refine ⟨_, rfl, raiseEvent_event s 0 .p0 (by decide), raiseEvent_event s 0 .p1 (by decide), ?_, raiseEvent_cores s 0⟩
    show { (raiseEvent s 0).dev with ibi := (raiseEvent s 0).dev.ibi ++ [1] } = _
    rw [raiseEvent_dev]
  · refine ⟨tripped s, rfl, ?_⟩
    obtain ⟨hp0, hp1, hcycle⟩ := assertStop_rest (raiseIbi (raiseEvent s 1) 2)
    obtain ⟨hhost, hibi, hfaults⟩ := assertStop_dev (raiseIbi (raiseEvent s 1) 2)
    have hdev : (raiseEvent s 1).dev = s.dev := raiseEvent_dev s 1
    have hwafer : ∃ f ∈ (tripped s).dev.faults, f.launch = none := by
      rw [tripped_eq hst]
      exact joinFault_wafer _ _ rfl
    have hnow : (raiseEvent s 1).cycle = s.cycle := by
      obtain ⟨m0, h0, m1, h1, hr⟩ := raiseEvent_eq s 1
      rw [hr]
    refine ⟨?_, ?_, ?_, ?_, ?_, ?_, goesFatal_of_wafer hwafer⟩
    · rw [tripped_eq hst]
      show (assertStop (raiseIbi (raiseEvent s 1) 2)).port0.event.getLsbD 1 = true
      rw [hp0]
      exact raiseEvent_event s 1 .p0 (by decide)
    · rw [tripped_eq hst]
      show (assertStop (raiseIbi (raiseEvent s 1) 2)).port1.event.getLsbD 1 = true
      rw [hp1]
      exact raiseEvent_event s 1 .p1 (by decide)
    · rw [tripped_eq hst]
      exact assertStop_stopped _
    · rw [tripped_eq hst]
      exact hhost
    · rw [tripped_eq hst]
      refine hibi.trans ?_
      show (raiseEvent s 1).dev.ibi ++ [2] = _
      rw [hdev]
    · rw [tripped_eq hst]
      show joinFault (assertStop (raiseIbi (raiseEvent s 1) 2)).dev.faults _ = _
      rw [hfaults, hcycle]
      show joinFault (raiseEvent s 1).dev.faults ⟨none, causePower, 0xFFFF, 0xFFFF, (raiseEvent s 1).cycle⟩ = _
      rw [hdev, hnow]

end Sys2Proof.Proofs

/-! What a step runs (R131, R270, R281), and what reset leaves (R49). -/

namespace Sys2Proof.Proofs
open Sys2Proof Sys2Proof.Machine Sys2Proof.Laws

theorem find?_eq_of_unique {α : Type} {p : α → Bool} {a : α} {l : List α} (ha : a ∈ l) (hp : p a = true) (h : ∀ b, p b = true → b = a) :
    l.find? p = some a := by
  cases hf : l.find? p with
  | none => exact absurd hp (by simpa using List.find?_eq_none.1 hf a ha)
  | some b => rw [h b (List.find?_some hf)]

theorem zero_mem_roundOf (c : Core) : 0 ∈ roundOf c :=
  List.mem_map.2 ⟨(8 + 8 * c.lastIssue) % 9, List.mem_range.2 (Nat.mod_lt _ (by decide)), by omega⟩

/-- A core that gives its next cycle to a task which runs by itself. -/
structure RunsAlone (s : State) (c : Core) : Prop where
  wafer : s.dev.stopped = false
  halted : c.halted = false
  frozen : c.frozen = false
  awake : c.sleep = .awake
  runs : c.running.isSome = true
  gang : c.gang = none
  resetting : c.resetting = false
  draining : c.draining = false
  wait : c.wait = .run
  handlers : ∀ k, (handlerAt c k).busy = false

section
variable {s : State} {c : Core}

theorem RunsAlone.mayIssue (h : RunsAlone s c) : coreMayIssue s c = true := by
  simp [coreMayIssue, h.wafer, h.resetting, h.halted, h.frozen, h.awake]

theorem RunsAlone.noDispatch (h : RunsAlone s c) : mayDispatch c = false := by
  simp [mayDispatch, Option.isNone_iff_eq_none, Option.isSome_iff_ne_none.1 h.runs]

theorem RunsAlone.main (h : RunsAlone s c) : mainMayIssue s c = true := by
  simp [mainMayIssue, h.runs, h.draining, atGang, h.wait, h.gang]

theorem RunsAlone.nextPlace_eq (h : RunsAlone s c) : nextPlace s c = some 0 := by
  refine find?_eq_of_unique (zero_mem_roundOf c) h.main fun n hn => ?_
  by_contra h0
  rw [placeMayIssue, ctxOfPlace, if_neg h0] at hn
  simp [handlerMayIssue, h.handlers] at hn

theorem stepCore_runsAlone {k : Nat} (hg : inGrid k = true) (h : RunsAlone s (coreAt s k)) :
    stepCore s k = elapseOutcome 1 (exec (instrOfWord (istoreWord (coreAt s k) (coreAt s k).pc))
      { setCore s k { coreAt s k with lastIssue := 0 } with focus := k, ctx := .main }) := by
  have ht : turnOf s k = .run (fetchAt (coreAt s k) .main) { setCore s k { coreAt s k with lastIssue := 0 } with focus := k, ctx := .main } := by
    simp only [turnOf, h.mayIssue, h.noDispatch, h.nextPlace_eq]
    rfl
  rw [stepCore, hg, ht]
  rfl

theorem step_of_agenda_nil (h : s.agenda = []) : step s = stepCore s s.focus := by
  rw [step, h]

theorem elapse_frame (n : Nat) (hf : s.dev.faults = []) : (elapse s n).cycle = s.cycle + n ∧ (elapse s n).agenda = s.agenda ∧
    (elapse s n).dev = s.dev ∧ (elapse s n).cores =
      s.cores.map fun e => (e.1, tickCore n (if s.dev.stopped = true then e.2 else settleBreads (readWaits s e.2))) := by
  cases hs : s.dev.stopped
  · obtain ⟨r, hr⟩ := elapse_running hf hs n
    rw [hr]
    exact ⟨rfl, rfl, rfl, rfl⟩
  · rw [elapse_stopped hf hs]
    exact ⟨rfl, rfl, rfl, rfl⟩

end

/-- Settles O4. -/
theorem stepRunsDecoded : Obligations.StepRunsDecoded := by
  unfold Obligations.StepRunsDecoded
  intro s
  refine ⟨fun hagenda hgrid hwafer hhalt hfrozen hawake hruns hgang hreset hdrain hwait hhandlers => ?_, fun i rest h hi => ?_,
    fun row col rest h => ?_, fun n rest h => ⟨?_, fun hf => ?_⟩⟩
  · have hrun := (step_of_agenda_nil hagenda).trans
      (stepCore_runsAlone hgrid ⟨hwafer, hhalt, hfrozen, hawake, hruns, hgang, hreset, hdrain, hwait, hhandlers⟩)
    refine ⟨fun i hi => hrun.trans ?_, fun f hf => hrun.trans ?_⟩
    · rw [instrOfWord, show decode (istoreWord (coreAt s s.focus) (coreAt s s.focus).pc) = _ from hi]
      rfl
    · rw [instrOfWord, show decode (istoreWord (coreAt s s.focus) (coreAt s s.focus).pc) = _ from hf]
      rfl
  · rw [step, h]
    exact if_neg (ne_true_of_eq_false hi)
  · rw [step, h]
  · rw [step, h]
  · have := elapse_frame (s := { s with agenda := rest }) n hf
    rw [step, h]
    exact ⟨_, rfl, this⟩

/-- Settles O5. -/
theorem resetState : Obligations.ResetState := by
  unfold Obligations.ResetState
  refine ⟨rfl, rfl, rfl, rfl, rfl, rfl, rfl, rfl, rfl, rfl, ?_, ?_, ?_⟩
  · decide
  · exact fun h => absurd h (by decide)
  · rfl

end Sys2Proof.Proofs

/-! The device registers under the part's operations: most leave them alone. -/

namespace Sys2Proof.Proofs
open Sys2Proof Sys2Proof.Machine Sys2Proof.Laws

@[simp] theorem modLaunch_dev (s : State) (num : Nat) (f : Launch → Launch) : (modLaunch s num f).dev = s.dev := by
  rfl

@[simp] theorem modPort_dev (s : State) (p : HostPort) (f : Port → Port) : (modPort s p f).dev = s.dev := by
  simp [modPort]

@[simp] theorem hostPut_dev (s : State) (p : HostPort) (a n v : Nat) : (hostPut s p a n v).dev = s.dev := by
  simp [hostPut]

@[simp] theorem sendMsix_dev (s : State) (p : HostPort) (vec : Nat) : (sendMsix s p vec).dev = s.dev := by
  unfold sendMsix
  split <;> simp

@[simp] theorem sendPending_dev (s : State) (p : HostPort) : (sendPending s p).dev = s.dev := by
  simp [sendPending, apply_ite State.dev, foldl_dev]

@[simp] theorem writeMsixMask_dev (s : State) (p : HostPort) (off : Nat) (b : Bool) : (writeMsixMask s p off b).dev = s.dev := by
  simp [writeMsixMask]

@[simp] theorem portEvent_dev (s : State) (p : HostPort) (n : Nat) : (portEvent s p n).dev = s.dev := by
  simp [portEvent, apply_ite State.dev]

@[simp] theorem setEntry_dev (s : State) (k : EntryKey) (st : EntrySt) : (setEntry s k st).dev = s.dev := by
  rfl

@[simp] theorem atticWrite_dev (s : State) (pa : Nat) (bs : List Byte) : (atticWrite s pa bs).dev = s.dev := by
  rfl

@[simp] theorem changeInput_dev (s : State) (k : Nat) (lg : Option (Nat × Nat)) (d cls : Nat) (f : List Flit → List Flit) : (changeInput s k lg d cls f).dev = s.dev := by
  unfold changeInput
  split
  · simp
  · split <;> simp

@[simp] theorem noteHead_dev (s : State) (k : Nat) (lg : Option (Nat × Nat)) (d cls : Nat) : (noteHead s k lg d cls).dev = s.dev := by
  unfold noteHead
  split <;> rfl

@[simp] theorem dropHead_dev (s : State) (k : Nat) (lg : Option (Nat × Nat)) (d cls : Nat) : (dropHead s k lg d cls).dev = s.dev := by
  simp [dropHead]

@[simp] theorem arriveInput_dev (s : State) (k d cls : Nat) (f : Flit) : (arriveInput s k d cls f).dev = s.dev := by
  simp [arriveInput, apply_ite State.dev]

@[simp] theorem reportStall_dev (s : State) (row col cls reason : Nat) : (reportStall s row col cls reason).dev = s.dev := by
  unfold reportStall
  split <;> rfl

@[simp] theorem countFlits_dev (s : State) (lg : Option (Nat × Nat)) (inj del : Nat) : (countFlits s lg inj del).dev = s.dev := by
  unfold countFlits
  split <;> rfl

@[simp] theorem grantOut_dev (s : State) (k : Nat) (lg : Option (Nat × Nat)) (o cls d : Nat) (f : Flit) : (grantOut s k lg o cls d f).dev = s.dev := by
  dsimp only [grantOut]
  (repeat' split) <;> simp

@[simp] theorem hopGrant_dev (s : State) (k o : Nat) : (hopGrant s k o).dev = s.dev := by
  dsimp only [hopGrant]
  (repeat' split) <;> simp

@[simp] theorem forceXy_dev (s : State) (k : Nat) (lg : Option (Nat × Nat)) (cls d : Nat) : (forceXy s k lg cls d).dev = s.dev := by
  dsimp only [forceXy]
  (repeat' split) <;> simp

@[simp] theorem leaveOut_dev (s : State) (k o cls : Nat) : (leaveOut s k o cls).dev = s.dev := by
  simp [leaveOut, foldl_dev]

@[simp] theorem arriveUnit_dev (s : State) (a : Attach) (cls : Nat) (f : Flit) : (arriveUnit s a cls f).dev = s.dev := by
  unfold arriveUnit
  (repeat' split) <;> simp

@[simp] theorem countLeave_dev (s : State) (lg : Option (Nat × Nat)) (a : Attach) (cls : Nat) (f : Flit) : (countLeave s lg a cls f).dev = s.dev := by
  unfold countLeave
  split <;> simp

@[simp] theorem hopLink_dev (s : State) (k o cls : Nat) : (hopLink s k o cls).dev = s.dev := by
  unfold hopLink
  (repeat' split) <;> simp

@[simp] theorem discardForeign_dev (s : State) (n cls : Nat) : (discardForeign s n cls).dev = s.dev := by
  simp [discardForeign]

@[simp] theorem dropStale_dev (s : State) (n cls : Nat) : (dropStale s n cls).dev = s.dev := by
  rfl

@[simp] theorem portToUnrid_dev (s : State) (n cls : Nat) : (portToUnrid s n cls).dev = s.dev := by
  unfold portToUnrid
  (repeat' split) <;> simp

theorem unitHead_dev {s t : State} {a : Attach} {cls : Nat} {f : Flit} (h : unitHead s a cls = some (f, t)) : t.dev = s.dev := by
  cases a with
  | poluri n => cases h
  | larder n | cmd =>
    obtain ⟨_, -, hg⟩ := Option.map_eq_some_iff.1 h
    cases hg
    rfl

@[simp] theorem hopEnter_dev (s : State) (a : Attach) (cls : Nat) : (hopEnter s a cls).dev = s.dev := by
  unfold hopEnter
  split
  · next hu _ => split <;> simp [unitHead_dev hu]
  · rfl

@[simp] theorem rootRenorm_dev (s : State) (row col cls : Nat) (e : BitVec 32) (f : Flit) : (rootRenorm s row col cls e f).dev = s.dev := by
  dsimp only [rootRenorm]
  split
  · split <;> simp
  · rfl

@[simp] theorem sendMerged_dev (s : State) (k : Nat) (outs : List Nat) (cls : Nat) (f : Flit) : (sendMerged s k outs cls f).dev = s.dev := by
  rfl

@[simp] theorem combine_dev (s : State) (k row col cls : Nat) (e : BitVec 32) (fs : List Flit) : (combine s k row col cls e fs).dev = s.dev := by
  dsimp only [combine]
  (repeat' split) <;> simp [foldl_dev]

@[simp] theorem takeRenorm_dev (s : State) (k row col d : Nat) (f : Flit) : (takeRenorm s k row col d f).dev = s.dev := by
  simp [takeRenorm, apply_ite State.dev]

@[simp] theorem renormFirst_dev (s : State) (k row col cls : Nat) (chunk : BitVec 15) : (renormFirst s k row col cls chunk).dev = s.dev := by
  simp [renormFirst, foldl_dev]

@[simp] theorem tickClass_dev (s : State) (k : Nat) (lg : Option (Nat × Nat)) (cls : Nat) : (tickClass s k lg cls).dev = s.dev := by
  simp [tickClass, apply_ite State.dev]

@[simp] theorem tickRouters_dev (s : State) : (tickRouters s).dev = s.dev := by
  simp [tickRouters, foldl_dev]

@[simp] theorem putReached_dev (s : State) (k : Nat) (c : Core) : (putReached s k c).dev = s.dev := by
  unfold putReached
  split <;> rfl

@[simp] theorem onMessage_dev (s : State) (row col cls kind : Nat) (body : Core → Flit → List Flit → Option Core) : (onMessage s row col cls kind body).dev = s.dev := by
  dsimp only [onMessage]
  (repeat' split) <;> simp

@[simp] theorem onChecked_dev (s : State) (row col cls kind : Nat) (body : Core → Flit → List Flit → Option Core) : (onChecked s row col cls kind body).dev = s.dev := by
  simp [onChecked]

@[simp] theorem coreWrite_dev (s : State) (row col : Nat) (cls : BitVec 5) : (coreWrite s row col cls).dev = s.dev := by
  simp [coreWrite]

@[simp] theorem coreRdreq_dev (s : State) (row col : Nat) (cls : BitVec 5) : (coreRdreq s row col cls).dev = s.dev := by
  simp [coreRdreq]

@[simp] theorem coreRdrsp_dev (s : State) (row col : Nat) (cls : BitVec 5) : (coreRdrsp s row col cls).dev = s.dev := by
  simp [coreRdrsp]

@[simp] theorem coreAnswer_dev (s : State) (row col kind : Nat) : (coreAnswer s row col kind).dev = s.dev := by
  simp [coreAnswer]

@[simp] theorem deliverPantry_dev (s : State) (row col cls : Nat) (again : Bool) : (deliverPantry s row col cls again).dev = s.dev := by
  dsimp only [deliverPantry]
  (repeat' split) <;> simp

@[simp] theorem onCore_dev (s : State) (row col : Nat) (f : Core → Core) : (onCore s row col f).dev = s.dev := by
  unfold onCore
  split <;> rfl

@[simp] theorem podTake_dev (release : Bool) (id : BitVec 3) (s : State) (n : Nat) : (podTake release id s n).dev = s.dev := by
  rfl

@[simp] theorem podTell_dev (release : Bool) (id : BitVec 3) (s : State) (n : Nat) : (podTell release id s n).dev = s.dev := by
  rfl

@[simp] theorem podRelease_dev (s : State) (id : BitVec 3) : (podRelease s id).dev = s.dev := by
  simp [podRelease, foldl_dev]

@[simp] theorem tryFreeze_dev (s : State) (l : Launch) (k : Nat) : (tryFreeze s l k).dev = s.dev := by
  simp [tryFreeze, apply_ite State.dev]

@[simp] theorem onCap_dev (s : State) (row col op : Nat) (body : Core → Flit → Core × Nat × Nat) : (onCap s row col op body).dev = s.dev := by
  simp [onCap]

@[simp] theorem rejectUnavailable_dev (s : State) : (rejectUnavailable s).dev = s.dev := by
  rfl

@[simp] theorem setKeep_dev (s : State) (q : Nat) (k : QKeep) : (setKeep s q k).dev = s.dev := by
  rfl

@[simp] theorem setSlot_dev (s : State) (n : Nat) (x : QSlot) : (setSlot s n x).dev = s.dev := by
  rfl

@[simp] theorem readEnable_dev (s : State) (q : Nat) : (readEnable s q).dev = s.dev := by
  dsimp only [readEnable]
  (repeat' split) <;> simp

@[simp] theorem mapQueue_dev (s : State) (q n : Nat) : (mapQueue s q n).dev = s.dev := by
  simp [mapQueue]

@[simp] theorem scanQueue_dev (s : State) (q : Nat) : (scanQueue s q).dev = s.dev := by
  dsimp only [scanQueue]
  (repeat' split) <;> simp

@[simp] theorem scanMapped_dev (s : State) : (scanMapped s).dev = s.dev := by
  simp [scanMapped, apply_ite State.dev, foldl_dev]

@[simp] theorem unmapQueue_dev (s : State) (n : Nat) (x : QSlot) : (unmapQueue s n x).dev = s.dev := by
  dsimp only [unmapQueue]
  (repeat' split) <;> simp

@[simp] theorem lateNotify_dev (s : State) (slot : Nat) (v : Word) : (lateNotify s slot v).dev = s.dev := by
  dsimp only [lateNotify]
  (repeat' split) <;> simp

@[simp] theorem applyNotify_dev (s : State) (p : HostPort) (slot : Nat) (v : Word) : (applyNotify s p slot v).dev = s.dev := by
  unfold applyNotify
  (repeat' split) <;> simp

@[simp] theorem notifyWrite_dev (s : State) (p : HostPort) (slot : Nat) (v : Word) : (notifyWrite s p slot v).dev = s.dev := by
  unfold notifyWrite
  split <;> simp

@[simp] theorem applyNotifies_dev (s : State) : (applyNotifies s).dev = s.dev := by
  simp [applyNotifies, foldl_dev]

@[simp] theorem writeQtbase_dev (s : State) (v : Word) : (writeQtbase s v).dev = s.dev := by
  unfold writeQtbase
  split <;> rfl

@[simp] theorem writeQtlen_dev (s : State) (v : Word) : (writeQtlen s v).dev = s.dev := by
  simp [writeQtlen, apply_ite State.dev]

@[simp] theorem writeEvent_dev (s : State) (p : HostPort) (v : Word) : (writeEvent s p v).dev = s.dev := by
  simp [writeEvent]

@[simp] theorem writeEvmask_dev (s : State) (p : HostPort) (v : Word) : (writeEvmask s p v).dev = s.dev := by
  simp [writeEvmask, apply_ite State.dev]

@[simp] theorem returnTo_dev (s : State) (p : HostPort) (v : Word) : (returnTo s p v).dev = s.dev := by
  simp [returnTo]

@[simp] theorem cutUnmapped_dev (p : HostPort) (s : State) (q : Nat) : (cutUnmapped p s q).dev = s.dev := by
  simp [cutUnmapped, apply_ite State.dev]

@[simp] theorem restoreRecord_dev (s : State) (q : Nat) (k : QKeep) : (restoreRecord s q k).dev = s.dev := by
  unfold restoreRecord
  split <;> simp

@[simp] theorem writeQscan_dev (s : State) (v : Word) : (writeQscan s v).dev = s.dev := by
  rfl

@[simp] theorem bar2Write_dev (s : State) (p : HostPort) (off size : Nat) (v : Word) : (bar2Write s p off size v).dev = s.dev := by
  unfold bar2Write
  split <;> simp

@[simp] theorem modLctx_dev (s : State) (n c : Nat) (f : LCtx → LCtx) : (modLctx s n c f).dev = s.dev := by
  rfl

@[simp] theorem sendLarder_dev (s : State) (n cls : Nat) (fs : List Flit) : (sendLarder s n cls fs).dev = s.dev := by
  rfl

@[simp] theorem sendMessage_dev (s : State) (n cls kind key : Nat) (ps : List (BitVec 1024)) : (sendMessage s n cls kind key ps).dev = s.dev := by
  rfl

@[simp] theorem putLctx_dev (s : State) (n c : Nat) (x : LCtx) : (putLctx s n c x).dev = s.dev := by
  rfl

@[simp] theorem startData_dev (s : State) (n c : Nat) (l : Launch) (x : LCtx) (m : LCmd) (one : Bool) : (startData s n c l x m one).dev = s.dev := by
  simp [startData, apply_ite State.dev]

@[simp] theorem startWait_dev (s : State) (n c : Nat) (l : Launch) (x : LCtx) (m : LCmd) : (startWait s n c l x m).dev = s.dev := by
  rfl

@[simp] theorem badCmd_dev (s : State) (n c : Nat) (x : LCtx) : (badCmd s n c x).dev = s.dev := by
  rfl

@[simp] theorem skipOne_dev (s : State) (n c : Nat) (l : Launch) (x : LCtx) (lv : Bool) : (skipOne s n c l x lv).dev = s.dev := by
  dsimp only [skipOne]
  (repeat' split) <;> simp

@[simp] theorem startCtx_dev (s : State) (n : Nat) (f : Flit) (ring : Bool) : (startCtx s n f ring).dev = s.dev := by
  simp [startCtx, apply_ite State.dev]

@[simp] theorem larderAnswer_dev (s : State) (n : Nat) (f : Flit) (tag code : Nat) : (larderAnswer s n f tag code).dev = s.dev := by
  rfl

@[simp] theorem issueSector_dev (s : State) (n c : Nat) (l : Launch) (x : LCtx) (m : LCmd) : (issueSector s n c l x m).dev = s.dev := by
  dsimp only [issueSector]
  (repeat' split) <;> simp

@[simp] theorem tryMark_dev (s : State) (n : Nat) : (tryMark s n).dev = s.dev := by
  unfold tryMark
  split
  · dsimp only
    split
    · exact (foldl_dev (fun s q => setLarder_dev ..) _ _).trans (setLarder_dev ..)
    · rfl
  · rfl

@[simp] theorem markHost_dev (s : State) (l : Launch) : (markHost s l).dev = s.dev := by
  exact foldl_dev (fun s q => modUnrid_dev ..) _ s

@[simp] theorem refuseServing_dev (s : State) (v : Serving) (code : Nat) : (refuseServing s v code).dev = s.dev := by
  rfl

@[simp] theorem freeService_dev (s : State) (n : Nat) : (freeService s n).dev = s.dev := by
  rfl

@[simp] theorem settleService_dev (s : State) (n : Nat) : (settleService s n).dev = s.dev := by
  dsimp only [settleService]
  split
  · (repeat' split) <;> simp
  · rfl

@[simp] theorem issueBurst_dev (s : State) (n : Nat) (l : Launch) (x : LCtx) (v : Serving) : (issueBurst s n l x v).dev = s.dev := by
  dsimp only [issueBurst]
  (repeat' split) <;> simp

@[simp] theorem accessAnswer_dev (s : State) (n : Nat) (a : AtticAccess) (code : Nat) : (accessAnswer s n a code).dev = s.dev := by
  rfl

@[simp] theorem accessData_dev (s : State) (n : Nat) (a : AtticAccess) : (accessData s n a).dev = s.dev := by
  rfl

@[simp] theorem endAccess_dev (s : State) (n i : Nat) (a : AtticAccess) (code : Nat) : (endAccess s n i a code).dev = s.dev := by
  simp [endAccess, apply_ite State.dev]

@[simp] theorem finishAccess_dev (s : State) (n i : Nat) (a : AtticAccess) (code : Nat) : (finishAccess s n i a code).dev = s.dev := by
  unfold finishAccess
  split <;> simp

@[simp] theorem accessStep_dev (s : State) (n i : Nat) (write : Bool) : (accessStep s n i write).dev = s.dev := by
  dsimp only [accessStep]
  (repeat' split) <;> simp

@[simp] theorem larderAccess_dev (s : State) (n cls kind : Nat) : (larderAccess s n cls kind).dev = s.dev := by
  dsimp only [larderAccess]
  (repeat' split) <;> simp

@[simp] theorem sendTransfer_dev (s : State) (n c : Nat) (r : LRead) (bs : List Byte) (key : Nat) : (sendTransfer s n c r bs key).dev = s.dev := by
  unfold sendTransfer
  (repeat' split) <;> simp

@[simp] theorem answerTransfer_dev (s : State) (n c key tag code : Nat) : (answerTransfer s n c key tag code).dev = s.dev := by
  dsimp only [answerTransfer]
  (repeat' split) <;> simp

@[simp] theorem larderReply_dev (s : State) (n kind : Nat) : (larderReply s n kind).dev = s.dev := by
  dsimp only [larderReply]
  (repeat' split) <;> simp

@[simp] theorem larderRdrsp_dev (s : State) (n cls : Nat) : (larderRdrsp s n cls).dev = s.dev := by
  dsimp only [larderRdrsp]
  (repeat' split) <;> simp

@[simp] theorem writeNotice_dev (s : State) (n c : Nat) : (writeNotice s n c).dev = s.dev := by
  simp [writeNotice, apply_ite State.dev]

@[simp] theorem checkStat_dev (s : State) (f : Flit) : (checkStat s f).dev = s.dev := by
  simp [checkStat, apply_ite State.dev]

theorem writeVa_dev {s t : State} {l : Launch} {va : Nat} {bs : List Byte} (h : writeVa s l va bs = some t) : t.dev = s.dev := by
  dsimp only [writeVa] at h
  split at h
  · cases h
    split <;> simp
  · cases h

@[simp] theorem recordStat_dev (s : State) (n : Nat) (f : Flit) : (recordStat s n f).dev = s.dev := by
  dsimp only [recordStat]
  split
  · rfl
  · split
    · rfl
    · split
      · rfl
      · next ht => rw [putLctx_dev, writeVa_dev ht]

@[simp] theorem drainLarder_dev (s : State) (l : Launch) (n : Nat) : (drainLarder s l n).dev = s.dev := by
  simp [drainLarder, foldl_dev]

@[simp] theorem restoreLarder_dev (s : State) (n : Nat) (bs : List Byte) : (restoreLarder s n bs).dev = s.dev := by
  simp [restoreLarder, apply_ite State.dev, foldl_dev]

@[simp] theorem restoreRegion_dev (s : State) (l : Launch) (i : Image) : (restoreRegion s l i).dev = s.dev := by
  exact (foldl_dev (fun s n => restoreLarder_dev ..) _ _).trans (foldl_dev (fun s k => modCore_dev ..) _ s)

@[simp] theorem sweepRunning_dev (s : State) (l : Launch) : (sweepRunning s l).dev = s.dev := by
  dsimp only [sweepRunning]
  split <;> simp

@[simp] theorem sweepDraining_dev (s : State) (l : Launch) : (sweepDraining s l).dev = s.dev := by
  simp [sweepDraining, apply_ite State.dev, foldl_dev]

@[simp] theorem beginDrain_dev (s : State) (l : Launch) (k : EntryKey) (save : Word) : (beginDrain s l k save).dev = s.dev := by
  dsimp only [beginDrain]
  rw [markHost_dev, foldl_dev fun s n => drainLarder_dev .., foldl_dev fun s k => modCore_dev .., modLaunch_dev]

@[simp] theorem copyPart_dev (s : State) (out : Bool) (p : HostPort) (h pa : Nat) (x : Nat × Nat × Nat) : (copyPart s out p h pa x).dev = s.dev := by
  unfold copyPart
  split <;> simp

@[simp] theorem spoilParts_dev (s : State) (actx : Nat) (out : Bool) (p : HostPort) (h : Nat) (xs : List (Nat × Nat × Nat)) : (spoilParts s actx out p h xs).dev = s.dev := by
  refine foldl_dev (fun t x => ?_) xs s
  (repeat' split) <;> simp

@[simp] theorem setCtx_dev (s : State) (n : Nat) (x : AtticCtx) : (setCtx s n x).dev = s.dev := by
  rfl

@[simp] theorem endStep_dev (s : State) (u : Nat) (m : MergeStep) (status result : Nat) : (endStep s u m status result).dev = s.dev := by
  simp [endStep]

@[simp] theorem sendCtrl_dev (s : State) (n : Nat) : (sendCtrl s n).dev = s.dev := by
  rfl

@[simp] theorem sendGlobal_dev (s : State) (m : MergeStep) (a : Word) (bs : List Byte) : (sendGlobal s m a bs).dev = s.dev := by
  dsimp only [sendGlobal]
  (repeat' split) <;> simp

theorem mergeIndex_dev {s t : State} {m m' : MergeStep} (h : mergeIndex s m = some (t, m')) : t.dev = s.dev := by
  dsimp only [mergeIndex] at h
  split at h
  · cases h
  · cases h
    simp

@[simp] theorem advanceStep_dev (s : State) (u : Nat) (m : MergeStep) : (advanceStep s u m).dev = s.dev := by
  unfold advanceStep
  split
  · simp
  · next hm => split <;> simp [mergeIndex_dev hm]

@[simp] theorem leaveStale_dev (s : State) (m : MergeStep) : (leaveStale s m).dev = s.dev := by
  rfl

@[simp] theorem abortStep_dev (s : State) (u : Nat) (m : MergeStep) : (abortStep s u m).dev = s.dev := by
  unfold abortStep
  split <;> simp

@[simp] theorem contribute_dev (s : State) (n : Nat) (m : MergeStep) (f : Flit) : (contribute s n m f).dev = s.dev := by
  simp [contribute, apply_ite State.dev]

end Sys2Proof.Proofs

/-! In FATAL the wafer is stopped, after every step (R98). -/

namespace Sys2Proof.Proofs
open Sys2Proof Sys2Proof.Machine Sys2Proof.Laws

/-! ## Outcomes that keep the wafer stopped in FATAL -/

/-- From a state in which FATAL implies the stop, an outcome is such a state. -/
def FatalKept (s : State) (o : Host.Outcome State Fault Refusal) : Prop := fatalStops s → ∀ t, o = .next t → fatalStops t

section
variable {s t : State}

theorem fatalStops_of_sameRun (h : SameRun s t) (hs : fatalStops s) : fatalStops t := by
  rw [fatalStops, h.1, h.2]
  exact hs

theorem kept_next (h : fatalStops s → fatalStops t) : FatalKept s (.next t) := by
  intro hs t' ht
  cases ht
  exact h hs

theorem kept_sameRun (h : SameRun s t) : FatalKept s (.next t) := kept_next (fatalStops_of_sameRun h)

theorem kept_dev (h : t.dev = s.dev) : FatalKept s (.next t) := kept_sameRun (sameRun_of_dev h)

theorem kept_fault (f : Fault) : FatalKept s (.fault f) := fun _ _ h => nomatch h

end

/-! ## Wrappers of events -/

theorem onEntry_kept {s : State} {k : EntryKey} {op : Nat} {body : Entry → State} (h : ∀ e, (body e).dev = s.dev) :
    FatalKept s (onEntry s k op body) := by
  unfold onEntry
  split
  · exact kept_dev (h _)
  · exact kept_dev rfl

theorem onWafer_kept {s : State} {k : EntryKey} {op : Nat} {bad : Entry → Bool} {body : Entry → State}
    (h : ∀ e, (body e).dev = s.dev) : FatalKept s (onWafer s k op bad body) :=
  onEntry_kept fun e => by simp [apply_ite State.dev, h]

theorem onAmap_kept {s : State} {k : EntryKey} {op : Nat} {body : Nat → Entry → Except Nat State}
    (h : ∀ n e t, body n e = .ok t → t.dev = s.dev) : FatalKept s (onAmap s k op body) :=
  onEntry_kept fun e => by
    split
    · rfl
    · split
      · next ht => rw [endEntry_dev, h _ _ _ ht]
      · simp

theorem onQuery_kept (s : State) (k : EntryKey) (item need result : Nat) (bytes : Entry → HostPort → Nat → List Byte) :
    FatalKept s (onQuery s k item need result bytes) := onEntry_kept fun e => by simp [apply_ite State.dev]

theorem onLctx_kept {s : State} {n c : Nat} {body : Launch → LCtx → State} (h : ∀ l x, (body l x).dev = s.dev) :
    FatalKept s (onLctx s n c body) := by
  unfold onLctx
  split
  · exact kept_dev (h _ _)
  · exact kept_dev rfl

theorem onCommand_kept {s : State} {n c : Nat} {kind : LCmd → Bool} {body : Launch → LCtx → LCmd → State}
    (h : ∀ l x m, (body l x m).dev = s.dev) : FatalKept s (onCommand s n c kind body) :=
  onLctx_kept fun l x => by (repeat' split) <;> simp [h]

theorem takeLctl_kept {s : State} {n op : Nat} {body : State → Launch → Flit → State} (h : ∀ t l f, (body t l f).dev = t.dev) :
    FatalKept s (takeLctl s n op body) := by
  unfold takeLctl
  dsimp only
  (repeat' split) <;> exact kept_dev (by simp [h])

/-! ## Events -/

theorem execEventWrite_kept (p : HostPort) (v : Word) (s : State) : FatalKept s (execEventWrite p v s) :=
  kept_dev (by simp)

theorem execEvmaskWrite_kept (p : HostPort) (v : Word) (s : State) : FatalKept s (execEvmaskWrite p v s) :=
  kept_dev (by simp)

theorem execNotifyWrite_kept (p : HostPort) (slot : BitVec 6) (v : Word) (s : State) : FatalKept s (execNotifyWrite p slot v s) :=
  kept_dev (by simp)

theorem execQtbaseWrite_kept (v : Word) (s : State) : FatalKept s (execQtbaseWrite v s) :=
  kept_dev (by simp)

theorem execQtlenWrite_kept (v : Word) (s : State) : FatalKept s (execQtlenWrite v s) :=
  kept_dev (by simp)

theorem execHostLinkUp_kept (p : HostPort) (s : State) : FatalKept s (execHostLinkUp p s) := by
  dsimp only [execHostLinkUp]
  (repeat' split) <;> exact kept_dev (by simp [foldl_dev])

theorem execQueueScan_kept (s : State) : FatalKept s (execQueueScan s) := by
  dsimp only [execQueueScan]
  (repeat' split) <;> exact kept_dev (by simp [foldl_dev])

theorem execQueueIdleUnmap_kept (slot : BitVec 6) (s : State) : FatalKept s (execQueueIdleUnmap slot s) := by
  unfold execQueueIdleUnmap
  (repeat' split) <;> exact kept_dev (by simp)

theorem execEntryFetch_kept (slot : BitVec 6) (s : State) : FatalKept s (execEntryFetch slot s) := by
  unfold execEntryFetch
  (repeat' split) <;> exact kept_dev (by simp)

theorem execQueueEntryCompletion_kept (k : EntryKey) (s : State) : FatalKept s (execQueueEntryCompletion k s) := by
  unfold execQueueEntryCompletion
  (repeat' split) <;> exact kept_dev (by simp)

theorem execLaunch_kept (k : EntryKey) (s : State) : FatalKept s (execLaunch k s) :=
  onEntry_kept fun e => by (repeat' split) <;> simp

theorem execColl_kept (k : EntryKey) (s : State) : FatalKept s (execColl k s) :=
  onWafer_kept fun e => by
    dsimp only
    (repeat' split) <;> simp

theorem execWaitq_kept (k : EntryKey) (s : State) : FatalKept s (execWaitq k s) :=
  onEntry_kept fun _ => setEntry_dev ..

theorem execWaitqComplete_kept (k : EntryKey) (s : State) : FatalKept s (execWaitqComplete k s) := by
  unfold execWaitqComplete
  (repeat' split) <;> exact kept_dev (by simp)

theorem hostSignal_dev {s t : State} {a v : Word} {add : Bool} (h : hostSignal s a v add = some t) : t.dev = s.dev := by
  dsimp only [hostSignal] at h
  split at h
  · cases h
    simp
  · cases h

theorem execSignal_kept (k : EntryKey) (s : State) : FatalKept s (execSignal k s) :=
  onEntry_kept fun e => by
    split
    · next ht => rw [endEntry_dev, hostSignal_dev ht]
    · simp

theorem copyAll_dev (actx : Nat) (out : Bool) (p : HostPort) (h : Nat) (s : State) (i : Nat) (xs : List (Nat × Nat × Nat)) :
    (copyAll actx out p h s i xs).1.dev = s.dev := by
  induction xs generalizing s i with
  | nil => rfl
  | cons x xs ih =>
    rw [copyAll]
    split
    · exact spoilParts_dev ..
    · exact (ih _ _).trans (copyPart_dev ..)

theorem execAcopy_kept (k : EntryKey) (s : State) : FatalKept s (execAcopy k s) :=
  onWafer_kept fun e => by
    dsimp only
    (repeat' split) <;> simp [copyAll_dev]

theorem execAmapSetroot_kept (k : EntryKey) (s : State) : FatalKept s (execAmapSetroot k s) :=
  onAmap_kept fun n e t h => by
    dsimp only at h
    (repeat' split at h) <;> cases h
    rfl

theorem execAmapMap_kept (k : EntryKey) (s : State) : FatalKept s (execAmapMap k s) :=
  onAmap_kept fun n e t h => by
    dsimp only at h
    (repeat' split at h) <;> cases h
    rfl

theorem execAmapUnmap_kept (k : EntryKey) (s : State) : FatalKept s (execAmapUnmap k s) :=
  onAmap_kept fun n e t h => by
    split at h
    · cases h
    · cases h
      rfl

theorem execAmapDrop_kept (k : EntryKey) (s : State) : FatalKept s (execAmapDrop k s) :=
  onAmap_kept fun n e t h => by
    split at h
    · cases h
    · split at h
      · cases h
      · cases h
        rfl

theorem resumeCtx_dev (s : State) (n c : Nat) : (resumeCtx s n c).1.dev = s.dev := by
  dsimp only [resumeCtx]
  (repeat' split) <;> rfl

theorem execLresume_kept (k : EntryKey) (s : State) : FatalKept s (execLresume k s) :=
  onWafer_kept fun e => by
    split <;> next h => rw [endEntry_dev, ← resumeCtx_dev s, h]

theorem execPreempt_kept (k : EntryKey) (s : State) : FatalKept s (execPreempt k s) :=
  onEntry_kept fun e => by (repeat' split) <;> simp

theorem execQueryCerts_kept (k : EntryKey) (s : State) : FatalKept s (execQueryCerts k s) :=
  onQuery_kept s k 1 35280 35280 _

theorem execQueryAttest_kept (k : EntryKey) (s : State) : FatalKept s (execQueryAttest k s) :=
  onQuery_kept s k 2 16768 0 _

theorem execQuerySavesize_kept (k : EntryKey) (s : State) : FatalKept s (execQuerySavesize k s) :=
  onEntry_kept fun e => by (repeat' split) <;> simp

theorem execImageLoad_kept (k : EntryKey) (s : State) : FatalKept s (execImageLoad k s) :=
  onEntry_kept fun e => by
    dsimp only
    (repeat' split) <;> simp

theorem execImageDrop_kept (k : EntryKey) (s : State) : FatalKept s (execImageDrop k s) :=
  onEntry_kept fun e => by
    dsimp only
    (repeat' split) <;> simp

theorem execRegionGrant_kept (k : EntryKey) (s : State) : FatalKept s (execRegionGrant k s) := by
  dsimp only [execRegionGrant]
  split
  · exact kept_dev rfl
  · split
    · exact kept_dev rfl
    · split
      · exact kept_dev (by simp)
      · exact kept_dev (foldl_dev (fun s i => setLarder_dev ..) _ _)

theorem execLaunchLoadComplete_kept (num : Nat) (s : State) : FatalKept s (execLaunchLoadComplete num s) := by
  dsimp only [execLaunchLoadComplete]
  split
  · exact kept_dev rfl
  · split
    · exact kept_dev rfl
    · split
      · exact kept_dev (endLaunch_dev ..)
      · split
        · exact kept_dev rfl
        · refine kept_dev ?_
          rw [modLaunch_dev]
          dsimp only
          split
          · exact restoreRegion_dev ..
          · exact foldl_dev (fun t k => modCore_dev ..) _ s

theorem execQuiescenceSweep_kept (num : Nat) (s : State) : FatalKept s (execQuiescenceSweep num s) := by
  unfold execQuiescenceSweep
  (repeat' split) <;> exact kept_dev (by simp)

theorem execPoluriEnable_kept (n : BitVec 6) (s : State) : FatalKept s (execPoluriEnable n s) := by
  dsimp only [execPoluriEnable]
  (repeat' split) <;> exact kept_dev (by simp)

theorem execPoluriDisable_kept (n : BitVec 6) (s : State) : FatalKept s (execPoluriDisable n s) :=
  kept_dev (by simp)

theorem execPoluriFlitSend_kept (n : BitVec 6) (cls : BitVec 5) (s : State) : FatalKept s (execPoluriFlitSend n cls s) := by
  dsimp only [execPoluriFlitSend]
  (repeat' split) <;> exact kept_dev (by simp)

theorem execEdgeMergeContribution_kept (n : BitVec 6) (s : State) : FatalKept s (execEdgeMergeContribution n s) := by
  unfold execEdgeMergeContribution
  (repeat' split) <;> exact kept_dev (by simp)

theorem execReduceLate_kept (south : Bool) (s : State) : FatalKept s (execReduceLate south s) := by
  dsimp only [execReduceLate]
  (repeat' split) <;> exact kept_dev (by simp)

theorem execFlitHop_kept (h : Hop) (s : State) : FatalKept s (execFlitHop h s) := by
  unfold execFlitHop
  (repeat' split) <;> exact kept_dev (by simp)

theorem execMergeCombine_kept (prow pcol : Nat) (cls : BitVec 5) (s : State) : FatalKept s (execMergeCombine prow pcol cls s) := by
  dsimp only [execMergeCombine]
  (repeat' split) <;> exact kept_dev (by simp)

theorem execRenormArrival_kept (row col : Nat) (s : State) : FatalKept s (execRenormArrival row col s) := by
  unfold execRenormArrival
  (repeat' split) <;> exact kept_dev (by simp)

theorem execClassStall_kept (prow pcol : Nat) (cls : BitVec 5) (s : State) : FatalKept s (execClassStall prow pcol cls s) := by
  dsimp only [execClassStall]
  (repeat' split) <;> exact kept_dev (by simp)

theorem execMsgDelivery_kept (row col : Nat) (cls : BitVec 5) (s : State) : FatalKept s (execMsgDelivery row col cls s) := by
  dsimp only [execMsgDelivery]
  (repeat' split) <;> exact kept_dev (by simp)

theorem execCellarToQueue_kept (row col : Nat) (cls : BitVec 5) (s : State) : FatalKept s (execCellarToQueue row col cls s) := by
  dsimp only [execCellarToQueue]
  (repeat' split) <;> exact kept_dev (by simp)

theorem execWriteMessage_kept (row col : Nat) (cls : BitVec 5) (s : State) : FatalKept s (execWriteMessage row col cls s) := by
  unfold execWriteMessage
  (repeat' split) <;> exact kept_dev (by simp)

theorem execSignalMessage_kept (row col : Nat) (cls : BitVec 5) (s : State) : FatalKept s (execSignalMessage row col cls s) :=
  kept_dev (by simp)

theorem execRdreqMessage_kept (row col : Nat) (cls : BitVec 5) (s : State) : FatalKept s (execRdreqMessage row col cls s) := by
  unfold execRdreqMessage
  (repeat' split) <;> exact kept_dev (by simp)

theorem execRdrspMessage_kept (row col : Nat) (cls : BitVec 5) (s : State) : FatalKept s (execRdrspMessage row col cls s) := by
  unfold execRdrspMessage
  (repeat' split) <;> exact kept_dev (by simp)

theorem execRaddMessage_kept (row col : Nat) (cls : BitVec 5) (s : State) : FatalKept s (execRaddMessage row col cls s) :=
  kept_dev (by simp)

theorem execAmoreqMessage_kept (row col : Nat) (cls : BitVec 5) (s : State) : FatalKept s (execAmoreqMessage row col cls s) :=
  kept_dev (by simp)

theorem execAmorspMessage_kept (row col : Nat) (cls : BitVec 5) (s : State) : FatalKept s (execAmorspMessage row col cls s) :=
  kept_dev (by simp)

theorem execDfaddBatchClose_kept (row col : Nat) (addr : BitVec 19) (s : State) : FatalKept s (execDfaddBatchClose row col addr s) := by
  dsimp only [execDfaddBatchClose]
  (repeat' split) <;> exact kept_dev (by simp)

theorem execAckMessage_kept (row col : Nat) (s : State) : FatalKept s (execAckMessage row col s) := by
  unfold execAckMessage
  (repeat' split) <;> exact kept_dev (by simp)

theorem execNackMessage_kept (row col : Nat) (s : State) : FatalKept s (execNackMessage row col s) := by
  unfold execNackMessage
  (repeat' split) <;> exact kept_dev (by simp)

theorem execDrainMarker_kept (row col : Nat) (s : State) : FatalKept s (execDrainMarker row col s) := by
  dsimp only [execDrainMarker]
  (repeat' split) <;> exact kept_dev (by simp)

theorem execCapRead_kept (row col : Nat) (s : State) : FatalKept s (execCapRead row col s) :=
  kept_dev (by simp)

theorem execCapWrite_kept (row col : Nat) (s : State) : FatalKept s (execCapWrite row col s) :=
  kept_dev (by simp)

theorem execCapHalt_kept (row col : Nat) (s : State) : FatalKept s (execCapHalt row col s) :=
  kept_dev (by simp)

theorem execCapResume_kept (row col : Nat) (s : State) : FatalKept s (execCapResume row col s) :=
  kept_dev (by simp)

theorem execCapWake_kept (row col : Nat) (s : State) : FatalKept s (execCapWake row col s) :=
  kept_dev (by simp)

theorem execPantryPush_kept (row col : Nat) (cls : BitVec 5) (s : State) : FatalKept s (execPantryPush row col cls s) :=
  kept_dev (by simp)

theorem execHeldDeliveryResume_kept (row col : Nat) (cls : BitVec 5) (s : State) : FatalKept s (execHeldDeliveryResume row col cls s) :=
  kept_dev (by simp)

theorem execSramPush_kept (row col : Nat) (cls : BitVec 5) (s : State) : FatalKept s (execSramPush row col cls s) :=
  kept_dev (by simp)

theorem execBurstDelivery_kept (row col : Nat) (s : State) : FatalKept s (execBurstDelivery row col s) :=
  kept_dev (by simp)

theorem execStatSink_kept (a : Attach) (s : State) : FatalKept s (execStatSink a s) := by
  dsimp only [execStatSink]
  (repeat' split) <;> exact kept_dev (by simp)

theorem execTaskDispatch_kept (row col : Nat) (s : State) : FatalKept s (execTaskDispatch row col s) := by
  dsimp only [execTaskDispatch]
  (repeat' split) <;> exact kept_dev (by simp)

theorem execResultWriteback_kept (row col : Nat) (s : State) : FatalKept s (execResultWriteback row col s) := by
  unfold execResultWriteback
  (repeat' split) <;> exact kept_dev (by simp)

theorem execStallRelease_kept (row col : Nat) (s : State) : FatalKept s (execStallRelease row col s) :=
  kept_dev (by simp)

theorem podStep_dev (s : State) (id : BitVec 3) : (podStep s id).1.dev = s.dev := by
  dsimp only [podStep]
  (repeat' split) <;> simp

theorem execBarrierRelease_kept (sc : Scope) (id : BitVec 3) (row col : Nat) (s : State) : FatalKept s (execBarrierRelease sc id row col s) := by
  unfold execBarrierRelease
  split
  · dsimp only
    split
    · have hpod : (if sc = .pod then podStep s id else (s, true)).1.dev = s.dev := by
        split
        · exact podStep_dev s id
        · rfl
      generalize (if sc = .pod then podStep s id else (s, true)) = r at hpod
      refine kept_dev ?_
      split
      · exact (foldl_dev (fun s k => modCore_dev ..) _ _).trans hpod
      · exact hpod
    · exact kept_dev rfl
  · exact kept_dev rfl

theorem execSleepWake_kept (row col : Nat) (s : State) : FatalKept s (execSleepWake row col s) :=
  kept_dev (by simp)

theorem execSleepTimeout_kept (row col : Nat) (s : State) : FatalKept s (execSleepTimeout row col s) :=
  kept_dev (by simp)

theorem execStartList_kept (n : Nat) (s : State) : FatalKept s (execStartList n s) :=
  takeLctl_kept fun _ _ _ => startCtx_dev ..

theorem execStartRing_kept (n : Nat) (s : State) : FatalKept s (execStartRing n s) :=
  takeLctl_kept fun _ _ _ => startCtx_dev ..

theorem execContextStop_kept (n : Nat) (s : State) : FatalKept s (execContextStop n s) :=
  takeLctl_kept fun t l f => by dsimp only; (repeat' split) <;> simp

theorem execCsig_kept (n : Nat) (s : State) : FatalKept s (execCsig n s) :=
  takeLctl_kept fun t l f => by dsimp only; (repeat' split) <;> simp

theorem execLsubAppend_kept (n : Nat) (s : State) : FatalKept s (execLsubAppend n s) :=
  takeLctl_kept fun t l f => by dsimp only; (repeat' split) <;> simp

theorem execStream_kept (n c : Nat) (s : State) : FatalKept s (execStream n c s) :=
  onLctx_kept fun l x => by (repeat' split) <;> simp

theorem execGather_kept (n c : Nat) (s : State) : FatalKept s (execGather n c s) :=
  onLctx_kept fun l x => by (repeat' split) <;> simp

theorem execWback_kept (n c : Nat) (s : State) : FatalKept s (execWback n c s) :=
  onLctx_kept fun l x => by (repeat' split) <;> simp

theorem execBcast_kept (n c : Nat) (s : State) : FatalKept s (execBcast n c s) :=
  onLctx_kept fun l x => by (repeat' split) <;> simp

theorem execLarderSignal_kept (n c : Nat) (s : State) : FatalKept s (execLarderSignal n c s) :=
  onCommand_kept fun l x m => by (repeat' split) <;> simp

theorem execLarderEvent_kept (n c : Nat) (s : State) : FatalKept s (execLarderEvent n c s) :=
  onCommand_kept fun l x m => by
    split
    · dsimp only
      split
      · next ht =>
        rw [putLctx_dev, ← hostSignal_dev ht]
        split <;> simp
      · rfl
    · rfl

theorem execWaitw_kept (n c : Nat) (s : State) : FatalKept s (execWaitw n c s) :=
  onCommand_kept fun l x m => by (repeat' split) <;> simp

theorem execWaitc_kept (n c : Nat) (s : State) : FatalKept s (execWaitc n c s) :=
  onLctx_kept fun l x => by (repeat' split) <;> simp

theorem execLarderFence_kept (n c : Nat) (s : State) : FatalKept s (execLarderFence n c s) :=
  onLctx_kept fun l x => by (repeat' split) <;> simp

theorem execLarderLoop_kept (n c : Nat) (s : State) : FatalKept s (execLarderLoop n c s) := by
  dsimp only [execLarderLoop]
  split
  · split
    · split <;> exact kept_dev (by simp)
    · refine onCommand_kept fun l x m => ?_
      split
      · (repeat' split) <;> simp
      · rfl
  · exact kept_dev rfl

theorem execEndl_kept (n c : Nat) (s : State) : FatalKept s (execEndl n c s) :=
  onLctx_kept fun l x => by dsimp only; (repeat' split) <;> simp

theorem execJump_kept (n c : Nat) (s : State) : FatalKept s (execJump n c s) :=
  onCommand_kept fun l x m => by (repeat' split) <;> simp

theorem execSetv_kept (n c : Nat) (s : State) : FatalKept s (execSetv n c s) :=
  onCommand_kept fun l x m => by (repeat' split) <;> simp

theorem execAddv_kept (n c : Nat) (s : State) : FatalKept s (execAddv n c s) :=
  onCommand_kept fun l x m => by (repeat' split) <;> simp

theorem execLarderStop_kept (n c : Nat) (s : State) : FatalKept s (execLarderStop n c s) :=
  onLctx_kept fun l x => by (repeat' split) <;> simp

theorem execLarderWaitResume_kept (n c : Nat) (s : State) : FatalKept s (execLarderWaitResume n c s) :=
  onLctx_kept fun l x => by (repeat' split) <;> simp

theorem execLarderSectorIssue_kept (n c : Nat) (s : State) : FatalKept s (execLarderSectorIssue n c s) :=
  onLctx_kept fun l x => by (repeat' split) <;> simp

theorem execLarderFaultEnter_kept (n c : Nat) (s : State) : FatalKept s (execLarderFaultEnter n c s) :=
  onLctx_kept fun l x => by (repeat' split) <;> simp

theorem execAtticReadResponse_kept (n c : Nat) (s : State) : FatalKept s (execAtticReadResponse n c s) := by
  unfold execAtticReadResponse
  split
  · exact kept_dev (accessStep_dev ..)
  · refine onLctx_kept fun l x => ?_
    dsimp only
    (repeat' split) <;> simp

theorem execAtticWriteAccept_kept (n c : Nat) (s : State) : FatalKept s (execAtticWriteAccept n c s) := by
  unfold execAtticWriteAccept
  split
  · exact kept_dev (accessStep_dev ..)
  · refine onLctx_kept fun l x => ?_
    dsimp only
    (repeat' split) <;> simp

theorem execBreadServiceStart_kept (n : Nat) (s : State) : FatalKept s (execBreadServiceStart n s) :=
  onLctx_kept fun l x => by dsimp only; (repeat' split) <;> simp

theorem execBreadSourceBurst_kept (row col : Nat) (s : State) : FatalKept s (execBreadSourceBurst row col s) := by
  dsimp only [execBreadSourceBurst]
  (repeat' split) <;> exact kept_dev (by simp)

/-! ## Faults and the wafer stop -/

section
variable {s : State}

theorem foldl_fatalStops {α : Type} {f : State → α → State} (hf : ∀ s a, fatalStops s → fatalStops (f s a)) (l : List α)
    (h : fatalStops s) : fatalStops (l.foldl f s) := by
  induction l generalizing s with
  | nil => exact h
  | cons a l ih => exact ih (hf s a h)

theorem fatalStops_of_st (h : s.dev.st ≠ .fatal) : fatalStops s := fun hf => absurd hf h

theorem regionFault_fatalStops (num cause prow pcol : Nat) (h : fatalStops s) : fatalStops (regionFault s num cause prow pcol) :=
  fatalStops_of_sameRun (regionFault_st ..) h

theorem assertStop_fatalStops (s : State) : fatalStops (assertStop s) := fun _ => assertStop_stopped s

theorem waferFault_fatalStops (cause prow pcol : Nat) (h : fatalStops s) : fatalStops (waferFault s cause prow pcol) := by
  unfold waferFault
  split
  · exact h
  · exact fun _ => assertStop_stopped s

theorem releaseStop_fatalStops (h : fatalStops s) : fatalStops (releaseStop s) := by
  unfold releaseStop
  split
  · exact h
  · next hst =>
    split
    · exact h
    · exact fatalStops_of_st hst

theorem stopWafer_st (s : State) : (stopWafer s).dev.st = s.dev.st := by
  unfold stopWafer
  split <;> rfl

theorem underStop_sameRun {body : State → State} (h : ∀ t, (body t).dev.st = t.dev.st) : SameRun s (underStop s body) :=
  ⟨(h _).trans (stopWafer_st s), rfl⟩

theorem abortNoted_sameRun (s : State) (fs : List FaultRec) : SameRun s (abortNoted s fs) := by
  unfold abortNoted
  split
  · exact ⟨rfl, rfl⟩
  · exact (underStop_sameRun fun t => by simp).trans (sameRun_of_dev (foldl_abortRegion_dev fs _))

theorem settleFaults_fatalStops (h : fatalStops s) : fatalStops (settleFaults s) := by
  unfold settleFaults
  split
  · exact h
  · split
    · intro _
      rw [fatalStop_dev, foldl_abortRegion_dev, modDev_dev, writeDump_dev]
      exact assertStop_stopped s
    · split
      · exact h
      · exact fatalStops_of_sameRun (abortNoted_sameRun ..) h

theorem elapse_dev (s : State) (n : Nat) : (elapse s n).dev = (settleFaults s).dev := by
  dsimp only [elapse]
  split <;> simp

theorem elapse_fatalStops (n : Nat) (h : fatalStops s) : fatalStops (elapse s n) := by
  rw [fatalStops, elapse_dev]
  exact settleFaults_fatalStops h

theorem elapseOutcome_kept {n : Nat} {o : Host.Outcome State Fault Refusal} (h : FatalKept s o) : FatalKept s (elapseOutcome n o) := by
  intro hs t ht
  cases o with
  | next u =>
    cases ht
    exact elapse_fatalStops n (h hs u rfl)
  | fault f | refused r => cases ht

end

/-! ## Issue -/

section
variable {s : State}

theorem coreRegionFault_sameRun (s : State) (k cause : Nat) : SameRun s (coreRegionFault s k cause) := by
  unfold coreRegionFault
  split
  · exact regionFault_st ..
  · exact ⟨rfl, rfl⟩

theorem trapEntry_sameRun (s : State) (k : Nat) (t : TrapInfo) : SameRun s (Machine.trapEntry s k t) := by
  dsimp only [Machine.trapEntry]
  split
  · exact coreRegionFault_sameRun ..
  · exact ⟨rfl, rfl⟩

theorem takeTrap_sameRun (s : State) (k : Nat) (t : TrapInfo) (a : BitVec 16) : SameRun s (takeTrap s k t a) :=
  (sameRun_of_dev (setCore_dev ..)).trans (trapEntry_sameRun ..)

theorem contextTrap_sameRun (s : State) (k : Nat) (ctx : Ctx) (t : TrapInfo) (a : BitVec 16) : SameRun s (contextTrap s k ctx t a) := by
  unfold contextTrap
  split
  · exact ⟨rfl, rfl⟩
  · split
    · exact takeTrap_sameRun ..
    · refine (sameRun_of_dev (foldl_dev (fun s k => modCore_dev ..) _ s)).trans (foldl_sameRun (fun s k' => ?_) _ _)
      split <;> exact takeTrap_sameRun ..

theorem applyPost_dev (s : State) (p : Post) : (applyPost s p).dev = s.dev := by
  cases p <;> rfl

theorem applyVerdict_fatalStops (k : Nat) (ctx : Ctx) (a : BitVec 16) (v : Verdict) (h : fatalStops s) :
    fatalStops (applyVerdict s k ctx a v) := by
  cases v with
  | done c posts => exact fatalStops_of_sameRun (sameRun_of_dev ((foldl_dev applyPost_dev posts _).trans (setCore_dev ..))) h
  | trap code val => exact fatalStops_of_sameRun (contextTrap_sameRun ..) h
  | request code val =>
    dsimp only [applyVerdict]
    split
    · exact h
    · split
      · exact fatalStops_of_sameRun (contextTrap_sameRun ..) h
      · exact fatalStops_of_sameRun (SameRun.trans ⟨rfl, rfl⟩ (contextTrap_sameRun ..)) h
  | watch n act =>
    dsimp only [applyVerdict]
    split
    · exact h
    · exact assertStop_fatalStops s
    · exact fatalStops_of_sameRun (contextTrap_sameRun ..) h
    · exact h
  | wait c w => exact h
  | stall => exact h
  | drain refs => exact h
  | flush => exact h
  | await p => exact h

theorem applyBoundary_fatalStops (k : Nat) (ctx : Ctx) (b : Boundary) (h : fatalStops s) : fatalStops (applyBoundary s k ctx b) := by
  cases b with
  | trap t =>
    dsimp only [applyBoundary]
    split
    · exact fatalStops_of_sameRun (contextTrap_sameRun ..) h
    · exact h
  | halt => exact h
  | stop => exact assertStop_fatalStops s
  | drain => exact h
  | clear => exact h

theorem takeBoundary_fatalStops (k : Nat) (ctx : Ctx) (b : Boundary) (h : fatalStops s) : fatalStops (takeBoundary s k ctx b) :=
  applyBoundary_fatalStops (s := modCore s k fun c => dropWatch c ctx) k ctx b h

theorem takeTrap_fatalStops (k : Nat) (t : TrapInfo) (a : BitVec 16) (h : fatalStops s) : fatalStops (takeTrap s k t a) :=
  fatalStops_of_sameRun (takeTrap_sameRun ..) h

theorem modCores_fatalStops (ks : List Nat) (f : Nat → Core → Core) (h : fatalStops s) :
    fatalStops (ks.foldl (fun s k => modCore s k (f k)) s) :=
  foldl_fatalStops (f := fun s k => modCore s k (f k)) (fun _ _ h => h) ks h

theorem issueGang_fatalStops (op : Op) (g : GangSt) (h : fatalStops s) : fatalStops (issueGang op s g) := by
  dsimp only [issueGang]
  split
  · exact modCores_fatalStops _ _ (foldl_fatalStops (fun s v h => applyVerdict_fatalStops _ _ _ _ h) _ (modCores_fatalStops _ _ h))
  · split
    · refine foldl_fatalStops (fun s v h => ?_) _ (modCores_fatalStops _ _ (modCores_fatalStops _ _ h))
      split
      · exact applyVerdict_fatalStops _ _ _ _ h
      · exact takeTrap_fatalStops _ _ _ h
    · refine foldl_fatalStops (fun s v h => ?_) _ (modCores_fatalStops _ _ h)
      split
      · exact h
      · exact applyVerdict_fatalStops _ _ _ _ h

theorem gangBoundary_fatalStops (ks : List Nat) (h : fatalStops s) : fatalStops (gangBoundary s ks) := by
  dsimp only [gangBoundary]
  split
  · refine foldl_fatalStops (fun s b h => ?_) _ (modCores_fatalStops _ _ h)
    split
    · exact takeBoundary_fatalStops _ _ _ h
    · exact takeTrap_fatalStops _ _ _ h
  · split
    · exact takeBoundary_fatalStops _ _ _ h
    · exact h

theorem issue_kept (op : Op) (s : State) : FatalKept s (issue op s) := by
  dsimp only [issue]
  split
  · exact kept_fault _
  · split
    · split
      · exact kept_next fun h => issueGang_fatalStops (s := { s with freeCtr := s.freeCtr + 1 }) _ _ h
      · exact kept_next fun h => gangBoundary_fatalStops (s := { s with freeCtr := s.freeCtr + 1 }) _ h
    · split
      · exact kept_next fun h => applyVerdict_fatalStops (s := { s with freeCtr := s.freeCtr + 1 }) _ _ _ _ h
      · exact kept_next fun h => takeBoundary_fatalStops (s := { s with freeCtr := s.freeCtr + 1 }) _ _ _ h

theorem refuseGang_fatalStops (ks : List Nat) (word : Bool) (h : fatalStops s) : fatalStops (refuseGang s ks word) := by
  refine foldl_fatalStops (fun s k h => ?_) ks h
  dsimp only
  split
  · exact takeBoundary_fatalStops _ _ _ h
  · exact takeTrap_fatalStops _ _ _ h

theorem formGang_fatalStops (k : Nat) (block : Bool) (h : fatalStops s) : fatalStops (formGang s k block) := by
  dsimp only [formGang]
  split
  · exact refuseGang_fatalStops _ _ h
  · split
    · exact refuseGang_fatalStops _ _ h
    · split
      · split
        · exact refuseGang_fatalStops _ _ h
        · exact modCores_fatalStops _ _ h
      · exact h

theorem execGang_kept (h : Hdr) (block : Bool) (s : State) : FatalKept s (execGang h block s) := by
  intro hs t ht
  dsimp only [execGang] at ht
  split at ht
  · next u hu =>
    have hu' := issue_kept _ s hs u hu
    cases ht
    split
    · exact formGang_fatalStops _ _ hu'
    · exact hu'
  · exact issue_kept _ s hs t ht

/-- Whatever instruction a core fetches keeps the wafer stopped in FATAL. -/
theorem exec_fetched_kept (i : Instr) (hi : i.wf = true) (s : State) : FatalKept s (exec i s) := by
  by_cases hg : ∃ h b, i = .gang h b
  · obtain ⟨h, b, rfl⟩ := hg
    exact execGang_kept h b s
  · simp only [not_exists] at hg
    obtain ⟨op, hop, -⟩ := exec_eq_issue i hi hg
    rw [hop]
    exact issue_kept op s

end

/-! ## Retirement -/

section
variable {s : State}

theorem runWave_st (s : State) (l : LineRec) : (runWave s l).dev.st = s.dev.st := (retireMaps_sameRun s.dev l).1

theorem abortLine_st (s : State) (l : LineRec) (prow pcol : Nat) : (abortLine s l prow pcol).dev.st = s.dev.st :=
  ((abortCovering_sameRun ..).trans (abortNoted_sameRun ..)).1

theorem releaseWave_st (s : State) : (releaseWave s).dev.st = s.dev.st := by
  dsimp only [releaseWave]
  (repeat' split) <;> rfl

theorem beginWave_st (s : State) (f : FailedCore) : (beginWave s f).dev.st = s.dev.st := by
  have habort : (if (chooseLine s.dev f).2 then stopWafer s else abortLine (stopWafer s) (chooseLine s.dev f).1 f.prow f.pcol).dev.st =
      s.dev.st := by
    split
    · exact stopWafer_st s
    · exact (abortLine_st ..).trans (stopWafer_st s)
  dsimp only [beginWave]
  split
  · exact releaseWave_st s
  · split
    · exact (releaseWave_st _).trans ((unrecorded_sameRun ..).1.trans habort)
    · next ht => exact (appendRecord_sameRun ht).1.trans habort

theorem meetFailure_st (w : Wave) (s : State) (f : FailedCore) : (meetFailure w s f).dev.st = s.dev.st := by
  unfold meetFailure
  extract_lets drop l t
  have ht : t.dev.st = s.dev.st := abortLine_st ..
  split
  · rfl
  · split
    · split
      · exact (unrecorded_sameRun ..).1.trans ht
      · next hu => exact (runWave_st ..).trans ((appendRecord_sameRun hu).1.trans ht)
    · rfl

theorem foldl_st {α : Type} {f : State → α → State} (hf : ∀ s a, (f s a).dev.st = s.dev.st) (l : List α) (s : State) :
    (l.foldl f s).dev.st = s.dev.st := by
  induction l generalizing s with
  | nil => rfl
  | cons a l ih => exact (ih _).trans (hf s a)

theorem endWave_st (s : State) (w : Wave) : (endWave s w).dev.st = s.dev.st :=
  (releaseWave_st _).trans ((foldl_st (meetFailure_st w) _ _).trans (runWave_st s w.line))

theorem execRetirementWave_kept (prow pcol : Nat) (s : State) : FatalKept s (execRetirementWave prow pcol s) := by
  unfold execRetirementWave
  split
  · exact kept_dev rfl
  · next hst =>
    split
    · refine kept_next fun h => ?_
      split
      · refine fatalStops_of_st ?_
        rw [endWave_st]
        exact hst
      · exact h
    · split
      · exact kept_dev rfl
      · split
        · refine kept_next fun _ => fatalStops_of_st ?_
          rw [beginWave_st]
          exact hst
        · exact kept_dev rfl

end

/-! ## Poluri links -/

section
variable {s : State}

theorem exhaustRegions_sameRun (s : State) (hit : Launch → Bool) (prow pcol : Nat) : SameRun s (exhaustRegions s hit prow pcol) :=
  foldl_sameRun (fun s (l : Launch) => regionFault_st s l.num causeLink prow pcol) _ s

theorem linkExhausted_sameRun (s : State) (n : Nat) : SameRun s (linkExhausted s n) := by
  unfold linkExhausted
  extract_lets link failed p t
  have h : SameRun s t := SameRun.trans (t := failed) ⟨rfl, rfl⟩ (exhaustRegions_sameRun ..)
  split
  · split
    · exact h.trans (sameRun_of_dev (endStep_dev ..))
    · exact h
  · exact h

theorem failTraining_sameRun (s : State) (n : Nat) : SameRun s (failTraining s n) := by
  unfold failTraining
  split
  · exact ⟨rfl, rfl⟩
  · exact linkExhausted_sameRun s n
  · exact ⟨rfl, rfl⟩

theorem settleReplays_sameRun (s : State) (n : Nat) : SameRun s (settleReplays s n) := by
  dsimp only [settleReplays]
  split
  · split
    · exact SameRun.trans ⟨rfl, rfl⟩ (linkExhausted_sameRun ..)
    · exact ⟨rfl, rfl⟩
  · exact ⟨rfl, rfl⟩

theorem replayTimeout_sameRun (s : State) (n : Nat) : SameRun s (replayTimeout s n) := by
  dsimp only [replayTimeout]
  split
  · exact SameRun.trans ⟨rfl, rfl⟩ (settleReplays_sameRun ..)
  · exact ⟨rfl, rfl⟩

theorem receiveCtrl_sameRun (s : State) (n : Nat) : SameRun s (receiveCtrl s n) := by
  dsimp only [receiveCtrl]
  split
  · exact failTraining_sameRun s n
  · split <;> exact ⟨rfl, rfl⟩

theorem execPoluriFrameReceive_kept (n : BitVec 6) (f : BitVec 1280) (s : State) : FatalKept s (execPoluriFrameReceive n f s) := by
  have h := replayTimeout_sameRun s n.toNat
  dsimp only [execPoluriFrameReceive]
  split
  · exact kept_sameRun (h.trans (SameRun.trans ⟨rfl, rfl⟩ (settleReplays_sameRun ..)))
  · refine kept_sameRun ?_
    split
    · exact h.trans (receiveCtrl_sameRun ..)
    · exact h
  · refine kept_sameRun ?_
    split
    · exact h.trans (receiveCtrl_sameRun ..)
    · exact h
  · exact kept_sameRun h

theorem execTrainTimeout_kept (n : BitVec 6) (s : State) : FatalKept s (execTrainTimeout n s) := by
  refine kept_sameRun ?_
  split
  · exact failTraining_sameRun ..
  · exact ⟨rfl, rfl⟩

theorem execAtticPortDown_kept (n : BitVec 6) (s : State) : FatalKept s (execAtticPortDown n s) := by
  unfold execAtticPortDown
  split
  · exact kept_dev rfl
  · split
    · exact kept_dev rfl
    · exact kept_sameRun (SameRun.trans ⟨rfl, rfl⟩ (exhaustRegions_sameRun ..))

end

/-! ## Device registers over the host and management ports -/

section
variable {s : State}

theorem setSem_sameRun (s : State) (n : Nat) (h : Hsem) : SameRun s (setSem s n h) := ⟨rfl, rfl⟩

theorem execHsemRead_kept (who : HsemReader) (n : BitVec 4) (s : State) : FatalKept s (execHsemRead who n s) := by
  cases who with
  | one p =>
    refine kept_sameRun ?_
    dsimp only [readSem]
    split
    · exact (sameRun_of_dev (returnTo_dev ..)).trans (setSem_sameRun ..)
    · exact sameRun_of_dev (returnTo_dev ..)
  | both =>
    refine kept_sameRun ?_
    dsimp only [readSemTie]
    split
    · exact sameRun_of_dev (by simp)
    · exact (sameRun_of_dev (by simp)).trans (setSem_sameRun ..)

theorem writeSem_sameRun (s : State) (p : HostPort) (n : Nat) (v : Word) : SameRun s (writeSem s p n v) := by
  dsimp only [writeSem]
  split <;> exact ⟨rfl, rfl⟩

theorem execHostLinkDown_kept (p : HostPort) (s : State) : FatalKept s (execHostLinkDown p s) := by
  unfold execHostLinkDown
  split
  · exact kept_dev rfl
  · refine kept_sameRun ?_
    have hport : SameRun s (freeSems (modPort s p fun x => { x with up := false }) p) :=
      (sameRun_of_dev (modPort_dev ..)).trans ⟨rfl, rfl⟩
    refine hport.trans (sameRun_of_dev ?_)
    rw [raiseEvent_dev, modUnrid_dev, foldl_dev fun s q => cutUnmapped_dev ..]

theorem writeIdata_sameRun (s : State) (v : Word) : SameRun s (writeIdata s v) := by
  dsimp only [writeIdata]
  (repeat' split) <;> exact ⟨rfl, rfl⟩

theorem writeFaddr_sameRun (s : State) (v : Word) : SameRun s (writeFaddr s v) := by
  unfold writeFaddr
  split <;> exact ⟨rfl, rfl⟩

theorem writeFdata_sameRun (s : State) (v : Word) : SameRun s (writeFdata s v) := by
  unfold writeFdata
  (repeat' split) <;> exact ⟨rfl, rfl⟩

theorem eraseConfig_sameRun (s : State) : SameRun s (eraseConfig s) := by
  unfold eraseConfig
  split <;> exact ⟨rfl, rfl⟩

theorem execIdataRead_kept (s : State) : FatalKept s (execIdataRead s) := by
  dsimp only [execIdataRead]
  split
  · exact kept_sameRun ⟨rfl, rfl⟩
  · refine kept_sameRun ?_
    split <;> exact ⟨rfl, rfl⟩

theorem execFdataRead_kept (s : State) : FatalKept s (execFdataRead s) := by
  unfold execFdataRead
  split <;> exact kept_sameRun ⟨rfl, rfl⟩

theorem idataHalt_kept (s : State) : FatalKept s (execIdataHalt s) := by
  unfold execIdataHalt
  split
  · exact kept_sameRun (writeIdata_sameRun ..)
  · exact kept_dev rfl

theorem idataResume_kept (s : State) : FatalKept s (execIdataResume s) := by
  unfold execIdataResume
  split
  · exact kept_sameRun (writeIdata_sameRun ..)
  · exact kept_dev rfl

theorem bootControl_sameRun (s : State) (p : HostPort) {f : Device → Device} (h : ∀ d, (f d).st = d.st ∧ (f d).stopped = d.stopped) :
    SameRun s (bootControl s p f) := by
  unfold bootControl
  split
  · exact h s.dev
  · exact ⟨rfl, rfl⟩

theorem bar0Write_sameRun (s : State) (p : HostPort) (off size : Nat) (v : Word) : SameRun s (bar0Write s p off size v) := by
  unfold bar0Write
  split
  · exact ⟨rfl, rfl⟩
  · split
    · exact writeSem_sameRun ..
    · split
      · exact sameRun_of_dev (by simp)
      · exact sameRun_of_dev (by simp)
      · exact bootControl_sameRun s p fun _ => ⟨rfl, rfl⟩
      · exact bootControl_sameRun s p fun _ => ⟨rfl, rfl⟩
      · exact sameRun_of_dev (by simp)
      · exact sameRun_of_dev (by simp)
      · exact sameRun_of_dev (by simp)
      · exact sameRun_of_dev (by simp)
      · exact sameRun_of_dev (by simp)
      · exact ⟨rfl, rfl⟩

theorem i3cWrite_fatalStops (off : Nat) (v : Word) (h : fatalStops s) : fatalStops (i3cWrite s off v) := by
  unfold i3cWrite
  split
  · split
    · exact assertStop_fatalStops s
    · exact releaseStop_fatalStops h
  · exact h
  · exact h
  · exact fatalStops_of_sameRun (writeIdata_sameRun ..) h
  · exact fatalStops_of_sameRun (writeFaddr_sameRun ..) h
  · exact fatalStops_of_sameRun (writeFdata_sameRun ..) h
  · split
    · exact fatalStops_of_sameRun (eraseConfig_sameRun ..) h
    · split <;> exact h
  · exact h

theorem takePatch_sameRun (s : State) : SameRun s (takePatch s) := by
  dsimp only [takePatch]
  (repeat' split) <;> exact ⟨rfl, rfl⟩

/-- The end of the patch window leaves READY. -/
theorem endPatchwait_fatalStops (s : State) : fatalStops (endPatchwait s) := by
  refine fatalStops_of_st ?_
  dsimp only [endPatchwait]
  rw [applyNotifies_dev, raiseEvent_dev]
  exact DevSt.noConfusion

theorem writeBootgo_fatalStops (p : HostPort) (v : Word) (h : fatalStops s) : fatalStops (writeBootgo s p v) := by
  unfold writeBootgo
  split
  · exact endPatchwait_fatalStops s
  · exact h

theorem execPatchwaitTimeout_kept (s : State) : FatalKept s (execPatchwaitTimeout s) := by
  unfold execPatchwaitTimeout
  split
  · exact kept_next fun _ => endPatchwait_fatalStops s
  · exact kept_dev rfl

theorem execRegisterWrite_kept (sp : RegSpace) (off size : Nat) (v : Word) (s : State) : FatalKept s (execRegisterWrite sp off size v s) := by
  cases sp with
  | bar0 p =>
    refine kept_next fun h => ?_
    split
    · exact writeBootgo_fatalStops p v h
    · exact fatalStops_of_sameRun (bar0Write_sameRun ..) h
  | bar2 p => exact kept_dev (bar2Write_dev ..)
  | msix p => exact kept_dev (writeMsixMask_dev ..)
  | i3c =>
    refine kept_next fun h => ?_
    split
    · exact i3cWrite_fatalStops off v h
    · exact h

theorem execDeviceReset_kept (env : BootEnv) (s : State) : FatalKept s (execDeviceReset env s) := by
  dsimp only [execDeviceReset]
  split
  · next r rs hr =>
    refine kept_next fun _ => settleFaults_fatalStops (waferFault_fatalStops _ _ _ (fatalStops_of_st ?_))
    rw [(bootFailures_sameRun ..).1]
    exact DevSt.noConfusion
  · exact kept_next fun _ => fatalStops_of_st DevSt.noConfusion

theorem execPowerLoss_kept (s : State) : FatalKept s (execPowerLoss s) := kept_next fun _ => fatalStops_of_st DevSt.noConfusion

theorem execPowerLimit_kept (s : State) : FatalKept s (execPowerLimit s) :=
  kept_sameRun ((sameRun_of_dev (raiseEvent_dev ..)).trans ⟨rfl, rfl⟩)

theorem execPowerTrip_kept (s : State) : FatalKept s (execPowerTrip s) :=
  kept_next fun h => waferFault_fatalStops _ _ _
    (fatalStops_of_sameRun ((sameRun_of_dev (raiseEvent_dev s evPowerTrip)).trans ⟨rfl, rfl⟩) h)

theorem execDump_kept (k : EntryKey) (s : State) : FatalKept s (execDump k s) := by
  unfold execDump onEntry
  split
  · exact kept_sameRun ((underStop_sameRun fun t => by simp).trans (sameRun_of_dev (endEntry_dev ..)))
  · exact kept_dev rfl

end

/-! ## Failures in service, and launches -/

theorem noteFailing_sameRun (s : State) (prow pcol reason : Nat) : SameRun s (noteFailing s prow pcol reason) := ⟨rfl, rfl⟩

theorem execSramUe_kept (prow pcol : Nat) (s : State) : FatalKept s (execSramUe prow pcol s) := by
  unfold execSramUe
  split
  · exact kept_dev rfl
  · refine kept_sameRun (SameRun.trans ?_ (noteFailing_sameRun ..))
    split
    · exact regionFault_st ..
    · exact ⟨rfl, rfl⟩

theorem execSramCorrected_kept (prow pcol : Nat) (addr : BitVec 19) (s : State) : FatalKept s (execSramCorrected prow pcol addr s) := by
  unfold execSramCorrected
  split
  · exact kept_dev rfl
  · extract_lets k c hard n t
    refine kept_sameRun ?_
    split <;> exact ⟨rfl, rfl⟩

theorem execRouterFailure_kept (prow pcol : Nat) (s : State) : FatalKept s (execRouterFailure prow pcol s) := by
  unfold execRouterFailure
  split
  · exact kept_next fun h => waferFault_fatalStops _ _ _ h
  · exact kept_dev rfl

theorem execMeshHopError_kept (prow pcol : Nat) (out : Dir) (cls : BitVec 5) (s : State) :
    FatalKept s (execMeshHopError prow pcol out cls s) := by
  dsimp only [execMeshHopError]
  split
  · exact kept_dev rfl
  · refine kept_next fun h => ?_
    split
    · exact waferFault_fatalStops (s := setRouter s _ _) _ _ _ h
    · exact h

theorem execPreemptBoundExpiry_kept (num : Nat) (s : State) : FatalKept s (execPreemptBoundExpiry num s) := by
  unfold execPreemptBoundExpiry
  split
  · split
    · exact kept_sameRun (regionFault_st ..)
    · exact kept_dev rfl
  · exact kept_dev rfl

theorem writeSave_dev {s t : State} {l : Launch} {m : Memory} {n : Nat} (h : writeSave s l m n = some t) : t.dev = s.dev := by
  induction n generalizing t with
  | zero =>
    cases h
    rfl
  | succ n ih =>
    rw [writeSave] at h
    split at h
    · next u pa hu _ =>
      cases h
      exact (atticWrite_dev ..).trans (ih hu)
    · cases h

theorem execSaveComplete_kept (num : Nat) (s : State) : FatalKept s (execSaveComplete num s) := by
  unfold execSaveComplete
  split
  · split
    · exact kept_dev rfl
    · split
      · next t ht =>
        refine kept_dev ?_
        rw [endLaunch_dev, foldl_dev fun s k => modCore_dev .., writeSave_dev ht]
      · exact kept_sameRun (regionFault_st ..)
  · exact kept_dev rfl

theorem execBreakpointMatch_kept (row col : Nat) (s : State) : FatalKept s (execBreakpointMatch row col s) := by
  dsimp only [execBreakpointMatch]
  split
  · exact kept_dev rfl
  · split
    · exact kept_next fun h => applyBoundary_fatalStops _ _ _ h
    · exact kept_dev rfl

/-! ## Every step -/

theorem execUndefinedInstruction_kept (w : Word) (f : Fate) (s : State) : FatalKept s (execUndefinedInstruction w f s) := issue_kept _ s

theorem exec_event_kept (i : Instr) (hi : isFetched i = false) (s : State) : FatalKept s (exec i s) := by
  cases i
  case undefinedInstruction => apply execUndefinedInstruction_kept
  case deviceReset => apply execDeviceReset_kept
  case patchwaitTimeout => apply execPatchwaitTimeout_kept
  case bootgoWrite p v => exact kept_next fun h => writeBootgo_fatalStops p v h
  case registerWrite => apply execRegisterWrite_kept
  case eventWrite => apply execEventWrite_kept
  case evmaskWrite => apply execEvmaskWrite_kept
  case hsemRead => apply execHsemRead_kept
  case hsemWrite => exact kept_sameRun (writeSem_sameRun ..)
  case notifyWrite => apply execNotifyWrite_kept
  case qtbaseWrite => apply execQtbaseWrite_kept
  case qtlenWrite => apply execQtlenWrite_kept
  case hostLinkDown => apply execHostLinkDown_kept
  case hostLinkUp => apply execHostLinkUp_kept
  case hostPortReset => exact kept_sameRun ⟨rfl, rfl⟩
  case wstopAssert => exact kept_next fun _ => assertStop_fatalStops s
  case wstopRelease => exact kept_next releaseStop_fatalStops
  case wstatRead => exact kept_sameRun ⟨rfl, rfl⟩
  case idataRead => apply execIdataRead_kept
  case idataWrite => exact kept_sameRun (writeIdata_sameRun ..)
  case idataHalt => exact idataHalt_kept s
  case idataResume => exact idataResume_kept s
  case faddrWrite => exact kept_sameRun (writeFaddr_sameRun ..)
  case fdataRead => apply execFdataRead_kept
  case fdataWrite => exact kept_sameRun (writeFdata_sameRun ..)
  case fcmdErasecfg => exact kept_sameRun (eraseConfig_sameRun s)
  case fstatRead => exact kept_sameRun ⟨rfl, rfl⟩
  case flashBusyEnd => exact kept_sameRun ⟨rfl, rfl⟩
  case powerLimit => apply execPowerLimit_kept
  case powerTrip => apply execPowerTrip_kept
  case queueScan => apply execQueueScan_kept
  case queueIdleUnmap => apply execQueueIdleUnmap_kept
  case entryFetch => apply execEntryFetch_kept
  case queueEntryCompletion => apply execQueueEntryCompletion_kept
  case launch => apply execLaunch_kept
  case coll => apply execColl_kept
  case waitq => apply execWaitq_kept
  case waitqComplete => apply execWaitqComplete_kept
  case signal => apply execSignal_kept
  case acopy => apply execAcopy_kept
  case amapSetroot => apply execAmapSetroot_kept
  case amapMap => apply execAmapMap_kept
  case amapUnmap => apply execAmapUnmap_kept
  case amapDrop => apply execAmapDrop_kept
  case lresume => apply execLresume_kept
  case preempt => apply execPreempt_kept
  case queryCerts => apply execQueryCerts_kept
  case queryAttest => apply execQueryAttest_kept
  case querySavesize => apply execQuerySavesize_kept
  case dump => apply execDump_kept
  case imageLoad => apply execImageLoad_kept
  case imageDrop => apply execImageDrop_kept
  case regionGrant => apply execRegionGrant_kept
  case launchLoadComplete => apply execLaunchLoadComplete_kept
  case quiescenceSweep => apply execQuiescenceSweep_kept
  case saveComplete => apply execSaveComplete_kept
  case preemptBoundExpiry => apply execPreemptBoundExpiry_kept
  case forecastUpdate => exact kept_sameRun ⟨rfl, rfl⟩
  case sramUe => apply execSramUe_kept
  case sramCorrected => apply execSramCorrected_kept
  case routerFailure => apply execRouterFailure_kept
  case meshHopError => apply execMeshHopError_kept
  case retirementWave => apply execRetirementWave_kept
  case poluriEnable => apply execPoluriEnable_kept
  case poluriDisable => apply execPoluriDisable_kept
  case poluriFrameReceive => apply execPoluriFrameReceive_kept
  case poluriFlitSend => apply execPoluriFlitSend_kept
  case replayTimeout => exact kept_sameRun (replayTimeout_sameRun ..)
  case poluriRetrain => exact kept_sameRun (settleReplays_sameRun ..)
  case trainTimeout => apply execTrainTimeout_kept
  case edgeMergeContribution => apply execEdgeMergeContribution_kept
  case reduceLate => apply execReduceLate_kept
  case atticPortDown => apply execAtticPortDown_kept
  case flitHop => apply execFlitHop_kept
  case mergeCombine => apply execMergeCombine_kept
  case renormArrival => apply execRenormArrival_kept
  case classStall => apply execClassStall_kept
  case msgDelivery => apply execMsgDelivery_kept
  case cellarToQueue => apply execCellarToQueue_kept
  case writeMessage => apply execWriteMessage_kept
  case signalMessage => apply execSignalMessage_kept
  case rdreqMessage => apply execRdreqMessage_kept
  case rdrspMessage => apply execRdrspMessage_kept
  case raddMessage => apply execRaddMessage_kept
  case amoreqMessage => apply execAmoreqMessage_kept
  case amorspMessage => apply execAmorspMessage_kept
  case dfaddBatchClose => apply execDfaddBatchClose_kept
  case ackMessage => apply execAckMessage_kept
  case nackMessage => apply execNackMessage_kept
  case drainMarker => apply execDrainMarker_kept
  case capRead => apply execCapRead_kept
  case capWrite => apply execCapWrite_kept
  case capHalt => apply execCapHalt_kept
  case capResume => apply execCapResume_kept
  case capWake => apply execCapWake_kept
  case pantryPush => apply execPantryPush_kept
  case heldDeliveryResume => apply execHeldDeliveryResume_kept
  case sramPush => apply execSramPush_kept
  case burstDelivery => apply execBurstDelivery_kept
  case statSink => apply execStatSink_kept
  case taskDispatch row col => exact execTaskDispatch_kept row col s
  case resultWriteback => apply execResultWriteback_kept
  case stallRelease => apply execStallRelease_kept
  case breakpointMatch => apply execBreakpointMatch_kept
  case barrierRelease => apply execBarrierRelease_kept
  case sleepWake => apply execSleepWake_kept
  case sleepTimeout => apply execSleepTimeout_kept
  case startList => apply execStartList_kept
  case startRing => apply execStartRing_kept
  case contextStop => apply execContextStop_kept
  case csig => apply execCsig_kept
  case lsubAppend => apply execLsubAppend_kept
  case stream => apply execStream_kept
  case gather => apply execGather_kept
  case wback => apply execWback_kept
  case bcast => apply execBcast_kept
  case larderSignal => apply execLarderSignal_kept
  case larderEvent => apply execLarderEvent_kept
  case waitw => apply execWaitw_kept
  case waitc => apply execWaitc_kept
  case larderFence => apply execLarderFence_kept
  case larderLoop => apply execLarderLoop_kept
  case endl => apply execEndl_kept
  case jump => apply execJump_kept
  case setv => apply execSetv_kept
  case addv => apply execAddv_kept
  case larderStop => apply execLarderStop_kept
  case larderWaitResume => apply execLarderWaitResume_kept
  case larderSectorIssue => apply execLarderSectorIssue_kept
  case larderFaultEnter => apply execLarderFaultEnter_kept
  case atticReadResponse => apply execAtticReadResponse_kept
  case atticWriteAccept => apply execAtticWriteAccept_kept
  case breadServiceStart => apply execBreadServiceStart_kept
  case powerLoss => apply execPowerLoss_kept
  case breadSourceBurst => apply execBreadSourceBurst_kept
  all_goals cases hi

theorem exec_instrOfWord_kept (w : Word) (s : State) : FatalKept s (exec (instrOfWord w) s) := by
  rw [instrOfWord]
  split
  · next i hi => exact exec_fetched_kept i (encodeDecode.1 w i hi).1 s
  · exact execUndefinedInstruction_kept _ _ s

theorem turnOf_run {s u : State} {k : Nat} {i : Instr} (h : turnOf s k = .run i u) : (∃ w, i = instrOfWord w) ∧ u.dev = s.dev := by
  dsimp only [turnOf] at h
  split at h
  · cases h
  · split at h
    · cases h
    · split at h
      · cases h
      · cases h
        exact ⟨⟨_, rfl⟩, rfl⟩

theorem stepCore_kept (s : State) (k : Nat) : FatalKept s (stepCore s k) := by
  unfold stepCore
  split
  · exact kept_fault _
  · split
    · next i u hturn =>
      obtain ⟨⟨w, rfl⟩, hdev⟩ := turnOf_run hturn
      intro hs
      exact elapseOutcome_kept (exec_instrOfWord_kept w u) (fatalStops_of_sameRun (sameRun_of_dev hdev) hs)
    · exact elapseOutcome_kept (execTaskDispatch_kept _ _ { s with focus := k })
    · exact kept_next (elapse_fatalStops 1)

/-- Settles O7. -/
theorem stoppedInFatal : Obligations.StoppedInFatal := by
  unfold Obligations.StoppedInFatal
  intro s t hs ht
  have hrest : ∀ rest, fatalStops { s with agenda := rest } := fun _ => hs
  unfold step at ht
  split at ht
  · exact stepCore_kept s s.focus hs t ht
  · next i rest _ =>
    split at ht
    · cases ht
      exact hrest rest
    · next hi => exact exec_event_kept i (Bool.eq_false_iff.2 hi) _ (hrest rest) t ht
  · next row col rest _ => exact stepCore_kept { s with agenda := rest } _ (hrest rest) t ht
  · next n rest _ =>
    cases ht
    exact elapse_fatalStops n (hrest rest)

end Sys2Proof.Proofs

/-! User queues: records in host memory, runs of the scheduler, unmapping, notifies, fetching and completing (R65 to R75, R98). -/

namespace Sys2Proof.Proofs
open Sys2Proof Sys2Proof.Machine Sys2Proof.Laws

/-! ## Numbers in host memory -/

theorem readBytes_congr {m m' : Memory} {a n : Nat} (h : ∀ c, a ≤ c → c < a + n → m.read c = m'.read c) : m.readBytes a n = m'.readBytes a n := by
  induction n generalizing a with
  | zero => rfl
  | succ n ih =>
    rw [Memory.readBytes, Memory.readBytes, h a (Nat.le_refl a) (by omega), ih fun c ha hc => h c (by omega) (by omega)]

theorem readLE_writeLE_ne (m : Memory) {a n b k : Nat} (v : Nat) (h : b + k ≤ a ∨ a + n ≤ b) : (m.writeLE a n v).readLE b k = m.readLE b k := by
  rw [Memory.readLE, readBytes_congr fun c hb hc => read_writeLE_ne m a n v c (by omega), Memory.readLE]

section
variable (s : State) (p : HostPort) (a n v : Nat)

theorem portAt_hostPut_other {r : HostPort} (h : r ≠ p) : portAt (hostPut s p a n v) r = portAt s r := by
  rw [hostPut, hostWrite]
  split
  · rw [modPort, portAt_setPort_ne _ _ h]
  · rfl

theorem hostPut_mem (hup : hostUp s p = true) : (portAt (hostPut s p a n v) p).mem = (portAt s p).mem.writeLE a n v := by
  rw [hostPut, hostWrite, if_pos hup, modPort, portAt_setPort_self]
  rfl

theorem hostPut_wf {r : HostPort} (h : (portAt s r).mem.wf = true) : (portAt (hostPut s p a n v) r).mem.wf = true := by
  by_cases hr : r = p
  · subst hr
    by_cases hup : hostUp s r = true
    · rw [hostPut_mem _ _ _ _ _ hup]
      exact writeLE_wf h a n v
    · rw [hostPut, hostWrite, if_neg hup]
      exact h
  · rw [portAt_hostPut_other _ _ _ _ _ hr]
    exact h

theorem hostLE_hostPut_self (hup : hostUp s p = true) (hwf : (portAt s p).mem.wf = true) : hostLE (hostPut s p a n v) p a n = v % 256 ^ n := by
  rw [hostLE, hostPut_mem _ _ _ _ _ hup, readLE_writeLE hwf]

theorem hostLE_hostPut_ne {r : HostPort} {b k : Nat} (h : r ≠ p ∨ b + k ≤ a ∨ a + n ≤ b) :
    hostLE (hostPut s p a n v) r b k = hostLE s r b k := by
  by_cases hr : r = p
  · subst hr
    by_cases hup : hostUp s r = true
    · rw [hostLE, hostPut_mem _ _ _ _ _ hup, readLE_writeLE_ne _ _ (h.resolve_left (by simp)), hostLE]
    · rw [hostPut, hostWrite, if_neg hup]
  · rw [hostLE, portAt_hostPut_other _ _ _ _ _ hr, hostLE]

end

/-! ## Queue records -/

/-- The record of a queue lies in host memory within reach. -/
structure RecordOpen (s : State) (q : Nat) : Prop where
  up : hostUp s (recordPlace s q).1 = true
  wf : (portAt s (recordPlace s q).1).mem.wf = true

section
variable {s : State} {q o n : Nat} (v : Nat)

theorem recordPlace_putRecord (q' : Nat) : recordPlace (putRecord s q o n v) q' = recordPlace s q' := by
  rw [recordPlace, putRecord_unrid, recordPlace]

theorem hostUp_putRecord (p : HostPort) : hostUp (putRecord s q o n v) p = hostUp s p := (putRecord_kept s q o n v).up p

theorem recordField_putRecord_self (h : RecordOpen s q) : recordField (putRecord s q o n v) q o n = v % 256 ^ n := by
  rw [recordField, recordPlace_putRecord]
  exact hostLE_hostPut_self _ _ _ _ _ h.up h.wf

theorem RecordOpen.put (h : RecordOpen s q) : RecordOpen (putRecord s q o n v) q :=
  ⟨by rw [hostUp_putRecord, recordPlace_putRecord]; exact h.up, by rw [recordPlace_putRecord]; exact hostPut_wf _ _ _ _ _ h.wf⟩

theorem recordField_putRecord_ne {q' o' n' : Nat} (h : 64 * q' + o' + n' ≤ 64 * q + o ∨ 64 * q + o + n ≤ 64 * q' + o') :
    recordField (putRecord s q o n v) q' o' n' = recordField s q' o' n' := by
  rw [recordField, recordPlace_putRecord]
  exact hostLE_hostPut_ne _ _ _ _ _ (.inr (by simp only [recordPlace]; omega))

/-- Records of other queues lie elsewhere. -/
theorem recordField_putRecord_other {q' o' n' : Nat} (hq : q' ≠ q) (h : o + n ≤ 64) (h' : o' + n' ≤ 64) :
    recordField (putRecord s q o n v) q' o' n' = recordField s q' o' n' := recordField_putRecord_ne v (by omega)

end

/-! ## What a run of the scheduler leaves of a queue as it reads others -/

/-- What stays as it is of a queue while the scheduler reads another one. -/
structure OtherScanned (q : Nat) (s u : State) : Prop where
  base : u.unrid.qtbase = s.unrid.qtbase
  field : ∀ o n, o + n ≤ 64 → recordField u q o n = recordField s q o n
  keep : keepAt u q = keepAt s q
  up : ∀ p, hostUp u p = hostUp s p
  wf : ∀ p, (portAt s p).mem.wf = true → (portAt u p).mem.wf = true
  unslotted : queueSlot s q = none → queueSlot u q = none

section
variable {q q' : Nat} {s t u : State}

theorem OtherScanned.refl (q : Nat) (s : State) : OtherScanned q s s := ⟨rfl, fun _ _ _ => rfl, rfl, fun _ => rfl, fun _ h => h, id⟩

theorem OtherScanned.trans (h : OtherScanned q s t) (h' : OtherScanned q t u) : OtherScanned q s u :=
  ⟨h'.base.trans h.base, fun o n ho => (h'.field o n ho).trans (h.field o n ho), h'.keep.trans h.keep, fun p => (h'.up p).trans (h.up p),
    fun p hp => h'.wf p (h.wf p hp), fun hq => h'.unslotted (h.unslotted hq)⟩

theorem putRecord_otherScanned {o n : Nat} (v : Nat) (hq : q ≠ q') (ho : o + n ≤ 64) : OtherScanned q s (putRecord s q' o n v) :=
  ⟨by rw [putRecord_unrid], fun o' n' ho' => recordField_putRecord_other v hq ho ho', by rw [keepAt, putRecord_unrid, keepAt],
    hostUp_putRecord v, fun _ h => hostPut_wf _ _ _ _ _ h, fun h => by rw [queueSlot, putRecord_unrid]; exact h⟩

theorem setKeep_otherScanned (k : QKeep) (hq : q ≠ q') : OtherScanned q s (setKeep s q' k) :=
  ⟨rfl, fun _ _ _ => rfl, fget_fset_ne _ _ _ hq, fun _ => rfl, fun _ h => h, id⟩

theorem mem_fset {α : Type} {m : FMap α} {k : Nat} {v : α} {e : Nat × α} (h : e ∈ fset m k v) : e ∈ m ∨ e = (k, v) := by
  induction m with
  | nil => exact .inr (List.mem_singleton.1 h)
  | cons f m ih =>
    obtain ⟨k', v'⟩ := f
    rw [fset] at h
    split at h
    · rcases List.mem_cons.1 h with h | h
      · exact .inr h
      · exact .inl (List.mem_cons_of_mem _ h)
    · split at h
      · rcases List.mem_cons.1 h with h | h
        · exact .inr h
        · exact .inl h
      · rcases List.mem_cons.1 h with h | h
        · exact .inl (h ▸ List.mem_cons_self)
        · exact (ih h).imp_left (List.mem_cons_of_mem _)

theorem queueSlot_eq_none : queueSlot s q = none ↔ ∀ e ∈ s.unrid.slots, e.2.queue ≠ q := by
  rw [queueSlot, List.find?_eq_none]
  simp

theorem queueSlot_setSlot {x : QSlot} {n : Nat} (hx : x.queue ≠ q) (h : queueSlot s q = none) : queueSlot (setSlot s n x) q = none := by
  rw [queueSlot_eq_none] at h ⊢
  intro e he
  rcases mem_fset he with he | rfl
  · exact h e he
  · exact hx

theorem setSlot_otherScanned {x : QSlot} {n : Nat} (hx : x.queue ≠ q) : OtherScanned q s (setSlot s n x) :=
  ⟨rfl, fun _ _ _ => rfl, rfl, fun _ => rfl, fun _ h => h, queueSlot_setSlot hx⟩

theorem queueSlot_mem {n : Nat} {x : QSlot} (h : queueSlot s q = some (n, x)) : (n, x) ∈ s.unrid.slots ∧ x.queue = q :=
  ⟨List.mem_of_find?_eq_some h, by simpa using List.find?_some h⟩

theorem readEnable_otherScanned (hq : q ≠ q') : OtherScanned q s (readEnable s q') := by
  dsimp only [readEnable]
  split
  · have hrec : OtherScanned q s (setKeep (putRecord (putRecord (putRecord s q' 0x14 4 0) q' 0x18 8 0) q' 0xC 1 0) q'
        { keepAt s q' with enable := true, cut := none, ahead := [] }) :=
      (((putRecord_otherScanned 0 hq (by decide)).trans (putRecord_otherScanned 0 hq (by decide))).trans
        (putRecord_otherScanned 0 hq (by decide))).trans (setKeep_otherScanned _ hq)
    split
    · next n x hx => exact hrec.trans (setSlot_otherScanned fun h => hq (h.symm.trans (queueSlot_mem hx).2))
    · exact hrec
  · exact setKeep_otherScanned _ hq

theorem mapQueue_otherScanned (n : Nat) (hq : q ≠ q') : OtherScanned q s (mapQueue s q' n) := by
  have hrec (v : Nat) : OtherScanned q s (putRecord (putRecord s q' 0xB 1 n) q' 0xC 1 v) :=
    (putRecord_otherScanned n hq (by decide)).trans (putRecord_otherScanned v hq (by decide))
  exact ((hrec _).trans (setSlot_otherScanned (Ne.symm hq))).trans ⟨rfl, fun _ _ _ => rfl, rfl, fun _ => rfl, fun _ h => h, id⟩

theorem scanQueue_otherScanned (hq : q ≠ q') : OtherScanned q s (scanQueue s q') := by
  have hread : OtherScanned q s (readEnable s q') := readEnable_otherScanned hq
  dsimp only [scanQueue]
  split
  · exact .refl q s
  · split
    · exact hread
    · split
      · exact hread.trans (putRecord_otherScanned _ hq (by decide))
      · split
        · split
          · exact hread.trans (mapQueue_otherScanned _ hq)
          · exact hread
        · exact hread

theorem foldl_scanQueue_otherScanned {l : List Nat} (hq : q ∉ l) (s : State) : OtherScanned q s (l.foldl scanQueue s) := by
  induction l generalizing s with
  | nil => exact .refl q s
  | cons a l ih =>
    rw [List.mem_cons, not_or] at hq
    exact (scanQueue_otherScanned hq.1).trans (ih hq.2 _)

theorem scanMapped_otherScanned (hq : queueSlot s q = none) : OtherScanned q s (scanMapped s) := by
  rw [queueSlot_eq_none] at hq
  unfold scanMapped
  generalize s.unrid.slots = l at hq
  induction l generalizing s with
  | nil => exact .refl q s
  | cons e l ih =>
    rw [List.foldl_cons]
    refine OtherScanned.trans ?_ (ih fun e he => hq e (List.mem_cons_of_mem _ he))
    split
    · exact readEnable_otherScanned fun h => hq e List.mem_cons_self h.symm
    · exact .refl q s

end

/-! ## Slots taken in a run -/

/-- The numbers of the free slots. -/
def freeNumbers (s : State) : List Nat := (List.range 64).filter fun n => (ffind s.unrid.slots n).isNone

theorem length_filter_le_succ {l : List Nat} (hl : l.Nodup) {p r : Nat → Bool} (a : Nat) (h : ∀ b, b ≠ a → p b = true → r b = true) :
    (l.filter p).length ≤ (l.filter r).length + 1 := by
  induction l with
  | nil => simp
  | cons b l ih =>
    obtain ⟨hb, hl⟩ := List.nodup_cons.1 hl
    by_cases hba : b = a
    · subst hba
      have hmono : (l.filter p).length ≤ (l.filter r).length := by
        rw [← List.countP_eq_length_filter, ← List.countP_eq_length_filter]
        exact List.countP_mono_left fun x hx => h x fun hxb => hb (hxb ▸ hx)
      rw [List.filter_cons, List.filter_cons]
      split <;> split <;> simp <;> omega
    · have := ih hl
      rw [List.filter_cons, List.filter_cons]
      split
      · next hp =>
        rw [if_pos (h b hba hp)]
        simpa using this
      · split <;> simp <;> omega

section
variable {q : Nat} {s : State}

/-- A queue whose ENABLE has gone from 0 to 1: HEAD, SEQ and STATE of its record are 0. -/
def restarted (s : State) (q : Nat) : State :=
  setKeep (putRecord (putRecord (putRecord s q 0x14 4 0) q 0x18 8 0) q 0xC 1 0) q { keepAt s q with enable := true, cut := none, ahead := [] }

theorem restarted_slots (s : State) (q : Nat) : (restarted s q).unrid.slots = s.unrid.slots := by
  show (putRecord _ q 0xC 1 0).unrid.slots = _
  rw [putRecord_unrid, putRecord_unrid, putRecord_unrid]

theorem readEnable_restarted (hon : recordField s q 9 1 = 1) (hk : (keepAt s q).enable = false) : readEnable s q =
    match queueSlot (restarted s q) q with
    | some (n, x) => setSlot (restarted s q) n (freshSlot x)
    | none => restarted s q := by
  dsimp only [readEnable]
  rw [if_pos (by simp [hon, hk])]
  rfl

theorem readEnable_kept (h : recordField s q 9 1 ≠ 1 ∨ (keepAt s q).enable = true) :
    readEnable s q = setKeep s q { keepAt s q with enable := recordField s q 9 1 == 1 } := by
  dsimp only [readEnable]
  rw [if_neg]
  rcases h with h | h <;> simp [h]

theorem readEnable_cases (s : State) (q : Nat) : (recordField s q 9 1 = 1 ∧ (keepAt s q).enable = false) ∨
    (recordField s q 9 1 ≠ 1 ∨ (keepAt s q).enable = true) := by
  cases (keepAt s q).enable <;> simp
  omega

theorem isNone_ffind_fset {α : Type} {m : FMap α} {k : Nat} {v : α} (hk : (ffind m k).isNone = false) (n : Nat) :
    (ffind (fset m k v) n).isNone = (ffind m n).isNone := by
  by_cases hn : n = k
  · subst hn
    rw [ffind_fset_self, hk]
    rfl
  · rw [ffind_fset_ne _ _ hn]

theorem isNone_ffind_of_mem {α : Type} {m : FMap α} {n : Nat} {x : α} (h : (n, x) ∈ m) : (ffind m n).isNone = false := by
  induction m with
  | nil => cases h
  | cons e m ih =>
    rw [ffind]
    split
    · rfl
    · next hne =>
      rcases List.mem_cons.1 h with rfl | h
      · exact absurd rfl hne
      · exact ih h

/-- A reading of ENABLE frees and takes no slot. -/
theorem readEnable_free (n : Nat) : (ffind (readEnable s q).unrid.slots n).isNone = (ffind s.unrid.slots n).isNone := by
  rcases readEnable_cases s q with ⟨hon, hk⟩ | h
  · rw [readEnable_restarted hon hk]
    split
    · next m x hx =>
      have hmem := (queueSlot_mem hx).1
      rw [restarted_slots] at hmem
      show (ffind (fset (restarted s q).unrid.slots m _) n).isNone = _
      rw [restarted_slots, isNone_ffind_fset (isNone_ffind_of_mem hmem)]
    · rw [restarted_slots]
  · rw [readEnable_kept h]
    rfl

theorem queueSlot_of_slots {s t : State} (h : t.unrid.slots = s.unrid.slots) (q : Nat) : queueSlot t q = queueSlot s q := by
  rw [queueSlot, h, queueSlot]

theorem readEnable_slots (hq : queueSlot s q = none) : (readEnable s q).unrid.slots = s.unrid.slots := by
  rcases readEnable_cases s q with ⟨hon, hk⟩ | h
  · rw [readEnable_restarted hon hk, queueSlot_of_slots (restarted_slots s q), hq]
    exact restarted_slots s q
  · rw [readEnable_kept h]
    rfl

/-- The slot that a queue is mapped to. -/
def mappedSlot (s : State) (q : Nat) : QSlot :=
  let ring := BitVec.ofNat 64 (recordField s q 0 8)
  { queue := q, ring := ring, logsize := recordField s q 8 1, msix := recordField s q 0xA 1,
    head := BitVec.ofNat 32 (recordField s q 0x14 4), tail := BitVec.ofNat 32 (recordField s q 0x10 4),
    seq := BitVec.ofNat 64 (recordField s q 0x18 8), since := s.live, error := (recordField s q 0xC 1).testBit 1,
    lost := (recordField s q 0xC 1).testBit 2, mappedAt := s.cycle, cut := !hostUp s (portOf ring) }

theorem mapQueue_slots (s : State) (q n : Nat) : (mapQueue s q n).unrid.slots = fset s.unrid.slots n (mappedSlot s q) := by
  show fset (putRecord _ q 0xC 1 _).unrid.slots n (mappedSlot s q) = _
  rw [putRecord_unrid, putRecord_unrid]

theorem freeQueueSlot_free {n : Nat} (h : freeQueueSlot s = some n) : ffind s.unrid.slots n = none := by
  simpa using List.find?_some h

/-- One queue read takes one slot at most, a free one, and every other one stays as it is. -/
theorem scanQueue_slots (s : State) (q : Nat) : (scanQueue s q).unrid.slots = s.unrid.slots ∨
    ∃ n x, ffind s.unrid.slots n = none ∧ (scanQueue s q).unrid.slots = fset s.unrid.slots n x := by
  unfold scanQueue
  split
  · exact .inl rfl
  · next hfree =>
    have hq : queueSlot s q = none := by
      rw [Bool.or_eq_true, Bool.or_eq_true, not_or, not_or] at hfree
      simpa using hfree.1.1
    have hslots := readEnable_slots hq
    dsimp only
    split
    · exact .inl hslots
    · split
      · rw [putRecord_unrid]
        exact .inl hslots
      · split
        · split
          · next n hn =>
            refine .inr ⟨n, mappedSlot (readEnable s q) q, ?_, ?_⟩
            · rw [← hslots]
              exact freeQueueSlot_free hn
            · rw [mapQueue_slots, hslots]
          · exact .inl hslots
        · exact .inl hslots

theorem scanQueue_keepsSlot {n : Nat} {x : QSlot} (h : ffind s.unrid.slots n = some x) (q : Nat) :
    ffind (scanQueue s q).unrid.slots n = some x := by
  rcases scanQueue_slots s q with hs | ⟨m, y, hm, hs⟩
  · rw [hs]
    exact h
  · rw [hs, ffind_fset_ne _ _ fun hnm => ?_]
    · exact h
    · rw [hnm, hm] at h
      cases h

theorem foldl_scanQueue_keepsSlot {n : Nat} {x : QSlot} (l : List Nat) (h : ffind s.unrid.slots n = some x) :
    ffind (l.foldl scanQueue s).unrid.slots n = some x := by
  induction l generalizing s with
  | nil => exact h
  | cons q l ih => exact ih (scanQueue_keepsSlot h q)

theorem scanQueue_freeNumbers (s : State) (q : Nat) : (freeNumbers s).length ≤ (freeNumbers (scanQueue s q)).length + 1 := by
  rcases scanQueue_slots s q with hs | ⟨n, x, -, hs⟩
  · rw [freeNumbers, freeNumbers, hs]
    omega
  · refine length_filter_le_succ List.nodup_range n fun b hb hfree => ?_
    rw [hs, ffind_fset_ne _ _ hb]
    exact hfree

theorem foldl_scanQueue_freeNumbers (l : List Nat) (s : State) :
    (freeNumbers s).length ≤ (freeNumbers (l.foldl scanQueue s)).length + l.length := by
  induction l generalizing s with
  | nil => exact Nat.le_refl _
  | cons q l ih =>
    have := scanQueue_freeNumbers s q
    have := ih (scanQueue s q)
    rw [List.foldl_cons, List.length_cons]
    omega

theorem scanMapped_freeNumbers (s : State) : freeNumbers (scanMapped s) = freeNumbers s := by
  unfold scanMapped
  generalize s.unrid.slots = l
  induction l generalizing s with
  | nil => rfl
  | cons e l ih =>
    rw [List.foldl_cons, ih]
    split
    · exact List.filter_congr fun n _ => readEnable_free n
    · rfl

theorem freeQueueSlot_of_freeNumbers (h : 0 < (freeNumbers s).length) : ∃ n, freeQueueSlot s = some n ∧ n < 64 := by
  obtain ⟨n, hn⟩ := List.exists_mem_of_length_pos h
  obtain ⟨hn, hfree⟩ := List.mem_filter.1 hn
  cases hf : freeQueueSlot s with
  | none => exact absurd hfree (by simpa using List.find?_eq_none.1 hf n hn)
  | some m => exact ⟨m, rfl, List.mem_range.1 (List.mem_of_find?_eq_some hf)⟩

end

/-! ## The queue that is read -/

/-- What is known of an enabled queue in no slot once its ENABLE is read. -/
structure Opened (s r : State) (q : Nat) : Prop where
  enable : (keepAt r q).enable = true
  cut : (keepAt r q).cut = none
  slots : r.unrid.slots = s.unrid.slots
  base : r.unrid.qtbase = s.unrid.qtbase
  up : ∀ p, hostUp r p = hostUp s p
  wf : ∀ p, (portAt s p).mem.wf = true → (portAt r p).mem.wf = true
  field : ∀ o n, o + n ≤ 0xC ∨ (0xD ≤ o ∧ o + n ≤ 0x14) ∨ 0x20 ≤ o → recordField r q o n = recordField s q o n
  head : recordField r q 0x14 4 = if (keepAt s q).enable then recordField s q 0x14 4 else 0
  seq : recordField r q 0x18 8 = if (keepAt s q).enable then recordField s q 0x18 8 else 0
  state : recordField r q 0xC 1 = if (keepAt s q).enable then recordField s q 0xC 1 else 0

section
variable {q : Nat} {s : State}

theorem restarted_opened (hk : (keepAt s q).enable = false) (hopen : RecordOpen s q) : Opened s (restarted s q) q := by
  have hrec (o n : Nat) : recordField (restarted s q) q o n =
      recordField (putRecord (putRecord (putRecord s q 0x14 4 0) q 0x18 8 0) q 0xC 1 0) q o n := rfl
  have hkeep : keepAt (restarted s q) q = { keepAt s q with enable := true, cut := none, ahead := [] } := fget_fset_self ..
  refine ⟨by rw [hkeep], by rw [hkeep], restarted_slots s q, ?_, fun p => ?_, fun p hp => ?_, fun o n ho => ?_, ?_, ?_, ?_⟩
  · show (putRecord _ q 0xC 1 0).unrid.qtbase = _
    rw [putRecord_unrid, putRecord_unrid, putRecord_unrid]
  · show hostUp (putRecord _ q 0xC 1 0) p = _
    rw [hostUp_putRecord, hostUp_putRecord, hostUp_putRecord]
  · exact hostPut_wf _ _ _ _ _ (hostPut_wf _ _ _ _ _ (hostPut_wf _ _ _ _ _ hp))
  · rw [hrec, recordField_putRecord_ne _ (by omega), recordField_putRecord_ne _ (by omega), recordField_putRecord_ne _ (by omega)]
  · rw [hrec, recordField_putRecord_ne _ (by omega), recordField_putRecord_ne _ (by omega), recordField_putRecord_self _ hopen, hk]
    rfl
  · rw [hrec, recordField_putRecord_ne _ (by omega), recordField_putRecord_self _ (hopen.put _), hk]
    rfl
  · rw [hrec, recordField_putRecord_self _ ((hopen.put _).put _), hk]
    rfl

theorem readEnable_opened (hon : recordField s q 9 1 = 1) (hq : queueSlot s q = none) (hcut : (keepAt s q).cut = none)
    (hopen : RecordOpen s q) : Opened s (readEnable s q) q := by
  by_cases hk : (keepAt s q).enable = true
  · rw [readEnable_kept (.inr hk)]
    have hkeep : keepAt (setKeep s q { keepAt s q with enable := recordField s q 9 1 == 1 }) q =
        { keepAt s q with enable := recordField s q 9 1 == 1 } := fget_fset_self ..
    exact ⟨by rw [hkeep, hon]; rfl, by rw [hkeep]; exact hcut, rfl, rfl, fun _ => rfl, fun _ h => h, fun _ _ _ => rfl, (if_pos hk).symm,
      (if_pos hk).symm, (if_pos hk).symm⟩
  · rw [readEnable_restarted hon (Bool.eq_false_iff.2 hk), queueSlot_of_slots (restarted_slots s q), hq]
    exact restarted_opened (Bool.eq_false_iff.2 hk) hopen

theorem Opened.sound {r : State} (h : Opened s r q) : recordSound r q = recordSound s q := by
  rw [recordSound, recordSound, h.field _ _ (by omega), h.field _ _ (by omega), h.field _ _ (by omega), h.field _ _ (by omega)]

end

/-! ## A run of the scheduler -/

section
variable {s : State}

theorem mem_scanOrder {q : Nat} (hq : q < s.unrid.qtlen.toNat) : q ∈ scanOrder s := by
  unfold scanOrder
  dsimp only
  generalize s.unrid.qtlen.toNat = n at hq
  generalize s.unrid.lastMapped + 1 = a
  have hpos : 0 < n := by omega
  refine List.mem_map.2 ⟨(q + (n - a % n)) % n, List.mem_range.2 (Nat.mod_lt _ hpos), ?_⟩
  have hmod := Nat.mod_lt a hpos
  have hdiv := Nat.div_add_mod a n
  have hsum : a + (q + (n - a % n)) = q + n * (a / n + 1) := by
    rw [Nat.mul_add, Nat.mul_one]
    omega
  rw [Nat.add_mod_mod, hsum, Nat.add_mul_mod_self_left, Nat.mod_eq_of_lt hq]

theorem nodup_scanOrder (s : State) : (scanOrder s).Nodup := by
  refine List.Nodup.map_on (fun i hi j hj h => ?_) List.nodup_range
  have hij : i % s.unrid.qtlen.toNat = j % s.unrid.qtlen.toNat := Nat.ModEq.add_left_cancel' _ h
  rwa [Nat.mod_eq_of_lt (List.mem_range.1 hi), Nat.mod_eq_of_lt (List.mem_range.1 hj)] at hij

theorem head_scanOrder (h : 0 < s.unrid.qtlen.toNat) : (scanOrder s).head? = some ((s.unrid.lastMapped + 1) % s.unrid.qtlen.toNat) := by
  show ((List.range s.unrid.qtlen.toNat).map _).head? = _
  obtain ⟨n, hn⟩ := Nat.exists_eq_succ_of_ne_zero (Nat.pos_iff_ne_zero.1 h)
  rw [hn, List.range_succ_eq_map]
  rfl

end

/-- A queue that the scheduler reads: in no slot, not cut off, its record within reach. -/
structure Readable (s : State) (q : Nat) : Prop where
  unslotted : queueSlot s q = none
  cut : (keepAt s q).cut = none
  record : RecordOpen s q

section
variable {q : Nat} {s u : State}

theorem OtherScanned.place (h : OtherScanned q s u) : recordPlace u q = recordPlace s q := by
  rw [recordPlace, h.base, recordPlace]

theorem OtherScanned.readable (h : OtherScanned q s u) (hr : Readable s q) : Readable u q :=
  ⟨h.unslotted hr.unslotted, by rw [h.keep]; exact hr.cut,
    by rw [h.place, h.up]; exact hr.record.up, by rw [h.place]; exact h.wf _ hr.record.wf⟩

theorem scanQueue_readable (hr : Readable s q) : scanQueue s q =
    if !(keepAt (readEnable s q) q).enable then readEnable s q
    else if !recordSound (readEnable s q) q then putRecord (readEnable s q) q 0xC 1 (recordField (readEnable s q) q 0xC 1 ||| 2)
    else if wantsSlot (readEnable s q) q then
      match freeQueueSlot (readEnable s q) with | some n => mapQueue (readEnable s q) q n | none => readEnable s q
    else readEnable s q := by
  unfold scanQueue
  exact if_neg (by simp [hr.unslotted, hr.cut, hr.record.up])

theorem Readable.opened (hr : Readable s q) (hon : recordField s q 9 1 = 1) : Opened s (readEnable s q) q :=
  readEnable_opened hon hr.unslotted hr.cut hr.record

theorem scanQueue_disabled (hr : Readable s q) (hoff : recordField s q 9 1 ≠ 1) : scanQueue s q = setKeep s q { keepAt s q with enable := false } := by
  have hread : readEnable s q = setKeep s q { keepAt s q with enable := false } := by
    rw [readEnable_kept (.inl hoff), beq_eq_false_iff_ne.2 hoff]
  have hkeep : (keepAt (readEnable s q) q).enable = false := by rw [hread, setKeep, keepAt, modUnrid, fget_fset_self]
  rw [scanQueue_readable hr, if_pos (by rw [hkeep]; rfl), hread]

theorem scanQueue_unsound (hr : Readable s q) (hon : recordField s q 9 1 = 1) (hbad : recordSound s q = false) :
    scanQueue s q = putRecord (readEnable s q) q 0xC 1 (recordField (readEnable s q) q 0xC 1 ||| 2) := by
  have ho := hr.opened hon
  rw [scanQueue_readable hr, if_neg (by simp [ho.enable]), if_pos (by rw [ho.sound, hbad]; rfl)]

theorem wantsSlot_iff (hr : Readable s q) (hon : recordField s q 9 1 = 1) (hsound : recordSound s q = true)
    (hring : hostUp s (portOf (BitVec.ofNat 64 (recordField s q 0 8))) = true) : wantsSlot (readEnable s q) q = true ↔
    recordField s q 0x10 4 ≠ (if (keepAt s q).enable then recordField s q 0x14 4 else 0) ∨
      ((keepAt s q).enable = true ∧ recordField s q 0xC 1 % 2 = 1) := by
  have ho := hr.opened hon
  have hstate : recordField (readEnable s q) q 0xC 1 % 2 = 1 ↔ (keepAt s q).enable = true ∧ recordField s q 0xC 1 % 2 = 1 := by
    rw [ho.state]
    split <;> simp [*]
  rw [wantsSlot, ho.enable, ho.cut, queueSlot_of_slots ho.slots, hr.unslotted, ho.sound, hsound, ho.field _ _ (by omega), ho.up, hring,
    ho.field _ _ (by omega), ho.head]
  simp [hstate]

theorem scanQueue_stays (hr : Readable s q) (hon : recordField s q 9 1 = 1) (hsound : recordSound s q = true)
    (hno : wantsSlot (readEnable s q) q = false) : scanQueue s q = readEnable s q := by
  have ho := hr.opened hon
  rw [scanQueue_readable hr, if_neg (by simp [ho.enable]), if_neg (by rw [ho.sound, hsound]; decide), hno]
  rfl

theorem scanQueue_mapped (hr : Readable s q) (hon : recordField s q 9 1 = 1) (hsound : recordSound s q = true)
    (hyes : wantsSlot (readEnable s q) q = true) {n : Nat} (hn : freeQueueSlot s = some n) : scanQueue s q = mapQueue (readEnable s q) q n := by
  have ho := hr.opened hon
  have hfree : freeQueueSlot (readEnable s q) = some n := by
    rw [freeQueueSlot, ho.slots]
    exact hn
  rw [scanQueue_readable hr, if_neg (by simp [ho.enable]), if_neg (by rw [ho.sound, hsound]; decide), if_pos hyes, hfree]

/-- A slot's number stands in the record of the queue that is mapped to it. -/
theorem mapQueue_number {n : Nat} (hn : n < 256) (hopen : RecordOpen s q) : recordField (mapQueue s q n) q 0xB 1 = n := by
  show recordField (putRecord (putRecord s q 0xB 1 n) q 0xC 1 _) q 0xB 1 = n
  rw [recordField_putRecord_ne _ (by omega), recordField_putRecord_self _ hopen]
  exact Nat.mod_eq_of_lt hn

end

/-! ## What a run makes of one queue -/

section
variable {s : State} {q : Nat} {before after : List Nat}

/-- The state in which a run comes to a queue. -/
def reached (s : State) (before : List Nat) : State := before.foldl scanQueue (scanMapped s)

theorem exec_queueScan (hrun : unridRuns s = true) (hstop : s.unrid.qtstop = false) (hsplit : scanOrder s = before ++ q :: after) :
    exec .queueScan s = .next (after.foldl scanQueue (scanQueue (reached s before) q)) := by
  show execQueueScan s = _
  rw [execQueueScan, if_pos (by rw [hrun, hstop]; rfl), hsplit, List.foldl_append, List.foldl_cons]
  rfl

theorem not_mem_of_scanOrder (hsplit : scanOrder s = before ++ q :: after) : q ∉ before ∧ q ∉ after := by
  have h := nodup_scanOrder s
  rw [hsplit, List.nodup_append] at h
  obtain ⟨-, hafter, hdisj⟩ := h
  exact ⟨fun hb => hdisj q hb q List.mem_cons_self rfl, (List.nodup_cons.1 hafter).1⟩

theorem reached_otherScanned (hsplit : scanOrder s = before ++ q :: after) (hq : queueSlot s q = none) : OtherScanned q s (reached s before) :=
  (scanMapped_otherScanned hq).trans (foldl_scanQueue_otherScanned (not_mem_of_scanOrder hsplit).1 _)

end

section
variable {s u : State} {q : Nat} {before after : List Nat}

/-- A run comes to a queue that it reads, in a state that is as before for that queue, and leaves it as it makes it. -/
structure RunReads (s u t : State) (q taken : Nat) : Prop where
  runs : exec .queueScan s = .next t
  other : OtherScanned q s u
  free : (freeNumbers s).length ≤ (freeNumbers u).length + taken
  after : OtherScanned q (scanQueue u q) t
  slots : ∀ n x, ffind (scanQueue u q).unrid.slots n = some x → ffind t.unrid.slots n = some x

theorem exists_runReads (hrun : unridRuns s = true) (hstop : s.unrid.qtstop = false) (hsplit : scanOrder s = before ++ q :: after)
    (hq : queueSlot s q = none) : ∃ u t, RunReads s u t q before.length :=
  ⟨reached s before, _, exec_queueScan hrun hstop hsplit, reached_otherScanned hsplit hq,
    by rw [← scanMapped_freeNumbers s]; exact foldl_scanQueue_freeNumbers before _,
    foldl_scanQueue_otherScanned (not_mem_of_scanOrder hsplit).2 _, fun _ _ hn => foldl_scanQueue_keepsSlot after hn⟩

theorem OtherScanned.sound (h : OtherScanned q s u) : recordSound u q = recordSound s q := by
  rw [recordSound, recordSound, h.field _ _ (by omega), h.field _ _ (by omega), h.field _ _ (by omega), h.field _ _ (by omega)]

variable {t : State} {taken : Nat} (h : RunReads s u t q taken) (hr : Readable s q)
include h hr

theorem RunReads.disabled (hoff : recordField s q 9 1 ≠ 1) : (keepAt t q).enable = false ∧ queueSlot t q = none := by
  have hu := h.other.readable hr
  have hscan := scanQueue_disabled hu (by rwa [h.other.field _ _ (by omega)])
  refine ⟨?_, h.after.unslotted (by rw [hscan]; exact hu.unslotted)⟩
  rw [h.after.keep, hscan, setKeep, keepAt, modUnrid, fget_fset_self]

theorem RunReads.unsound (hon : recordField s q 9 1 = 1) (hbad : recordSound s q = false) :
    (keepAt t q).enable = true ∧ queueSlot t q = none ∧ recordField t q 0xC 1 / 2 % 2 = 1 := by
  have hu := h.other.readable hr
  have honu : recordField u q 9 1 = 1 := by rw [h.other.field _ _ (by omega), hon]
  have ho := hu.opened honu
  have hscan := scanQueue_unsound hu honu (by rw [h.other.sound, hbad])
  have hopen : RecordOpen (readEnable u q) q :=
    ⟨by rw [recordPlace, ho.base, ho.up]; exact hu.record.up, by rw [recordPlace, ho.base]; exact ho.wf _ hu.record.wf⟩
  refine ⟨?_, h.after.unslotted ?_, ?_⟩
  · rw [h.after.keep, hscan, keepAt_of_unrid (putRecord_unrid ..), ho.enable]
  · rw [hscan, queueSlot_of_slots (s := u) (by rw [putRecord_unrid, ho.slots]), hu.unslotted]
  · have herror : (recordField (readEnable u q) q 0xC 1 ||| 2).testBit 1 = true := by
      rw [Nat.testBit_or, Bool.or_eq_true]
      exact .inr rfl
    rw [Nat.testBit_eq_decide_div_mod_eq, decide_eq_true_eq] at herror
    rw [h.after.field _ _ (by omega), hscan, recordField_putRecord_self _ hopen]
    omega

variable (hon : recordField s q 9 1 = 1) (hsound : recordSound s q = true)
  (hring : hostUp s (portOf (BitVec.ofNat 64 (recordField s q 0 8))) = true)
include hon hsound hring

theorem RunReads.wantsSlot_iff : wantsSlot (readEnable u q) q = true ↔
    recordField s q 0x10 4 ≠ (if (keepAt s q).enable then recordField s q 0x14 4 else 0) ∨
      ((keepAt s q).enable = true ∧ recordField s q 0xC 1 % 2 = 1) := by
  have hf := h.other.field
  rw [Proofs.wantsSlot_iff (h.other.readable hr) (by rw [hf _ _ (by omega), hon]) (by rw [h.other.sound, hsound])
    (by rw [hf _ _ (by omega), h.other.up, hring]), hf _ _ (by omega), hf _ _ (by omega), hf _ _ (by omega), h.other.keep]

theorem RunReads.mapped (hyes : recordField s q 0x10 4 ≠ (if (keepAt s q).enable then recordField s q 0x14 4 else 0) ∨
      ((keepAt s q).enable = true ∧ recordField s q 0xC 1 % 2 = 1)) (hroom : taken < (freeNumbers s).length) :
    ∃ n x, ffind t.unrid.slots n = some x ∧ x.queue = q ∧ x.tail = BitVec.ofNat 32 (recordField s q 0x10 4) ∧
      x.head = BitVec.ofNat 32 (if (keepAt s q).enable then recordField s q 0x14 4 else 0) ∧
      x.seq = BitVec.ofNat 64 (if (keepAt s q).enable then recordField s q 0x18 8 else 0) ∧ recordField t q 0xB 1 = n := by
  have hu := h.other.readable hr
  have hf := h.other.field
  have honu : recordField u q 9 1 = 1 := by rw [hf _ _ (by omega), hon]
  have ho := hu.opened honu
  obtain ⟨n, hn, hn64⟩ := freeQueueSlot_of_freeNumbers (s := u) (by have := h.free; omega)
  have hscan := scanQueue_mapped hu honu (by rw [h.other.sound, hsound]) ((h.wantsSlot_iff hr hon hsound hring).2 hyes) hn
  have hopen : RecordOpen (readEnable u q) q :=
    ⟨by rw [recordPlace, ho.base, ho.up]; exact hu.record.up, by rw [recordPlace, ho.base]; exact ho.wf _ hu.record.wf⟩
  refine ⟨n, mappedSlot (readEnable u q) q, h.slots _ _ ?_, rfl, ?_, ?_, ?_, ?_⟩
  · rw [hscan, mapQueue_slots, ffind_fset_self]
  · show BitVec.ofNat 32 (recordField (readEnable u q) q 0x10 4) = _
    rw [ho.field _ _ (by omega), hf _ _ (by omega)]
  · show BitVec.ofNat 32 (recordField (readEnable u q) q 0x14 4) = _
    rw [ho.head, h.other.keep, hf _ _ (by omega)]
  · show BitVec.ofNat 64 (recordField (readEnable u q) q 0x18 8) = _
    rw [ho.seq, h.other.keep, hf _ _ (by omega)]
  · rw [h.after.field _ _ (by omega), hscan, mapQueue_number (by omega) hopen]

theorem RunReads.stays (hhead : recordField s q 0x10 4 = (if (keepAt s q).enable then recordField s q 0x14 4 else 0))
    (hpend : (keepAt s q).enable = true → recordField s q 0xC 1 % 2 = 0) : queueSlot t q = none := by
  have hu := h.other.readable hr
  have honu : recordField u q 9 1 = 1 := by rw [h.other.field _ _ (by omega), hon]
  have hno : wantsSlot (readEnable u q) q = false := by
    rw [Bool.eq_false_iff, Ne, h.wantsSlot_iff hr hon hsound hring]
    rintro (hne | ⟨hk, hone⟩)
    · exact hne hhead
    · rw [hpend hk] at hone
      cases hone
  refine h.after.unslotted ?_
  rw [scanQueue_stays hu honu (by rw [h.other.sound, hsound]) hno, queueSlot_of_slots (hu.opened honu).slots, hu.unslotted]

end

/-! ## Unmapping -/

/-- The record of a queue as it is unmapped. -/
def savedRecord (s : State) (q : Nat) (head seq st : Nat) : State :=
  putRecord (putRecord (putRecord (putRecord s q 0x14 4 head) q 0x18 8 seq) q 0xC 1 st) q 0xB 1 0xFF

theorem savedRecord_unrid (s : State) (q head seq st : Nat) : (savedRecord s q head seq st).unrid = s.unrid := by
  rw [savedRecord, putRecord_unrid, putRecord_unrid, putRecord_unrid, putRecord_unrid]

theorem savedRecord_fields {s : State} {q head seq st : Nat} (h : RecordOpen s q) (hhead : head < 2 ^ 32) (hseq : seq < 2 ^ 64) (hst : st < 256) :
    recordField (savedRecord s q head seq st) q 0x14 4 = head ∧ recordField (savedRecord s q head seq st) q 0x18 8 = seq ∧
      recordField (savedRecord s q head seq st) q 0xC 1 = st ∧ recordField (savedRecord s q head seq st) q 0xB 1 = 0xFF := by
  refine ⟨?_, ?_, ?_, ?_⟩
  · rw [savedRecord, recordField_putRecord_ne _ (by omega), recordField_putRecord_ne _ (by omega), recordField_putRecord_ne _ (by omega),
      recordField_putRecord_self _ h, Nat.mod_eq_of_lt (by omega)]
  · rw [savedRecord, recordField_putRecord_ne _ (by omega), recordField_putRecord_ne _ (by omega), recordField_putRecord_self _ (h.put _),
      Nat.mod_eq_of_lt (by omega)]
  · rw [savedRecord, recordField_putRecord_ne _ (by omega), recordField_putRecord_self _ ((h.put _).put _), Nat.mod_eq_of_lt (by omega)]
  · rw [savedRecord, recordField_putRecord_self _ (((h.put _).put _).put _)]
    rfl

theorem bitN_le_one (b : Bool) : bitN b ≤ 1 := by cases b <;> decide

theorem queueSlotState_lt (s : State) (x : QSlot) : queueSlotState s x < 256 := by
  unfold queueSlotState
  exact Nat.lt_of_le_of_lt (Nat.add_le_add (Nat.add_le_add (bitN_le_one _) (Nat.mul_le_mul_left 2 (bitN_le_one _)))
    (Nat.mul_le_mul_left 4 (bitN_le_one _))) (by decide)

section
variable (s : State) (n : Nat) (x : QSlot)

/-- A queue taken out of its slot, its unmapping noted. -/
def unslotted : State :=
  let s1 := modUnrid s fun u => { u with slots := fdel u.slots n }
  setKeep s1 x.queue { keepAt s1 x.queue with unmapping := if x.cut then none else some ⟨n, s1.cycle, x.head, x.logsize⟩ }

/-- What a stopped table ends with once its last queue is unmapped (R68). -/
def tableEnded (s : State) : State :=
  if s.unrid.qtstop && s.unrid.slots.isEmpty then modUnrid s fun u => { u with qtlen := 0, qtstop := false } else s

theorem tableEnded_slots (s : State) : (tableEnded s).unrid.slots = s.unrid.slots := by
  unfold tableEnded
  split <;> rfl

theorem recordField_tableEnded (s : State) (q o k : Nat) : recordField (tableEnded s) q o k = recordField s q o k := by
  unfold tableEnded
  split <;> rfl

theorem unmapQueue_eq : unmapQueue s n x = tableEnded
    (if hostUp (unslotted s n x) (recordPlace (unslotted s n x) x.queue).1 then
      savedRecord (unslotted s n x) x.queue x.head.toNat x.seq.toNat (queueSlotState s x)
    else setKeep (unslotted s n x) x.queue
      { keepAt (unslotted s n x) x.queue with cut := some (x.head, x.seq, BitVec.ofNat 8 (queueSlotState s x)) }) := rfl

theorem unmapQueue_free : ffind (unmapQueue s n x).unrid.slots n = none := by
  rw [unmapQueue_eq, tableEnded_slots]
  split
  · rw [savedRecord_unrid]
    exact ffind_fdel_self _ _
  · exact ffind_fdel_self _ _

theorem unmapQueue_record (h : RecordOpen s x.queue) :
    recordField (unmapQueue s n x) x.queue 0x14 4 = x.head.toNat ∧ recordField (unmapQueue s n x) x.queue 0x18 8 = x.seq.toNat ∧
      recordField (unmapQueue s n x) x.queue 0xC 1 = queueSlotState s x ∧ recordField (unmapQueue s n x) x.queue 0xB 1 = 0xFF := by
  have hopen : RecordOpen (unslotted s n x) x.queue := ⟨h.up, h.wf⟩
  rw [unmapQueue_eq, if_pos hopen.up, recordField_tableEnded, recordField_tableEnded, recordField_tableEnded, recordField_tableEnded]
  exact savedRecord_fields hopen x.head.isLt x.seq.isLt (queueSlotState_lt s x)

end

/-! ## Fetching -/

/-- What makes an entry well formed is the entry itself, and the number of queues. -/
theorem entryOk_of_qtlen {s t : State} (h : t.unrid.qtlen = s.unrid.qtlen) (e : Entry) : entryOk t e = entryOk s e := by
  unfold entryOk operandsOk
  rw [h]

section
variable {s : State} {n : BitVec 6} {x : QSlot}

/-- HEAD moved past the entry that is fetched. -/
def fetchMoved (s : State) (n : Nat) (x : QSlot) : State :=
  putRecord (setSlot s n { x with head := x.head + 1 }) x.queue 0x14 4 (x.head + 1).toNat

theorem fetchMoved_unrid (s : State) (n : Nat) (x : QSlot) : (fetchMoved s n x).unrid = (setSlot s n { x with head := x.head + 1 }).unrid :=
  putRecord_unrid ..

/-- The next entry of a slot's queue as its ring holds it. -/
def ringEntry (s : State) (x : QSlot) : Entry := ⟨⟨x.queue, nextSeq x⟩, hostRead s (portOf x.ring) (entryPlace x (nextSeq x)) 64, .fetched⟩

theorem exec_entryFetch_eq (hx : ffind s.unrid.slots n.toNat = some x) (hmay : mayFetch s x = true) :
    exec (.entryFetch n) s = .next (modUnrid (fetchMoved s n.toNat x) fun u => { u with entries := u.entries ++
      [{ ringEntry s x with st := if entryOk (fetchMoved s n.toNat x) (ringEntry s x) then .fetched else .done csBadEntry 0 0 }] }) := by
  show execEntryFetch n s = _
  rw [execEntryFetch, hx]
  dsimp only
  rw [hmay]
  rfl

theorem exec_entryFetch (hx : ffind s.unrid.slots n.toNat = some x) (hmay : mayFetch s x = true) :
    ∃ t, exec (.entryFetch n) s = .next t ∧
      t.unrid.entries = s.unrid.entries ++ [if entryOk s (ringEntry s x) then ringEntry s x else { ringEntry s x with st := .done 1 0 0 }] ∧
      ffind t.unrid.slots n.toNat = some { x with head := x.head + 1 } := by
  refine ⟨_, exec_entryFetch_eq hx hmay, ?_, ?_⟩
  · show (fetchMoved s n.toNat x).unrid.entries ++ _ = _
    rw [fetchMoved_unrid, entryOk_of_qtlen (s := s) (by rw [fetchMoved_unrid]; rfl)]
    split <;> rfl
  · show ffind (fetchMoved s n.toNat x).unrid.slots _ = _
    rw [fetchMoved_unrid]
    exact ffind_fset_self ..

end

/-! ## Notifies -/

section
variable {s : State} {n : BitVec 6} {x : QSlot} {p : HostPort} {v : Word}

theorem notifyWrite_mapped (hrun : unridRuns s = true) (hx : ffind s.unrid.slots n.toNat = some x) (hq : (v.extractLsb' 32 10).toNat = x.queue)
    (hcut : x.cut = false) (hres : v.extractLsb' 42 22 = 0) (htail : (v.setWidth 32 - x.head : BitVec 32).toNat ≤ 2 ^ x.logsize) :
    notifyWrite s p n.toNat v = if p = .p0 ∧ x.notified = some (s.cycle, .p1) then s
      else setSlot s n.toNat { x with tail := v.setWidth 32, since := s.live, notified := some (s.cycle, p) } := by
  have hqueue : ¬ x.queue ≠ wfield v 32 10 := by rw [wfield_eq, hq]; exact fun h => h rfl
  rw [notifyWrite, if_pos hrun, applyNotify, hx]
  dsimp only
  rw [if_neg hqueue, if_neg (by simp [hcut]), if_pos (by rw [notifyOk, hres]; simpa using htail)]

theorem exec_notifyWrite (p : HostPort) (n : BitVec 6) (v : Word) : exec (.notifyWrite p n v) s = .next (notifyWrite s p n.toNat v) := rfl

end

/-! ## Completion -/

section
variable {s : State} {k : EntryKey} {e : Entry} {n : Nat} {x : QSlot} {status detail result : Nat}

/-- The sequence number that follows once an entry that follows it has ended, with nothing completed ahead of it. -/
def seqAfter (x : QSlot) (k : EntryKey) : Nat × List Nat := advanceSeq 1 x.seq.toNat [k.seq]

theorem seqAfter_next (h : k.seq = x.seq.toNat + 1) : (seqAfter x k).1 = k.seq := by
  simp [seqAfter, advanceSeq, h]

/-- The completion word written and SEQ moved on. -/
def completed (s : State) (k : EntryKey) (n : Nat) (x : QSlot) (status detail result : Nat) : State :=
  let s1 := hostPut s (portOf x.ring) (entryPlace x k.seq + 0x38) 8 (completionWord status detail result)
  let s2 := setSlot (setKeep s1 k.queue { keepAt s1 k.queue with ahead := (seqAfter x k).2 }) n
    { x with seq := BitVec.ofNat 64 (seqAfter x k).1, since := s1.live }
  modUnrid (putRecord s2 k.queue 0x18 8 (seqAfter x k).1) fun u => { u with entries := u.entries.filter fun y => y.key ≠ k }

theorem completed_entries : (completed s k n x status detail result).unrid.entries = s.unrid.entries.filter (fun y => y.key ≠ k) := by
  show (putRecord _ k.queue 0x18 8 _).unrid.entries.filter _ = _
  rw [putRecord_unrid]
  show (hostPut s _ _ 8 _).unrid.entries.filter _ = _
  rw [hostPut, hostWrite_unrid]

theorem completed_slot : ∃ y, ffind (completed s k n x status detail result).unrid.slots n = some y ∧
    y.seq = BitVec.ofNat 64 (seqAfter x k).1 := by
  let live := (hostPut s (portOf x.ring) (entryPlace x k.seq + 0x38) 8 (completionWord status detail result)).live
  refine ⟨{ x with seq := BitVec.ofNat 64 (seqAfter x k).1, since := live }, ?_, rfl⟩
  show ffind (putRecord _ k.queue 0x18 8 _).unrid.slots n = _
  rw [putRecord_unrid]
  exact ffind_fset_self ..

theorem completed_word (hup : hostUp s (portOf x.ring) = true) (hport : portOf x.ring ≠ portOf s.unrid.qtbase)
    (hwf : (portAt s (portOf x.ring)).mem.wf = true) :
    hostLE (completed s k n x status detail result) (portOf x.ring) (entryPlace x k.seq + 0x38) 8 = completionWord status detail result % 256 ^ 8 := by
  show hostLE (putRecord _ k.queue 0x18 8 _) _ _ 8 = _
  rw [putRecord, hostLE_hostPut_ne]
  · exact hostLE_hostPut_self _ _ _ _ _ hup hwf
  · refine .inl ?_
    show portOf x.ring ≠ portOf (hostPut s _ _ 8 _).unrid.qtbase
    rwa [hostPut, hostWrite_unrid]

theorem exec_completion (he : entryAt s k = some e) (hst : e.st = .done status detail result) (hslot : queueSlot s k.queue = some (n, x))
    (hahead : (keepAt s k.queue).ahead = []) : exec (.queueEntryCompletion k) s =
    .next (if entryField e 1 1 % 2 = 1 ∧ x.msix ≠ 0 then sendMsix (completed s k n x status detail result) (portOf x.ring) x.msix
      else completed s k n x status detail result) := by
  have hkeep : keepAt (hostPut s (portOf x.ring) (entryPlace x k.seq + 0x38) 8 (completionWord status detail result)) k.queue =
      keepAt s k.queue := keepAt_of_unrid (by rw [hostPut, hostWrite_unrid]) _
  have hseq : advanceSeq ((keepAt s k.queue).ahead.length + 1) x.seq.toNat ((keepAt s k.queue).ahead ++ [k.seq]) = seqAfter x k := by
    rw [hahead]
    rfl
  show execQueueEntryCompletion k s = _
  rw [execQueueEntryCompletion, he, hslot]
  dsimp only
  rw [hst]
  dsimp only
  rw [hkeep, hseq, completed, hkeep]
  rfl

theorem sendMsix_unrid (s : State) (p : HostPort) (v : Nat) : (sendMsix s p v).unrid = s.unrid := by
  obtain ⟨m, n, h⟩ := sendMsix_rest s p v
  rw [h, setPort_unrid]

theorem sendMsix_mem (s : State) (p : HostPort) (v : Nat) (r : HostPort) : (portAt (sendMsix s p v) r).mem = (portAt s r).mem := by
  obtain ⟨m, n, h⟩ := sendMsix_rest s p v
  rw [h]
  by_cases hr : r = p
  · subst hr
    rw [portAt_setPort_self]
  · rw [portAt_setPort_ne _ _ hr]

/-- An interrupt, or none, leaves what has been completed. -/
theorem exec_completion_kept (he : entryAt s k = some e) (hst : e.st = .done status detail result) (hslot : queueSlot s k.queue = some (n, x))
    (hahead : (keepAt s k.queue).ahead = []) : ∃ t, exec (.queueEntryCompletion k) s = .next t ∧
      t.unrid = (completed s k n x status detail result).unrid ∧
      ∀ p a l, hostLE t p a l = hostLE (completed s k n x status detail result) p a l := by
  rw [exec_completion he hst hslot hahead]
  split
  · exact ⟨_, rfl, sendMsix_unrid .., fun p a l => by rw [hostLE, sendMsix_mem, hostLE]⟩
  · exact ⟨_, rfl, rfl, fun _ _ _ => rfl⟩

end

/-- Settles O49: what a run of the scheduler leaves of one queue while it reads others, and what it makes of the one it reads; the record
of a queue unmapped, and the words written at completion, read back from host memory. -/
theorem queueEvents : Obligations.QueueEvents := by
  unfold Obligations.QueueEvents
  intro s
  refine ⟨fun q hq => List.append_of_mem (mem_scanOrder hq), head_scanOrder, ?_, ?_, ?_⟩
  · intro q before after hrun hstop hsplit hq hcut hup hwf
    dsimp only
    have hr : Readable s q := ⟨hq, hcut, hup, hwf⟩
    obtain ⟨u, t, h⟩ := exists_runReads hrun hstop hsplit hq
    exact ⟨fun hoff => ⟨t, h.runs, h.disabled hr hoff⟩, fun hon hbad => ⟨t, h.runs, h.unsound hr hon hbad⟩, fun hon hsound hring =>
      ⟨fun hyes hroom => ⟨t, h.runs, h.mapped hr hon hsound hring hyes hroom⟩,
        fun hhead hpend => ⟨t, h.runs, h.stays hr hon hsound hring hhead hpend⟩⟩⟩
  · intro n x hx
    have hunmap : exec (.queueIdleUnmap n) s = if unmaps s x then .next (unmapQueue s n.toNat x) else .next s := by
      show execQueueIdleUnmap n s = _
      rw [execQueueIdleUnmap, hx]
    refine ⟨fun hyes => ⟨_, hunmap.trans (if_pos hyes), unmapQueue_free .., fun hup hwf => unmapQueue_record _ _ _ ⟨hup, hwf⟩⟩,
      fun hno => hunmap.trans (if_neg (by simp [hno])), ?_, ?_⟩
    · intro hmay
      obtain ⟨t, ht, hentries, hslot⟩ := exec_entryFetch hx hmay
      exact ⟨t, _, ht, hentries, hslot, rfl, rfl, rfl⟩
    · intro p v hrun hq hcut hres htail
      rw [exec_notifyWrite, notifyWrite_mapped hrun hx hq hcut hres htail]
      refine ⟨fun h => ?_, fun hp hn => by rw [if_pos ⟨hp, hn⟩]⟩
      rw [if_neg]
      rintro ⟨rfl, hn⟩
      exact h.elim (fun hp => by cases hp) fun hne => hne hn
  · intro k e n x status detail result he hst hslot hahead
    obtain ⟨t, ht, hunrid, hmem⟩ := exec_completion_kept he hst hslot hahead
    refine ⟨t, ht, by rw [hunrid, completed_entries], fun hk => ?_, fun hup hport hwf => ?_⟩
    · obtain ⟨y, hy, hseq⟩ := completed_slot (s := s) (k := k) (n := n) (x := x) (status := status) (detail := detail) (result := result)
      exact ⟨y, by rw [hunrid, hy], by rw [hseq, seqAfter_next hk]⟩
    · exact (hmem _ _ _).trans (completed_word hup hport hwf)

end Sys2Proof.Proofs

/-! Commands of a queue: entries that start and end, WAITQ, SIGNAL, ACOPY, LRESUME, QUERY and DUMP (R61, R62, R74 to R78). -/

namespace Sys2Proof.Proofs
open Sys2Proof Sys2Proof.Machine Sys2Proof.Laws

/-! ## Entries that start and end -/

theorem entryAt_setEntry {s : State} {k : EntryKey} {e : Entry} (st : EntrySt) (h : entryAt s k = some e) :
    entryAt (setEntry s k st) k = some { e with st := st } := by
  have hkey : e.key = k := by simpa using List.find?_some h
  have hsame : (fun e : Entry => decide (e.key = k)) ∘ (fun e => if e.key = k then { e with st := st } else e) = fun e => decide (e.key = k) := by
    funext e
    show decide ((if e.key = k then { e with st := st } else e).key = k) = _
    split <;> rfl
  show List.find? (fun e : Entry => decide (e.key = k)) (s.unrid.entries.map _) = _
  rw [List.find?_map, hsame]
  exact (congrArg _ h).trans (by simp [hkey])

theorem entryAt_of_unrid {s t : State} (h : t.unrid = s.unrid) (k : EntryKey) : entryAt t k = entryAt s k := by rw [entryAt, h, entryAt]

/-- An entry that starts: Unrid runs, the entry is fetched and of this opcode, and none before it holds it. -/
structure Starts (s : State) (k : EntryKey) (op : Nat) (e : Entry) : Prop where
  entry : entryAt s k = some e
  runs : unridRuns s = true
  opcode : entryOp e = op
  fetched : e.st = .fetched
  may : mayStart s e = true

section
variable {s t : State} {k : EntryKey} {e : Entry} {op : Nat}

theorem starts_of_startable (h : startable s k op = some e) : Starts s k op e := by
  unfold startable at h
  split at h
  · next e' he =>
    split at h
    · next hif =>
      cases h
      simp only [Bool.and_eq_true, beq_iff_eq, decide_eq_true_eq] at hif
      obtain ⟨⟨⟨hrun, hop⟩, hst⟩, hmay⟩ := hif
      exact ⟨he, hrun, hop, hst, hmay⟩
    · cases h
  · cases h

/-- An entry that has not ended. -/
def Pending (e : Entry) : Prop := ∀ status detail result, e.st ≠ .done status detail result

theorem pending_of_fetched (h : e.st = .fetched) : Pending e := fun _ _ _ hd => by rw [h] at hd; cases hd
theorem pending_of_active (h : e.st = .active) : Pending e := fun _ _ _ hd => by rw [h] at hd; cases hd
theorem Starts.pending (h : Starts s k op e) : Pending e := pending_of_fetched h.fetched

theorem endEntry_pending (he : entryAt s k = some e) (hp : Pending e) (status detail result : Nat) :
    endEntry s k status detail result = setEntry s k (.done status detail result) := by
  rw [endEntry, he]
  dsimp only
  split
  · next h => exact absurd h (hp _ _ _)
  · rfl

theorem endsAs_endEntry (he : entryAt s k = some e) (hp : Pending e) (status detail result : Nat) :
    endsAs (endEntry s k status detail result) k status detail result := by
  rw [endsAs, endEntry_pending he hp, entryAt_setEntry _ he]
  rfl

theorem endsAs_of_unrid (h : Pending e) (he : entryAt s k = some e) (hu : t.unrid = s.unrid) (status detail result : Nat) :
    endsAs (endEntry t k status detail result) k status detail result :=
  endsAs_endEntry ((entryAt_of_unrid hu k).trans he) h ..

theorem onEntry_starts (h : startable s k op = some e) (body : Entry → State) : onEntry s k op body = .next (body e) := by
  rw [onEntry, h]

theorem onWafer_running (h : startable s k op = some e) (hst : s.dev.st ≠ .fatal) (hstop : s.dev.stopped = false) (body : Entry → State) :
    onWafer s k op (fun _ => false) body = .next (body e) := by
  rw [onWafer, onEntry_starts h]
  simp [hst, hstop]

end

/-! ## Lengths of hashes, keys and signatures (R60 to R62) -/

theorem length_flatMap_const {α β : Type} {l : List α} {f : α → List β} {n : Nat} (h : ∀ a, (f a).length = n) :
    (l.flatMap f).length = l.length * n := by
  induction l with
  | nil => simp
  | cons a l ih => rw [List.flatMap_cons, List.length_append, ih, h, List.length_cons, Nat.succ_mul, Nat.add_comm]

@[simp] theorem length_beBytes (v n : Nat) : (beBytes v n).length = n := by simp [beBytes]

section
variable {w : Nat} (p : Sha2 w)

theorem length_sha2Round (v : List (BitVec w)) (kw : BitVec w × BitVec w) : (sha2Round p v kw).length = v.length := by
  unfold sha2Round
  split <;> rfl

theorem length_foldl_const {α β : Type} {f : List α → β → List α} (h : ∀ v b, (f v b).length = v.length) (l : List β) (v : List α) :
    (l.foldl f v).length = v.length := by
  induction l generalizing v with
  | nil => rfl
  | cons b l ih => rw [List.foldl_cons, ih, h]

theorem length_sha2Block (h : List (BitVec w)) (block : List Byte) : (sha2Block p h block).length = h.length := by
  unfold sha2Block
  dsimp only
  rw [List.length_zipWith, length_foldl_const (length_sha2Round p), Nat.min_self]

theorem length_sha2 {init : List (BitVec w)} {n : Nat} (hn : n ≤ init.length * p.bytes) (m : List Byte) : (sha2 p init n m).length = n := by
  unfold sha2
  dsimp only
  rw [List.length_take, length_flatMap_const (fun x => length_beBytes _ _),
    length_foldl_const (fun v i => length_sha2Block p v _), Nat.min_eq_left hn]

end

@[simp] theorem length_sha384 (m : List Byte) : (sha384 m).length = 48 := length_sha2 sha512Params (by decide) m
@[simp] theorem length_sha512 (m : List Byte) : (sha512 m).length = 64 := length_sha2 sha512Params (by decide) m
@[simp] theorem length_sha256 (m : List Byte) : (sha256 m).length = 32 := length_sha2 sha256Params (by decide) m

@[simp] theorem length_slhF (seed : List Byte) (a : SlhAddr) (m : List Byte) : (slhF seed a m).length = 24 := by simp [slhF]
@[simp] theorem length_slhH (seed : List Byte) (a : SlhAddr) (m : List Byte) : (slhH seed a m).length = 24 := by simp [slhH]

theorem length_padded (bs : List Byte) (o n : Nat) : (padded bs o n).length = n := by
  have h : (sliceOf bs o n).length ≤ n := by simp [sliceOf]
  rw [padded, List.length_append, List.length_replicate]
  omega

section
variable (sk seed : List Byte) (a : SlhAddr)

theorem length_slhChain {x : List Byte} (hx : x.length = 24) (n i : Nat) : (slhChain seed a n i x).length = 24 := by
  induction n generalizing i x with
  | zero => exact hx
  | succ n ih => exact ih (length_slhF ..) (i + 1)

theorem length_baseBits (bs : List Byte) (b n : Nat) : (baseBits bs b n).length = n := by simp [baseBits]

theorem length_slhDigits (m : List Byte) : (slhDigits m).length = 51 := by
  unfold slhDigits
  dsimp only
  rw [List.length_append, length_baseBits, length_baseBits]

theorem length_slhWotsSecret (i : Nat) : (slhWotsSecret sk seed a i).length = 24 := length_slhF ..

theorem length_slhWotsSign (m : List Byte) : (slhWotsSign sk seed a m).length = 1224 := by
  unfold slhWotsSign
  rw [length_flatMap_const fun d => length_slhChain seed _ (length_slhWotsSecret ..) _ _, List.length_zipIdx, length_slhDigits]

theorem length_slhXmssNode (layer tree z i : Nat) : (slhXmssNode sk seed layer tree z i).length = 24 := by
  cases z with
  | zero => exact length_slhH ..
  | succ z => exact length_slhH ..

theorem length_slhPath {node : Nat → Nat → List Byte} (hn : ∀ z i, (node z i).length = 24) (h idx : Nat) :
    (slhPath node h idx).length = h * 24 := by
  rw [slhPath, length_flatMap_const fun j => hn j _, List.length_range]

theorem length_slhXmssSign (layer tree leaf : Nat) (m : List Byte) : (slhXmssSign sk seed layer tree leaf m).length = 1440 := by
  rw [slhXmssSign, List.length_append, length_slhWotsSign, length_slhPath (length_slhXmssNode sk seed layer tree)]

theorem length_slhTreeSign (n j tree leaf : Nat) (m : List Byte) : (slhTreeSign sk seed n j tree leaf m).length = n * 1440 := by
  induction n generalizing j tree leaf m with
  | zero => simp [slhTreeSign]
  | succ n ih =>
    rw [slhTreeSign, List.length_append, length_slhXmssSign, ih]
    omega

theorem length_slhForsNode (z i : Nat) : (slhForsNode sk seed a z i).length = 24 := by
  cases z with
  | zero => exact length_slhF ..
  | succ z => exact length_slhH ..

theorem length_slhForsSign (tree leaf : Nat) (md : List Byte) : (slhForsSign sk seed tree leaf md).length = 6120 := by
  have hpart (b : SlhAddr) (idx : Nat) : (slhForsSecret sk seed b idx ++ slhPath (slhForsNode sk seed b) 14 idx).length = 360 := by
    rw [List.length_append, slhForsSecret, length_slhF, length_slhPath (length_slhForsNode sk seed b)]
  unfold slhForsSign
  dsimp only
  rw [length_flatMap_const fun d => hpart _ _, List.length_zipIdx, length_baseBits]

theorem length_slhSign (prf rnd msg : List Byte) : (slhSign sk prf seed rnd msg).length = 16224 := by
  unfold slhSign
  dsimp only
  rw [List.length_append, List.length_append, length_slhForsSign, length_slhTreeSign, List.length_take, hmac512, length_sha512]
  rfl

end

theorem length_signSlh (k : Signer) (n : Nat) (msg : List Byte) : (signSlh k n msg).length = 16224 := length_slhSign ..

theorem length_signRsa (k : Signer) (n : Nat) (msg : List Byte) : (signRsa k n msg).length = 384 := length_beBytes ..

theorem length_slhKey (k : Signer) : (slhKey k).length = 48 := by
  rw [slhKey, List.length_append, slhSecret, length_padded, slhRoot, length_slhXmssNode]

theorem length_rsaModulus (k : Signer) : (rsaModulus k).length = 384 := length_beBytes ..

theorem length_certificate (device : Bool) : (certificate device).length = 17640 := by
  have hbody : (certBody device).length = 576 := length_readBytes ..
  have hblock : (certBlock device).length = 17064 := by
    unfold certBlock
    dsimp only
    simp only [List.length_append, leBytes_length, rsaKeyBytes, length_rsaModulus, length_signRsa, length_slhKey, length_signSlh]
  rw [certificate, List.length_append, hbody, hblock]

/-! ## The attestation report -/

theorem readBytes_writeBytes_ne (m : Memory) {a b k : Nat} (bs : List Byte) (h : b + k ≤ a ∨ a + bs.length ≤ b) :
    (m.writeBytes a bs).readBytes b k = m.readBytes b k :=
  readBytes_congr fun c hb hc => read_writeBytes_ne m a c bs (by omega)

theorem readBytes_append (m : Memory) (a n k : Nat) : m.readBytes a (n + k) = m.readBytes a n ++ m.readBytes (a + n) k := by
  induction n generalizing a with
  | zero => simp [Memory.readBytes]
  | succ n ih =>
    rw [Nat.succ_add, Memory.readBytes, ih, Memory.readBytes, List.cons_append, Nat.add_assoc, Nat.add_comm 1]

/-- A slice of bytes read is the bytes read there. -/
theorem sliceOf_readBytes (m : Memory) {a n o k : Nat} (h : o + k ≤ n) : sliceOf (m.readBytes a n) o k = m.readBytes (a + o) k := by
  obtain ⟨r, rfl⟩ := Nat.exists_eq_add_of_le h
  rw [sliceOf, readBytes_append, readBytes_append, List.append_assoc, List.drop_left' (length_readBytes ..),
    List.take_left' (length_readBytes ..)]

theorem fieldOf_readBytes (m : Memory) {a n o k : Nat} (h : o + k ≤ n) : fieldOf (m.readBytes a n) o k = m.readLE (a + o) k := by
  rw [fieldOf, sliceOf_readBytes m h, Memory.readLE]

theorem readLE_writeBytes_ne (m : Memory) {a b k : Nat} (bs : List Byte) (h : b + k ≤ a ∨ a + bs.length ≤ b) :
    (m.writeBytes a bs).readLE b k = m.readLE b k := by
  rw [Memory.readLE, readBytes_writeBytes_ne m bs h, Memory.readLE]

section
variable (s : State) (nonce : List Byte)

/-- The numbers of an attestation report. -/
def reportNumbers : Memory := writeFields Memory.empty 0
  [(0, 4, 0x5454_4158), (4, 4, 1), (0x28, 4, 9140), (0x2C, 2, s.dev.mapgen.toNat), (0x2E, 2, Config.romRelease.toNat % 2 ^ 16),
   (0x30, 8, Config.serial.toNat), (0x98, 8, s.cycle)]

/-- The nonce, and the hash of a patch that has been applied. -/
def reportPatched : Memory :=
  if s.dev.patched then ((reportNumbers s).writeBytes 8 nonce).writeBytes 0x38 (sha384 s.dev.patchBytes) else (reportNumbers s).writeBytes 8 nonce

theorem reportBody_eq : reportBody s nonce = ((reportPatched s nonce).writeBytes 0x68 (sha384 s.dev.cfg.raw)).readBytes 0 0xA0 := rfl

theorem reportNumbers_wf : (reportNumbers s).wf = true := by
  show (((((((_ : Memory).writeLE _ _ _).writeLE _ _ _).writeLE _ _ _).writeLE _ _ _).writeLE _ _ _).writeLE _ _ _).wf = true
  iterate 7 apply writeLE_wf
  exact empty_wf

theorem reportPatched_wf : (reportPatched s nonce).wf = true := by
  unfold reportPatched
  split
  · exact writeBytes_wf (writeBytes_wf (reportNumbers_wf s) _ _) _ _
  · exact writeBytes_wf (reportNumbers_wf s) _ _

variable (hn : nonce.length = 32)
include hn

/-- Outside the nonce and the hashes the numbers of a report stand. -/
theorem reportBody_number {o k : Nat} (h : o + k ≤ 8 ∨ (0x28 ≤ o ∧ o + k ≤ 0x38) ∨ (0x98 ≤ o ∧ o + k ≤ 0xA0)) :
    fieldOf (reportBody s nonce) o k = (reportNumbers s).readLE o k := by
  have hnonce : ((reportNumbers s).writeBytes 8 nonce).readLE o k = (reportNumbers s).readLE o k := readLE_writeBytes_ne _ _ (by omega)
  rw [reportBody_eq, fieldOf_readBytes _ (by omega), Nat.zero_add, readLE_writeBytes_ne _ _ (by rw [length_sha384]; omega), reportPatched]
  split
  · rw [readLE_writeBytes_ne _ _ (by rw [length_sha384]; omega), hnonce]
  · exact hnonce

theorem reportBody_nonce : sliceOf (reportBody s nonce) 8 32 = nonce := by
  have hnonce : ((reportNumbers s).writeBytes 8 nonce).readBytes 8 32 = nonce := by
    rw [← hn]
    exact readBytes_writeBytes (reportNumbers_wf s) 8 nonce
  rw [reportBody_eq, sliceOf_readBytes _ (by omega), Nat.zero_add, readBytes_writeBytes_ne _ _ (by omega), reportPatched]
  split
  · rw [readBytes_writeBytes_ne _ _ (by omega), hnonce]
  · exact hnonce

omit hn in
theorem reportBody_hash : sliceOf (reportBody s nonce) 0x68 48 = sha384 s.dev.cfg.raw := by
  have h := readBytes_writeBytes (reportPatched_wf s nonce) 0x68 (sha384 s.dev.cfg.raw)
  rw [length_sha384] at h
  rw [reportBody_eq, sliceOf_readBytes _ (by omega), Nat.zero_add, h]

omit hn in
theorem reportNumbers_magic : (reportNumbers s).readLE 0 4 = 0x5454_4158 := by
  show ((((((((_ : Memory).writeLE _ _ _).writeLE _ _ _).writeLE _ _ _).writeLE _ _ _).writeLE _ _ _).writeLE _ _ _).writeLE _ _ _).readLE _ _ = _
  iterate 6 rw [readLE_writeLE_ne _ _ (by omega)]
  exact readLE_writeLE empty_wf _ _ _

omit hn in
theorem reportNumbers_serial : (reportNumbers s).readLE 0x30 8 = Config.serial.toNat := by
  show ((((((((_ : Memory).writeLE _ _ _).writeLE _ _ _).writeLE _ _ _).writeLE _ _ _).writeLE _ _ _).writeLE _ _ _).writeLE _ _ _).readLE _ _ = _
  rw [readLE_writeLE_ne _ _ (by omega)]
  refine (readLE_writeLE ?_ _ _ _).trans (Nat.mod_eq_of_lt Config.serial.isLt)
  iterate 5 apply writeLE_wf
  exact empty_wf

omit hn in
theorem reportNumbers_cycle : (reportNumbers s).readLE 0x98 8 = s.cycle % 2 ^ 64 := by
  refine readLE_writeLE ?_ _ _ _
  iterate 6 apply writeLE_wf
  exact empty_wf

end

/-! ## QUERY -/

theorem hostRead_hostWrite {s : State} {p : HostPort} (hup : hostUp s p = true) (hwf : (portAt s p).mem.wf = true) (a : Nat) (bs : List Byte) :
    hostRead (hostWrite s p a bs) p a bs.length = bs := by
  rw [hostRead, hostWrite, if_pos hup, modPort, portAt_setPort_self]
  exact readBytes_writeBytes hwf a bs

theorem portAt_endEntry (s : State) (k : EntryKey) (status detail result : Nat) (p : HostPort) :
    portAt (endEntry s k status detail result) p = portAt s p := by
  obtain ⟨es, h⟩ := endEntry_rest s k status detail result
  rw [h]
  rfl

section
variable {s : State} {k : EntryKey} {e : Entry} {item need result : Nat} {bytes : Entry → HostPort → Nat → List Byte}

theorem onQuery_written (h : startable s k 9 = some e) (hitem : entryField e 8 2 = item) (hlen : need ≤ entryField e 0x18 4)
    (hup : hostUp s (portOf (entryWord e 0x10)) = true) {n : Nat}
    (hn : (bytes e (portOf (entryWord e 0x10)) (hostByte (entryWord e 0x10))).length = n) :
    goesOn (onQuery s k item need result bytes) fun t => endsAs t k 0 0 result ∧
      ((portAt s (portOf (entryWord e 0x10))).mem.wf = true → hostRead t (portOf (entryWord e 0x10)) (hostByte (entryWord e 0x10)) n =
        bytes e (portOf (entryWord e 0x10)) (hostByte (entryWord e 0x10))) := by
  have hs := starts_of_startable h
  refine ⟨endEntry (hostWrite s (portOf (entryWord e 0x10)) (hostByte (entryWord e 0x10))
    (bytes e (portOf (entryWord e 0x10)) (hostByte (entryWord e 0x10)))) k csOk 0 result, ?_, ?_, fun hwf => ?_⟩
  · rw [onQuery, onEntry_starts h]
    dsimp only
    rw [if_neg (fun hne => hne hitem), if_neg (Nat.not_lt.2 hlen), if_neg (by simp [hup])]
  · exact endsAs_of_unrid hs.pending hs.entry (hostWrite_unrid ..) ..
  · rw [hostRead, portAt_endEntry, ← hn]
    exact hostRead_hostWrite hup hwf _ _

theorem onQuery_short (h : startable s k 9 = some e) (hitem : entryField e 8 2 = item) (hlen : entryField e 0x18 4 < need) :
    goesOn (onQuery s k item need result bytes) fun t => endsAs t k 2 1 0 := by
  have hs := starts_of_startable h
  refine ⟨endEntry s k csRefused 1 0, ?_, endsAs_endEntry hs.entry hs.pending ..⟩
  rw [onQuery, onEntry_starts h]
  dsimp only
  rw [if_neg (fun hne => hne hitem), if_pos hlen]

end

/-! ## DUMP -/

section
variable (s : State) (sram : Bool) (cause prow pcol : Nat)

theorem writeDump_rest : (writeDump s sram cause prow pcol).unrid = s.unrid ∧ (writeDump s sram cause prow pcol).cores = s.cores := by
  unfold writeDump
  dsimp only
  split
  · exact ⟨rfl, rfl⟩
  · rw [raiseEvent_unrid, raiseEvent_cores]
    exact ⟨rfl, rfl⟩
  · rw [raiseEvent_unrid, raiseEvent_cores, modPort, setPort_unrid, setPort_cores]
    exact ⟨rfl, rfl⟩

theorem stopWafer_rest : (stopWafer s).unrid = s.unrid ∧ (stopWafer s).cores = coresStopped s := by
  unfold stopWafer coresStopped
  split <;> exact ⟨rfl, rfl⟩

/-- The wafer as a dump on request leaves it. -/
def dumped : State := underStop s fun s => writeDump s sram cause prow pcol

theorem dumped_rest : (dumped s sram cause prow pcol).unrid = s.unrid ∧ (dumped s sram cause prow pcol).cores = coresStopped s ∧
    (dumped s sram cause prow pcol).dev.stopped = s.dev.stopped ∧ (dumped s sram cause prow pcol).dev.st = s.dev.st := by
  obtain ⟨hunrid, hcores⟩ := writeDump_rest (stopWafer s) sram cause prow pcol
  obtain ⟨hstop, hcut⟩ := stopWafer_rest s
  exact ⟨hunrid.trans hstop, hcores.trans hcut, rfl, (congrArg Device.st (writeDump_dev ..)).trans (stopWafer_st s)⟩

end

/-! ## The commands -/

section
variable {s : State} {k : EntryKey} {e : Entry}

theorem exec_waitqComplete (he : entryAt s k = some e) (hop : entryOp e = 3) (hst : e.st = .active) {n : Nat}
    (hn : seqOf s (entryField e 8 2) = some n) : exec (.waitqComplete k) s =
      if entryField e 0x10 8 ≤ n then .next (endEntry s k 0 0 0) else .next s := by
  show execWaitqComplete k s = _
  rw [execWaitqComplete, he]
  dsimp only
  rw [hn]
  simp [hop, hst, csOk]

theorem exec_signal_up (h : startable s k 4 = some e) (hup : hostUp s (portOf (entryWord e 8)) = true) : exec (.signal k) s =
    .next (endEntry (hostPut s (portOf (entryWord e 8)) (hostByte (entryWord e 8)) 8 (if entryField e 0x18 1 = 1 then
      (hostLE s (portOf (entryWord e 8)) (hostByte (entryWord e 8)) 8 + (entryWord e 0x10).toNat) % 2 ^ 64 else (entryWord e 0x10).toNat))
      k 0 0 0) := by
  show onEntry s k 4 _ = _
  rw [onEntry_starts h, hostSignal]
  dsimp only
  rw [if_pos hup]
  simp [csOk]

theorem exec_signal_down (h : startable s k 4 = some e) (hup : hostUp s (portOf (entryWord e 8)) = false) :
    exec (.signal k) s = .next (endEntry s k 3 0 0) := by
  show onEntry s k 4 _ = _
  rw [onEntry_starts h, hostSignal]
  dsimp only
  rw [if_neg (by simp [hup])]
  rfl

/-- What an ACOPY copies. -/
def acopied (s : State) (e : Entry) : State × Option (LKind × Nat) :=
  copyAll (entryField e 0x20 2) (entryField e 0x22 1 == 1) (portOf (entryWord e 8)) (hostByte (entryWord e 8)) s 0
    (copyParts ((entryWord e 0x10).extractLsb' 0 48).toNat (entryField e 0x18 8))

theorem exec_acopy (h : startable s k 5 = some e) (hst : s.dev.st ≠ .fatal) (hstop : s.dev.stopped = false) : exec (.acopy k) s =
    .next (if !hostUp s (portOf (entryWord e 8)) then endEntry s k csAbort 0 0
      else match (acopied s e).2 with
        | none => endEntry (acopied s e).1 k csOk 0 0
        | some (f, i) => endEntry (acopied s e).1 k csFault (lkindCode f) i) := by
  show onWafer s k 5 _ _ = _
  exact onWafer_running h hst hstop _

theorem exec_lresume_done (h : startable s k 7 = some e) (hst : s.dev.st ≠ .fatal) (hstop : s.dev.stopped = false) {t : State}
    (hr : resumeCtx s (entryField e 8 1) (entryField e 9 1) = (t, none)) : exec (.lresume k) s = .next (endEntry t k csOk 0 0) := by
  show onWafer s k 7 _ _ = _
  rw [onWafer_running h hst hstop, hr]

theorem exec_lresume_refused (h : startable s k 7 = some e) (hst : s.dev.st ≠ .fatal) (hstop : s.dev.stopped = false) {t : State} {d : Nat}
    (hr : resumeCtx s (entryField e 8 1) (entryField e 9 1) = (t, some d)) : exec (.lresume k) s = .next (endEntry t k csRefused d 0) := by
  show onWafer s k 7 _ _ = _
  rw [onWafer_running h hst hstop, hr]

theorem exec_queryCerts (k : EntryKey) (s : State) :
    exec (.queryCerts k) s = onQuery s k 1 35280 35280 fun _ _ _ => certificate true ++ certificate false := rfl

/-- The report of an attestation with its signatures, for a nonce. -/
def attested (s : State) (nonce : List Byte) : List Byte := reportBody s nonce ++ reportSigs s.cycle (reportBody s nonce)

theorem exec_queryAttest (k : EntryKey) (s : State) :
    exec (.queryAttest k) s = onQuery s k 2 16768 0 fun _ p a => attested s (hostRead s p a 32) := rfl

theorem length_certificates : (certificate true ++ certificate false).length = 35280 := by
  rw [List.length_append, length_certificate, length_certificate]

theorem length_attested (s : State) (nonce : List Byte) : (attested s nonce).length = 16768 := by
  have hbody : (reportBody s nonce).length = 160 := length_readBytes ..
  rw [attested, List.length_append, reportSigs, List.length_append, length_signRsa, length_signSlh, hbody]

theorem exec_dump (h : startable s k 10 = some e) :
    exec (.dump k) s = .next (endEntry (dumped s (entryField e 8 1 == 1) causeHost 0xFFFF 0xFFFF) k 0 0 0) := by
  show onEntry s k 10 _ = _
  rw [onEntry_starts h]
  rfl

theorem exec_querySavesize (h : startable s k 9 = some e) (hitem : entryField e 8 2 = 3) :
    exec (.querySavesize k) s = .next (endEntry s k 0 0 (100 + 640 * entryField e 0x1C 2 * entryField e 0x1E 2)) := by
  show onEntry s k 9 _ = _
  rw [onEntry_starts h, if_neg (fun hne => hne hitem)]
  rfl

end

/-- Settles O50: each command by its opcode, with the lengths of keys and signatures for what QUERY writes. -/
theorem plainCommands : Obligations.PlainCommands := by
  unfold Obligations.PlainCommands
  intro s k e he
  refine ⟨?_, ?_, ?_, ?_, ?_, ?_, ?_, ?_⟩
  · intro h
    exact ⟨_, onEntry_starts h _, congrArg _ (entryAt_setEntry .active he)⟩
  · intro hop hst n hn
    rw [exec_waitqComplete he hop hst hn]
    exact ⟨fun hle => ⟨_, if_pos hle, endsAs_endEntry he (pending_of_active hst) ..⟩, fun hlt => if_neg (Nat.not_le.2 hlt)⟩
  · intro h
    dsimp only
    exact ⟨exec_signal_up h, fun hdown => ⟨_, exec_signal_down h hdown, endsAs_endEntry he (starts_of_startable h).pending ..⟩⟩
  · intro h hst hstop
    dsimp only
    rw [exec_acopy h hst hstop]
    refine ⟨fun hdown => ⟨_, rfl, ?_⟩, fun hup hr => ?_, fun hup f i hr => ?_⟩
    · rw [hdown]
      exact endsAs_endEntry he (starts_of_startable h).pending ..
    · rw [hup, acopied, hr]
      rfl
    · rw [hup, acopied, hr]
      rfl
  · intro h hst hstop
    dsimp only
    refine ⟨fun l hl hrun hfault => exec_lresume_done h hst hstop ?_, fun hnone => ⟨_, exec_lresume_refused h hst hstop (t := s) ?_,
      endsAs_endEntry he (starts_of_startable h).pending ..⟩⟩
    · rw [resumeCtx, hl]
      exact if_pos ⟨hrun, hfault⟩
    · rw [resumeCtx, hnone]
  · intro h
    dsimp only
    rw [exec_queryCerts, exec_queryAttest]
    refine ⟨fun hitem hlen hup => ?_, fun hitem hlen => onQuery_short h hitem hlen, fun hitem hlen hup => ?_, fun hitem => ?_⟩
    · exact onQuery_written (bytes := fun _ _ _ => certificate true ++ certificate false) h hitem hlen hup length_certificates
    · exact onQuery_written (bytes := fun _ p a => attested s (hostRead s p a 32)) h hitem hlen hup (length_attested ..)
    · refine ⟨_, exec_querySavesize h hitem, endsAs_endEntry he (starts_of_startable h).pending .., ?_⟩
      exact ⟨portAt_endEntry s k _ _ _ .p0, portAt_endEntry s k _ _ _ .p1⟩
  · intro h
    obtain ⟨hunrid, hcores, hstop, hst⟩ := dumped_rest s (entryField e 8 1 == 1) causeHost 0xFFFF 0xFFFF
    refine ⟨_, exec_dump h, endsAs_of_unrid (starts_of_startable h).pending he hunrid .., ?_⟩
    obtain ⟨es, hend⟩ := endEntry_rest (dumped s (entryField e 8 1 == 1) causeHost 0xFFFF 0xFFFF) k 0 0 0
    rw [hend]
    exact ⟨hstop, hst, hcores⟩
  · intro nonce hn
    dsimp only
    refine ⟨length_readBytes .., ?_, reportBody_nonce s nonce hn, ?_, reportBody_hash s nonce, ?_⟩
    · rw [reportBody_number s nonce hn (by omega), reportNumbers_magic]
    · rw [reportBody_number s nonce hn (by omega), reportNumbers_serial]
    · rw [reportBody_number s nonce hn (by omega), reportNumbers_cycle]

end Sys2Proof.Proofs

/-! Commands that change Unrid's tables: AMAP, IMAGE, LAUNCH and PREEMPT (R76 to R78, R85, R95). -/

namespace Sys2Proof.Proofs
open Sys2Proof Sys2Proof.Machine Sys2Proof.Laws

/-! ## Entries beside the other tables -/

section
variable {s t : State} {k : EntryKey} {e : Entry}

theorem entryAt_of_entries (h : t.unrid.entries = s.unrid.entries) (k : EntryKey) : entryAt t k = entryAt s k := by rw [entryAt, h, entryAt]

theorem endsAs_of_entries (he : entryAt s k = some e) (hp : Pending e) (ht : t.unrid.entries = s.unrid.entries) (status detail result : Nat) :
    endsAs (endEntry t k status detail result) k status detail result :=
  endsAs_endEntry ((entryAt_of_entries ht k).trans he) hp ..

theorem endEntry_ctxs (s : State) (k : EntryKey) (status detail result : Nat) : (endEntry s k status detail result).unrid.ctxs = s.unrid.ctxs := by
  obtain ⟨es, h⟩ := endEntry_rest s k status detail result
  rw [h]

theorem endEntry_images (s : State) (k : EntryKey) (status detail result : Nat) :
    (endEntry s k status detail result).unrid.images = s.unrid.images := by
  obtain ⟨es, h⟩ := endEntry_rest s k status detail result
  rw [h]

theorem endEntry_launches (s : State) (k : EntryKey) (status detail result : Nat) :
    (endEntry s k status detail result).unrid.launches = s.unrid.launches := by
  obtain ⟨es, h⟩ := endEntry_rest s k status detail result
  rw [h]

/-! ## AMAP -/

variable {op d : Nat} {body : Nat → Entry → Except Nat State}

theorem onAmap_refused (h : startable s k 6 = some e) (hop : entryField e 0xA 1 = op) (hb : body (entryField e 8 2) e = .error d) :
    goesOn (onAmap s k op body) fun t => endsAs t k 2 d 0 ∧ t.unrid.ctxs = s.unrid.ctxs := by
  have hs := starts_of_startable h
  refine ⟨endEntry s k csRefused d 0, ?_, endsAs_endEntry hs.entry hs.pending .., endEntry_ctxs ..⟩
  rw [onAmap, onEntry_starts h, if_neg (fun hne => hne hop), hb]

theorem onAmap_done (h : startable s k 6 = some e) (hop : entryField e 0xA 1 = op) (hb : body (entryField e 8 2) e = .ok t)
    (ht : t.unrid.entries = s.unrid.entries) :
    goesOn (onAmap s k op body) fun u => endsAs u k 0 0 0 ∧ u.unrid.ctxs = t.unrid.ctxs := by
  have hs := starts_of_startable h
  refine ⟨endEntry t k csOk 0 0, ?_, endsAs_of_entries hs.entry hs.pending ht .., endEntry_ctxs ..⟩
  rw [onAmap, onEntry_starts h, if_neg (fun hne => hne hop), hb]

/-- An operation done that gives a context its new contents. -/
theorem onAmap_set (h : startable s k 6 = some e) (hop : entryField e 0xA 1 = op) {x : AtticCtx}
    (hb : body (entryField e 8 2) e = .ok (setCtx s (entryField e 8 2) x)) :
    goesOn (onAmap s k op body) fun u => endsAs u k 0 0 0 ∧ atticCtx u (entryField e 8 2) = some x := by
  obtain ⟨u, hu, hend, hctx⟩ := onAmap_done h hop hb rfl
  refine ⟨u, hu, hend, ?_⟩
  rw [atticCtx, hctx]
  exact ffind_fset_self ..

end

theorem exec_amapSetroot (k : EntryKey) (s : State) : exec (.amapSetroot k) s = execAmapSetroot k s := rfl
theorem exec_amapMap (k : EntryKey) (s : State) : exec (.amapMap k) s = execAmapMap k s := rfl
theorem exec_amapUnmap (k : EntryKey) (s : State) : exec (.amapUnmap k) s = execAmapUnmap k s := rfl
theorem exec_amapDrop (k : EntryKey) (s : State) : exec (.amapDrop k) s = execAmapDrop k s := rfl

/-! ## Programs in the image table -/

section
variable {s : State} {k : EntryKey} {e : Entry}

theorem goesOn_end (he : entryAt s k = some e) (hp : Pending e) (status detail result : Nat) :
    goesOn (.next (endEntry s k status detail result)) fun t => endsAs t k status detail result :=
  ⟨_, rfl, endsAs_endEntry he hp ..⟩

/-- What a transfer of an image brings: its first bytes. -/
def broughtHead (s : State) (e : Entry) : List Byte :=
  imageHead (portAt s (portOf (entryWord e 8))).mem (hostByte (entryWord e 8)) (entryField e 0x10 8)

/-- The loader's code for it. -/
def broughtCode (s : State) (e : Entry) : Nat :=
  imageCode s (portAt s (portOf (entryWord e 8))).mem (hostByte (entryWord e 8)) (entryField e 0x10 8)

section
variable (h : startable s k 11 = some e) (hload : entryWord e 8 ≠ 0) (hup : hostUp s (portOf (entryWord e 8)) = true)
include h hload hup

theorem exec_imageLoad_refused (hc : broughtCode s e ≠ 0) : exec (.imageLoad k) s = .next (endEntry s k csRefused (broughtCode s e) 0) := by
  show execImageLoad k s = _
  rw [execImageLoad, onEntry_starts h]
  dsimp only
  rw [if_neg hload, if_neg (by simp [hup])]
  exact congrArg _ (if_pos hc)

theorem exec_imageLoad_full (hc : broughtCode s e = 0) (hfree : freeImage s = none) : exec (.imageLoad k) s = .next (endEntry s k csRefused 11 0) := by
  show execImageLoad k s = _
  rw [execImageLoad, onEntry_starts h]
  dsimp only
  rw [if_neg hload, if_neg (by simp [hup]), if_neg fun hne => hne hc, hfree]

theorem exec_imageLoad_waits (hc : broughtCode s e = 0) {i : Nat} (hfree : freeImage s = some i) (hstop : s.dev.stopped = true)
    (hst : s.dev.st ≠ .fatal) : exec (.imageLoad k) s = .next s := by
  show execImageLoad k s = _
  rw [execImageLoad, onEntry_starts h]
  dsimp only
  rw [if_neg hload, if_neg (by simp [hup]), if_neg fun hne => hne hc, hfree]
  exact congrArg _ (if_pos ⟨hstop, hst⟩)

/-- The image in its store, and in the table. -/
def imageLoaded (s : State) (e : Entry) (i : Nat) : State :=
  modUnrid (atticWrite s (entryField e 0x18 8)
      ((portAt s (portOf (entryWord e 8))).mem.readBytes (hostByte (entryWord e 8)) (imageLength (broughtHead s e)))) fun u =>
    { u with images := fset u.images i (imageOf (broughtHead s e) (entryField e 0x18 8)) }

omit h hload hup in
theorem imageLoaded_tables (i : Nat) : (imageLoaded s e i).unrid.entries = s.unrid.entries ∧
    (imageLoaded s e i).unrid.images = fset s.unrid.images i (imageOf (broughtHead s e) (entryField e 0x18 8)) := by
  unfold imageLoaded
  exact ⟨rfl, rfl⟩

theorem exec_imageLoad_done (hc : broughtCode s e = 0) {i : Nat} (hfree : freeImage s = some i) (hstop : s.dev.stopped = false)
    (hstore : rangeNames s (entryField e 0x18 8) (imageLength (broughtHead s e)) = true) :
    exec (.imageLoad k) s = .next (endEntry (imageLoaded s e i) k csOk 0 i) := by
  show execImageLoad k s = _
  rw [execImageLoad, onEntry_starts h]
  dsimp only
  rw [if_neg hload, if_neg (by simp [hup]), if_neg fun hne => hne hc, hfree]
  dsimp only
  rw [if_neg (by simp [hstop])]
  exact congrArg _ (if_neg (by rw [Bool.not_eq_true, Bool.not_eq_false']; exact hstore))

end

/-- The state without an image: launches of it that wait go on under no IMAGEID. -/
def imageDropped (s : State) (i : Nat) : State :=
  let t := modUnrid s fun u =>
    { u with images := fdel u.images i, launches := u.launches.map fun l => if l.image = i then { l with image := 0 } else l }
  { t with cores := t.cores.map fun c => (c.1, { c.2 with resident := c.2.resident.filter fun r => r.1 ≠ i }) }

section
variable (h : startable s k 11 = some e) (hdrop : entryWord e 8 = 0) (hthere : (ffind s.unrid.images (entryField e 0x20 2)).isSome = true)
include h hdrop hthere

theorem exec_imageDrop_refused (hrun : (s.unrid.launches.any fun l => launchHasRegion l && l.image == entryField e 0x20 2) = true) :
    exec (.imageDrop k) s = .next (endEntry s k csRefused 12 0) := by
  show execImageDrop k s = _
  rw [execImageDrop, onEntry_starts h]
  dsimp only
  rw [if_neg fun hne => hne hdrop, if_neg (by simpa using Option.isSome_iff_ne_none.1 hthere), if_pos hrun]

theorem exec_imageDrop_done (hrun : (s.unrid.launches.any fun l => launchHasRegion l && l.image == entryField e 0x20 2) = false) :
    exec (.imageDrop k) s = .next (endEntry (imageDropped s (entryField e 0x20 2)) k csOk 0 0) := by
  show execImageDrop k s = _
  rw [execImageDrop, onEntry_starts h]
  dsimp only
  rw [if_neg fun hne => hne hdrop, if_neg (by simpa using Option.isSome_iff_ne_none.1 hthere), if_neg (by rw [hrun]; decide)]
  rfl

end

/-! ## LAUNCH -/

theorem exec_launch_bad (h : startable s k 1 = some e) (hbad : badLaunch s e = true) : exec (.launch k) s = .next (endEntry s k csBadEntry 0 0) := by
  show execLaunch k s = _
  rw [execLaunch, onEntry_starts h, if_pos hbad]

theorem badLaunch_image (hgood : badLaunch s e = false) : ∃ i, ffind s.unrid.images (entryField e 8 2) = some i := by
  rw [badLaunch] at hgood
  split at hgood
  · cases hgood
  · next i hi => exact ⟨i, hi⟩

theorem exec_launch_waits (h : startable s k 1 = some e) (hgood : badLaunch s e = false) (hst : s.dev.st ≠ .fatal) {i : Image}
    (hi : ffind s.unrid.images (entryField e 8 2) = some i) : exec (.launch k) s =
    .next (setEntry (modUnrid s fun u => { u with launches := u.launches ++ [launchOfEntry s e i] }) k .active) := by
  show execLaunch k s = _
  rw [execLaunch, onEntry_starts h, if_neg (by rw [hgood]; decide), if_neg hst, hi]

end

/-! ## PREEMPT -/

section
variable (s : State)

theorem foldl_unrid {α : Type} {f : State → α → State} (hf : ∀ s a, (f s a).unrid = s.unrid) (l : List α) (s : State) :
    (l.foldl f s).unrid = s.unrid := by
  induction l generalizing s with
  | nil => rfl
  | cons a l ih => rw [List.foldl_cons, ih, hf]

theorem tryMark_unrid (n : Nat) : (tryMark s n).unrid = s.unrid := by
  unfold tryMark
  split
  · dsimp only
    split
    · exact foldl_unrid (fun _ _ => setLarder_unrid ..) _ _
    · rfl
  · rfl

theorem settleService_unrid (n : Nat) : (settleService s n).unrid = s.unrid := by
  unfold settleService
  dsimp only
  split
  · split
    · rfl
    · split
      · rfl
      · split
        · rfl
        · split <;> rfl
  · rfl

theorem drainLarder_unrid (l : Launch) (n : Nat) : (drainLarder s l n).unrid = s.unrid := by
  unfold drainLarder
  dsimp only
  rw [tryMark_unrid, settleService_unrid, foldl_unrid (f := fun s v => refuseServing s v 3) fun _ _ => rfl]
  rfl

/-- A launch that drains, before its cores, larders and the host's ingress do. -/
def drainNoted (s : State) (l : Launch) (k : EntryKey) (save : Word) : State :=
  modLaunch s l.num fun l =>
    { l with st := .draining, drainAt := s.live, sweep := none, preemptKey := some k, preemptSave := save, drainCycle := s.cycle,
             sweepWas := l.sweep }

theorem markHost_tables (l : Launch) : (markHost s l).unrid.entries = s.unrid.entries ∧ (markHost s l).unrid.launches = s.unrid.launches := by
  unfold markHost
  generalize maskClasses l.classMask = cs
  induction cs generalizing s with
  | nil => exact ⟨rfl, rfl⟩
  | cons q cs ih => exact ih _

theorem beginDrain_tables (l : Launch) (k : EntryKey) (save : Word) : (beginDrain s l k save).unrid.entries = s.unrid.entries ∧
    (beginDrain s l k save).unrid.launches = (drainNoted s l k save).unrid.launches := by
  have hunrid (keys ns : List Nat) : (ns.foldl (fun s n => drainLarder s l n)
      (keys.foldl (fun s k => modCore s k fun c => { c with draining := true }) (drainNoted s l k save))).unrid = (drainNoted s l k save).unrid :=
    (foldl_unrid (fun s n => drainLarder_unrid s l n) ns _).trans
      (foldl_unrid (f := fun s k => modCore s k fun c => { c with draining := true }) (fun _ _ => rfl) keys _)
  obtain ⟨hentries, hlaunches⟩ := markHost_tables ((boundLarders l).foldl (fun s n => drainLarder s l n)
    ((regionKeys l).foldl (fun s k => modCore s k fun c => { c with draining := true }) (drainNoted s l k save))) l
  exact ⟨hentries.trans (congrArg Unrid.entries (hunrid (regionKeys l) (boundLarders l)) : _ = (drainNoted s l k save).unrid.entries), hlaunches.trans (congrArg Unrid.launches (hunrid (regionKeys l) (boundLarders l)))⟩

theorem launchNum_of_launches {s t : State} (h : t.unrid.launches = s.unrid.launches) (n : Nat) : launchNum t n = launchNum s n := by
  rw [launchNum, h, launchNum]

theorem launchNum_drainNoted {l : Launch} (hl : l ∈ s.unrid.launches) (k : EntryKey) (save : Word) :
    (launchNum (drainNoted s l k save) l.num).map (·.st) = some .draining := by
  have hfound : (launchNum s l.num).isSome = true := List.find?_isSome.2 ⟨l, hl, by simp⟩
  obtain ⟨x, hx⟩ := Option.isSome_iff_exists.1 hfound
  rw [drainNoted, launchNum_modLaunch, hx]
  · rfl
  · exact fun _ => rfl

end

section
variable {s : State} {k : EntryKey} {e : Entry}

/-- The launch that a PREEMPT names. -/
def preempted (s : State) (e : Entry) : Option Launch := s.unrid.launches.find? fun l => l.key = ⟨entryField e 8 2, entryField e 0x10 8⟩

variable (h : startable s k 8 = some e) (hst : s.dev.st ≠ .fatal)
include h hst

theorem exec_preempt_none (hf : preempted s e = none) : exec (.preempt k) s = .next (endEntry s k csRefused 1 0) := by
  show execPreempt k s = _
  rw [execPreempt, onEntry_starts h, if_neg hst, ← preempted, hf]

theorem exec_preempt_running {l : Launch} (hf : preempted s e = some l) (hl : l.st = .running) :
    exec (.preempt k) s = .next (setEntry (beginDrain s l k (entryWord e 0x18)) k .active) := by
  show execPreempt k s = _
  rw [execPreempt, onEntry_starts h, if_neg hst, ← preempted, hf]
  dsimp only
  rw [hl]

theorem exec_preempt_ending {l : Launch} (hf : preempted s e = some l) (hl : l.st = .draining ∨ l.st = .saving) :
    exec (.preempt k) s = .next (endEntry s k csRefused 2 0) := by
  show execPreempt k s = _
  rw [execPreempt, onEntry_starts h, if_neg hst, ← preempted, hf]
  dsimp only
  rcases hl with hl | hl <;> rw [hl]

end

/-- Settles O51: each refusal in the order the command judges them, and what the command leaves where none applies. -/
theorem tableCommands : Obligations.TableCommands := by
  unfold Obligations.TableCommands
  intro s k e he
  refine ⟨?_, ?_, ?_, ?_⟩
  · intro h
    simp only [exec_amapSetroot, exec_amapMap, exec_amapUnmap, exec_amapDrop, execAmapSetroot, execAmapMap, execAmapUnmap, execAmapDrop]
    refine ⟨fun hop hnone hover hnames hmeet => onAmap_set h hop (by simp [hnone, hover, hnames, hmeet]), fun x hx =>
      ⟨?_, fun hop => ⟨?_, ?_, ?_⟩, ?_, ?_, ?_, ?_⟩, fun hnone => ⟨fun hop => ⟨?_, ?_, ?_⟩, ?_, ?_, ?_⟩⟩
    · exact fun hop => onAmap_refused h hop (by simp [hx])
    · exact fun hfull => onAmap_refused h hop (by simp only [hx, if_pos hfull])
    · exact fun hroom hover => onAmap_refused h hop (by simp only [hx, if_neg (Nat.not_lt.2 hroom), hover]; rfl)
    · exact fun hroom hover hleaf => onAmap_refused h hop (by simp only [hx, if_neg (Nat.not_lt.2 hroom), hover, hleaf]; rfl)
    · exact fun hop hused => onAmap_refused h hop (by simp only [hx, hused]; rfl)
    · exact fun hop hroom hover hleaf => onAmap_set h hop (by simp only [hx, if_neg (Nat.not_lt.2 hroom), hover, hleaf]; rfl)
    · exact fun hop => onAmap_set h hop (by simp only [hx])
    · intro hop hused
      obtain ⟨u, hu, hend, hctx⟩ := onAmap_done (t := modUnrid s fun u => { u with ctxs := fdel u.ctxs (entryField e 8 2) })
        (body := fun n _ => if (atticCtx s n).isNone then .error 5 else if s.unrid.launches.any fun l => launchHasRegion l && l.actx == n then
          .error 3 else .ok (modUnrid s fun u => { u with ctxs := fdel u.ctxs n })) h hop (by simp only [hx, hused]; rfl) rfl
      refine ⟨u, hu, hend, ?_⟩
      rw [atticCtx, hctx]
      exact ffind_fdel_self ..
    · exact fun hover => onAmap_refused h hop (by simp [hnone, hover])
    · exact fun hover hnames => onAmap_refused h hop (by simp [hnone, hover, hnames])
    · exact fun hover hnames hmeet => onAmap_refused h hop (by simp only [hnone, hover, hnames, hmeet]; rfl)
    · exact fun hop => onAmap_refused h hop (by simp [hnone])
    · exact fun hop => onAmap_refused h hop (by simp [hnone])
    · exact fun hop => onAmap_refused h hop (by simp [hnone])
  · intro h
    have hp := (starts_of_startable h).pending
    dsimp only
    refine ⟨fun hload hst hup => ⟨fun hc => ?_, fun hc hfree => ?_, fun hc hfree hstop => ?_, fun hc hstop j hfree hstore => ?_⟩,
      fun hdrop hthere => ⟨fun hrun => ?_, fun hrun => ?_⟩⟩
    · rw [exec_imageLoad_refused h hload hup hc]
      exact goesOn_end he hp ..
    · rw [exec_imageLoad_full h hload hup hc hfree]
      exact goesOn_end he hp ..
    · obtain ⟨i, hi⟩ := Option.ne_none_iff_exists'.1 hfree
      exact exec_imageLoad_waits h hload hup hc hi hstop hst
    · obtain ⟨hentries, himages⟩ := imageLoaded_tables (s := s) (e := e) j
      refine ⟨_, exec_imageLoad_done h hload hup hc hfree hstop hstore, endsAs_of_entries he hp hentries .., ?_⟩
      rw [endEntry_images, himages]
      exact ffind_fset_self ..
    · rw [exec_imageDrop_refused h hdrop hthere hrun]
      exact goesOn_end he hp ..
    · refine ⟨_, exec_imageDrop_done h hdrop hthere hrun, endsAs_of_entries (t := imageDropped s (entryField e 0x20 2)) he hp rfl .., ?_⟩
      rw [endEntry_images]
      exact ffind_fdel_self ..
  · intro h
    refine ⟨fun hbad => ?_, fun hgood hst => ?_⟩
    · rw [exec_launch_bad h hbad]
      exact goesOn_end he (starts_of_startable h).pending ..
    · obtain ⟨i, hi⟩ := badLaunch_image hgood
      exact ⟨i, hi, _, exec_launch_waits h hgood hst hi, rfl, congrArg _ (entryAt_setEntry .active he)⟩
  · intro h hst
    have hp := (starts_of_startable h).pending
    dsimp only
    refine ⟨fun hnone => ?_, fun l hl hrun => ?_, fun l hl hdrain => ?_⟩
    · rw [exec_preempt_none h hst hnone]
      exact goesOn_end he hp ..
    · obtain ⟨hentries, hlaunches⟩ := beginDrain_tables s l k (entryWord e 0x18)
      refine ⟨_, exec_preempt_running h hst hl hrun, ?_, ?_⟩
      · rw [entryAt_setEntry _ ((entryAt_of_entries hentries k).trans he)]
        rfl
      · rw [← launchNum_drainNoted s (List.mem_of_find?_eq_some hl) k (entryWord e 0x18)]
        exact congrArg _ (launchNum_of_launches hlaunches _)
    · rw [exec_preempt_ending h hst hl hdrain]
      exact goesOn_end he hp ..

end Sys2Proof.Proofs

/-! The end of a launch, region faults and the aborts that come of them, and sweeps (R83, R86, R97). -/

namespace Sys2Proof.Proofs
open Sys2Proof Sys2Proof.Machine Sys2Proof.Laws

/-! ## The end of a launch -/

section
variable {s t : State} {l : Launch} {k : EntryKey} {e : Entry}

theorem entryAt_setEntry_ne {j : EntryKey} (st : EntrySt) (h : j ≠ k) : entryAt (setEntry s k st) j = entryAt s j := by
  have hsame : (fun e : Entry => decide (e.key = j)) ∘ (fun e => if e.key = k then { e with st := st } else e) = fun e => decide (e.key = j) := by
    funext e
    show decide ((if e.key = k then { e with st := st } else e).key = j) = _
    split <;> rfl
  show List.find? (fun e : Entry => decide (e.key = j)) (s.unrid.entries.map _) = _
  rw [List.find?_map, hsame]
  cases hf : entryAt s j with
  | none => exact congrArg _ hf
  | some e =>
    have hj : e.key = j := by simpa using List.find?_some hf
    exact (congrArg _ hf).trans (by simp [hj, h])

theorem entryAt_endEntry_ne {j : EntryKey} (h : j ≠ k) (status detail result : Nat) :
    entryAt (endEntry s k status detail result) j = entryAt s j := by
  unfold endEntry
  split
  · split
    · rfl
    · exact entryAt_setEntry_ne _ h
  · rfl

theorem launchNum_num {n : Nat} (h : launchNum s n = some l) : l.num = n := by simpa using List.find?_some h

theorem dropLaunch_entries (s : State) (l : Launch) : (dropLaunch s l).unrid.entries = s.unrid.entries := by
  show Unrid.entries (State.unrid (List.foldl _ _ _)) = _
  rw [foldl_unrid (f := fun s k => modCore s k (leaveRegion l.classMask)) fun _ _ => rfl]

/-- A launch that has ended is known no more. -/
theorem launchNum_dropLaunch (s : State) (l : Launch) : launchNum (dropLaunch s l) l.num = none := by
  show List.find? _ (List.filter _ _) = none
  rw [List.find?_eq_none]
  intro x hx
  simpa using (List.mem_filter.1 hx).2

theorem endLaunch_alone (h : l.preemptKey = none) (status detail result : Nat) (pre : Nat × Nat) :
    endLaunch s l status detail result pre = dropLaunch (endEntry s l.key status detail result) l := by
  rw [endLaunch, h]

/-- An entry's end is not undone. -/
theorem endsAs_dropLaunch {status detail result : Nat} (h : endsAs s k status detail result) (l : Launch) :
    endsAs (dropLaunch s l) k status detail result := by
  rw [endsAs, entryAt_of_entries (dropLaunch_entries s l)]
  exact h

/-- A launch that ends, with no PREEMPT of it under way, is gone, and its entry has ended as its end says. -/
theorem endLaunch_ends (hpre : l.preemptKey = none) (he : entryAt s l.key = some e) (hp : Pending e) (status detail result : Nat)
    (pre : Nat × Nat) : launchNum (endLaunch s l status detail result pre) l.num = none ∧
      endsAs (endLaunch s l status detail result pre) l.key status detail result := by
  rw [endLaunch_alone hpre]
  exact ⟨launchNum_dropLaunch .., endsAs_dropLaunch (endsAs_endEntry he hp ..) l⟩

/-- So it is with a PREEMPT under way, which ends with it. -/
theorem endLaunch_preempted {u : Entry} (hpre : l.preemptKey = some k) (hne : k ≠ l.key) (he : entryAt s l.key = some e) (hp : Pending e)
    (hu : entryAt s k = some u) (hpu : Pending u) (status detail result : Nat) (pre : Nat × Nat) :
    launchNum (endLaunch s l status detail result pre) l.num = none ∧
      endsAs (endLaunch s l status detail result pre) l.key status detail result ∧ endsAs (endLaunch s l status detail result pre) k pre.1 pre.2 0 := by
  have hend : endLaunch s l status detail result pre =
      dropLaunch (endEntry (endEntry s l.key status detail result) k pre.1 pre.2 0) l := by rw [endLaunch, hpre]
  rw [hend]
  refine ⟨launchNum_dropLaunch .., endsAs_dropLaunch ?_ l, endsAs_dropLaunch ?_ l⟩
  · rw [endsAs, entryAt_endEntry_ne (Ne.symm hne)]
    exact endsAs_endEntry he hp ..
  · exact endsAs_endEntry ((entryAt_endEntry_ne hne ..).trans hu) hpu ..

end

/-! ## A region fault, and the abort that comes of it -/

section
variable {s : State} {l : Launch} {e : Entry} {num cause prow pcol : Nat}

theorem flushLarders_unrid (s : State) (l : Launch) : (flushLarders s l).unrid = s.unrid := by
  unfold flushLarders
  refine foldl_unrid (fun s x => ?_) _ _
  split
  · refine foldl_unrid (fun s c => ?_) _ _
    unfold flushWrites
    refine foldl_unrid (fun s r => ?_) _ _
    split <;> rfl
  · rfl

/-- The state of a region without its flits and contexts, its cores cleared, before its launch ends. -/
def cleared (s : State) (l : Launch) : State :=
  let t := flushLarders (raiseEvent s evRegionAbort) l
  let u := { t with routers := t.routers.map fun r => (r.1, purgeRouter t l r.1 r.2),
                    larders := t.larders.map fun x => if x.2.launch = some l.num then (x.1, purgeLarder l x.2) else x }
  (regionKeys l).foldl (fun s k => modCore s k (clearAborted s l (2 ^ 20 * s.cycle + k))) u

theorem cleared_unrid (s : State) (l : Launch) : (cleared s l).unrid = s.unrid := by
  unfold cleared
  rw [foldl_unrid (f := fun s k => modCore s k (clearAborted s l (2 ^ 20 * s.cycle + k))) fun _ _ => rfl]
  show (flushLarders (raiseEvent s evRegionAbort) l).unrid = _
  rw [flushLarders_unrid, raiseEvent_unrid]

theorem abortRegion_eq {f : FaultRec} (hf : f.launch.bind (launchNum s) = some l) : abortRegion s f =
    (regionKeys l).foldl (fun s k => if unavailable s.dev (rowOf k) (colOf k) then modCore s k holdCore else s)
      (endLaunch (cleared s l) l csAbort f.cause 0 (csAbort, f.cause)) := by
  rw [abortRegion, hf]
  rfl

theorem abortRegion_unrid {f : FaultRec} (hf : f.launch.bind (launchNum s) = some l) :
    (abortRegion s f).unrid = (endLaunch (cleared s l) l csAbort f.cause 0 (csAbort, f.cause)).unrid := by
  rw [abortRegion_eq hf]
  refine foldl_unrid (fun s k => ?_) _ _
  split <;> rfl

/-- The abort of a region ends its launch ABORT with the cause. -/
theorem abortRegion_ends {f : FaultRec} (hf : f.launch = some num) (hl : launchNum s num = some l) (hpre : l.preemptKey = none)
    (he : entryAt s l.key = some e) (hp : Pending e) :
    launchNum (abortRegion s f) num = none ∧ endsAs (abortRegion s f) l.key 3 f.cause 0 := by
  have hunrid := abortRegion_unrid (s := s) (f := f) (l := l) (by rw [hf]; exact hl)
  obtain ⟨hgone, hend⟩ := endLaunch_ends (s := cleared s l) hpre ((entryAt_of_unrid (cleared_unrid s l) _).trans he) hp csAbort f.cause 0
    (csAbort, f.cause)
  rw [launchNum_num hl] at hgone
  exact ⟨(launchNum_of_launches (congrArg Unrid.launches hunrid) num).trans hgone, by rw [endsAs, entryAt_of_unrid hunrid]; exact hend⟩

theorem stopWafer_unrid (s : State) : (stopWafer s).unrid = s.unrid := (stopWafer_rest s).1

/-- One fault noted of a region, and no wave: the cycle ends with a dump and the abort. -/
theorem settleFaults_region {f : FaultRec} (hf : f.launch = some num) (hfs : s.dev.faults = [f]) (hw : inWaves s.dev = false) :
    ∃ t, settleFaults s = abortRegion t f ∧ t.unrid = s.unrid := by
  refine ⟨underStop s fun s => modDev (writeDump s false f.cause f.prow f.pcol) fun d => { d with faults := d.faults.filter fun g => !([f] : List FaultRec).contains g },
    ?_, ?_⟩
  · unfold settleFaults
    rw [hfs]
    dsimp only [headerFault]
    rw [hf, hw]
    rfl
  · exact (writeDump_rest ..).1.trans (stopWafer_unrid s)

/-- The cores of a region at fault, stopped. -/
def reset (c : Core) : Core := { c with resetting := true }

/-- A region fault noted. -/
def faultNoted (s : State) (l : Launch) (num cause prow pcol : Nat) : State :=
  modDev ((regionKeys l).foldl (fun s k => modCore s k reset) s) fun d =>
    { d with faults := joinFault d.faults ⟨some num, cause, prow, pcol, ((regionKeys l).foldl (fun s k => modCore s k reset) s).cycle⟩ }

theorem regionFault_eq (hl : launchNum s num = some l) (hst : s.dev.st ≠ .fatal) :
    regionFault s num cause prow pcol = faultNoted s l num cause prow pcol := by
  rw [regionFault, hl]
  exact if_neg hst

theorem faultNoted_unrid : (faultNoted s l num cause prow pcol).unrid = s.unrid :=
  foldl_unrid (f := fun s k => modCore s k reset) (fun _ _ => rfl) _ _

theorem faultNoted_resets {k : Nat} (hk : k ∈ regionKeys l) : (coreAt (faultNoted s l num cause prow pcol) k).resetting = true := by
  obtain ⟨c, hc⟩ := coreAt_foldl_modCore (fun _ => reset) s hk
  exact congrArg Core.resetting hc

/-- A launch's one fault noted, with no wave, aborts it as the cycle ends. -/
theorem abortsWith_of_noted {t : State} {f : FaultRec} (hf : f.launch = some l.num) (hfs : t.dev.faults = [f]) (hw : inWaves t.dev = false)
    (hl : launchNum t l.num = some l) (hpre : l.preemptKey = none) (he : entryAt t l.key = some e) (hp : Pending e) :
    abortsWith t l f.cause := by
  obtain ⟨u, hu, hunrid⟩ := settleFaults_region hf hfs hw
  rw [abortsWith, hu]
  exact abortRegion_ends hf ((launchNum_of_launches (congrArg Unrid.launches hunrid) _).trans hl) hpre ((entryAt_of_unrid hunrid _).trans he) hp

theorem faultNoted_dev : (faultNoted s l num cause prow pcol).dev = { s.dev with
    faults := joinFault s.dev.faults ⟨some num, cause, prow, pcol, s.cycle⟩ } := by
  have hdev : ((regionKeys l).foldl (fun s k => modCore s k reset) s).dev = s.dev := foldl_dev (fun _ _ => modCore_dev ..) _ _
  have hcycle : ((regionKeys l).foldl (fun s k => modCore s k reset) s).cycle = s.cycle :=
    List.foldlRecOn (motive := fun t : State => t.cycle = s.cycle) (regionKeys l) _ rfl fun _ ht _ _ => ht
  rw [faultNoted, modDev_dev, hdev, hcycle]

theorem faultNoted_cycle : (faultNoted s l num cause prow pcol).cycle = s.cycle :=
  List.foldlRecOn (motive := fun t : State => t.cycle = s.cycle) (regionKeys l) _ rfl fun _ ht _ _ => ht

end

/-! ## Two launches of one number -/

section
variable {s : State} {num : Nat} {l : Launch}

theorem exec_sweep_running (hl : launchNum s num = some l) (hstop : s.dev.stopped = false) (hfault : faulted s num = false)
    (hrun : l.st = .running) : exec (.quiescenceSweep num) s = .next (sweepRunning s l) := by
  show execQuiescenceSweep num s = _
  rw [execQuiescenceSweep, hl]
  dsimp only
  rw [if_neg (by simp [hstop, hfault]), hrun]

/-- A sweep that finds a region still notes the region's sums in every launch of that number. -/
theorem sweepRunning_first {sums : Nat × Nat} (h : regionStill s l = true) (hsums : regionSums s l = sums) (hs : l.sweep ≠ some sums) :
    sweepRunning s l = modLaunch s l.num fun l => { l with sweep := some sums } := by
  rw [sweepRunning, h, hsums, if_neg (by simp [hs])]
  simp only [if_true]

end

/-- A launch of the number of `placedLaunch` whose region has no core. -/
def hollowLaunch : Launch := { placedLaunch with rows := 0 }

/-- A state in which both run, and the core of the second has injected a flit. -/
def twinState : State := { cores := [(0, { injected := 1 })], unrid := { launches := [hollowLaunch, placedLaunch] } }

theorem twinState_sweep : exec (.quiescenceSweep 1) twinState = .next (modLaunch twinState 1 fun l => { l with sweep := some (0, 0) }) := by
  rw [exec_sweep_running (l := hollowLaunch) rfl rfl rfl rfl, sweepRunning_first (sums := (0, 0)) (by decide) rfl (by decide)]
  rfl

/-- Refutes O52: of two launches of one number, a first sweep notes the sums of the first one's region in both, where the statement has
it note in each the sums of its own region. -/
theorem not_launchFlow : ¬ Obligations.LaunchFlow := by
  unfold Obligations.LaunchFlow
  intro h
  obtain ⟨-, hsweep⟩ := (((h twinState).2.1 1 hollowLaunch rfl rfl rfl).2.1 rfl)
  have hclaim := twinState_sweep.symm.trans (hsweep.1 (by decide) (by decide))
  have hsums := congrArg (fun t : State => t.unrid.launches.map (·.sweep)) (Host.Outcome.next.inj hclaim)
  exact absurd hsums (by decide)

end Sys2Proof.Proofs

/-! Faults of the wafer, and the beginning and the end of a wave (R15, R96 to R99, R109 to R114, R174). -/

namespace Sys2Proof.Proofs
open Sys2Proof Sys2Proof.Machine Sys2Proof.Laws

/-! ## Errors of a core's SRAM -/

section
variable {s : State} {l : Launch} {num cause prow pcol row col : Nat}

theorem coreOfPlace_logical (h : logicalOf s.dev prow pcol = some (row, col)) : coreOfPlace s.dev prow pcol = some (row, col) := by
  rw [coreOfPlace, h]

theorem exec_sramUe_free (h : logicalOf s.dev prow pcol = some (row, col)) (hl : launchOf s row col = none) : exec (.sramUe prow pcol) s =
    .next (noteFailing (modCore s (keyOf row col) fun c => { c with resident := [] }) prow pcol 3) := by
  show execSramUe prow pcol s = _
  rw [execSramUe, coreOfPlace_logical h]
  dsimp only
  rw [hl]

theorem exec_sramUe_region (h : logicalOf s.dev prow pcol = some (row, col)) (hl : launchOf s row col = some l) (hnum : launchNum s l.num = some l)
    (hst : s.dev.st ≠ .fatal) : exec (.sramUe prow pcol) s = .next (noteFailing (faultNoted s l l.num causeSram prow pcol) prow pcol 3) := by
  show execSramUe prow pcol s = _
  rw [execSramUe, coreOfPlace_logical h]
  dsimp only
  rw [hl]
  dsimp only
  rw [regionFault_eq hnum hst]

theorem exec_sramCorrected (h : logicalOf s.dev prow pcol = some (row, col)) (addr : BitVec 19)
    (hecc : (coreAt s (keyOf row col)).eccLast = none) : exec (.sramCorrected prow pcol addr) s =
    .next (setCore s (keyOf row col) { coreAt s (keyOf row col) with
      eccLast := some (addr, s.cycle)
      sys := { (coreAt s (keyOf row col)).sys with
        ecccnt := if (coreAt s (keyOf row col)).sys.ecccnt = 0xFFFF then 0xFFFF else (coreAt s (keyOf row col)).sys.ecccnt + 1 } }) := by
  show execSramCorrected prow pcol addr s = _
  rw [execSramCorrected, coreOfPlace_logical h]
  dsimp only
  rw [hecc]
  rfl

end

/-! ## Failures that stop the wafer -/

section
variable {s : State} {prow pcol cause : Nat}

theorem waferFault_stops (hst : s.dev.st ≠ .fatal) : (waferFault s cause prow pcol).dev.stopped = true ∧
    (waferFault s cause prow pcol).cores = coresStopped s ∧ goesFatal (waferFault s cause prow pcol) := by
  refine ⟨?_, ?_, goesFatal_of_wafer (waferFault_faults hst ..)⟩
  · rw [waferFault, if_neg hst]
    exact assertStop_stopped s
  · rw [waferFault, if_neg hst]
    exact (stopWafer_rest s).2

theorem exec_routerFailure (h : inWafer (keyOf prow pcol) = true) :
    exec (.routerFailure prow pcol) s = .next (waferFault s causeRouter prow pcol) := by
  show execRouterFailure prow pcol s = _
  rw [execRouterFailure, if_pos h]

/-- A hop found in error once more. -/
def retried (s : State) (k j : Nat) : State :=
  setRouter s k { routerAt s k with retries := fset (routerAt s k).retries j (fget (routerAt s k).retries j 0 + 1) }

theorem exec_meshHopError {out : Dir} {cls : BitVec 5} (hstop : s.dev.stopped = false) (hout : out ≠ .l)
    (hflit : fget (routerAt s (keyOf prow pcol)).out (32 * dirCode out + cls.toNat) [] ≠ []) : exec (.meshHopError prow pcol out cls) s =
    .next (if 9 ≤ fget (routerAt s (keyOf prow pcol)).retries (32 * dirCode out + cls.toNat) 0 + 1 then
        waferFault (retried s (keyOf prow pcol) (32 * dirCode out + cls.toNat)) causeLink prow pcol
      else retried s (keyOf prow pcol) (32 * dirCode out + cls.toNat)) := by
  show execMeshHopError prow pcol out cls s = _
  rw [execMeshHopError]
  dsimp only
  rw [if_neg (by simp [hstop, hout, hflit])]
  rfl

end

/-! ## Waves -/

section
variable {s : State} {prow pcol : Nat}

/-- The record of a line is appended where the log has room and MAPGEN can rise. -/
theorem appendRecord_room {l : LineRec} {reason cycle : Nat} (hgen : s.dev.mapgen.toNat < 0xFFFF) (hslot : (freeSlot s.dev.flash).isSome = true) :
    ∃ flash, appendRecord s l reason prow pcol cycle = some (modDev s fun d => { d with flash := flash, mapgen := s.dev.mapgen + 1 }) := by
  obtain ⟨i, hi⟩ := Option.isSome_iff_exists.1 hslot
  have hnext : BitVec.ofNat 16 (s.dev.mapgen.toNat + 1) = s.dev.mapgen + 1 := by
    rw [BitVec.ofNat_add, BitVec.ofNat_toNat, BitVec.setWidth_eq]
    rfl
  refine ⟨s.dev.flash.writeBytes (slotAddr i)
    (recordOf ((replayLog s.dev.flash).seq + 1) (s.dev.mapgen.toNat + 1) l reason prow pcol cycle), ?_⟩
  unfold appendRecord
  rw [hi]
  dsimp only
  rw [if_neg (by omega), hnext]
  dsimp only [modDev]

theorem stopWafer_stopped (s : State) : (stopWafer s).dev.stopped = true := by
  unfold stopWafer
  split
  · next h => exact h
  · rfl

theorem stopWafer_log (s : State) : (stopWafer s).dev.flash = s.dev.flash ∧ (stopWafer s).dev.mapgen = s.dev.mapgen ∧
    (stopWafer s).dev.failing = s.dev.failing ∧ (stopWafer s).cycle = s.cycle := by
  unfold stopWafer
  split <;> exact ⟨rfl, rfl, rfl, rfl⟩

/-- A wave begins on a line that has its spare. -/
theorem beginWave_spare {f : FailedCore} (hin : coreRetired s.dev f.prow f.pcol = false) (hspare : spareFree s.dev.retiredRows f.prow = true)
    (hgen : s.dev.mapgen.toNat < 0xFFFF) (hslot : (freeSlot s.dev.flash).isSome = true) :
    ∃ flash, beginWave s f = modDev (stopWafer s) fun d =>
      { d with flash := flash, mapgen := s.dev.mapgen + 1, wave := some ⟨⟨true, f.prow⟩, f.prow, f.pcol, s.cycle⟩ } := by
  obtain ⟨hflash, hmapgen, -, hcycle⟩ := stopWafer_log s
  obtain ⟨flash, ha⟩ := appendRecord_room (s := stopWafer s) (prow := f.prow) (pcol := f.pcol) (l := ⟨true, f.prow⟩) (reason := f.reason)
    (cycle := f.cycle) (by rw [hmapgen]; exact hgen) (by rw [hflash]; exact hslot)
  have hchoice : chooseLine s.dev f = (⟨true, f.prow⟩, true) := by rw [chooseLine, if_pos hspare]
  refine ⟨flash, ?_⟩
  rw [beginWave, if_neg (by rw [hin]; decide), hchoice]
  dsimp only
  rw [if_pos rfl, ha]
  dsimp only
  rw [hmapgen]
  show modDev (modDev (stopWafer s) _) (fun d => { d with wave := some ⟨⟨true, f.prow⟩, f.prow, f.pcol, (stopWafer s).cycle⟩ }) = _
  rw [hcycle]
  rfl

theorem exec_retirementWave_begins {f : FailedCore} (hst : s.dev.st ≠ .fatal) (hwave : s.dev.wave = none) (hf : s.dev.failing = [f])
    (hfaults : s.dev.faults = [] ∨ inWaves s.dev = true) :
    exec (.retirementWave f.prow f.pcol) s = .next (beginWave (modDev s fun d => { d with failing := [] }) f) := by
  have hfind : (s.dev.failing.find? fun g => g.prow == f.prow && g.pcol == f.pcol) = some f := by rw [hf, List.find?_cons_of_pos (by simp)]
  have herase : s.dev.failing.erase f = [] := by rw [hf, List.erase_cons_head]
  have hgo : (s.dev.faults.isEmpty || inWaves s.dev) = true := by
    rcases hfaults with h | h
    · rw [h]
      rfl
    · rw [h, Bool.or_true]
  show execRetirementWave f.prow f.pcol s = _
  rw [execRetirementWave, if_neg hst, hwave]
  dsimp only
  rw [hfind]
  dsimp only
  rw [if_pos hgo]
  show Host.Outcome.next (beginWave { s with dev := { s.dev with failing := s.dev.failing.erase f } } f) = _
  rw [herase]
  rfl

theorem retireMaps_rest (d : Device) (l : LineRec) : (retireMaps d l).failing = d.failing ∧ (retireMaps d l).st = d.st ∧
    (retireMaps d l).stopHost = d.stopHost ∧ (retireMaps d l).releaseHeld = d.releaseHeld := by
  unfold retireMaps
  split <;> exact ⟨rfl, rfl, rfl, rfl⟩

theorem releaseWave_clean (hst : s.dev.st ≠ .fatal) (hfail : s.dev.failing = []) : releaseWave s = modDev s fun d =>
    { d with stopped := s.dev.stopHost && !s.dev.releaseHeld, stopHost := s.dev.stopHost && !s.dev.releaseHeld, releaseHeld := false,
             inWaves := false } := by
  rw [releaseWave, if_neg hst, if_neg (by simp [hfail])]

/-- A wave that no failure has met ends with the lines renumbered, and releases the stop. -/
theorem endWave_clean (w : Wave) (hfail : s.dev.failing = []) :
    endWave s w = releaseWave (modDev (runWave s w.line) fun d => { d with wave := none, inWaves := true }) := by
  have hnone : (modDev (runWave s w.line) fun d => { d with wave := none, inWaves := true }).dev.failing = [] :=
    (retireMaps_rest s.dev w.line).1.trans hfail
  rw [endWave]
  rw [hnone, List.filter_nil, List.foldl_nil]

end

/-- Settles O53: each fault noted, with the abort or the fatal stop that comes of it, and the two ends of a wave. -/
theorem faultEvents : Obligations.FaultEvents := by
  unfold Obligations.FaultEvents
  intro s prow pcol
  refine ⟨fun row col hplace => ?_, fun hst hin => ⟨_, exec_routerFailure hin, waferFault_stops hst⟩, fun out cls => ?_,
    fun reason cycle late hst hwave hfail hfaults hin hspare hgen hslot => ?_, fun w hst hwave hrow hcol hfail => ?_⟩
  · refine ⟨exec_sramUe_free hplace, fun l hl hnum hpre e he hact hst => ?_, exec_sramCorrected hplace⟩
    have hunrid : (faultNoted s l l.num causeSram prow pcol).unrid = s.unrid := faultNoted_unrid
    refine ⟨_, exec_sramUe_region hplace hl hnum hst, ?_, fun k hk =>
      faultNoted_resets (num := l.num) (cause := causeSram) (prow := prow) (pcol := pcol) hk, fun hfs hw => ?_⟩
    · rw [noteFailing, modDev_dev, faultNoted_dev, faultNoted_cycle]
      rfl
    · refine abortsWith_of_noted (f := ⟨some l.num, causeSram, prow, pcol, s.cycle⟩) rfl ?_ ?_
        ((launchNum_of_launches (congrArg Unrid.launches hunrid) _).trans hnum) hpre ((entryAt_of_unrid hunrid _).trans he) (pending_of_active hact)
      · rw [noteFailing, modDev_dev, faultNoted_dev, hfs]
        rfl
      · rw [noteFailing, modDev_dev, faultNoted_dev]
        exact hw
  · dsimp only
    intro hstop hout hflit
    rw [exec_meshHopError hstop hout hflit]
    refine ⟨fun hlt => by rw [if_neg (by omega)]; rfl, fun hle hst => ?_⟩
    rw [if_pos (by omega)]
    obtain ⟨hstopped, -, hfatal⟩ := waferFault_stops (s := retried s (keyOf prow pcol) (32 * dirCode out + cls.toNat)) (cause := causeLink)
      (prow := prow) (pcol := pcol) hst
    exact ⟨_, rfl, hstopped, hfatal⟩
  · obtain ⟨flash, hbegin⟩ := beginWave_spare (s := modDev s fun d => { d with failing := [] }) (f := ⟨prow, pcol, reason, cycle, late⟩)
      hin hspare hgen hslot
    obtain ⟨-, -, hcleared, -⟩ := stopWafer_log (modDev s fun d => { d with failing := [] })
    refine ⟨_, exec_retirementWave_begins (f := ⟨prow, pcol, reason, cycle, late⟩) hst hwave hfail hfaults, ?_⟩
    rw [hbegin]
    exact ⟨stopWafer_stopped _, rfl, hcleared, rfl, (stopWafer_rest _).2⟩
  · have hexec : exec (.retirementWave prow pcol) s = .next (endWave s w) := by
      show execRetirementWave prow pcol s = _
      rw [execRetirementWave, if_neg hst, hwave]
      dsimp only
      rw [if_pos ⟨hrow, hcol⟩]
    refine ⟨_, hexec, ?_⟩
    obtain ⟨hf, hs, hh, hr⟩ := retireMaps_rest s.dev w.line
    rw [endWave_clean w hfail, releaseWave_clean (by exact fun h => hst (hs.symm.trans h)) (hf.trans hfail)]
    exact ⟨congrArg₂ (fun a b => a && !b) hh hr, rfl, rfl, rfl, rfl⟩

end Sys2Proof.Proofs

/-! Poluri links, steps of the edge merge units, and an attic port that goes down (R28, R31 to R42, R177). -/

namespace Sys2Proof.Proofs
open Sys2Proof Sys2Proof.Machine Sys2Proof.Laws

/-! ## What a port has received, and what it keeps to send -/

/-- The same received: buffers, the number expected next, barrier signals, and whether a NACK is out. -/
structure SameReceived (l u : Link) : Prop where
  rx : u.rx = l.rx
  expect : u.expect = l.expect
  barIn : u.barIn = l.barIn
  nackSent : u.nackSent = l.nackSent

/-- The same kept to send: the frames unacknowledged and the credits. -/
structure SameSending (l u : Link) : Prop where
  replay : u.replay = l.replay
  credits : u.credits = l.credits

section
variable {l u v : Link}

theorem SameReceived.refl (l : Link) : SameReceived l l := ⟨rfl, rfl, rfl, rfl⟩
theorem SameReceived.trans (h : SameReceived l u) (h' : SameReceived u v) : SameReceived l v :=
  ⟨h'.rx.trans h.rx, h'.expect.trans h.expect, h'.barIn.trans h.barIn, h'.nackSent.trans h.nackSent⟩

theorem SameSending.refl (l : Link) : SameSending l l := ⟨rfl, rfl⟩
theorem SameSending.trans (h : SameSending l u) (h' : SameSending u v) : SameSending l v :=
  ⟨h'.replay.trans h.replay, h'.credits.trans h.credits⟩

theorem returnCredits_sending (l : Link) (cls : Nat) : SameSending l (returnCredits l cls) ∧ (returnCredits l cls).st = l.st := by
  unfold returnCredits
  dsimp only
  split <;> exact ⟨⟨rfl, rfl⟩, rfl⟩

theorem foldl_returnCredits_sending (cs : List Nat) (l : Link) :
    SameSending l (cs.foldl returnCredits l) ∧ (cs.foldl returnCredits l).st = l.st := by
  induction cs generalizing l with
  | nil => exact ⟨.refl l, rfl⟩
  | cons c cs ih =>
    obtain ⟨h, hst⟩ := returnCredits_sending l c
    obtain ⟨h', hst'⟩ := ih (returnCredits l c)
    exact ⟨h.trans h', hst'.trans hst⟩

theorem goActive_active (s : State) (l : Link) : SameSending l (goActive s l) ∧ (goActive s l).st = .active := by
  unfold goActive
  dsimp only
  split
  · exact ⟨⟨rfl, rfl⟩, rfl⟩
  · obtain ⟨h, hst⟩ := foldl_returnCredits_sending (List.range 32) { l with st := .active, lastAck := s.cycle, wire := l.wire ++ l.replay }
    exact ⟨⟨h.replay, h.credits⟩, hst⟩

theorem ackTo_received (now : Nat) (l : Link) (a : BitVec 12) : SameReceived l (ackTo now l a) := ⟨rfl, rfl, rfl, rfl⟩

theorem applyAck_received (now : Nat) (l : Link) (h : FrameHead) : SameReceived l (applyAck now l h) := by
  unfold applyAck
  dsimp only
  split
  · exact ⟨rfl, rfl, rfl, rfl⟩
  · split <;> exact ⟨rfl, rfl, rfl, rfl⟩

theorem discardFrame_received (l : Link) :
    (discardFrame l).rx = l.rx ∧ (discardFrame l).expect = l.expect ∧ (discardFrame l).barIn = l.barIn ∧ (discardFrame l).nackSent = true := by
  unfold discardFrame
  split
  · next h => exact ⟨rfl, rfl, rfl, h⟩
  · exact ⟨rfl, rfl, rfl, rfl⟩

end

/-! ## Exhaustion leaves the other ports and memories -/

section
variable (s : State)

theorem foldl_links {α : Type} {f : State → α → State} (hf : ∀ s a, (f s a).links = s.links) (l : List α) (s : State) :
    (l.foldl f s).links = s.links := by
  induction l generalizing s with
  | nil => rfl
  | cons a l ih => rw [List.foldl_cons, ih, hf]

theorem regionFault_rest (num cause prow pcol : Nat) : (regionFault s num cause prow pcol).links = s.links ∧
    (regionFault s num cause prow pcol).expanders = s.expanders ∧ (regionFault s num cause prow pcol).unrid = s.unrid := by
  unfold regionFault
  split
  · exact ⟨rfl, rfl, rfl⟩
  · split
    · exact ⟨rfl, rfl, rfl⟩
    · next l _ _ =>
      exact List.foldlRecOn (motive := fun t : State => t.links = s.links ∧ t.expanders = s.expanders ∧ t.unrid = s.unrid) (regionKeys l) _
        ⟨rfl, rfl, rfl⟩ fun _ ht _ _ => ht

theorem exhaustRegions_rest (hit : Launch → Bool) (prow pcol : Nat) : (exhaustRegions s hit prow pcol).links = s.links ∧
    (exhaustRegions s hit prow pcol).expanders = s.expanders ∧ (exhaustRegions s hit prow pcol).unrid = s.unrid := by
  unfold exhaustRegions exhaustRegions.abortLaunches
  refine List.foldlRecOn (motive := fun t : State => t.links = s.links ∧ t.expanders = s.expanders ∧ t.unrid = s.unrid) _ _
    ⟨rfl, rfl, rfl⟩ fun t ht l _ => ?_
  obtain ⟨hl, he, hu⟩ := regionFault_rest t l.num causeLink prow pcol
  exact ⟨hl.trans ht.1, he.trans ht.2.1, hu.trans ht.2.2⟩

theorem endStep_links (u : Nat) (m : MergeStep) (status result : Nat) : (endStep s u m status result).links = s.links := by
  obtain ⟨es, h⟩ := endEntry_rest s m.key status 0 result
  rw [endStep, h]
  rfl

theorem linkExhausted_link (n : Nat) : linkAt (linkExhausted s n) n = { linkAt s n with st := .failed } := by
  have hlinks (hit : Launch → Bool) (prow pcol : Nat) :
      linkAt (exhaustRegions (setLink s n { linkAt s n with st := .failed }) hit prow pcol) n = { linkAt s n with st := .failed } := by
    rw [linkAt, (exhaustRegions_rest _ hit prow pcol).1]
    exact fget_fset_self ..
  unfold linkExhausted
  dsimp only
  split
  · split
    · rw [linkAt, endStep_links]
      exact hlinks ..
    · exact hlinks ..
  · exact hlinks ..

end

/-! ## Training and replays -/

section
variable {s : State} {n : Nat}

/-- A port as it sends a CTRL frame. -/
def withCtrl (s : State) (l : Link) : Link := (sendFrame l 2 0 0 0 0 0 (Config.ctrlPayload s.freeCtr)).1

theorem linkAt_sendCtrl (s : State) (n : Nat) : linkAt (sendCtrl s n) n = withCtrl s (linkAt s n) := fget_fset_self ..

theorem failTraining_failed (h : (linkAt s n).st = .train ∨ (linkAt s n).st = .retrain) : (linkAt (failTraining s n) n).st = .failed := by
  unfold failTraining
  rcases h with h | h
  · rw [h]
    show (linkAt (setLink s n _) n).st = _
    rw [linkAt_setLink_self]
  · rw [h]
    show (linkAt (linkExhausted s n) n).st = _
    rw [linkExhausted_link]

/-- Why a port retrains: its replays are used up. -/
theorem settleReplays_kept (h : (linkAt s n).replays < 16 ∨ (linkAt s n).st ≠ .active) : settleReplays s n = s := by
  rw [settleReplays]
  exact if_neg fun ⟨hst, hle⟩ => h.elim (fun hlt => by omega) fun hne => hne hst

/-- A port that begins to retrain for the first time. -/
def retraining (s : State) (l : Link) : Link := { l with retrains := [s.cycle], replays := 0, since := s.cycle, st := .retrain }

theorem settleReplays_first (hst : (linkAt s n).st = .active) (hle : 16 ≤ (linkAt s n).replays) (hnone : (linkAt s n).retrains = []) :
    settleReplays s n = sendCtrl (setLink s n (retraining s (linkAt s n))) n := by
  unfold settleReplays
  dsimp only
  rw [if_pos ⟨hst, hle⟩, hnone]
  rfl

/-- Used-up replays leave what a port has received and what it keeps to send. -/
theorem settleReplays_buffers (s : State) (n : Nat) :
    SameReceived (linkAt s n) (linkAt (settleReplays s n) n) ∧ SameSending (linkAt s n) (linkAt (settleReplays s n) n) := by
  unfold settleReplays
  dsimp only
  split
  · split
    · rw [linkExhausted_link, linkAt_setLink_self]
      exact ⟨⟨rfl, rfl, rfl, rfl⟩, rfl, rfl⟩
    · rw [linkAt_sendCtrl, linkAt_setLink_self]
      exact ⟨⟨rfl, rfl, rfl, rfl⟩, rfl, rfl⟩
  · exact ⟨.refl _, .refl _⟩

/-- A port that owes no go-back: it keeps nothing, or an acknowledgement came in time. -/
def InTime (s : State) (l : Link) : Prop := l.replay = [] ∨ s.cycle < l.lastAck + 3800

theorem replayTimeout_kept (h : (linkAt s n).st ≠ .active ∨ InTime s (linkAt s n)) : replayTimeout s n = s := by
  rw [replayTimeout]
  refine if_neg fun ⟨hst, hne, hlate, _⟩ => ?_
  rcases h with h | h | h
  · exact h hst
  · simp [h] at hne
  · simp only [replayLimit] at hlate
    omega

theorem replayTimeout_late (hst : (linkAt s n).st = .active) (hne : (linkAt s n).replay ≠ []) (hlate : (linkAt s n).lastAck + 3800 ≤ s.cycle)
    (hlt : (linkAt s n).replays < 16) : replayTimeout s n = settleReplays (setLink s n (goBack s.cycle (linkAt s n))) n := by
  rw [replayTimeout]
  exact if_pos ⟨hst, by simpa using hne, hlate, hlt⟩

theorem replayTimeout_back (hst : (linkAt s n).st = .active) (hne : (linkAt s n).replay ≠ []) (hlate : (linkAt s n).lastAck + 3800 ≤ s.cycle)
    (hlt : (linkAt s n).replays < 15) : replayTimeout s n = setLink s n (goBack s.cycle (linkAt s n)) := by
  rw [replayTimeout_late hst hne hlate (by omega), settleReplays_kept (.inl ?_)]
  rw [linkAt_setLink_self]
  exact Nat.succ_lt_succ hlt

/-- A port that has just gone back is in time. -/
theorem replayTimeout_again (s : State) (n : Nat) (l : Link) :
    replayTimeout (setLink s n (goBack s.cycle l)) n = setLink s n (goBack s.cycle l) := by
  refine replayTimeout_kept (.inr (.inr ?_))
  rw [linkAt_setLink_self]
  exact Nat.lt_add_of_pos_right (by decide)

end

/-! ## Frames that come in -/

section
variable {s : State} {n : BitVec 6} {f : BitVec 1280}

theorem exec_receive_active (hst : (linkAt s n.toNat).st = .active) (ht : InTime s (linkAt s n.toNat)) : exec (.poluriFrameReceive n f) s =
    .next (settleReplays (setLink s n.toNat (receiveActive s.cycle (linkAt s n.toNat) f)) n.toNat) := by
  show execPoluriFrameReceive n f s = _
  unfold execPoluriFrameReceive
  dsimp only
  rw [replayTimeout_kept (.inr ht), hst]

theorem exec_receive_training (hst : (linkAt s n.toNat).st = .train ∨ (linkAt s n.toNat).st = .retrain) (hg : frameGood f = true)
    (htype : (frameHead f).type = 2) : exec (.poluriFrameReceive n f) s = .next (receiveCtrl s n.toNat) := by
  have hact : (linkAt s n.toNat).st ≠ .active := by rcases hst with h | h <;> rw [h] <;> decide
  show execPoluriFrameReceive n f s = _
  unfold execPoluriFrameReceive
  dsimp only
  rw [replayTimeout_kept (.inl hact)]
  rcases hst with h | h
  · rw [h]
    exact congrArg _ (if_pos ⟨hg, htype⟩)
  · rw [h]
    exact congrArg _ (if_pos ⟨hg, htype⟩)

theorem receiveCtrl_inTime (h : s.cycle < (linkAt s n.toNat).since + 190000) :
    (linkAt (receiveCtrl s n.toNat) n.toNat).st = (if Config.trainAgrees s.freeCtr = true then .active else (linkAt s n.toNat).st) ∧
      SameSending (linkAt s n.toNat) (linkAt (receiveCtrl s n.toNat) n.toNat) := by
  have hlate : trainLate s n.toNat = false := by
    rw [trainLate, decide_eq_false_iff_not, trainLimit]
    omega
  unfold receiveCtrl
  rw [hlate]
  dsimp only
  split
  · next hno => cases hno
  · split
    · obtain ⟨hs, hst⟩ := goActive_active s (linkAt s n.toNat)
      rw [linkAt_setLink_self]
      exact ⟨hst, hs⟩
    · rw [linkAt_sendCtrl]
      exact ⟨rfl, rfl, rfl⟩

theorem receiveCtrl_late (hst : (linkAt s n.toNat).st = .train ∨ (linkAt s n.toNat).st = .retrain)
    (h : (linkAt s n.toNat).since + 190000 ≤ s.cycle) : (linkAt (receiveCtrl s n.toNat) n.toNat).st = .failed := by
  have hlate : trainLate s n.toNat = true := by
    rw [trainLate, decide_eq_true_eq, trainLimit]
    exact h
  rw [receiveCtrl, if_pos hlate]
  exact failTraining_failed hst

/-- What a port has received once a frame has come and used-up replays are acted on. -/
theorem receive_received (hst : (linkAt s n.toNat).st = .active) (ht : InTime s (linkAt s n.toNat)) :
    goesOn (exec (.poluriFrameReceive n f) s) fun t => SameReceived (receiveActive s.cycle (linkAt s n.toNat) f) (linkAt t n.toNat) := by
  refine ⟨_, exec_receive_active hst ht, ?_⟩
  have h := (settleReplays_buffers (setLink s n.toNat (receiveActive s.cycle (linkAt s n.toNat) f)) n.toNat).1
  rwa [linkAt_setLink_self] at h

end

section
variable {now : Nat} {l : Link} {f : Frame}

theorem acceptFrame_flit {h : FrameHead} (htype : h.type = 1) : (acceptFrame l h f).expect = l.expect + 1 ∧
    (acceptFrame l h f).rx = fmod l.rx ((frameSide f).extractLsb' 0 5).toNat [] (· ++ [{ payload := framePayload f, side := frameSide f }]) := by
  unfold acceptFrame
  dsimp only
  rw [if_pos htype]
  dsimp only
  split <;> exact ⟨rfl, rfl⟩

theorem acceptFrame_signal {h : FrameHead} (htype : h.type ≠ 1) : (acceptFrame l h f).expect = l.expect + 1 ∧
    (acceptFrame l h f).rx = l.rx ∧ (acceptFrame l h f).barIn = l.barIn ++ [framePayload f] := by
  unfold acceptFrame
  dsimp only
  rw [if_neg htype]
  dsimp only
  split <;> exact ⟨rfl, rfl, rfl⟩

theorem receiveActive_bad (hg : frameGood f = false) : receiveActive now l f = discardFrame l := by
  rw [receiveActive]
  exact if_pos (by rw [hg]; rfl)

theorem receiveActive_sequenced (hg : frameGood f = true) (htype : (frameHead f).type = 1 ∨ (frameHead f).type = 3) : receiveActive now l f =
    if (frameHead f).seq = l.expect ∧ !rxFull l (frameHead f) f then acceptFrame (applyAck now l (frameHead f)) (frameHead f) f
    else discardFrame l := by
  rw [receiveActive, if_neg (by simp [hg]), if_pos htype]

theorem receiveActive_flit (hg : frameGood f = true) (htype : (frameHead f).type = 1) (hseq : (frameHead f).seq = l.expect)
    (hroom : (fget l.rx ((frameSide f).extractLsb' 0 5).toNat []).length < 8) :
    fget (receiveActive now l f).rx ((frameSide f).extractLsb' 0 5).toNat [] =
      fget l.rx ((frameSide f).extractLsb' 0 5).toNat [] ++ [{ payload := framePayload f, side := frameSide f }] ∧
    (receiveActive now l f).expect = l.expect + 1 := by
  have hfull : rxFull l (frameHead f) f = false := by
    rw [rxFull, decide_eq_false (by omega), Bool.and_false]
  have ha := applyAck_received now l (frameHead f)
  obtain ⟨hexpect, hrx⟩ := acceptFrame_flit (l := applyAck now l (frameHead f)) (f := f) htype
  rw [receiveActive_sequenced hg (.inl htype), if_pos ⟨hseq, by rw [hfull]; rfl⟩, hexpect, hrx, ha.rx, ha.expect]
  exact ⟨fget_fset_self .., rfl⟩

theorem receiveActive_signal (hg : frameGood f = true) (htype : (frameHead f).type = 3) (hseq : (frameHead f).seq = l.expect) :
    (receiveActive now l f).barIn = l.barIn ++ [framePayload f] ∧ (receiveActive now l f).rx = l.rx ∧
      (receiveActive now l f).expect = l.expect + 1 := by
  have hfull : rxFull l (frameHead f) f = false := by
    rw [rxFull, htype]
    rfl
  have ha := applyAck_received now l (frameHead f)
  obtain ⟨hexpect, hrx, hbar⟩ := acceptFrame_signal (l := applyAck now l (frameHead f)) (f := f) (h := frameHead f) (by rw [htype]; decide)
  rw [receiveActive_sequenced hg (.inr htype), if_pos ⟨hseq, by rw [hfull]; rfl⟩, hexpect, hrx, hbar, ha.rx, ha.expect, ha.barIn]
  exact ⟨rfl, rfl, rfl⟩

theorem receiveActive_refused (hg : frameGood f = true) (htype : (frameHead f).type = 1 ∨ (frameHead f).type = 3)
    (hno : (frameHead f).seq ≠ l.expect ∨ ((frameHead f).type = 1 ∧ 8 ≤ (fget l.rx ((frameSide f).extractLsb' 0 5).toNat []).length)) :
    receiveActive now l f = discardFrame l := by
  rw [receiveActive_sequenced hg htype, if_neg]
  rintro ⟨hseq, hroom⟩
  rcases hno with h | ⟨h1, h8⟩
  · exact h hseq
  · have hfull : rxFull l (frameHead f) f = true := by
      rw [rxFull, h1, decide_eq_true h8]
      rfl
    rw [hfull] at hroom
    cases hroom

end

end Sys2Proof.Proofs

/-! Steps of the edge merge units, and the obligation about Poluri links and reductions (R40 to R42, R77). -/

namespace Sys2Proof.Proofs
open Sys2Proof Sys2Proof.Machine Sys2Proof.Laws

/-! ## What a step sends -/

section
variable (s : State) (m : MergeStep) (a : Word) (bs : List Byte)

theorem reportStall_tables (row col cls reason : Nat) : (reportStall s row col cls reason).unrid.entries = s.unrid.entries ∧
    (reportStall s row col cls reason).unrid.steps = s.unrid.steps := by
  unfold reportStall
  split <;> exact ⟨rfl, rfl⟩

theorem sendGlobal_entries : (sendGlobal s m a bs).unrid.entries = s.unrid.entries := by
  unfold sendGlobal
  dsimp only
  split
  · split
    · split <;> rfl
    · rfl
  · split
    · split
      · exact (reportStall_tables ..).1
      · rfl
    · split <;> rfl

/-- The place that a global address names. -/
def placeIn (a : Word) : Nat × Nat := ((a.extractLsb' 48 9).toNat, (a.extractLsb' 39 9).toNat)

/-- Whether a core of this wafer holds a number of bytes from a global address on. -/
def InsideWafer (s : State) (a : Word) (len : Nat) : Prop :=
  a.getLsbD 63 = false ∧ (a.extractLsb' 57 6).toNat = s.dev.wafer.toNat ∧ inGrid (keyOf (placeIn a).1 (placeIn a).2) = true ∧
    unavailable s.dev (placeIn a).1 (placeIn a).2 = false ∧ (a.extractLsb' 0 39).toNat + len ≤ 0x80000

/-- The messages that carry bytes to a global address. -/
def stepWrites (m : MergeStep) (a : Word) (bs : List Byte) : List Flit :=
  unridWrites m.cls.toNat (placeIn a).1 (placeIn a).2 (a.extractLsb' 0 39).toNat bs

variable {s m a bs}

theorem sendGlobal_egress (h : InsideWafer s a bs.length) : fget (sendGlobal s m a bs).unrid.egress m.cls.toNat [] =
    fget s.unrid.egress m.cls.toNat [] ++ stepWrites m a bs := by
  obtain ⟨hcore, hwafer, hgrid, hav, hlen⟩ := h
  unfold sendGlobal
  dsimp only
  simp only [wfield_eq]
  rw [if_neg (by rw [hcore]; decide), if_neg (fun hne => hne hwafer), if_pos (by
    have hg : inGrid (keyOf (a.extractLsb' 48 9).toNat (a.extractLsb' 39 9).toNat) = true := hgrid
    have hu : unavailable s.dev (a.extractLsb' 48 9).toNat (a.extractLsb' 39 9).toNat = false := hav
    rw [hg, hu, decide_eq_true hlen]
    rfl)]
  exact fget_fset_self ..

end

/-! ## The last index of a step -/

/-- A step whose flit index is merged. -/
def nextIndex (m : MergeStep) : MergeStep := { m with k := m.k + 1, bufs := m.bufs.map fun b => (b.1, b.2.tail) }

/-- The state once the merged result is on its way. -/
def resultSent (s : State) (m : MergeStep) (f : Flit) : State :=
  sendGlobal s m (m.dest + BitVec.ofNat 64 (128 * m.k)) (byteSlice (combineFlits m.op [f]) 0 128)

section
variable {s : State} {u : Nat} {m : MergeStep} {n : Nat} {f : Flit} {e : Entry}

theorem completionWord_ok (h : m.nflits ≤ 65536) : completionWord csOk 0 m.nflits = 2 ^ 63 + m.nflits := by
  simp only [completionWord, csOk]
  omega

theorem advanceStep_last (hports : stepPorts m = [n]) (hbufs : m.bufs = [(n, [(s.live, f)])]) (hk : m.k + 1 = m.nflits) : advanceStep s u m =
    endStep (sendGlobal (resultSent s m f) (nextIndex m) m.status (stepStatus m csOk m.nflits m.nflits)) u (nextIndex m) csOk m.nflits := by
  have hmerge : mergeIndex s m = some (resultSent s m f, nextIndex m) := by
    have hfirst : (fget m.bufs n []).head?.map (·.2) = some f := by simp [hbufs, fget, ffind]
    unfold mergeIndex
    rw [hports, List.mapM_cons, hfirst]
    rfl
  have hnext : (nextIndex m).k = m.nflits := hk
  rw [advanceStep, hmerge]
  dsimp only
  rw [hnext]
  exact if_neg (Nat.lt_irrefl _)

theorem endStep_ends (he : entryAt s m.key = some e) (hp : Pending e) (u status result : Nat) :
    endsAs (endStep s u m status result) m.key status 0 result ∧ ffind (endStep s u m status result).unrid.steps u = none :=
  ⟨endsAs_endEntry he hp .., ffind_fdel_self ..⟩

theorem endStep_egress (status result : Nat) : (endStep s u m status result).unrid.egress = s.unrid.egress := by
  obtain ⟨es, h⟩ := endEntry_rest s m.key status 0 result
  rw [endStep, h]
  rfl

theorem stepLate_iff : stepLate s m = true ↔ ∃ a, firstArrival m = some a ∧ a + 380000 ≤ s.live := by
  rw [stepLate]
  cases firstArrival m with
  | none => simp
  | some a =>
    simp only [Option.some.injEq, exists_eq_left', reduceLimit]
    exact ⟨of_decide_eq_true, fun h => decide_eq_true h⟩

end

/-! ## Contributions that come in -/

section
variable {s : State} {n : BitVec 6} {m : MergeStep} {f : Flit} {rest : List Flit}

/-- A flit of the running step's class stands first at a contributing port, and no flit of an aborted step before it. -/
structure Contributes (s : State) (n : BitVec 6) (m : MergeStep) (f : Flit) (rest : List Flit) : Prop where
  running : s.dev.stopped = false
  step : ffind s.unrid.steps (n.toNat / 32) = some m
  port : m.ports.getLsbD n.toNat = true
  first : fget (linkAt s n.toNat).rx m.cls.toNat [] = f :: rest
  wafer : flitDwaf f = s.dev.wafer.toNat
  stale : fget s.unrid.stale (32 * n.toNat + m.cls.toNat) 0 = 0

theorem exec_contribution (h : Contributes s n m f rest) : exec (.edgeMergeContribution n) s = .next (
    if stepLate s m then abortStep s (n.toNat / 32) m
    else if contributed m n.toNat < m.nflits ∧ (fget m.bufs n.toNat []).length < 64 then
      advanceStep (setLink s n.toNat (takeRx (linkAt s n.toNat) m.cls.toNat)) (n.toNat / 32)
        { m with bufs := fmod m.bufs n.toNat [] (· ++ [(s.live, f)]) }
    else s) := by
  show execEdgeMergeContribution n s = _
  rw [execEdgeMergeContribution, unitOf, h.step]
  dsimp only
  rw [h.running, h.port, h.first]
  dsimp only
  rw [contribute, if_neg fun hne => hne h.wafer, h.stale]
  rfl

theorem exec_reduceLate (south : Bool) (hrun : s.dev.stopped = false) (hm : ffind s.unrid.steps (if south then 1 else 0) = some m)
    (hlate : stepLate s m = true) : exec (.reduceLate south) s = .next (abortStep s (if south then 1 else 0) m) := by
  show execReduceLate south s = _
  rw [execReduceLate, hrun, hm]
  exact congrArg _ (if_pos hlate)

theorem abortStep_again (hretry : m.retry = true) (u : Nat) :
    ffind (abortStep s u m).unrid.steps u = some { m with retry := false, k := 0, bufs := [] } := by
  rw [abortStep, if_pos hretry]
  exact ffind_fset_self ..

theorem abortStep_ends {e : Entry} (hretry : m.retry = false) (he : entryAt s m.key = some e) (hp : Pending e) (u : Nat) :
    ffind (abortStep s u m).unrid.steps u = none ∧ endsAs (abortStep s u m) m.key 4 0 m.k := by
  rw [abortStep, if_neg (by simp [hretry])]
  obtain ⟨hend, hgone⟩ := endStep_ends (s := sendGlobal (leaveStale s m) m m.status (stepStatus m csReduceLate m.k 0)) (u := u)
    (status := csReduceLate) (result := m.k) ((entryAt_of_entries ((sendGlobal_entries ..).trans rfl) _).trans he) hp
  exact ⟨hgone, hend⟩

/-- The step that a COLL entry begins. -/
def stepOf (k : EntryKey) (e : Entry) : MergeStep :=
  { key := k, ports := entryWord e 8, op := entryField e 0x10 1, cls := BitVec.ofNat 5 (entryField e 0x11 1), nflits := entryField e 0x14 4,
    dest := entryWord e 0x18, status := entryWord e 0x20, retry := entryField e 1 1 / 4 % 2 == 1 }

theorem exec_coll {k : EntryKey} {e : Entry} (h : startable s k 2 = some e) (hst : s.dev.st ≠ .fatal) (hstop : s.dev.stopped = false)
    (hfree : ffind s.unrid.steps (if (entryWord e 8).toNat % 2 ^ 32 = 0 then 1 else 0) = none) : exec (.coll k) s =
    .next (modUnrid (setEntry s k .active) fun x =>
      { x with steps := fset x.steps (if (entryWord e 8).toNat % 2 ^ 32 = 0 then 1 else 0) (stepOf k e) }) := by
  show onWafer s k 2 _ _ = _
  rw [onWafer_running h hst hstop]
  dsimp only
  rw [hfree]
  rfl

end

/-! ## Ports that send -/

theorem ffind_map_of_mem {α : Type} (f : Nat → α) {l : List Nat} {i : Nat} (hi : i ∈ l) : ffind (l.map fun j => (j, f j)) i = some (f i) := by
  induction l with
  | nil => cases hi
  | cons j l ih =>
    rw [List.map_cons, ffind]
    by_cases hj : j = i
    · rw [if_pos hj, hj]
    · rw [if_neg hj]
      exact ih ((List.mem_cons.1 hi).resolve_left fun h => hj h.symm)

section
variable {s : State} {n : BitVec 6}

theorem exec_poluriEnable (h : (linkAt s n.toNat).st = .down) : exec (.poluriEnable n) s = .next (sendCtrl (setLink s n.toNat
    { linkAt s n.toNat with
      st := .train, sendSeq := 0, expect := 0, replay := [], nackSent := false, replays := 0, retrains := [], since := s.cycle,
      lastAck := s.cycle, sinceAck := 0, credits := (List.range 32).map fun c => (c, 8), rx := [], owed := [] }) n.toNat) := by
  show execPoluriEnable n s = _
  rw [execPoluriEnable]
  exact if_pos h

theorem exec_trainTimeout (h : (linkAt s n.toNat).since + 190000 ≤ s.cycle) : exec (.trainTimeout n) s = .next (failTraining s n.toNat) := by
  show execTrainTimeout n s = _
  rw [execTrainTimeout, if_pos]
  rw [trainLate, decide_eq_true_eq, trainLimit]
  exact h

/-- The state without an attic port's expander. -/
def expanderLost (s : State) (n : Nat) (x : Expander) : State := { s with expanders := fset s.expanders n { x with up := false } }

/-- Whether a launch's attic context maps a page behind an attic port. -/
def mapsBehind (s : State) (n : Nat) (l : Launch) : Bool :=
  match atticCtx s l.actx with
  | some x => x.leaves.any fun f => f.2.2 / 2 ^ 42 == n
  | none => false

theorem exec_atticPortDown {x : Expander} (hx : ffind s.expanders n.toNat = some x) (hup : x.up = true) : exec (.atticPortDown n) s =
    .next (exhaustRegions (expanderLost s n.toNat x) (mapsBehind (expanderLost s n.toNat x) n.toNat) 0xFFFF 0xFFFF) := by
  show execAtticPortDown n s = _
  rw [execAtticPortDown, hx]
  exact if_neg (by simp [hup])

/-- A port once the first flit of a class has gone out. -/
def flitSent (now : Nat) (l : Link) (c : Nat) (f : Flit) (rest : List Flit) : Link :=
  { sendKept now l 1 f.side f.payload with tx := fset l.tx c rest, credits := fset l.credits c (fget l.credits c 0 - 1) }

theorem exec_poluriFlitSend {cls : BitVec 5} {f : Flit} {rest : List Flit} (hst : (linkAt s n.toNat).st = .active)
    (hf : fget (linkAt s n.toNat).tx cls.toNat [] = f :: rest) (hstop : s.dev.stopped = false)
    (hcr : fget (linkAt s n.toNat).credits cls.toNat 0 ≠ 0) (hroom : (linkAt s n.toNat).replay.length < 1024) :
    exec (.poluriFlitSend n cls) s = .next (setLink s n.toNat (flitSent s.cycle (linkAt s n.toNat) cls.toNat f rest)) := by
  show execPoluriFlitSend n cls s = _
  rw [execPoluriFlitSend]
  dsimp only
  rw [hst, hf]
  dsimp only
  rw [if_neg (by simp [hstop, hcr, replayRoom, hroom])]
  rfl

end

/-- Settles O54: a port by its state and by what comes in, a step by its last contribution or its lateness. -/
theorem poluriAndReductions : Obligations.PoluriAndReductions := by
  unfold Obligations.PoluriAndReductions
  refine ⟨fun s n => ?_, fun s => ?_⟩
  · refine ⟨fun h => ?_, rfl, fun hst hlate => ?_, fun hst hlate => ?_, fun hst f hg htype => ⟨fun ht => ?_, fun hlate => ?_⟩, fun hst => ?_⟩
    · refine ⟨_, exec_poluriEnable h, ?_⟩
      dsimp only
      rw [linkAt_sendCtrl, linkAt_setLink_self]
      refine ⟨rfl, rfl, rfl, rfl, rfl, fun c hc => ?_, rfl, rfl⟩
      show fget ((List.range 32).map fun c => (c, 8)) c 0 = 8
      rw [fget, ffind_map_of_mem (fun _ => 8) (List.mem_range.2 hc), Option.getD_some]
    · rw [exec_trainTimeout hlate, failTraining, hst]
    · exact ⟨_, exec_trainTimeout hlate, failTraining_failed (.inr hst)⟩
    · obtain ⟨hagree, hsend⟩ := receiveCtrl_inTime ht
      exact ⟨_, exec_receive_training hst hg htype, hagree, hsend.credits, hsend.replay⟩
    · exact ⟨_, exec_receive_training hst hg htype, receiveCtrl_late hst hlate⟩
    · refine ⟨fun cls f rest hf hstop hcr hroom => ?_, fun hne hlate => ⟨fun hlt => ⟨?_, fun f => ?_⟩, fun h15 hnone => ?_⟩, fun h16 hnone => ?_,
        fun ht f hg htype => ⟨fun hseq hroom => ?_, fun hno => ?_⟩, fun ht f hg htype => ⟨fun hseq => ?_, fun hno => ?_⟩, fun ht f hg => ?_⟩
      · refine ⟨_, exec_poluriFlitSend hst hf hstop hcr hroom, ?_⟩
        dsimp only
        rw [linkAt_setLink_self]
        exact ⟨rfl, rfl, rfl, fget_fset_self .., fget_fset_self ..⟩
      · exact congrArg _ (replayTimeout_back hst hne hlate hlt)
      · show execPoluriFrameReceive n f s = execPoluriFrameReceive n f (setLink s n.toNat (goBack s.cycle (linkAt s n.toNat)))
        rw [execPoluriFrameReceive, execPoluriFrameReceive, replayTimeout_again, replayTimeout_back hst hne hlate hlt]
      · have hfirst := settleReplays_first (s := setLink s n.toNat (goBack s.cycle (linkAt s n.toNat))) (n := n.toNat)
          (by rw [linkAt_setLink_self]; exact hst) (by rw [linkAt_setLink_self]; show 16 ≤ (linkAt s n.toNat).replays + 1; omega)
          (by rw [linkAt_setLink_self]; exact hnone)
        refine ⟨_, congrArg Host.Outcome.next ((replayTimeout_late hst hne hlate (by omega)).trans hfirst), ?_⟩
        dsimp only
        rw [linkAt_sendCtrl, linkAt_setLink_self, linkAt_setLink_self]
        exact ⟨rfl, rfl, rfl, rfl, rfl, rfl⟩
      · refine ⟨_, congrArg Host.Outcome.next (settleReplays_first hst h16 hnone), ?_⟩
        dsimp only
        rw [linkAt_sendCtrl, linkAt_setLink_self]
        exact ⟨rfl, rfl, rfl⟩
      · obtain ⟨t, hexec, hk⟩ := receive_received (f := f) hst ht
        obtain ⟨hrx, hexpect⟩ := receiveActive_flit (now := s.cycle) hg htype hseq hroom
        refine ⟨t, hexec, ?_⟩
        dsimp only
        rw [hk.rx, hk.expect]
        exact ⟨hrx, hexpect⟩
      · obtain ⟨t, hexec, hk⟩ := receive_received (f := f) hst ht
        obtain ⟨hrx, hexpect, -, -⟩ := discardFrame_received (linkAt s n.toNat)
        rw [receiveActive_refused hg (.inl htype) (hno.imp_right fun h8 => ⟨htype, h8⟩)] at hk
        exact ⟨t, hexec, hk.rx.trans hrx, hk.expect.trans hexpect⟩
      · obtain ⟨t, hexec, hk⟩ := receive_received (f := f) hst ht
        obtain ⟨hbar, hrx, hexpect⟩ := receiveActive_signal (now := s.cycle) hg htype hseq
        exact ⟨t, hexec, hk.barIn.trans hbar, hk.rx.trans hrx, hk.expect.trans hexpect⟩
      · obtain ⟨t, hexec, hk⟩ := receive_received (f := f) hst ht
        obtain ⟨-, hexpect, hbar, -⟩ := discardFrame_received (linkAt s n.toNat)
        rw [receiveActive_refused hg (.inr htype) (.inl hno)] at hk
        exact ⟨t, hexec, hk.barIn.trans hbar, hk.expect.trans hexpect⟩
      · obtain ⟨t, hexec, hk⟩ := receive_received (f := f) hst ht
        obtain ⟨hrx, hexpect, -, hnack⟩ := discardFrame_received (linkAt s n.toNat)
        rw [receiveActive_bad hg] at hk
        exact ⟨t, hexec, hk.rx.trans hrx, hk.expect.trans hexpect, hk.nackSent.trans hnack⟩
  · refine ⟨fun k e h hst hstop => ?_, fun n m f rest hrun hm hport hf hw hold hk hlen htime => ?_,
      fun n m f rest a hrun hm hport hf hw hold ha hlate => ?_, fun u m n f hn hports hbufs hk e he hact => ?_,
      fun south m a hrun hm ha hlate => ⟨fun hretry e he hact => ?_, fun hretry => ?_⟩, fun n x hx hup hn => ?_⟩
    · dsimp only
      intro hfree
      refine ⟨_, exec_coll h hst hstop hfree, stepOf k e, ffind_fset_self .., rfl, rfl, rfl, rfl, rfl, ?_⟩
      exact congrArg _ (entryAt_setEntry .active (starts_of_startable h).entry)
    · have hearly : ¬ stepLate s m = true := by
        rw [stepLate_iff]
        rintro ⟨a, ha, hle⟩
        have := htime a ha
        omega
      rw [exec_contribution ⟨hrun, hm, hport, hf, hw, hold⟩, if_neg hearly, if_pos ⟨hk, hlen⟩]
    · have hunit : (if decide (n.toNat / 32 = 1) = true then 1 else 0) = n.toNat / 32 := by
        have := n.isLt
        by_cases h : n.toNat / 32 = 1
        · rw [decide_eq_true h, if_pos rfl, h]
        · rw [decide_eq_false h, if_neg (by decide)]
          omega
      have hlate' : stepLate s m = true := stepLate_iff.2 ⟨a, ha, hlate⟩
      rw [exec_contribution ⟨hrun, hm, hport, hf, hw, hold⟩, if_pos hlate', exec_reduceLate _ hrun (by rw [hunit]; exact hm) hlate', hunit]
    · dsimp only
      rw [advanceStep_last hports hbufs hk]
      obtain ⟨hend, hgone⟩ := endStep_ends (m := nextIndex m)
        (s := sendGlobal (resultSent s m f) (nextIndex m) m.status (stepStatus m csOk m.nflits m.nflits))
        ((entryAt_of_entries ((sendGlobal_entries ..).trans (sendGlobal_entries ..)) _).trans he) (pending_of_active hact) u csOk m.nflits
      refine ⟨hgone, hend, fun hin hinb hsmall => ?_⟩
      have hblock : stepStatus m csOk m.nflits m.nflits =
          leBytes (2 ^ 63 + m.nflits) 8 ++ leBytes (2 ^ m.nflits - 1) (8 * ((m.nflits + 63) / 64)) := by
        rw [stepStatus, completionWord_ok hsmall]
      have hdev : (resultSent s m f).dev = s.dev := sendGlobal_dev ..
      have hfirst := sendGlobal_egress (s := s) (m := m) (a := m.dest + BitVec.ofNat 64 (128 * m.k))
        (bs := byteSlice (combineFlits m.op [f]) 0 128) (by rw [byteSlice, leBytes_length]; exact hin)
      have hsecond := sendGlobal_egress (s := resultSent s m f) (m := nextIndex m) (a := m.status)
        (bs := stepStatus m csOk m.nflits m.nflits) (by rw [InsideWafer, hdev, hblock]; exact hinb)
      rw [endStep_egress]
      refine hsecond.trans ?_
      rw [hblock]
      exact congrArg (· ++ _) hfirst
    · obtain ⟨hgone, hend⟩ := abortStep_ends (s := s) hretry he (pending_of_active hact) (if south then 1 else 0)
      exact ⟨_, exec_reduceLate south hrun hm (stepLate_iff.2 ⟨a, ha, hlate⟩), hgone, hend⟩
    · exact ⟨_, exec_reduceLate south hrun hm (stepLate_iff.2 ⟨a, ha, hlate⟩), abortStep_again hretry _⟩
    · refine ⟨_, exec_atticPortDown hx hup, fun a ha => ?_⟩
      rw [namesMemory, (exhaustRegions_rest ..).2.1, ha, expanderLost, ffind_fset_self]
      simp

end Sys2Proof.Proofs

/-! Steps of the fabric, and the obligation about routing, merging and stalls (R151 to R170, R193, R197 to R201). -/

namespace Sys2Proof.Proofs
open Sys2Proof Sys2Proof.Machine Sys2Proof.Laws

/-! ## Inputs and outputs of routers -/

section
variable (s : State) (k : Nat) (lg : Option (Nat × Nat)) (d cls : Nat)

theorem inputFlits_mesh (hd : d < 4) : inputFlits s k lg d cls = fget (routerAt s k).inp (32 * d + cls) [] := if_pos hd

theorem changeInput_mesh (hd : d < 4) (f : List Flit → List Flit) : changeInput s k lg d cls f =
    setRouter s k { routerAt s k with inp := fmod (routerAt s k).inp (32 * d + cls) [] f } := if_pos hd

theorem inputFlits_changeInput (hd : d < 4) (f : List Flit → List Flit) :
    inputFlits (changeInput s k lg d cls f) k lg d cls = f (inputFlits s k lg d cls) := by
  rw [changeInput_mesh s k lg d cls hd, inputFlits_mesh _ k lg d cls hd, inputFlits_mesh s k lg d cls hd, routerAt_setRouter_self]
  exact fget_fset_self _ _ _ _

/-- A change to an input reaches no other router, and of its own the inputs alone. -/
theorem changeInput_routers (f : List Flit → List Flit) : (∀ j, j ≠ k → routerAt (changeInput s k lg d cls f) j = routerAt s j) ∧
    (routerAt (changeInput s k lg d cls f) k).out = (routerAt s k).out := by
  unfold changeInput
  dsimp only
  split
  · exact ⟨fun j hj => routerAt_setRouter_ne _ _ hj, by rw [routerAt_setRouter_self]⟩
  · split
    · exact ⟨fun _ _ => rfl, rfl⟩
    · exact ⟨fun _ _ => rfl, rfl⟩

/-- A head is noted beside the router's buffers. -/
theorem noteHead_eq : ∃ e, noteHead s k lg d cls = setRouter s k { routerAt s k with entry := e } := by
  unfold noteHead
  dsimp only
  split
  · exact ⟨_, rfl⟩
  · exact ⟨_, rfl⟩

theorem arriveInput_inputFlits (hd : d < 4) (f : Flit) : inputFlits (arriveInput s k d cls f) k lg d cls = inputFlits s k lg d cls ++ [f] := by
  have hput : inputFlits (changeInput s k (placeOf s k) d cls (· ++ [f])) k (placeOf s k) d cls = inputFlits s k (placeOf s k) d cls ++ [f] :=
    inputFlits_changeInput s k (placeOf s k) d cls hd _
  rw [inputFlits_mesh _ _ _ _ _ hd, inputFlits_mesh _ _ _ _ _ hd] at hput ⊢
  rw [← hput]
  unfold arriveInput
  dsimp only
  split
  · obtain ⟨e, he⟩ := noteHead_eq (changeInput s k (placeOf s k) d cls (· ++ [f])) k (placeOf s k) d cls
    rw [he, routerAt_setRouter_self]
  · rfl

theorem arriveInput_router_ne (f : Flit) {j : Nat} (hj : j ≠ k) : routerAt (arriveInput s k d cls f) j = routerAt s j := by
  obtain ⟨hother, -⟩ := changeInput_routers s k (placeOf s k) d cls (· ++ [f])
  unfold arriveInput
  dsimp only
  split
  · obtain ⟨e, he⟩ := noteHead_eq (changeInput s k (placeOf s k) d cls (· ++ [f])) k (placeOf s k) d cls
    rw [he, routerAt_setRouter_ne _ _ hj, hother j hj]
  · exact hother j hj

theorem arriveInput_larder (hd : d < 4) (f : Flit) (n : Nat) : larderAt (arriveInput s k d cls f) n = larderAt s n := by
  unfold arriveInput
  dsimp only
  rw [changeInput_mesh _ _ _ _ _ hd]
  split
  · obtain ⟨e, he⟩ := noteHead_eq (setRouter s k { routerAt s k with inp := fmod (routerAt s k).inp (32 * d + cls) [] (· ++ [f]) })
      k (placeOf s k) d cls
    rw [he]
    rfl
  · rfl

/-! ## An output left by its flit -/

/-- Going on by XY marks a head at an input, and leaves every output as it is. -/
theorem forceXy_routers : (∀ j, j ≠ k → routerAt (forceXy s k lg cls d) j = routerAt s j) ∧
    (routerAt (forceXy s k lg cls d) k).out = (routerAt s k).out := by
  unfold forceXy
  split
  · dsimp only
    split
    · exact changeInput_routers s k _ d cls _
    · exact ⟨fun _ _ => rfl, rfl⟩
  · exact ⟨fun _ _ => rfl, rfl⟩

end

section
variable (s : State) (k o cls : Nat)

theorem foldl_forceXy_routers (ds : List Nat) :
    (∀ j, j ≠ k → routerAt (ds.foldl (fun s d => forceXy s k (placeOf s k) cls d) s) j = routerAt s j) ∧
    (routerAt (ds.foldl (fun s d => forceXy s k (placeOf s k) cls d) s) k).out = (routerAt s k).out := by
  induction ds generalizing s with
  | nil => exact ⟨fun _ _ => rfl, rfl⟩
  | cons d ds ih =>
    obtain ⟨hother, hout⟩ := forceXy_routers s k (placeOf s k) d cls
    obtain ⟨ihOther, ihOut⟩ := ih (forceXy s k (placeOf s k) cls d)
    exact ⟨fun j hj => (ihOther j hj).trans (hother j hj), ihOut.trans hout⟩

theorem leaveOut_routers : (∀ j, j ≠ k → routerAt (leaveOut s k o cls) j = routerAt s j) ∧
    outFlits (routerAt (leaveOut s k o cls) k) o cls = (outFlits (routerAt s k) o cls).tail := by
  obtain ⟨hother, hout⟩ := foldl_forceXy_routers s k cls (List.range 5)
  refine ⟨fun j hj => (routerAt_setRouter_ne _ _ hj).trans (hother j hj), ?_⟩
  unfold leaveOut outFlits
  dsimp only
  rw [routerAt_setRouter_self, fget_fset_self]
  exact congrArg (fun m => (fget m (32 * o + cls) []).tail) hout

end

theorem dirCode_mesh {o : Dir} (ho : o ≠ .l) : dirCode o < 4 := by
  cases o
  case l => exact absurd rfl ho
  all_goals decide

theorem facing_mesh {d : Nat} (hd : d < 4) : facing d < 4 := by
  unfold facing
  rw [if_pos hd]
  exact Nat.mod_lt _ (by decide)

/-- A larder's flits enter a router at a mesh input. -/
theorem entryRouter_larder_mesh {dev : Device} {n k d : Nat} (h : entryRouter dev (.larder n) = some (k, d)) : d < 4 := by
  obtain ⟨r, -, hr⟩ := Option.map_eq_some_iff.mp h
  split at hr
  all_goals
    cases hr
    decide

/-! ## A flit moves -/

section
variable {s : State}

theorem exec_flitHop (hs : s.dev.stopped = false) (r c : Nat) (o : Dir) : exec (.flitHop (.grant r c o)) s = .next (hopGrant s (keyOf r c) (dirCode o)) ∧
    (∀ cls : BitVec 5, exec (.flitHop (.link r c o cls)) s = .next (hopLink s (keyOf r c) (dirCode o) cls.toNat)) ∧
    ∀ (n : Nat) (cls : BitVec 5), exec (.flitHop (.enter (.larder n) cls)) s = .next (hopEnter s (.larder n) cls.toNat) := by
  have hrun : ¬s.dev.stopped = true := by simp [hs]
  exact ⟨if_neg hrun, fun _ => if_neg hrun, fun _ _ => if_neg hrun⟩

theorem hopGrant_of_first {k o cls d : Nat} {f : Flit}
    (h : ((classOrder (fget (routerAt s k).lastCls o 31)).findSome? fun cls =>
      (inputFor s k (placeOf s k) o cls).map fun x => (cls, x)) = some (cls, d, f)) :
    hopGrant s k o = grantOut s k (placeOf s k) o cls d f := by
  unfold hopGrant
  dsimp only
  rw [h]

theorem hopLink_router {k o cls k' : Nat} {f : Flit} {fs : List Flit} (ho : o ≠ 4) (hout : outFlits (routerAt s k) o cls = f :: fs)
    (hlead : leadOf s.dev k o = .router k') (hroom : (inputFlits s k' (placeOf s k') (facing o) cls).length < 2) :
    hopLink s k o cls = arriveInput (leaveOut s k o cls) k' (facing o) cls f := by
  unfold hopLink
  rw [hout]
  dsimp only [List.head?_cons]
  rw [if_neg ho, hlead]
  exact if_pos hroom

/-- A flit that crosses a link stands at the end of the next router's input, and no longer in the output. -/
theorem hopLink_moves {k o cls k' : Nat} {f : Flit} (ho : o < 4) (hout : outFlits (routerAt s k) o cls = [f])
    (hlead : leadOf s.dev k o = .router k') (hk : k' ≠ k) (hroom : (inputFlits s k' (placeOf s k') (facing o) cls).length < 2) :
    outFlits (routerAt (hopLink s k o cls) k) o cls = [] ∧
      inputFlits (hopLink s k o cls) k' (placeOf (hopLink s k o cls) k') (facing o) cls =
        inputFlits s k' (placeOf s k') (facing o) cls ++ [f] := by
  have hd : facing o < 4 := facing_mesh ho
  obtain ⟨hother, hleft⟩ := leaveOut_routers s k o cls
  rw [hopLink_router (by omega) hout hlead hroom]
  constructor
  · rw [arriveInput_router_ne _ _ _ _ _ hk.symm, hleft, hout]
    rfl
  · rw [arriveInput_inputFlits _ _ _ _ _ hd, inputFlits_mesh _ _ _ _ _ hd, inputFlits_mesh _ _ _ _ _ hd, hother k' hk]

/-- The larder without the first flit that waits to enter the fabric. -/
def egressTaken (s : State) (n cls : Nat) : State :=
  setLarder s n { larderAt s n with egress := fmod (larderAt s n).egress cls [] List.tail }

theorem hopEnter_larder {n cls k d : Nat} {f : Flit} {rest : List Flit} (hf : fget (larderAt s n).egress cls [] = f :: rest)
    (hk : entryRouter s.dev (.larder n) = some (k, d)) (hroom : (inputFlits s k (placeOf s k) d cls).length < 2) :
    hopEnter s (.larder n) cls = arriveInput (egressTaken s n cls) k d cls f := by
  unfold hopEnter unitHead
  dsimp only
  rw [hf, hk]
  exact if_pos hroom

/-- A larder's flit stands at the end of the input beside it, and no longer in the larder. -/
theorem hopEnter_moves {n cls k d : Nat} {f : Flit} {rest : List Flit} (hf : fget (larderAt s n).egress cls [] = f :: rest)
    (hk : entryRouter s.dev (.larder n) = some (k, d)) (hroom : (inputFlits s k (placeOf s k) d cls).length < 2) :
    fget (larderAt (hopEnter s (.larder n) cls) n).egress cls [] = rest ∧
      inputFlits (hopEnter s (.larder n) cls) k (placeOf (hopEnter s (.larder n) cls) k) d cls =
        inputFlits s k (placeOf s k) d cls ++ [f] := by
  have hd : d < 4 := entryRouter_larder_mesh hk
  rw [hopEnter_larder hf hk hroom]
  constructor
  · rw [arriveInput_larder _ _ _ _ hd, egressTaken, larderAt_setLarder_self]
    exact (fget_fset_self _ _ _ _).trans (congrArg List.tail hf)
  · rw [arriveInput_inputFlits _ _ _ _ _ hd, inputFlits_mesh _ _ _ _ _ hd, inputFlits_mesh _ _ _ _ _ hd]
    rfl

/-! ## Merges and renormalisations -/

theorem exec_mergeCombine (hs : s.dev.stopped = false) {prow pcol row col : Nat} {cls : BitVec 5} {e : BitVec 32} {fs : List Flit}
    (hplace : placeOf s (keyOf prow pcol) = some (row, col)) (he : mergeEntry s (keyOf prow pcol) (some (row, col)) row col cls.toNat = some e)
    (hfs : mergeHeads s (keyOf prow pcol) (some (row, col)) row col cls.toNat e = some fs) : exec (.mergeCombine prow pcol cls) s =
      if mergeable e fs then .next (combine (renormFirst s (keyOf prow pcol) row col cls.toNat (flitChunk (fs.headD ⟨0, 0, 0, false⟩)))
        (keyOf prow pcol) row col cls.toNat e fs)
      else .next (reportStall s row col cls.toNat 1) := by
  show execMergeCombine prow pcol cls s = _
  unfold execMergeCombine
  dsimp only
  rw [hs, hplace]
  dsimp only
  rw [he]
  dsimp only
  rw [hfs]

section
variable (s : State) (k : Nat) (lg : Option (Nat × Nat)) (d cls : Nat)

theorem changeInput_nodeFloor (f : List Flit → List Flit) (j : Nat) :
    (coreAt (changeInput s k lg d cls f) j).nodeFloor = (coreAt s j).nodeFloor := by
  unfold changeInput
  dsimp only
  split
  · rfl
  · split
    · rw [coreAt_modCore]
      split <;> rfl
    · rfl

theorem dropHead_nodeFloor (j : Nat) : (coreAt (dropHead s k lg d cls) j).nodeFloor = (coreAt s j).nodeFloor := by
  unfold dropHead
  dsimp only
  rw [(noteHead_eq _ k lg d cls).choose_spec]
  exact changeInput_nodeFloor s k lg d cls List.tail j

end

theorem applyRenorm_nodeFloor (c : Core) (cls : Nat) (r : Renorm) :
    fget (applyRenorm c cls r).nodeFloor cls [] = fget c.nodeFloor cls [] ++ [r] := by
  have hjoin : fget (addFloor c.nodeFloor cls r) cls [] = fget c.nodeFloor cls [] ++ [r] := fget_fset_self _ _ _ _
  unfold applyRenorm
  dsimp only
  split <;> exact hjoin

theorem reportStall_coreAt (s : State) (row col cls reason j : Nat) : coreAt (reportStall s row col cls reason) j = coreAt s j := by
  unfold reportStall
  split <;> rfl

/-- A RENORM taken joins the floors of its node, late or not. -/
theorem takeRenorm_nodeFloor (s : State) (k row col d : Nat) (f : Flit) :
    fget (coreAt (takeRenorm s k row col d f) (keyOf row col)).nodeFloor (renormCls f) [] =
      fget (coreAt s (keyOf row col)).nodeFloor (renormCls f) [] ++ [⟨renormChunk f, sext (flitField f 2 2) 10⟩] := by
  unfold takeRenorm
  extract_lets lg cls ren late has fin r s1 s2 s3
  have hfloor : (coreAt s2 (keyOf row col)).nodeFloor = (coreAt s (keyOf row col)).nodeFloor := by
    unfold s2
    split
    · exact dropHead_nodeFloor s1 k lg d 26 (keyOf row col)
    · rfl
  have happlied : fget (coreAt s3 (keyOf row col)).nodeFloor cls [] = fget (coreAt s (keyOf row col)).nodeFloor cls [] ++ [ren] := by
    unfold s3
    rw [coreAt_modCore, if_pos rfl, applyRenorm_nodeFloor, hfloor]
  split
  · rw [reportStall_coreAt]
    exact happlied
  · exact happlied

theorem exec_renormArrival (hs : s.dev.stopped = false) {row col k d : Nat} {f : Flit} {more : List (Nat × Flit)}
    (hk : routerOf s.dev row col = some k) (hf : renormsAt s k (some (row, col)) = (d, f) :: more) :
    exec (.renormArrival row col) s = .next (takeRenorm s k row col d f) := by
  show execRenormArrival row col s = _
  unfold execRenormArrival
  rw [hs, hk]
  dsimp only
  rw [hf]

theorem exec_classStall (hs : s.dev.stopped = false) {prow pcol row col : Nat} {cls : BitVec 5} {l : Launch} {a : Nat}
    (hplace : placeOf s (keyOf prow pcol) = some (row, col)) (hl : launchOf s row col = some l)
    (ha : ffind (routerAt s (keyOf prow pcol)).waiting cls.toNat = some a) : exec (.classStall prow pcol cls) s =
      if l.classMask.getLsbD cls.toNat && decide (l.stallLim ≤ s.live - a) then
        .next (reportStall (setRouter s (keyOf prow pcol) { routerAt s (keyOf prow pcol) with
          waiting := fset (routerAt s (keyOf prow pcol)).waiting cls.toNat s.live }) row col cls.toNat 0)
      else .next s := by
  show execClassStall prow pcol cls s = _
  unfold execClassStall
  dsimp only
  rw [hs, hplace]
  dsimp only
  rw [hl, ha]

/-! ## STAT flits -/

/-- Whether a count of a STAT flit passes its threshold (R193). -/
def PassesThreshold (g : BootCfg) (f : Flit) : Prop :=
  (g.satThr ≠ 0 ∧ g.satThr < flitField f 0 4) ∨ (g.nanThr ≠ 0 ∧ g.nanThr < flitField f 4 4) ∨ (g.uflThr ≠ 0 ∧ g.uflThr < flitField f 8 4)

theorem checkStat_passes {f : Flit} (h : PassesThreshold s.dev.cfg f) : checkStat s f = raiseEvent s evCalib := by
  unfold checkStat
  dsimp only
  rw [if_pos]
  simpa [PassesThreshold, or_assoc] using h

theorem checkStat_quiet {f : Flit} (h : ¬PassesThreshold s.dev.cfg f) : checkStat s f = s := by
  unfold checkStat
  dsimp only
  rw [if_neg]
  simpa [PassesThreshold, or_assoc] using h

theorem writeVa_rest {s t : State} {l : Launch} {va : Nat} {bs : List Byte} (h : writeVa s l va bs = some t) :
    t.larders = s.larders ∧ t.port0 = s.port0 ∧ t.port1 = s.port1 := by
  dsimp only [writeVa] at h
  split at h
  · cases h
    split <;> exact ⟨rfl, rfl, rfl⟩
  · cases h

/-- The record of a STAT flit leaves both ports, and what the larder has received. -/
theorem recordStat_rest (s : State) (n : Nat) (f : Flit) : (larderAt (recordStat s n f) n).rx = (larderAt s n).rx ∧
    (recordStat s n f).port0 = s.port0 ∧ (recordStat s n f).port1 = s.port1 := by
  unfold recordStat
  dsimp only
  split
  · exact ⟨rfl, rfl, rfl⟩
  · split
    · exact ⟨rfl, rfl, rfl⟩
    · split
      · exact ⟨rfl, rfl, rfl⟩
      · next t ht =>
        obtain ⟨hlarders, h0, h1⟩ := writeVa_rest ht
        refine ⟨?_, h0, h1⟩
        rw [putLctx, modLctx, larderAt_setLarder_self]
        exact congrArg (fun m => (fget m n ({} : Larder)).rx) hlarders

/-- The larder without the STAT flit at the head of what it has received. -/
def statTaken (s : State) (n : Nat) (rest : List Flit) : State := setLarder s n { larderAt s n with rx := fset (larderAt s n).rx 30 rest }

theorem exec_statSink (hs : s.dev.stopped = false) {n : Nat} {f : Flit} {rest : List Flit} (hf : fget (larderAt s n).rx 30 [] = f :: rest) :
    exec (.statSink (.larder n)) s = .next (recordStat (checkStat (statTaken s n rest) f) n f) := by
  show execStatSink (.larder n) s = _
  unfold execStatSink
  rw [if_neg (by simp [hs])]
  dsimp only
  rw [hf]
  rfl

theorem checkStat_larders (s : State) (f : Flit) : (checkStat s f).larders = s.larders := by
  unfold checkStat
  dsimp only
  split
  · obtain ⟨m0, h0, m1, h1, h⟩ := raiseEvent_eq s evCalib
    rw [h]
  · rfl

/-- A STAT flit leaves its larder, and raises CALIB_ALARM at both ports where a count passes its threshold. -/
theorem statSink_leaves (s : State) (n : Nat) (f : Flit) (rest : List Flit) :
    fget (larderAt (recordStat (checkStat (statTaken s n rest) f) n f) n).rx 30 [] = rest ∧
      (PassesThreshold s.dev.cfg f → (recordStat (checkStat (statTaken s n rest) f) n f).port0.event.getLsbD 4 = true ∧
        (recordStat (checkStat (statTaken s n rest) f) n f).port1.event.getLsbD 4 = true) ∧
      (¬PassesThreshold s.dev.cfg f → (recordStat (checkStat (statTaken s n rest) f) n f).port0 = s.port0 ∧
        (recordStat (checkStat (statTaken s n rest) f) n f).port1 = s.port1) := by
  obtain ⟨hrx, h0, h1⟩ := recordStat_rest (checkStat (statTaken s n rest) f) n f
  refine ⟨?_, fun hp => ?_, fun hp => ?_⟩
  · have hat : larderAt (checkStat (statTaken s n rest) f) n = larderAt (statTaken s n rest) n :=
      congrArg (fun m => fget m n ({} : Larder)) (checkStat_larders _ f)
    rw [hrx, hat, statTaken, larderAt_setLarder_self]
    exact fget_fset_self _ _ _ _
  · rw [h0, h1, checkStat_passes (s := statTaken s n rest) hp]
    exact ⟨raiseEvent_event _ 4 .p0 (by decide), raiseEvent_event _ 4 .p1 (by decide)⟩
  · rw [h0, h1, checkStat_quiet (s := statTaken s n rest) hp]
    exact ⟨rfl, rfl⟩

end

/-! ## The obligation -/

/-- Settles O55. -/
theorem fabricEvents : Obligations.FabricEvents := by
  refine ⟨fun s hs => ⟨?_, ?_, ?_, ?_⟩, fun s hs => ⟨?_, ?_, ?_⟩⟩
  · intro r c o cls d f k h
    exact (exec_flitHop hs r c o).1.trans (congrArg _ (hopGrant_of_first h))
  · intro r c o cls f k' k ho hout hlead hk hroom
    obtain ⟨-, hlink, -⟩ := exec_flitHop hs r c o
    exact ⟨_, hlink cls, hopLink_moves (dirCode_mesh ho) hout hlead hk hroom⟩
  · intro n cls f rest k d _ hf hk hroom
    obtain ⟨-, -, henter⟩ := exec_flitHop hs 0 0 .n
    exact ⟨_, henter n cls, hopEnter_moves hf hk hroom⟩
  · intro prow pcol row col cls e fs k hplace he hfs
    have hexec := exec_mergeCombine hs hplace he hfs
    exact ⟨fun hm => hexec.trans (if_pos hm), fun hm => hexec.trans (if_neg (by simp [hm]))⟩
  · intro row col k d f more hk hf
    exact ⟨_, exec_renormArrival hs hk hf, takeRenorm_nodeFloor s k row col d f⟩
  · intro prow pcol row col cls l a k hplace hl ha hmask
    have hexec := exec_classStall hs hplace hl ha
    refine ⟨fun hlim => hexec.trans (if_pos ?_), fun hlim => hexec.trans (if_neg ?_)⟩
    · simp [hmask, hlim]
    · simp [hlim]
  · intro n f rest hf
    exact ⟨_, exec_statSink hs hf, statSink_leaves s n f rest⟩

end Sys2Proof.Proofs

/-! Messages performed at a core, and the obligation about them (R166, R167, R213 to R217, R229, R235, R236, R400 to R405). -/

namespace Sys2Proof.Proofs
open Sys2Proof Sys2Proof.Machine Sys2Proof.Laws

/-! ## What the end of a message leaves of a core -/

/-- Two cores are the same but for what they send, the counts of R86, IDLE and the order of their ready tasks. -/
def SameButSent (c d : Core) : Prop :=
  ∃ egress behind injected delivered idle tasks, d = { c with
    egress := egress, behind := behind, injected := injected, delivered := delivered
    sys := { c.sys with idle := idle }, tasks := tasks }

theorem SameButSent.refl (c : Core) : SameButSent c c := ⟨c.egress, c.behind, c.injected, c.delivered, c.sys.idle, c.tasks, rfl⟩

theorem SameButSent.trans {c d e : Core} (h : SameButSent c d) (h' : SameButSent d e) : SameButSent c e := by
  obtain ⟨_, _, _, _, _, _, rfl⟩ := h
  obtain ⟨e, b, i, n, y, t, rfl⟩ := h'
  exact ⟨e, b, i, n, y, t, rfl⟩

section
variable {c d : Core}

theorem SameButSent.sram (h : SameButSent c d) : d.sram = c.sram := by
  obtain ⟨_, _, _, _, _, _, rfl⟩ := h
  rfl

theorem SameButSent.batches (h : SameButSent c d) : d.batches = c.batches := by
  obtain ⟨_, _, _, _, _, _, rfl⟩ := h
  rfl

theorem SameButSent.rx (h : SameButSent c d) : d.rx = c.rx := by
  obtain ⟨_, _, _, _, _, _, rfl⟩ := h
  rfl

theorem SameButSent.pantryAt (h : SameButSent c d) (p : Nat) : pantryAt d p = pantryAt c p := by
  obtain ⟨_, _, _, _, _, _, rfl⟩ := h
  rfl

theorem SameButSent.pushed (h : SameButSent c d) : d.pushed = c.pushed := by
  obtain ⟨_, _, _, _, _, _, rfl⟩ := h
  rfl

theorem SameButSent.handlerAt (h : SameButSent c d) (k : Nat) : handlerAt d k = handlerAt c k := by
  obtain ⟨_, _, _, _, _, _, rfl⟩ := h
  rfl

theorem SameButSent.sources (h : SameButSent c d) : d.sources = c.sources := by
  obtain ⟨_, _, _, _, _, _, rfl⟩ := h
  rfl

end

theorem send_sameButSent (c : Core) (cls : Nat) (fs : List Flit) : SameButSent c (send c cls fs) := by
  obtain ⟨e, b, i, n, h⟩ := send_shape c cls fs
  exact ⟨e, b, i, n, c.sys.idle, c.tasks, h⟩

theorem sendBack_sameButSent (c : Core) (own : Bool) (cls : Nat) (fs : List Flit) : SameButSent c (sendBack c own cls fs) := by
  refine (send_sameButSent c cls fs).trans ?_
  unfold sendBack
  dsimp only
  split
  · exact SameButSent.refl _
  · exact ⟨_, _, _, _, _, _, rfl⟩

theorem answer_sameButSent (row col : Nat) (c : Core) (f : Flit) (tag code count : Nat) :
    SameButSent c (answer row col c f tag code count) :=
  send_sameButSent _ _ _

theorem keepAnswer_sameButSent (s : State) (f : Flit) (old c : Core) : SameButSent c (keepAnswer s f old c) := by
  unfold keepAnswer
  split
  · exact ⟨_, _, _, _, _, _, rfl⟩
  · exact SameButSent.refl _

theorem countTaken_sameButSent (s : State) (row col cls : Nat) (c : Core) (f : Flit) (n : Nat) :
    SameButSent c (countTaken s row col cls c f n) := by
  unfold countTaken
  split
  · exact ⟨_, _, _, _, _, _, rfl⟩
  · exact SameButSent.refl _

theorem refreshReady_sameButSent (c : Core) : SameButSent c (refreshReady c) :=
  refreshReady_induct (P := SameButSent c) c ⟨_, _, _, _, _, _, rfl⟩ fun _ _ _ _ _ _ hd => hd.trans ⟨_, _, _, _, _, _, rfl⟩

theorem refreshCopies_sameButSent (n : Nat) (c : Core) : SameButSent c (refreshCopies n c) := by
  unfold refreshCopies
  split
  · exact SameButSent.refl _
  · exact ⟨_, _, _, _, _, _, rfl⟩

theorem putReached_sameButSent (s : State) (k : Nat) (c : Core) : SameButSent c (coreAt (putReached s k c) k) := by
  unfold putReached
  split
  · rw [coreAt_setCore_self]
    exact SameButSent.refl _
  · rw [coreAt_setCore_self]
    exact refreshCopies_sameButSent _ _

/-- A core after a message is what the message left, but for answers and counts. -/
theorem taken_sameButSent (s : State) (row col cls : Nat) (f : Flit) (ds : List Flit) (c : Core) :
    SameButSent c (coreAt (taken s row col cls f ds c) (keyOf row col)) :=
  (keepAnswer_sameButSent s f (taking s row col cls) c).trans <|
    (countTaken_sameButSent s row col cls _ f (ds.length + 1)).trans <|
      (refreshReady_sameButSent _).trans (putReached_sameButSent s (keyOf row col) _)

/-! ## A message that has arrived is performed -/

theorem inGrid_row {row col : Nat} (h : inGrid (keyOf row col) = true) : ¬510 ≤ row := by
  have hrow : rowOf (keyOf row col) < 224 := by
    have hboth : rowOf (keyOf row col) < 224 ∧ colOf (keyOf row col) < 384 := by simpa [inGrid] using h
    exact hboth.1
  simp only [rowOf, keyOf] at hrow
  omega

section
variable {s : State} {row col cls : Nat} {f : Flit} {ds : List Flit}

theorem takeMessage_arrived (h : Arrived s row col cls f ds) :
    takeMessage (coreAt s (keyOf row col)) cls = some (f, ds, taking s row col cls) := by
  obtain ⟨-, -, hrx, hwhole⟩ := h
  have hsize : messageSize f - 1 = ds.length := by omega
  unfold takeMessage
  rw [hrx]
  dsimp only
  rw [hsize, if_neg (Nat.lt_irrefl _), List.take_length, List.drop_length]
  rfl

theorem onMessage_arrived (h : Arrived s row col cls f ds) {kind : Nat} (hk : flitKind f = kind) {body : Core → Flit → List Flit → Option Core} {c : Core}
    (hbody : body (taking s row col cls) f ds = some c) :
    onMessage s row col cls kind body = taken s row col cls f ds c := by
  unfold onMessage
  dsimp only
  rw [if_neg (by simp [h.running, h.grid]), takeMessage_arrived h]
  dsimp only
  rw [if_neg (fun hne => hne hk), hbody]
  rfl

theorem onChecked_performed (h : Arrived s row col cls f ds) {kind : Nat} (hk : flitKind f = kind) (hv : verdict s row col cls f = none)
    {body : Core → Flit → List Flit → Option Core} {c : Core} (hbody : body (taking s row col cls) f ds = some c) :
    onChecked s row col cls kind body = taken s row col cls f ds c := by
  refine onMessage_arrived h hk ?_
  have hv' : verdictOn s row col cls (coreAt s (keyOf row col)) f = none := hv
  rw [hv']
  exact hbody

theorem onChecked_refused (h : Arrived s row col cls f ds) {kind : Nat} (hk : flitKind f = kind) {code : Nat} (hv : verdict s row col cls f = some code)
    (body : Core → Flit → List Flit → Option Core) : onChecked s row col cls kind body =
      taken s row col cls f ds (answer row col (taking s row col cls) f (dTag f) code 0) := by
  refine onMessage_arrived h hk ?_
  have hv' : verdictOn s row col cls (coreAt s (keyOf row col)) f = some code := hv
  rw [hv']

end

section
variable {s : State} {row col : Nat} {cls : BitVec 5} {f : Flit} {ds : List Flit} (h : Arrived s row col cls.toNat f ds)
include h

theorem exec_writeMessage : exec (.writeMessage row col cls) s = .next (coreWrite s row col cls) :=
  congrArg _ (if_neg (inGrid_row h.grid))

theorem exec_rdreqMessage : exec (.rdreqMessage row col cls) s = .next (coreRdreq s row col cls) :=
  congrArg _ (if_neg (inGrid_row h.grid))

theorem exec_rdrspMessage : exec (.rdrspMessage row col cls) s = .next (coreRdrsp s row col cls) :=
  congrArg _ (if_neg (inGrid_row h.grid))

theorem exec_write (hk : flitKind f = 1) (hv : verdict s row col cls.toNat f = none) : exec (.writeMessage row col cls) s =
    .next (taken s row col cls.toNat f ds (answer row col
      (deliverBytes (taking s row col cls.toNat) (dToff f) (dataBytes ds (dLen f))) f (dTag f) 0 (dLen f / 32))) := by
  rw [exec_writeMessage h, coreWrite, onChecked_performed h hk hv rfl]

theorem exec_signal (hk : flitKind f = 2) (hv : verdict s row col cls.toNat f = none) : exec (.signalMessage row col cls) s =
    .next (taken s row col cls.toNat f ds (answer row col (deliverBytes (taking s row col cls.toNat) (dToff f)
      (leBytes (((taking s row col cls.toNat).sram.readLE (dToff f) 8 + flitField f 16 8) % 2 ^ 64) 8)) f (dTag f) 0 0)) := by
  show execSignalMessage row col cls s = _
  rw [execSignalMessage, onChecked_performed h hk hv rfl]

theorem exec_rdreq (hk : flitKind f = 3) (hv : verdict s row col cls.toNat f = none) : exec (.rdreqMessage row col cls) s =
    .next (taken s row col cls.toNat f ds (sendReply s row col (taking s row col cls.toNat) f cls.toNat
      (messageFlits cls.toNat 4 (flitSrow f) (flitScol f) false row col
        (payloadOf [(0, flitField f 4 4), (8, dLen f), (12, dTag f)] ::
          payloads ((dLen f + 127) / 128) ((taking s row col cls.toNat).sram.readBytes (dToff f) (dLen f)))))) := by
  rw [exec_rdreqMessage h, coreRdreq, onChecked_performed h hk hv rfl]

/-! ### RADD -/

theorem radd_badOp (hk : flitKind f = 5) (hv : verdict s row col cls.toNat f = none) (hop : dOp f = 0 ∨ 6 < dOp f) :
    exec (.raddMessage row col cls) s =
      .next (taken s row col cls.toNat f ds (answer row col (taking s row col cls.toNat) f (dTag f) 5 0)) := by
  show execRaddMessage row col cls s = _
  rw [execRaddMessage, onChecked_performed h hk hv (if_pos hop)]

end

/-- The bytes of SRAM once a RADD has added its lanes in address order. -/
def raddSram (c : Core) (f : Flit) (ds : List Flit) : Memory :=
  (List.range (dLen f / raddWidth (dOp f))).foldl (fun m i =>
    m.writeLE (dToff f + raddWidth (dOp f) * i) (raddWidth (dOp f))
      (raddLane (dOp f) (m.readLE (dToff f + raddWidth (dOp f) * i) (raddWidth (dOp f)))
        (leNat (((dataBytes ds (dLen f)).drop (raddWidth (dOp f) * i)).take (raddWidth (dOp f)))))) c.sram

/-- The core that a RADD has reached, with its answer. -/
def raddDone (row col : Nat) (c : Core) (f : Flit) (ds : List Flit) : Core :=
  answer row col { noteWatch c true (dToff f) (dLen f) with sram := raddSram c f ds } f (dTag f) 0 (dLen f / 32)

section
variable {s : State} {row col : Nat} {cls : BitVec 5} {f : Flit} {ds : List Flit} (h : Arrived s row col cls.toNat f ds)
include h

theorem radd_performed (hk : flitKind f = 5) (hv : verdict s row col cls.toNat f = none) (hop : ¬(dOp f = 0 ∨ 6 < dOp f)) :
    exec (.raddMessage row col cls) s = .next (taken s row col cls.toNat f ds (raddDone row col (taking s row col cls.toNat) f ds)) := by
  show execRaddMessage row col cls s = _
  rw [execRaddMessage, onChecked_performed (c := raddDone row col (taking s row col cls.toNat) f ds) h hk hv (if_neg hop)]

omit h in
theorem taken_radd : (coreAt (taken s row col cls.toNat f ds (raddDone row col (taking s row col cls.toNat) f ds)) (keyOf row col)).sram =
    raddSram (taking s row col cls.toNat) f ds :=
  (taken_sameButSent s row col cls.toNat f ds _).sram.trans (answer_sameButSent row col _ f (dTag f) 0 (dLen f / 32)).sram

/-! ### AMOREQ -/

theorem exec_amo (hk : flitKind f = 6) (hv : verdict s row col cls.toNat f = none) (h1 : 1 ≤ dOp f) (h3 : dOp f ≤ 3) :
    exec (.amoreqMessage row col cls) s = .next (taken s row col cls.toNat f ds (sendReply s row col
      (deliverBytes (taking s row col cls.toNat) (dToff f) (leBytes (ramoNew (dOp f)
        ((taking s row col cls.toNat).sram.readLE (dToff f) 8) (flitField f 16 8) (flitField f 24 8)) 8)) f cls.toNat
      [amorsp row col cls.toNat (flitSrow f) (flitScol f) (dTag f) ((taking s row col cls.toNat).sram.readLE (dToff f) 8)])) := by
  show execAmoreqMessage row col cls s = _
  rw [execAmoreqMessage, onChecked_performed h hk hv ((if_neg (by omega)).trans (if_neg (by omega)))]

theorem dfadd_joins (hk : flitKind f = 6) (hv : verdict s row col cls.toNat f = none) (hop : dOp f = 4) {u : Core}
    (hu : joinBatch s.live cls (taking s row col cls.toNat) f = some u) :
    exec (.amoreqMessage row col cls) s = .next (taken s row col cls.toNat f ds u) := by
  show execAmoreqMessage row col cls s = _
  rw [execAmoreqMessage, onChecked_performed h hk hv ((if_neg (by omega)).trans ((if_pos hop).trans hu))]

/-! ### A refused message -/

theorem exec_refused {code : Nat} (hv : verdict s row col cls.toNat f = some code) {i : Instr}
    (hi : (flitKind f, i) ∈ [(1, Instr.writeMessage row col cls), (2, .signalMessage row col cls), (3, .rdreqMessage row col cls),
      (5, .raddMessage row col cls), (6, .amoreqMessage row col cls)]) :
    exec i s = .next (taken s row col cls.toNat f ds (answer row col (taking s row col cls.toNat) f (dTag f) code 0)) := by
  simp only [List.mem_cons, Prod.mk.injEq, List.not_mem_nil, or_false] at hi
  rcases hi with ⟨hk, rfl⟩ | ⟨hk, rfl⟩ | ⟨hk, rfl⟩ | ⟨hk, rfl⟩ | ⟨hk, rfl⟩
  · rw [exec_writeMessage h, coreWrite, onChecked_refused h hk hv]
  · show execSignalMessage row col cls s = _
    rw [execSignalMessage, onChecked_refused h hk hv]
  · rw [exec_rdreqMessage h, coreRdreq, onChecked_refused h hk hv]
  · show execRaddMessage row col cls s = _
    rw [execRaddMessage, onChecked_refused h hk hv]
  · show execAmoreqMessage row col cls s = _
    rw [execAmoreqMessage, onChecked_refused h hk hv]

end

/-! ## The order of the checks (R216) -/

section
variable (s : State) (row col : Nat) (c : Core) (f : Flit)

theorem refusal_stale (h : flitForeign f = true ∧ flitField f 32 2 ≠ ownGen c) : refusal s row col c f = some 4 :=
  if_pos (by simp [h.1, h.2])

theorem refusal_resetting (hstale : ¬(flitForeign f = true ∧ flitField f 32 2 ≠ ownGen c)) (hreset : c.resetting = true) :
    refusal s row col c f = some 2 :=
  (if_neg (by simpa using hstale)).trans (if_pos hreset)

theorem refusal_halts (hstale : ¬(flitForeign f = true ∧ flitField f 32 2 ≠ ownGen c)) (hreset : c.resetting = false)
    (hhalts : flitForeign f = true ∧ (c.frozen = true ∨ isSaving s row col = true)) : refusal s row col c f = some 3 :=
  (if_neg (by simpa using hstale)).trans ((if_neg (by simp [hreset])).trans (if_pos (by simpa using hhalts)))

theorem refusal_asleep (hstale : ¬(flitForeign f = true ∧ flitField f 32 2 ≠ ownGen c)) (hreset : c.resetting = false)
    (hhalts : ¬(flitForeign f = true ∧ (c.frozen = true ∨ isSaving s row col = true))) (hsleep : c.sleep ≠ .awake) :
    refusal s row col c f = some 1 :=
  (if_neg (by simpa using hstale)).trans <| (if_neg (by simp [hreset])).trans <| (if_neg (by simpa using hhalts)).trans <|
    if_pos (by simpa [isGated] using hsleep)

theorem refusal_range (hstale : ¬(flitForeign f = true ∧ flitField f 32 2 ≠ ownGen c)) (hreset : c.resetting = false)
    (hhalts : ¬(flitForeign f = true ∧ (c.frozen = true ∨ isSaving s row col = true))) (hsleep : c.sleep = .awake)
    (hhere : unavailable s.dev row col = false) (hclean : descClean f = true) :
    refusal s row col c f = if 0x80000 < dToff f + reachOf f then some 5 else none := by
  refine (if_neg (by simpa using hstale)).trans <| (if_neg (by simp [hreset])).trans <| (if_neg (by simpa using hhalts)).trans <|
    (if_neg (by simp [isGated, hsleep])).trans ?_
  simp [hhere, hclean]

end

theorem verdict_of_none {s : State} {row col cls : Nat} (f : Flit) (h : ffind (coreAt s (keyOf row col)).verdicts cls = none) :
    verdict s row col cls f = refusal s row col (coreAt s (keyOf row col)) f := by
  rw [verdict, verdictOn, h]
  rfl

/-! ## Answers at a requester -/

section
variable {s : State} {row col : Nat} {cls : BitVec 5} {f : Flit} {ds : List Flit} {o : EngineOp} {i : Nat}
  (h : Arrived s row col cls.toNat f ds)
include h

theorem coreRdrsp_taken (hk : flitKind f = 4) (ho : opOfTag (taking s row col cls.toNat) (dTag f) = some (o, i))
    (hv : verdict s row col cls.toNat f = none) {c : Core}
    (hc : (if isCutShort o i (dLen f) then
      some { deliverBytes (taking s row col cls.toNat) (dToff f) (dataBytes ds (dLen f)) with
        ops := (deliverBytes (taking s row col cls.toNat) (dToff f) (dataBytes ds (dLen f))).ops.map fun p =>
          if p.tag = o.tag then { p with cutShort := p.cutShort ++ [(i, dLen f / 32)] } else p }
      else some (answerOp s row col (deliverBytes (taking s row col cls.toNat) (dToff f) (dataBytes ds (dLen f))) o i 0 (dLen f / 32))) =
        some c) : exec (.rdrspMessage row col cls) s = .next (taken s row col cls.toNat f ds c) := by
  have hv' : verdictOn s row col cls.toNat (coreAt s (keyOf row col)) f = none := hv
  rw [exec_rdrspMessage h, coreRdrsp, onMessage_arrived h hk]
  rw [hv', ho]
  exact hc

theorem exec_rdrsp_refused (hk : flitKind f = 4) (ho : opOfTag (taking s row col cls.toNat) (dTag f) = some (o, i)) {code : Nat}
    (hv : verdict s row col cls.toNat f = some code) : exec (.rdrspMessage row col cls) s =
      .next (taken s row col cls.toNat f ds (answerOp s row col (taking s row col cls.toNat) o i code 0)) := by
  have hv' : verdictOn s row col cls.toNat (coreAt s (keyOf row col)) f = some code := hv
  rw [exec_rdrspMessage h, coreRdrsp, onMessage_arrived h hk]
  rw [hv', ho]

theorem exec_amorsp (hk : flitKind f = 7) (ho : opOfTag (taking s row col cls.toNat) (dTag f) = some (o, i))
    (hv : verdict s row col cls.toNat f = none) : exec (.amorspMessage row col cls) s = .next (taken s row col cls.toNat f ds
      (completeOp (writeX (taking s row col cls.toNat) .main o.xd (BitVec.ofNat 64 (flitField f 16 8))) o 0 0)) := by
  have hv' : verdictOn s row col cls.toNat (coreAt s (keyOf row col)) f = none := hv
  show execAmorspMessage row col cls s = _
  rw [execAmorspMessage, onMessage_arrived h hk]
  rw [hv', ho]

theorem exec_amorsp_refused (hk : flitKind f = 7) (ho : opOfTag (taking s row col cls.toNat) (dTag f) = some (o, i)) {code : Nat}
    (hv : verdict s row col cls.toNat f = some code) : exec (.amorspMessage row col cls) s =
      .next (taken s row col cls.toNat f ds (answerOp s row col (taking s row col cls.toNat) o i code 0)) := by
  have hv' : verdictOn s row col cls.toNat (coreAt s (keyOf row col)) f = some code := hv
  show execAmorspMessage row col cls s = _
  rw [execAmorspMessage, onMessage_arrived h hk]
  rw [hv', ho]

end

section
variable {s : State} {row col : Nat} {f : Flit} {ds : List Flit} (h : Arrived s row col 27 f ds)
include h

theorem exec_ackMessage : exec (.ackMessage row col) s = .next (coreAnswer s row col 8) := congrArg _ (if_neg (inGrid_row h.grid))

theorem exec_nackMessage : exec (.nackMessage row col) s = .next (coreAnswer s row col 9) := congrArg _ (if_neg (inGrid_row h.grid))

theorem coreAnswer_op {o : EngineOp} {i kind : Nat} (hk : flitKind f = kind) (htag : 4 ≤ flitField f 0 2)
    (ho : opOfTag (taking s row col 27) (flitField f 0 2) = some (o, i)) (hwait : awaitsData o i (flitField f 4 4) = false) :
    coreAnswer s row col kind = taken s row col 27 f ds
      (answerOp s row col (taking s row col 27) o i (flitField f 2 1) (flitField f 4 4)) := by
  rw [coreAnswer, onMessage_arrived h hk]
  dsimp only
  rw [if_neg (by omega), ho]
  dsimp only
  rw [hwait]
  exact if_neg Bool.false_ne_true

theorem coreAnswer_cap {kind : Nat} (hk : flitKind f = kind) (htag : flitField f 0 2 < 4) (hcap : ((taking s row col 27).caps.any fun x => x.1 == flitField f 0 2) = true) :
    coreAnswer s row col kind = taken s row col 27 f ds (capAnswer (taking s row col 27) (flitField f 0 2) f) := by
  rw [coreAnswer, onMessage_arrived h hk]
  dsimp only
  rw [if_pos htag]
  exact if_pos hcap

end

/-! ## The last answer of an operation -/

theorem opCode_one {o : EngineOp} {code count : Nat} (hm : o.msgs = 1) : opCode { o with answers := [(0, code, count)] } = code := by
  unfold opCode
  by_cases hc : code = 0
  · simp [hm, hc, List.range_succ]
  · simp [hm, hc, List.range_succ]

/-- An operation of one message is complete with its one answer. -/
theorem answerOp_one (s : State) (row col : Nat) (c : Core) {o : EngineOp} (code count : Nat) (hm : o.msgs = 1) (ha : o.answers = [])
    (hs : o.signal = none) (hd : o.xd = 0) : ∃ d, answerOp s row col c o 0 code count =
      completeOp d { o with answers := [(0, code, count)] } code count := by
  have hcode := opCode_one (o := o) (code := code) (count := count) hm
  have hcount : opSectors { o with answers := [(0, code, count)] } = count := Nat.zero_add count
  unfold answerOp settleOp
  simp only [hs, ha, hd, hm, List.any_nil, List.nil_append, List.length_singleton, Nat.lt_irrefl, if_false, Bool.false_eq_true, ne_eq,
    not_true_eq_false, false_and]
  simp only [hs, hd, hm] at hcode hcount
  rw [hcode, hcount]
  exact ⟨_, rfl⟩

/-! ## A DFADD batch is closed -/

theorem dfInsert_sum (q : DfReq) (l : List DfReq) :
    ((dfInsert q l).map fun q => q.inc.toNat).sum = q.inc.toNat + (l.map fun q => q.inc.toNat).sum := by
  induction l with
  | nil => rfl
  | cons r rs ih =>
    unfold dfInsert
    split
    · rfl
    · simp only [List.map_cons, List.sum_cons, ih]
      omega

/-- The order of a batch changes no sum. -/
theorem dfOrder_sum (l : List DfReq) : ((dfOrder l).map fun q => q.inc.toNat).sum = (l.map fun q => q.inc.toNat).sum := by
  induction l with
  | nil => rfl
  | cons q l ih => exact (dfInsert_sum q (dfOrder l)).trans (by rw [ih]; rfl)

theorem dfValues_total (l : List DfReq) (v : Nat) :
    (dfValues v l).2 % 2 ^ 64 = (v + (l.map fun q => q.inc.toNat).sum) % 2 ^ 64 := by
  induction l generalizing v with
  | nil => rfl
  | cons q l ih =>
    rw [dfValues, List.map_cons, List.sum_cons]
    dsimp only
    rw [ih, Nat.mod_add_mod, Nat.add_assoc]

theorem leBytes_mod (v n : Nat) : leBytes (v % 256 ^ n) n = leBytes v n := by
  induction n generalizing v with
  | zero => rfl
  | succ n ih =>
    have hpow : 256 ^ (n + 1) = 256 * 256 ^ n := by ring
    simp only [leBytes]
    rw [hpow, Nat.mod_mul_right_div_self, ih]
    congr 1
    apply BitVec.eq_of_toNat_eq
    simp only [BitVec.toNat_ofNat]
    exact Nat.mod_mul_right_mod _ _ _

/-- Answering a batch changes what the core sends alone. -/
theorem foldl_sameButSent {α : Type} {g : Core → α → Core} (hg : ∀ c a, SameButSent c (g c a)) (l : List α) (c : Core) :
    SameButSent c (l.foldl g c) := by
  induction l generalizing c with
  | nil => exact SameButSent.refl c
  | cons a l ih => exact (hg c a).trans (ih (g c a))

/-- The core whose batch has been written, before its answers. -/
def batchWritten (c : Core) (addr : BitVec 19) (b : DfBatch) : Core :=
  deliverBytes { c with batches := c.batches.filter fun x => x.addr ≠ addr } addr.toNat
    (leBytes (dfValues (c.sram.readLE addr.toNat 8) (dfOrder b.reqs)).2 8)

/-- The core with one request of a batch answered, unless its source has become unavailable (R115, R236). -/
def batchAnswer (s : State) (row col : Nat) (c : Core) (p : DfReq × Nat) : Core :=
  let own := match launchOf s row col with | some l => inRegion l p.1.srow p.1.scol | none => false
  if gone s p.1.srow p.1.scol then c
  else sendBack c own p.1.cls.toNat [amorsp row col p.1.cls.toNat p.1.srow p.1.scol p.1.tag.toNat p.2]

theorem batchAnswer_sameButSent (s : State) (row col : Nat) (c : Core) (p : DfReq × Nat) : SameButSent c (batchAnswer s row col c p) := by
  unfold batchAnswer
  dsimp only
  split
  · exact SameButSent.refl c
  · exact sendBack_sameButSent _ _ _ _

/-- The core whose batch is closed: written, and every request answered. -/
def batchClosed (s : State) (row col : Nat) (addr : BitVec 19) (b : DfBatch) : Core :=
  (dfValues ((coreAt s (keyOf row col)).sram.readLE addr.toNat 8) (dfOrder b.reqs)).1.foldl (batchAnswer s row col)
    (batchWritten (coreAt s (keyOf row col)) addr b)

theorem exec_dfaddBatchClose {s : State} {row col : Nat} {addr : BitVec 19} {b : DfBatch} (hs : s.dev.stopped = false)
    (hb : ((coreAt s (keyOf row col)).batches.find? fun b => b.addr = addr) = some b) (hold : b.opened + 256 ≤ s.live) :
    exec (.dfaddBatchClose row col addr) s = .next (putReached s (keyOf row col) (batchClosed s row col addr b)) := by
  show execDfaddBatchClose row col addr s = _
  unfold execDfaddBatchClose
  dsimp only
  rw [hb]
  exact if_neg (by simp [hs]; omega)

theorem noteWatch_rest (c : Core) (load : Bool) (a n : Nat) :
    (noteWatch c load a n).sram = c.sram ∧ (noteWatch c load a n).batches = c.batches ∧
      (noteWatch c load a n).rx = c.rx ∧ (noteWatch c load a n).pantries = c.pantries ∧ (noteWatch c load a n).pushed = c.pushed := by
  unfold noteWatch
  split <;> exact ⟨rfl, rfl, rfl, rfl, rfl⟩

theorem deliverBytes_sram (c : Core) (a : Nat) (bs : List Byte) : (deliverBytes c a bs).sram = c.sram.writeBytes a bs := by
  obtain ⟨hsram, -⟩ := noteWatch_rest c false a bs.length
  rw [deliverBytes, storeBytes, hsram]

theorem batchWritten_sram (c : Core) (addr : BitVec 19) (b : DfBatch) : (batchWritten c addr b).sram =
    c.sram.writeLE addr.toNat 8 ((c.sram.readLE addr.toNat 8 + (b.reqs.map fun q => q.inc.toNat).sum) % 2 ^ 64) := by
  have htotal := dfValues_total (dfOrder b.reqs) (c.sram.readLE addr.toNat 8)
  rw [dfOrder_sum] at htotal
  rw [batchWritten, deliverBytes_sram, Memory.writeLE, ← htotal]
  exact congrArg (Memory.writeBytes c.sram addr.toNat) (leBytes_mod _ 8).symm

theorem batchWritten_batches (c : Core) (addr : BitVec 19) (b : DfBatch) :
    (batchWritten c addr b).batches = c.batches.filter fun x => x.addr ≠ addr :=
  (noteWatch_rest _ false _ _).2.1

/-! ## The obligation -/

/-- Settles O56. -/
theorem messages : Obligations.Messages := by
  refine ⟨fun s row col cls f ds h => ⟨?_, ?_, ?_, fun hk hv => ⟨?_, ?_⟩, fun hk hv => ⟨?_, ?_⟩, ?_, fun hnone => ?_⟩,
    fun s row col f ds _ => ⟨fun cls h => ?_, fun h => ⟨?_, ?_⟩, ?_, ?_⟩⟩
  · exact exec_write h
  · exact exec_signal h
  · exact exec_rdreq h
  · exact radd_badOp h hk hv
  · exact fun h1 h6 => ⟨_, radd_performed h hk hv (by omega), taken_radd⟩
  · exact exec_amo h hk hv
  · exact fun hop u hu => dfadd_joins h hk hv hop hu
  · exact fun code hv i hi => exec_refused h hv hi
  · have hverdict := verdict_of_none f hnone
    exact ⟨fun hst => hverdict.trans (refusal_stale _ _ _ _ f hst),
      fun hst hr => hverdict.trans (refusal_resetting _ _ _ _ f hst hr),
      fun hst hr hh => hverdict.trans (refusal_halts _ _ _ _ f hst hr hh),
      fun hst hr hh ha => hverdict.trans (refusal_asleep _ _ _ _ f hst hr hh ha),
      fun hst hr hh ha hu hc => hverdict.trans (refusal_range _ _ _ _ f hst hr hh ha hu hc)⟩
  · intro c done o i ho
    refine ⟨fun hk hv => ⟨fun hcut => ?_, fun hcut => ?_⟩, fun hk hv => ?_, fun code hv => ⟨fun hk => ?_, fun hk => ?_⟩⟩
    · exact coreRdrsp_taken h hk ho hv (if_neg (by rw [hcut]; decide))
    · exact coreRdrsp_taken h hk ho hv (if_pos hcut)
    · exact exec_amorsp h hk ho hv
    · exact exec_rdrsp_refused h hk ho hv
    · exact exec_amorsp_refused h hk ho hv
  · intro o i htag ho hwait
    exact ⟨fun hk => (exec_ackMessage h).trans (congrArg _ (coreAnswer_op h hk htag ho hwait)),
      fun hk => (exec_nackMessage h).trans (congrArg _ (coreAnswer_op h hk htag ho hwait))⟩
  · exact fun htag hcap hk => (exec_ackMessage h).trans (congrArg _ (coreAnswer_cap h hk htag hcap))
  · intro c o code count hm ha hs hd hx
    obtain ⟨d, hanswer⟩ := answerOp_one s row col c code count hm ha hs hd
    rw [hanswer]
    exact readX_writeX_self _ _ hx
  · intro addr b hs hb hold
    have hsame := (foldl_sameButSent (batchAnswer_sameButSent s row col) _ (batchWritten (coreAt s (keyOf row col)) addr b)).trans
      (putReached_sameButSent s (keyOf row col) (batchClosed s row col addr b))
    exact ⟨_, exec_dfaddBatchClose hs hb hold, hsame.sram.trans (batchWritten_sram _ addr b), hsame.batches.trans (batchWritten_batches _ addr b)⟩

end Sys2Proof.Proofs

/-! Deliveries, bursts and capability requests at a core, and the obligation about them (R166, R167, R173, R217, R252, R259 to R266). -/

namespace Sys2Proof.Proofs
open Sys2Proof Sys2Proof.Machine Sys2Proof.Laws

/-! ## A flit leaves the local output -/

theorem SameButSent.queues {c d : Core} (h : SameButSent c d) : d.queues = c.queues ∧ d.cellar = c.cellar := by
  obtain ⟨_, _, _, _, _, _, rfl⟩ := h
  exact ⟨rfl, rfl⟩

section
variable (s : State) (k : Nat) (lg : Option (Nat × Nat)) (d cls j : Nat)

theorem changeInput_sameButSent (g : List Flit → List Flit) : SameButSent (coreAt s j) (coreAt (changeInput s k lg d cls g) j) := by
  unfold changeInput
  dsimp only
  split
  · exact SameButSent.refl _
  · split
    · rw [coreAt_modCore]
      split
      · exact ⟨_, _, _, _, _, _, rfl⟩
      · exact SameButSent.refl _
    · exact SameButSent.refl _

theorem forceXy_sameButSent : SameButSent (coreAt s j) (coreAt (forceXy s k lg cls d) j) := by
  unfold forceXy
  split
  · dsimp only
    split
    · exact changeInput_sameButSent _ _ _ _ _ _ _
    · exact SameButSent.refl _
  · exact SameButSent.refl _

theorem leaveOut_sameButSent (o : Nat) : SameButSent (coreAt s j) (coreAt (leaveOut s k o cls) j) := by
  have hfold : ∀ (ds : List Nat) (u : State), SameButSent (coreAt u j)
      (coreAt (ds.foldl (fun s d => forceXy s k (placeOf s k) cls d) u) j) := by
    intro ds
    induction ds with
    | nil => exact fun u => SameButSent.refl _
    | cons d ds ih => exact fun u => (forceXy_sameButSent u k (placeOf u k) d cls j).trans (ih _)
  unfold leaveOut
  dsimp only
  rw [coreAt_setRouter]
  exact hfold (List.range 5) s

end

/-- The state once the flit at a core's local output is taken or discarded, the core having become c (R86). -/
def flitTaken (s : State) (row col k cls : Nat) (f : Flit) (c : Core) : State :=
  leaveOut (setCore s (keyOf row col) (if cls < 24 then countReached (flitForeign f) 1 c else c)) k 4 cls

theorem flitTaken_core (s : State) (row col k cls : Nat) (f : Flit) (c : Core) :
    SameButSent c (coreAt (flitTaken s row col k cls f c) (keyOf row col)) := by
  refine SameButSent.trans ?_ (leaveOut_sameButSent _ k cls (keyOf row col) 4)
  rw [coreAt_setCore_self]
  split
  · exact ⟨_, _, _, _, _, _, rfl⟩
  · exact SameButSent.refl _

theorem flitTaken_out {s : State} {row col k cls : Nat} {f : Flit} {rest : List Flit} (c : Core)
    (hout : outFlits (routerAt s k) 4 cls = f :: rest) : outFlits (routerAt (flitTaken s row col k cls f c) k) 4 cls = rest :=
  (leaveOut_routers _ k 4 cls).2.trans (congrArg List.tail hout)

section
variable {s : State} {row col k : Nat} {cls : BitVec 5} {f : Flit} {rest : List Flit}
  (hs : s.dev.stopped = false) (hk : routerOf s.dev row col = some k) (hout : outFlits (routerAt s k) 4 cls.toNat = f :: rest)
include hs hk hout

theorem exec_msgDelivery_discarded (hkind : flitKind f = 0 ∨ flitKind f = 10)
    (htakes : takesFlit s row col (coreAt s (keyOf row col)) f = false) :
    exec (.msgDelivery row col cls) s = .next (flitTaken s row col k cls.toNat f (coreAt s (keyOf row col))) := by
  show execMsgDelivery row col cls s = _
  unfold execMsgDelivery
  rw [hs, hk]
  dsimp only
  rw [hout]
  exact (if_neg (by omega)).trans (if_pos (by simp [htakes]))

theorem exec_msgDelivery_queued (hkind : flitKind f = 0) (hcls : flitCls f = cls.toNat)
    (htakes : takesFlit s row col (coreAt s (keyOf row col)) f = true)
    (hroom : (queueOf (coreAt s (keyOf row col)) cls.toNat).length < 4) (hspill : spilled (coreAt s (keyOf row col)) cls.toNat = false) :
    exec (.msgDelivery row col cls) s = .next (flitTaken s row col k cls.toNat f (refreshReady
      (setQueue (coreAt s (keyOf row col)) cls.toNat (queueOf (coreAt s (keyOf row col)) cls.toNat ++ [f])))) := by
  have hjoin : enqueue (coreAt s (keyOf row col)) f =
      some (setQueue (coreAt s (keyOf row col)) cls.toNat (queueOf (coreAt s (keyOf row col)) cls.toNat ++ [f])) := by
    rw [enqueue, hcls, if_pos (by simp [hroom, hspill])]
  have hfits : wouldSpill (coreAt s (keyOf row col)) f = false := by
    rw [wouldSpill, hcls]
    exact decide_eq_false (by omega)
  show execMsgDelivery row col cls s = _
  unfold execMsgDelivery
  rw [hs, hk]
  dsimp only
  rw [hout]
  refine (if_neg (by omega)).trans ((if_neg (by simp [htakes])).trans ((if_neg (by simp [hfits])).trans ?_))
  rw [hjoin]
  rfl

end

theorem exec_cellarToQueue {s : State} {row col : Nat} {cls : BitVec 5} {f : Flit} {u : Core} (hs : s.dev.stopped = false)
    (hroom : (queueOf (coreAt s (keyOf row col)) cls.toNat).length < 4)
    (htake : takeSpilled (coreAt s (keyOf row col)) cls.toNat = some (f, u)) : exec (.cellarToQueue row col cls) s =
      .next (setCore s (keyOf row col) (setQueue u cls.toNat (queueOf u cls.toNat ++ [f]))) := by
  show execCellarToQueue row col cls s = _
  unfold execCellarToQueue
  dsimp only
  rw [if_neg (by simp [hs]; omega), htake]

/-! ## The sectors of a delivery -/

theorem length_byteSlice {w : Nat} (v : BitVec w) (k n : Nat) : (byteSlice v k n).length = n := leBytes_length _ _

theorem length_dataBytes (ds : List Flit) (n : Nat) : (dataBytes ds n).length = min n (ds.length * 128) := by
  rw [dataBytes, List.length_take, length_flatMap_const fun d : Flit => length_byteSlice d.payload 0 128]

theorem length_sectorsOf (bs : List Byte) : (sectorsOf bs).length = bs.length / 32 := by
  rw [sectorsOf, List.length_map, List.length_range]

/-- A message of one sector carries its first 32 bytes. -/
theorem sectorsOf_one {ds : List Flit} {n : Nat} (hn : n / 32 = 1) (hds : ds.length = 1) :
    sectorsOf (dataBytes ds n) = [dataBytes ds 32] := by
  have hlen : (dataBytes ds n).length / 32 = 1 := by
    rw [length_dataBytes, hds]
    omega
  have htake : (dataBytes ds n).take 32 = dataBytes ds 32 := by
    rw [dataBytes, dataBytes, List.take_take, Nat.min_eq_left (by omega)]
  rw [sectorsOf, hlen]
  simp [htake]

/-! ## Deliveries into a pantry -/

/-- The state once all of a delivery is performed or refused, and answered. -/
def deliveryDone (s : State) (row col cls : Nat) (f : Flit) (ds : List Flit) (c : Core) (code count : Nat) : State :=
  putReached s (keyOf row col) (countTaken s row col cls
    (pushAnswer row col { c with pushed := fdel c.pushed cls } f code count) f (ds.length + 1))

/-- The state once what fits of a delivery is performed: done, or held with what is left. -/
def deliveryFilled (s : State) (row col cls : Nat) (f : Flit) (ds : List Flit) (r : Core × List (List Byte)) : State :=
  match r with
  | (c, []) => deliveryDone s row col cls f ds c 0 (dLen f / 32)
  | (c, more) => putReached s (keyOf row col) { c with
      rx := (coreAt s (keyOf row col)).rx, pushed := fset c.pushed cls (dLen f / 32 - more.length, pantryAt c (flitField f 5 1)) }

theorem pushAnswer_sameButSent (row col : Nat) (c : Core) (f : Flit) (code count : Nat) :
    SameButSent c (pushAnswer row col c f code count) := by
  unfold pushAnswer
  split
  · exact SameButSent.refl _
  · exact answer_sameButSent _ _ _ _ _ _ _

theorem deliveryDone_core (s : State) (row col cls : Nat) (f : Flit) (ds : List Flit) (c : Core) (code count : Nat) :
    SameButSent { c with pushed := fdel c.pushed cls } (coreAt (deliveryDone s row col cls f ds c code count) (keyOf row col)) :=
  (pushAnswer_sameButSent row col _ f code count).trans
    ((countTaken_sameButSent s row col cls _ f (ds.length + 1)).trans (putReached_sameButSent s (keyOf row col) _))

/-- The pantry that the delivery at the head of a class is judged by: as it stood when its first flit came (R261). -/
def judgedBy (s : State) (row col cls p : Nat) : Pantry :=
  match ffind (coreAt s (keyOf row col)).accepted cls with
  | some a => a.2
  | none => pantryAt (taking s row col cls) p

/-- What no check of a delivery refuses. -/
theorem judged_fine {s : State} {row col cls : Nat} {f : Flit} (hfine : pushRefused (taking s row col cls) f = false)
    (hp : flitField f 5 1 < 8) (hv : (judgedBy s row col cls (flitField f 5 1)).valid = true)
    (ho : (judgedBy s row col cls (flitField f 5 1)).outbound = false) :
    ¬(pushRefused (taking s row col cls) f || decide (7 < flitField f 5 1) || !(judgedBy s row col cls (flitField f 5 1)).valid ||
        (judgedBy s row col cls (flitField f 5 1)).outbound) = true := by
  simp [hfine, hv, ho]
  omega

section
variable {s : State} {row col cls : Nat} {f : Flit} {ds : List Flit} (h : Arrived s row col cls f ds)
  (hawake : (coreAt s (keyOf row col)).sleep = .awake) (hk : flitKind f = 15) (hform : pForm f = 0)
include h hawake hk hform

theorem deliverPantry_begins (hpushed : ffind (coreAt s (keyOf row col)).pushed cls = none) : deliverPantry s row col cls false =
    if pushRefused (taking s row col cls) f || decide (7 < flitField f 5 1) || !(judgedBy s row col cls (flitField f 5 1)).valid ||
        (judgedBy s row col cls (flitField f 5 1)).outbound then
      deliveryDone s row col cls f ds (taking s row col cls) 5 0
    else if (judgedBy s row col cls (flitField f 5 1)).sets ≠ (pantryAt (taking s row col cls) (flitField f 5 1)).sets then
      deliveryDone s row col cls f ds (finishOld (judgedBy s row col cls (flitField f 5 1)) (flitField f 5 1) (taking s row col cls)
        (sectorsOf (dataBytes ds (dLen f)))) 0 (dLen f / 32)
    else deliveryFilled s row col cls f ds
      (fillPantry (flitField f 5 1) (taking s row col cls) (sectorsOf (dataBytes ds (dLen f)))) := by
  have hrun : (s.dev.stopped || isGated (coreAt s (keyOf row col))) = false := by simp [h.running, isGated, hawake]
  unfold deliverPantry
  dsimp only
  rw [hrun, takeMessage_arrived h, hpushed]
  exact if_neg (by simp [hk, hform])

theorem deliverPantry_resumes {y : Pantry} (hpushed : ffind (coreAt s (keyOf row col)).pushed cls = some (0, y)) :
    deliverPantry s row col cls true =
      if y.sets ≠ (pantryAt (taking s row col cls) (flitField f 5 1)).sets then
        deliveryDone s row col cls f ds (finishOld y (flitField f 5 1) (taking s row col cls)
          (sectorsOf (dataBytes ds (dLen f)))) 0 (dLen f / 32)
      else deliveryFilled s row col cls f ds
        (fillPantry (flitField f 5 1) (taking s row col cls) (sectorsOf (dataBytes ds (dLen f)))) := by
  have hrun : (s.dev.stopped || isGated (coreAt s (keyOf row col))) = false := by simp [h.running, isGated, hawake]
  unfold deliverPantry
  dsimp only
  rw [hrun, takeMessage_arrived h, hpushed]
  exact if_neg (by simp [hk, hform])

end

/-! ### What a delivery leaves -/

theorem fillSector_rest (c : Core) (p : Nat) (x : Pantry) (bs : List Byte) : (fillSector c p x bs).rx = c.rx ∧
    pantryAt (fillSector c p x bs) p = { x with fill := x.fill + 1 } ∧
    (fillSector c p x bs).sram = c.sram.writeBytes (sectorAddr x x.fill) bs := by
  obtain ⟨-, -, hrx, -, -⟩ := noteWatch_rest c false (sectorAddr x x.fill) bs.length
  exact ⟨hrx, fget_fset_self _ _ _ _, deliverBytes_sram c _ bs⟩

theorem fillPantry_full {p : Nat} {c : Core} (hfull : ((pantryAt c p).fill - (pantryAt c p).rel).toNat = pantryW (pantryAt c p))
    (bs : List (List Byte)) : fillPantry p c bs = (c, bs) := by
  cases bs with
  | nil => rfl
  | cons b bs => exact if_neg (by omega)

theorem fillPantry_one {p : Nat} {c : Core} (hroom : ((pantryAt c p).fill - (pantryAt c p).rel).toNat < pantryW (pantryAt c p))
    (b : List Byte) : fillPantry p c [b] = (fillSector c p (pantryAt c p) b, []) := if_pos hroom

theorem finishOld_one (y : Pantry) (p : Nat) (c : Core) (b : List Byte) : (finishOld y p c [b]).rx = c.rx ∧
    (∀ q, pantryAt (finishOld y p c [b]) q = pantryAt c q) ∧ (finishOld y p c [b]).sram = c.sram.writeBytes (sectorAddr y y.fill) b := by
  have hfill : y.fill + BitVec.ofNat 32 0 = y.fill := BitVec.add_zero _
  have heq : fillOld y c 0 [b] = deliverBytes c (sectorAddr y y.fill) b := by rw [fillOld, hfill, fillOld]
  obtain ⟨-, -, hrx, hpantries, -⟩ := noteWatch_rest c false (sectorAddr y y.fill) b.length
  unfold finishOld changeOld
  rw [heq]
  exact ⟨hrx, fun q => congrArg (fun m => fget m q ({} : Pantry)) hpantries, deliverBytes_sram c _ b⟩

section
variable {s : State} {row col cls : Nat} {f : Flit} {ds : List Flit}

theorem taking_rx : fget (taking s row col cls).rx cls [] = [] := fget_fset_self _ _ _ _

/-- A delivery that ends by the pantry as it stood leaves the pantry of now, and the class empty. -/
theorem deliveryDone_leaves {c : Core} (code count : Nat) (hrx : c.rx = (taking s row col cls).rx) (p : Nat) :
    pantryAt (coreAt (deliveryDone s row col cls f ds c code count) (keyOf row col)) p = pantryAt c p ∧
      fget (coreAt (deliveryDone s row col cls f ds c code count) (keyOf row col)).rx cls [] = [] ∧
      (coreAt (deliveryDone s row col cls f ds c code count) (keyOf row col)).sram = c.sram := by
  have hsame := deliveryDone_core s row col cls f ds c code count
  refine ⟨hsame.pantryAt p, ?_, hsame.sram⟩
  rw [hsame.rx]
  show fget c.rx cls [] = []
  rw [hrx, taking_rx]

/-- One sector, of a delivery judged by an earlier descriptor, is performed by that descriptor. -/
theorem deliveryDone_old (y : Pantry) (hn : dLen f / 32 = 1) (hds : ds.length = 1) (p : Nat) :
    let t := deliveryDone s row col cls f ds (finishOld y p (taking s row col cls) (sectorsOf (dataBytes ds (dLen f)))) 0 (dLen f / 32)
    pantryAt (coreAt t (keyOf row col)) p = pantryAt (taking s row col cls) p ∧ fget (coreAt t (keyOf row col)).rx cls [] = [] ∧
      (coreAt t (keyOf row col)).sram = (taking s row col cls).sram.writeBytes (sectorAddr y y.fill) (dataBytes ds 32) := by
  rw [sectorsOf_one hn hds]
  obtain ⟨hrx, hpantry, hsram⟩ := finishOld_one y p (taking s row col cls) (dataBytes ds 32)
  obtain ⟨hp, hrx', hs'⟩ := deliveryDone_leaves (f := f) (ds := ds) 0 (dLen f / 32) hrx p
  exact ⟨hp.trans (hpantry p), hrx', hs'.trans hsram⟩

/-- One sector for which the window has room stands at FILL, which has advanced. -/
theorem deliveryFilled_one (hn : dLen f / 32 = 1) (hds : ds.length = 1)
    (hroom : ((pantryAt (taking s row col cls) (flitField f 5 1)).fill - (pantryAt (taking s row col cls) (flitField f 5 1)).rel).toNat <
      pantryW (pantryAt (taking s row col cls) (flitField f 5 1))) :
    let x := pantryAt (taking s row col cls) (flitField f 5 1)
    let t := deliveryFilled s row col cls f ds
      (fillPantry (flitField f 5 1) (taking s row col cls) (sectorsOf (dataBytes ds (dLen f))))
    pantryAt (coreAt t (keyOf row col)) (flitField f 5 1) = { x with fill := x.fill + 1 } ∧
      fget (coreAt t (keyOf row col)).rx cls [] = [] ∧
      (coreAt t (keyOf row col)).sram = (taking s row col cls).sram.writeBytes (sectorAddr x x.fill) (dataBytes ds 32) := by
  rw [sectorsOf_one hn hds, fillPantry_one hroom]
  obtain ⟨hrx, hpantry, hsram⟩ := fillSector_rest (taking s row col cls) (flitField f 5 1)
    (pantryAt (taking s row col cls) (flitField f 5 1)) (dataBytes ds 32)
  obtain ⟨hp, hrx', hs'⟩ := deliveryDone_leaves (f := f) (ds := ds) 0 (dLen f / 32) hrx (flitField f 5 1)
  exact ⟨hp.trans hpantry, hrx', hs'.trans hsram⟩

/-- A delivery for which the window has no room is held whole. -/
theorem deliveryFilled_held (hn : 0 < dLen f / 32) (hds : dLen f ≤ ds.length * 128)
    (hfull : ((pantryAt (taking s row col cls) (flitField f 5 1)).fill - (pantryAt (taking s row col cls) (flitField f 5 1)).rel).toNat =
      pantryW (pantryAt (taking s row col cls) (flitField f 5 1))) :
    let t := deliveryFilled s row col cls f ds
      (fillPantry (flitField f 5 1) (taking s row col cls) (sectorsOf (dataBytes ds (dLen f))))
    fget (coreAt t (keyOf row col)).rx cls [] = fget (coreAt s (keyOf row col)).rx cls [] ∧
      (coreAt t (keyOf row col)).sram = (coreAt s (keyOf row col)).sram ∧ (ffind (coreAt t (keyOf row col)).pushed cls).isSome = true := by
  have hlen : (sectorsOf (dataBytes ds (dLen f))).length = dLen f / 32 := by
    rw [length_sectorsOf, length_dataBytes, Nat.min_eq_left hds]
  rw [fillPantry_full hfull]
  cases hleft : sectorsOf (dataBytes ds (dLen f)) with
  | nil =>
    rw [hleft] at hlen
    exact absurd hlen.symm (Nat.ne_of_gt hn)
  | cons b bs =>
    have hsame := putReached_sameButSent s (keyOf row col) { taking s row col cls with
      rx := (coreAt s (keyOf row col)).rx
      pushed := fset (taking s row col cls).pushed cls
        (dLen f / 32 - (b :: bs).length, pantryAt (taking s row col cls) (flitField f 5 1)) }
    refine ⟨?_, hsame.sram, ?_⟩
    · exact congrArg (fun m => fget m cls []) hsame.rx
    · exact (congrArg (fun m => (ffind m cls).isSome) hsame.pushed).trans (by simp)

end

section
variable {s : State} {row col : Nat} {cls : BitVec 5} {f : Flit} {ds : List Flit} (h : Arrived s row col cls.toNat f ds)
  (hawake : (coreAt s (keyOf row col)).sleep = .awake) (hk : flitKind f = 15) (hform : pForm f = 0)

include h hawake hk hform in
theorem exec_pantryPush_refused (hpushed : ffind (coreAt s (keyOf row col)).pushed cls.toNat = none)
    (hbad : (judgedBy s row col cls.toNat (flitField f 5 1)).valid = false ∨
      (judgedBy s row col cls.toNat (flitField f 5 1)).outbound = true) :
    exec (.pantryPush row col cls) s = .next (deliveryDone s row col cls.toNat f ds (taking s row col cls.toNat) 5 0) := by
  show Host.Outcome.next (deliverPantry s row col cls.toNat false) = _
  rw [deliverPantry_begins h hawake hk hform hpushed, if_pos]
  rcases hbad with hb | hb <;> simp [hb]

section
variable (hpushed : ffind (coreAt s (keyOf row col)).pushed cls.toNat = none)
  (hfine : pushRefused (taking s row col cls.toNat) f = false)
  (hp : flitField f 5 1 < 8) (hv : (judgedBy s row col cls.toNat (flitField f 5 1)).valid = true)
  (ho : (judgedBy s row col cls.toNat (flitField f 5 1)).outbound = false)
include h hawake hk hform hpushed hfine hp hv ho

theorem exec_pantryPush_fills
    (hsets : (judgedBy s row col cls.toNat (flitField f 5 1)).sets = (pantryAt (taking s row col cls.toNat) (flitField f 5 1)).sets) :
    exec (.pantryPush row col cls) s = .next (deliveryFilled s row col cls.toNat f ds
      (fillPantry (flitField f 5 1) (taking s row col cls.toNat) (sectorsOf (dataBytes ds (dLen f))))) := by
  show Host.Outcome.next (deliverPantry s row col cls.toNat false) = _
  rw [deliverPantry_begins h hawake hk hform hpushed, if_neg (judged_fine hfine hp hv ho), if_neg fun hne => hne hsets]

theorem exec_pantryPush_old
    (hsets : (judgedBy s row col cls.toNat (flitField f 5 1)).sets ≠ (pantryAt (taking s row col cls.toNat) (flitField f 5 1)).sets) :
    exec (.pantryPush row col cls) s = .next (deliveryDone s row col cls.toNat f ds
      (finishOld (judgedBy s row col cls.toNat (flitField f 5 1)) (flitField f 5 1) (taking s row col cls.toNat)
        (sectorsOf (dataBytes ds (dLen f)))) 0 (dLen f / 32)) := by
  show Host.Outcome.next (deliverPantry s row col cls.toNat false) = _
  rw [deliverPantry_begins h hawake hk hform hpushed, if_neg (judged_fine hfine hp hv ho), if_pos hsets]

end

section
variable {y : Pantry} (hpushed : ffind (coreAt s (keyOf row col)).pushed cls.toNat = some (0, y))
include h hawake hk hform hpushed

theorem exec_heldDeliveryResume_fills (hsets : y.sets = (pantryAt (taking s row col cls.toNat) (flitField f 5 1)).sets) :
    exec (.heldDeliveryResume row col cls) s = .next (deliveryFilled s row col cls.toNat f ds
      (fillPantry (flitField f 5 1) (taking s row col cls.toNat) (sectorsOf (dataBytes ds (dLen f))))) := by
  show Host.Outcome.next (deliverPantry s row col cls.toNat true) = _
  rw [deliverPantry_resumes h hawake hk hform hpushed, if_neg fun hne => hne hsets]

theorem exec_heldDeliveryResume_old (hsets : y.sets ≠ (pantryAt (taking s row col cls.toNat) (flitField f 5 1)).sets) :
    exec (.heldDeliveryResume row col cls) s = .next (deliveryDone s row col cls.toNat f ds
      (finishOld y (flitField f 5 1) (taking s row col cls.toNat) (sectorsOf (dataBytes ds (dLen f)))) 0 (dLen f / 32)) := by
  show Host.Outcome.next (deliverPantry s row col cls.toNat true) = _
  rw [deliverPantry_resumes h hawake hk hform hpushed, if_pos hsets]

end

end

/-! ## Pushes into SRAM and bursts -/

section
variable {s : State} {row col : Nat} {f : Flit} {ds : List Flit}

theorem exec_sramPush {cls : BitVec 5} (h : Arrived s row col cls.toNat f ds) (hawake : (coreAt s (keyOf row col)).sleep = .awake)
    (hk : flitKind f = 15) (hform : pForm f = 1) (hfine : pushRefused (taking s row col cls.toNat) f = false) :
    exec (.sramPush row col cls) s = .next (taken s row col cls.toNat f ds (pushAnswer row col
      (deliverBytes (taking s row col cls.toNat) (dToff f) (dataBytes ds (dLen f))) f 0 (dLen f / 32))) := by
  have hgated : isGated (taking s row col cls.toNat) = false := by
    show isGated (coreAt s (keyOf row col)) = false
    simp [isGated, hawake]
  show execSramPush row col cls s = _
  rw [execSramPush, onMessage_arrived h hk]
  exact (if_neg (by simp [hgated, hform])).trans (if_neg (by simp [hfine]))

/-- A bulk read with one more burst delivered. -/
def burstCounted (b : Bread) (n : Nat) : Bread := { b with delivered := b.delivered + 1, sectors := b.sectors + n / 32 }

/-- A core that has taken a burst of a bulk read, to be placed. -/
def burstTaken (c : Core) (f : Flit) (ds : List Flit) (b : Bread) : Core :=
  { c with breads := fset c.breads (dTag f) (burstCounted b (burstOf f ds).bcnt.toNat), bursts := c.bursts ++ [burstOf f ds] }

theorem exec_burstDelivery (h : Arrived s row col 24 f ds) (hawake : (coreAt s (keyOf row col)).sleep = .awake)
    (hk : flitKind f = 15) (hform : pForm f = 2) {b : Bread} (hb : ffind (coreAt s (keyOf row col)).breads (dTag f) = some b)
    (hdirect : b.desc.direct = false) (hbursts : (coreAt s (keyOf row col)).bursts = []) :
    exec (.burstDelivery row col) s = .next (taken s row col 24 f ds
      (pushAnswer row col (placeBursts (burstTaken (taking s row col 24) f ds b) 8) f 0 ((burstOf f ds).bcnt.toNat / 32))) := by
  have hgated : isGated (taking s row col 24) = false := by
    show isGated (coreAt s (keyOf row col)) = false
    simp [isGated, hawake]
  have hb' : ffind (taking s row col 24).breads (dTag f) = some b := hb
  have hlen : ¬8 ≤ (taking s row col 24).bursts.length := by
    show ¬8 ≤ (coreAt s (keyOf row col)).bursts.length
    simp [hbursts]
  show execBurstDelivery row col s = _
  rw [execBurstDelivery, onMessage_arrived h hk]
  refine (if_neg (by simp [hgated, hform])).trans ?_
  rw [hb']
  exact (if_neg (by simp [hdirect])).trans (if_neg hlen)

/-- With every context free and no burst before it, a burst starts in context 0. -/
theorem placeBursts_first {c : Core} {b : Bread} (hbursts : c.bursts = []) (hhandlers : c.handlers = []) :
    handlerAt (placeBursts (burstTaken c f ds b) 8) 0 = startHandler (burstOf f ds) b.he b.arg := by
  have hone : (burstTaken c f ds b).bursts = [burstOf f ds] := by
    show c.bursts ++ _ = _
    rw [hbursts]
    rfl
  have hfree : (List.range 8).find? (fun k => !(handlerAt (burstTaken c f ds b) k).busy) = some 0 := by
    have hidle : ∀ k, (handlerAt (burstTaken c f ds b) k).busy = false := by
      intro k
      show (fget c.handlers k ({} : Handler)).busy = false
      rw [hhandlers]
      rfl
    simp [hidle, List.range_succ]
  have hread : (fget (burstTaken c f ds b).breads (burstOf f ds).tag ⟨0, 0, 0, 0, 0, ⟨0, 0, 0, 0, 0, 0, 0, 0, 0, false⟩, 0, 0, 0, 0, 0, false⟩)
      = burstCounted b (burstOf f ds).bcnt.toNat := fget_fset_self _ _ _ _
  rw [placeBursts, hone, hfree]
  dsimp only
  rw [hread, placeBursts_nil rfl]
  exact fget_fset_self _ _ _ _

end

/-! ## The source of a bulk read -/

section
variable {s : State} {row col : Nat} {b : BreadSource} {rest : List BreadSource} (hs : s.dev.stopped = false)
  (hb : (coreAt s (keyOf row col)).sources = b :: rest) (hgo : b.next ≠ 0 ∨ (coreAt s (keyOf row col)).sleep = .awake)
include hs hb hgo

theorem exec_breadSourceBurst_sends (hgoes : breadStopped s b.rrow b.rcol b.tag = false)
    (hroom : (egressOf (coreAt s (keyOf row col)) 24).length < 2) {y lo hi : Nat}
    (hspan : burstSpan b.desc (burstIndex b.desc b.next) = some (y, lo, hi)) : exec (.breadSourceBurst row col) s =
      .next (setCore s (keyOf row col) { send (coreAt s (keyOf row col)) 24 (burstFlits row col b.rrow b.rcol b.tag (2 ^ 15) b.desc
        (burstIndex b.desc b.next) y lo (hi - lo)
        ((coreAt s (keyOf row col)).sram.readBytes ((b.off : Int) + y * b.desc.stride + lo).toNat (hi - lo))) with
          sources := (if b.next + 1 < burstTotal b.desc then [{ b with next := b.next + 1 }] else []) ++ rest }) := by
  show execBreadSourceBurst row col s = _
  unfold execBreadSourceBurst
  dsimp only
  rw [hs, hb]
  refine (if_neg ?_).trans ((if_neg (by simp [hgoes])).trans ((if_neg (by simp [inputFree, hroom])).trans ?_))
  · rintro ⟨h0, hgated⟩
    rcases hgo with h | h
    · exact h h0
    · simp [isGated, h] at hgated
  · rw [hspan]

theorem exec_breadSourceBurst_stops (hstop : breadStopped s b.rrow b.rcol b.tag = true) : exec (.breadSourceBurst row col) s =
    .next (modCore (setCore s (keyOf row col) { coreAt s (keyOf row col) with sources := rest }) (keyOf b.rrow b.rcol) fun r =>
      stopBread r b.tag b.next) := by
  show execBreadSourceBurst row col s = _
  unfold execBreadSourceBurst
  dsimp only
  rw [hs, hb]
  refine (if_neg ?_).trans (if_pos hstop)
  rintro ⟨h0, hgated⟩
  rcases hgo with h | h
  · exact h h0
  · simp [isGated, h] at hgated

end

theorem stopBread_rest (c : Core) (tag sent : Nat) : (stopBread c tag sent).sources = c.sources ∧
    ∀ cls, egressOf (stopBread c tag sent) cls = egressOf c cls := by
  unfold stopBread
  split <;> exact ⟨rfl, fun _ => rfl⟩

/-- A source that stops sends nothing, and has the bulk read no longer. -/
theorem sourceStopped_core (s : State) (k j : Nat) (rest : List BreadSource) (tag sent : Nat) :
    let t := modCore (setCore s k { coreAt s k with sources := rest }) j fun r => stopBread r tag sent
    (coreAt t k).sources = rest ∧ ∀ cls, egressOf (coreAt t k) cls = egressOf (coreAt s k) cls := by
  dsimp only
  rw [coreAt_modCore, coreAt_setCore_self]
  split
  · exact stopBread_rest _ _ _
  · exact ⟨rfl, fun _ => rfl⟩

/-! ## Capability requests at their target -/

/-- A request of the region's own launch that breaks no rule is performed and answered on class 27. -/
theorem onCap_performed {s : State} {row col op : Nat} {f : Flit} {ds : List Flit} (h : Arrived s row col 25 f ds) (hk : flitKind f = 14)
    (hgen : flitField f 3 2 % 4096 = ownGen (taking s row col 25)) (hvalid : capInvalid f = false) (hop : flitField f 8 1 = op)
    (body : Core → Flit → Core × Nat × Nat) {c : Core} {code data : Nat} (hbody : body (taking s row col 25) f = (c, code, data)) :
    onCap s row col op body =
      taken s row col 25 f ds (send c 27 [answerFlit row col f (flitField f 24 2) code 0 data]) := by
  rw [onCap, onMessage_arrived h hk]
  refine (if_neg (fun hne => hne.1 hop)).trans ((if_neg (fun hne => hne hgen)).trans ((if_neg (by simp [hvalid])).trans ?_))
  dsimp only
  rw [hbody]

/-! ## The obligation -/

/-- Settles O57. -/
theorem deliveriesAndCapabilities : Obligations.DeliveriesAndCapabilities := by
  refine ⟨fun s row col hs _ => ⟨?_, ?_, ?_, ?_, ?_, ?_⟩, ?_⟩
  · intro cls k f rest hk hout hkind hcls htakes hroom hspill
    have hsame := (refreshReady_sameButSent (setQueue (coreAt s (keyOf row col)) cls.toNat
      (queueOf (coreAt s (keyOf row col)) cls.toNat ++ [f]))).trans (flitTaken_core s row col k cls.toNat f _)
    refine ⟨_, exec_msgDelivery_queued hs hk hout hkind hcls htakes hroom hspill, ?_, flitTaken_out _ hout⟩
    rw [queueOf, hsame.queues.1]
    exact fget_fset_self _ _ _ _
  · intro cls k f rest hk hout hkind htakes
    obtain ⟨hqueues, hcellar⟩ := (flitTaken_core s row col k cls.toNat f (coreAt s (keyOf row col))).queues
    exact ⟨_, exec_msgDelivery_discarded hs hk hout hkind htakes, hqueues, hcellar, flitTaken_out _ hout⟩
  · exact fun cls f u hroom htake => exec_cellarToQueue hs hroom htake
  · intro hawake cls f ds h hk w p x n by_
    refine ⟨fun hform hfine hp => ⟨fun hpushed => ⟨fun hbad => ?_, fun hv ho hsets => ⟨fun hfull hn hlen => ?_, fun hn hds hroom => ?_⟩,
      fun hv ho hsets hn hds => ?_⟩, fun y hpushed hn hds => ⟨fun hsets hroom => ?_, fun hsets => ?_⟩⟩, ?_, ?_⟩
    · exact ⟨_, exec_pantryPush_refused h hawake hk hform hpushed hbad, deliveryDone_leaves 5 0 rfl p⟩
    · exact ⟨_, exec_pantryPush_fills h hawake hk hform hpushed hfine hp hv ho hsets, deliveryFilled_held hn hlen hfull⟩
    · exact ⟨_, exec_pantryPush_fills h hawake hk hform hpushed hfine hp hv ho hsets, deliveryFilled_one hn hds hroom⟩
    · exact ⟨_, exec_pantryPush_old h hawake hk hform hpushed hfine hp hv ho hsets, deliveryDone_old _ hn hds p⟩
    · obtain ⟨hpantry, hrx, -⟩ := deliveryFilled_one (f := f) hn hds hroom
      exact ⟨_, exec_heldDeliveryResume_fills h hawake hk hform hpushed hsets, hpantry, hrx⟩
    · exact ⟨_, exec_heldDeliveryResume_old h hawake hk hform hpushed hsets, deliveryDone_old y hn hds p⟩
    · exact fun hform hfine => exec_sramPush h hawake hk hform hfine
    · intro hform hcls b hb hdirect hbursts hhandlers
      subst hcls
      have hsame := (pushAnswer_sameButSent row col (placeBursts (burstTaken (taking s row col 24) f ds b) 8) f 0
        ((burstOf f ds).bcnt.toNat / 32)).trans (taken_sameButSent s row col 24 f ds _)
      exact ⟨_, exec_burstDelivery h hawake hk hform hb hdirect hbursts,
        (hsame.handlerAt 0).trans (placeBursts_first (c := taking s row col 24) hbursts hhandlers)⟩
  · exact fun b rest y lo hi hb hgo hgoes hroom hspan => exec_breadSourceBurst_sends hs hb hgo hgoes hroom hspan
  · intro b rest hb hgo hstop
    obtain ⟨hsources, hegress⟩ := sourceStopped_core s (keyOf row col) (keyOf b.rrow b.rcol) rest b.tag b.next
    exact ⟨_, exec_breadSourceBurst_stops hs hb hgo hstop, hsources, hegress 24⟩
  · intro s row col f ds h hk c done space i hgen hvalid
    refine ⟨fun hop => ?_, fun hop => ?_, fun hop => ?_, fun hop => ?_, fun hop => ?_⟩
    · exact congrArg (fun t : State => Host.Outcome.next { t with freeCtr := s.freeCtr + 1 })
        (onCap_performed h hk hgen hvalid hop (fun c f => (inspectTaken c (flitField f 9 1) (flitField f 12 4), 0,
          (inspectRead c s.cycle (flitField f 9 1) (flitField f 12 4) (Config.freeWord s.freeCtr)).toNat)) rfl)
    · show _ = if (taking s row col 25).halted then _ else _
      split
      · next hh => exact congrArg Host.Outcome.next (onCap_performed h hk hgen hvalid hop _ (if_pos hh))
      · next hh => exact congrArg Host.Outcome.next (onCap_performed h hk hgen hvalid hop _ (if_neg hh))
    · exact congrArg Host.Outcome.next (onCap_performed h hk hgen hvalid hop _ rfl)
    · exact congrArg Host.Outcome.next (onCap_performed h hk hgen hvalid hop _ rfl)
    · exact congrArg Host.Outcome.next (onCap_performed h hk hgen hvalid hop _ rfl)

end Sys2Proof.Proofs

/-! A core with one result pending: what lookahead makes of its next instruction (R136, R137). -/

namespace Sys2Proof.Proofs
open Sys2Proof Sys2Proof.Machine Sys2Proof.Laws

/-! ## Registers after results are written -/

section
variable (c : Core) (ds : List DestVal)

theorem applyDests_cons (d : DestVal) : applyDests .main c (d :: ds) = applyDests .main (applyDest .main c d) ds := rfl

theorem applyDest_pending (d : DestVal) : (applyDest .main c d).pending = c.pending := by
  cases d
  case x => exact writeX_pending _ _ _ _
  case v => exact writeV_pending _ _ _ _
  case f => exact writeFm_pending _ _ _
  case a => exact writeAcc_pending _ _ _
  case t => exact writeSlot_pending _ _ _

theorem applyDests_pending : (applyDests .main c ds).pending = c.pending := by
  induction ds generalizing c with
  | nil => rfl
  | cons d ds ih => exact (ih _).trans (applyDest_pending c d)

/-- A result for another register leaves x[r]. -/
theorem readX_applyDest_ne {d : DestVal} {r : Nat} (h : d.ref ≠ .x r) : readX (applyDest .main c d) .main r = readX c .main r := by
  cases d
  case x n v => exact readX_writeX_ne _ _ fun hr => h (congrArg RegRef.x hr.symm)
  case f n v =>
    show readX (writeFm c n v) .main r = _
    unfold writeFm
    split <;> rfl
  all_goals rfl

/-- x[r] after results of which those for x[r] are all v: v where there is one or x[r] was v. -/
theorem readX_applyDests {r : Nat} {v : Word} (hr : r ≠ 0) (hall : ∀ y, y ∈ ds → y.ref = .x r → y = .x r v)
    (hv : (∃ y, y ∈ ds ∧ y.ref = .x r) ∨ readX c .main r = v) : readX (applyDests .main c ds) .main r = v := by
  induction ds generalizing c with
  | nil =>
    rcases hv with ⟨y, hy, -⟩ | hv
    · exact absurd hy (by simp)
    · exact hv
  | cons d ds ih =>
    rw [applyDests_cons]
    refine ih _ (fun y hy => hall y (List.mem_cons_of_mem _ hy)) ?_
    by_cases hd : d.ref = .x r
    · right
      rw [hall d List.mem_cons_self hd]
      exact readX_writeX_self c v hr
    · rcases hv with ⟨y, hy, href⟩ | hv
      · rcases List.mem_cons.mp hy with rfl | hy
        · exact absurd href hd
        · exact .inl ⟨y, hy, href⟩
      · exact .inr ((readX_applyDest_ne c hd).trans hv)

theorem readX_applyDests_ne {r : Nat} (h : ∀ y, y ∈ ds → y.ref ≠ .x r) : readX (applyDests .main c ds) .main r = readX c .main r := by
  induction ds generalizing c with
  | nil => rfl
  | cons d ds ih =>
    exact (ih _ fun y hy => h y (List.mem_cons_of_mem _ hy)).trans (readX_applyDest_ne c (h d List.mem_cons_self))

end

/-! ## Binary instructions on x registers -/

/-- An instruction that writes x[d] with a function of x[a] and x[b], in user and in system mode alike, at once or after its window. -/
structure Binary (op : Op) (d a b : Reg) (f : Word → Word → Word) : Prop where
  reads : op.reads = xs [a, b]
  writes : op.writes = xs [d]
  cls : op.cls = .s ∨ op.cls = .l
  allowed : ∀ env c, Allowed op env c
  body : ∀ env c, env.ctx = .main → op.body env c = wx c d (f (readX c .main a.toNat) (readX c .main b.toNat))

theorem binary_and (h : Hdr) (d a b : Reg) : Binary (wordOp (.and h d a b) h d a b (· &&& ·)) d a b (· &&& ·) :=
  ⟨rfl, rfl, .inl rfl, fun _ _ => allowed_mkOp, fun env c hx => by
    show wx c d (readX c env.ctx a.toNat &&& readX c env.ctx b.toNat) = _
    rw [hx]⟩

theorem binary_mul (h : Hdr) (d a b : Reg) : Binary (intOp (.mul h .i64 d a b) h .l .i64 d a b (· * ·)) d a b (· * ·) :=
  ⟨rfl, rfl, .inr rfl, fun _ _ => allowed_mkOp, fun env c hx => by
    show wx c d (extendI .i64 (tyReadInt .i64 (readX c env.ctx a.toNat).toNat * tyReadInt .i64 (readX c env.ctx b.toNat).toNat)) = _
    rw [hx, extendI_i64, tyReadInt_i64, tyReadInt_i64, BitVec.ofInt_mul, BitVec.ofInt_toInt, BitVec.ofInt_toInt]⟩

/-- The registers of x on which a result may be pending that a binary instruction names. -/
def namedBy (d a b : Reg) : List RegRef := (xs [a, b] ++ xs [d]).filter (canPend .main)

/-- A destination that a binary instruction names. -/
def Named (d a b : Reg) (x : DestVal) : Prop :=
  x.ref ∈ ([.x a.toNat, .x b.toNat, .x d.toNat] : List RegRef) ∧ x.ref ≠ .x 0

theorem mem_namedBy {d a b : Reg} {x : DestVal} : x.ref ∈ namedBy d a b ↔ Named d a b x := by
  have hpend : ∀ r, r ∈ ([.x a.toNat, .x b.toNat, .x d.toNat] : List RegRef) → (canPend .main r = true ↔ r ≠ .x 0) := by
    intro r hr
    simp only [List.mem_cons, List.not_mem_nil, or_false] at hr
    rcases hr with rfl | rfl | rfl <;> simp [canPend]
  unfold namedBy Named
  rw [List.mem_filter]
  exact and_congr_right fun hr => hpend _ hr

theorem touches_namedBy {d a b : Reg} {p : Machine.Pending} : p.touches (namedBy d a b) = true ↔ ∃ x, x ∈ p.dests ∧ Named d a b x := by
  simp only [Pending.touches, List.any_eq_true, List.contains_iff_mem, mem_namedBy]

/-! ## The boundary and the hazards with one result pending -/

section
variable {s : State} {h : Hdr} {p : Machine.Pending} (ho : Owed s h p)
include ho

theorem pendingOf_owed : pendingOf (focused s) .main = [p] := by
  rw [pendingOf, ho.pending, List.filter_cons_of_pos (by simp [ho.main]), List.filter_nil]

theorem breakpointAt_owed (a : BitVec 16) : breakpointAt (focused s) .main a = none := by
  simp only [breakpointAt, Option.map_eq_none_iff, List.find?_eq_none, List.mem_range]
  intro n hn
  unfold bpMatches
  rw [ho.breakpoints n hn]
  simp

theorem boundary_owed : boundary (focused s) .main = if p.whole then .drain else .clear := by
  have hheld : heldBoundary (focused s) .main (pcOf (focused s) .main) = .clear := by
    unfold heldBoundary
    rw [if_pos rfl, ho.held, ho.watch]
  unfold boundary
  dsimp only
  rw [pendingOf_owed ho, breakpointAt_owed ho, hheld]
  simp [ho.late]

theorem engineHolds_owed (refs : List RegRef) : engineHolds (focused s) refs = false := by
  simp [engineHolds, ho.ops, ho.breads]

theorem hazards_owed_none {cls : LaClass} (hcls : cls = .s ∨ cls = .l) {refs : List RegRef} (ht : p.touches refs = false) :
    hazardsOf (focused s) .main cls refs = ⟨[], []⟩ := by
  unfold hazardsOf
  rw [pendingOf_owed ho]
  rcases hcls with rfl | rfl <;> simp [ht]

theorem hazards_owed_due {cls : LaClass} (hcls : cls = .s ∨ cls = .l) {refs : List RegRef} (ht : p.touches refs = true)
    (hleft : p.left = 0) : (hazardsOf (focused s) .main cls refs).due = [p] := by
  unfold hazardsOf
  rw [pendingOf_owed ho]
  rcases hcls with rfl | rfl <;> simp [ht, hleft]

theorem hazards_owed_inside {cls : LaClass} (hcls : cls = .s ∨ cls = .l) {refs : List RegRef} (ht : p.touches refs = true)
    (hw : p.whole = false) (hleft : p.left ≠ 0) : hazardsOf (focused s) .main cls refs = ⟨[], [p]⟩ := by
  unfold hazardsOf
  rw [pendingOf_owed ho]
  rcases hcls with rfl | rfl <;> simp [ht, hw, hleft]

/-- The one result is the oldest, and its writing leaves nothing pending. -/
theorem writeOldest_owed {sel : Machine.Pending → Bool} (hsel : sel p = true) :
    writeOldest (focused s) sel = some (writeback { focused s with pending := [] } p) := by
  have hland : landCounts (focused s) 0 = focused s := rfl
  unfold writeOldest
  rw [ho.pending]
  simp only [List.findIdx?_cons, hsel, ho.late, Option.isNone_none, Bool.and_self, if_true]
  dsimp only [List.getElem?_cons_zero, Option.map_some]
  rw [hland, ho.pending]
  rfl

end

/-! ## The issue with one result pending -/

section
variable {s : State} {op : Op} {p : Machine.Pending} (ho : Owed s op.h p)
include ho

/-- While a result whose instruction has an LA of 0 is pending, every instruction waits for it. -/
theorem issue_owed_whole (hw : p.whole = true) :
    issue op s = .next (withFocus s (writeback { focused s with pending := [] } p)) := by
  have hkeep : dropWatch (focused s) .main = focused s := by
    unfold dropWatch
    rw [pendingOf_owed ho, if_pos (by simp [hw])]
  have hdrain : drainAny (focused s) .main = writeback { focused s with pending := [] } p := by
    rw [drainAny, writeOldest_owed ho (by simp [ho.main])]
    rfl
  rw [issue_of_boundary ho.grid ho.ctx (fun _ => ho.gang) ((boundary_owed ho).trans (if_pos hw)) (by decide)]
  refine congrArg Host.Outcome.next ?_
  show modCore (modCore { s with freeCtr := s.freeCtr + 1 } s.focus fun c => dropWatch c .main) s.focus (fun c => drainAny c .main) = _
  simp only [modCore, coreAt_setCore_self, setCore_setCore]
  rw [show coreAt { s with freeCtr := s.freeCtr + 1 } s.focus = focused s from rfl, hkeep, hdrain]
  rfl

theorem issue_owed (hw : p.whole = false) : issue op s = .next (applyVerdict { s with freeCtr := s.freeCtr + 1 } s.focus .main
    (focused s).pc (judge op (focusEnv s op.word) (focused s))) := by
  exact issue_of_clear ho.grid ho.ctx (fun _ => ho.gang) ((boundary_owed ho).trans (if_neg (by simp [hw])))

variable {d a b : Reg} {f : Word → Word → Word} (hop : Binary op d a b f)
include hop

theorem judge_owed : judge op (focusEnv s op.word) (focused s) = judgeBody op (focusEnv s op.word) (focused s) := by
  unfold judge
  rw [(hop.allowed _ _).staticPriv, ho.guard]
  rfl

omit ho in
theorem named_eq : (op.reads ++ op.writes).filter (canPend (focusEnv s op.word).ctx) = namedBy d a b := by
  rw [hop.reads, hop.writes]
  rfl

/-- A result that is named and whose window is over is written first. -/
theorem issue_due (hw : p.whole = false) (hnamed : ∃ x, x ∈ p.dests ∧ Named d a b x) (hleft : p.left = 0) :
    issue op s = .next (withFocus s (writeback { focused s with pending := [] } p)) := by
  have htouch : p.touches (namedBy d a b) = true := touches_namedBy.mpr hnamed
  have hdrain : drainOne (focused s) .main (namedBy d a b) = writeback { focused s with pending := [] } p := by
    rw [drainOne, writeOldest_owed ho (by simp [ho.main, htouch])]
    rfl
  have hj : judgeBody op (focusEnv s op.word) (focused s) = .drain (namedBy d a b) := by
    have hdue : (hazardsOf (focused s) (focusEnv s op.word).ctx op.cls (namedBy d a b)).due = [p] :=
      hazards_owed_due ho hop.cls htouch hleft
    unfold judgeBody
    dsimp only
    rw [named_eq hop]
    exact if_pos (by rw [hdue]; rfl)
  rw [issue_owed ho hw, judge_owed ho hop, hj]
  refine congrArg Host.Outcome.next ?_
  show setCore { s with freeCtr := s.freeCtr + 1 } s.focus (drainOne (focused s) .main (namedBy d a b)) = _
  rw [hdrain]
  rfl

end

/-- What the reads of an instruction see new of the results inside their window (R137). -/
def seenBy (op : Op) (s : State) (inside : List Machine.Pending) : List DestVal := seenNew (focusEnv s op.word).free inside op.reads

/-- The core as an instruction sees it. -/
def seenCore (op : Op) (s : State) (inside : List Machine.Pending) : Core := applyDests .main (focused s) (seenBy op s inside)

/-- The core after a binary instruction that has met some results inside their window. -/
def settledCore (op : Op) (s : State) (d a b : Reg) (f : Word → Word → Word) (inside : List Machine.Pending) : Core :=
  settle op (focusEnv s op.word) inside ((seenBy op s inside).map (currentDest (focused s) .main))
    { core := seenCore op s inside
      dests := [.x d.toNat (f (readX (seenCore op s inside) .main a.toNat) (readX (seenCore op s inside) .main b.toNat))] }

section
variable {s : State} {op : Op} {p : Machine.Pending} (ho : Owed s op.h p) {d a b : Reg} {f : Word → Word → Word} (hop : Binary op d a b f)
include ho hop

/-- With no result due, a binary instruction traps on one inside its window with HAZMODE 1, and executes otherwise. -/
theorem judgeBody_open {inside : List Machine.Pending} (hz : hazardsOf (focused s) .main op.cls (namedBy d a b) = ⟨[], inside⟩) :
    judgeBody op (focusEnv s op.word) (focused s) =
      if (focused s).sys.precise && !inside.isEmpty then .trap eHazard (hazardReg inside (namedBy d a b))
      else .done (settledCore op s d a b f inside) [] := by
  have hz' : hazardsOf (focused s) (focusEnv s op.word).ctx op.cls (namedBy d a b) = ⟨[], inside⟩ := hz
  have hmain : (focusEnv s op.word).isHandler = false := rfl
  have hallowed := hop.allowed (focusEnv s op.word) (applyDests (focusEnv s op.word).ctx (focused s)
    (seenNew (focusEnv s op.word).free inside op.reads))
  have hwindow : ∀ e, windowTrap op (focusEnv s op.word) (focused s) e = none := by
    intro e
    have hps : pendingOf (focused s) (focusEnv s op.word).ctx = [p] := pendingOf_owed ho
    rw [windowTrap, hps]
    simp [ho.late]
  unfold judgeBody
  dsimp only
  rw [named_eq hop, hz', engineHolds_owed ho, hallowed.dynRsv, hallowed.dynPriv, hallowed.gangBad, hallowed.detBad, hallowed.groups,
    hallowed.noMain, hmain, hop.body _ _ rfl]
  simp only [List.isEmpty_nil, Bool.not_true, Bool.false_eq_true, if_false, Bool.and_false, Bool.false_and, Bool.or_false]
  split
  · rfl
  · dsimp only [wx]
    rw [hwindow]
    rfl

/-- An instruction that names no pending result executes. -/
theorem issue_unnamed (hw : p.whole = false) (hfree : ∀ x, x ∈ p.dests → ¬Named d a b x) :
    issue op s = .next (withFocus s (settledCore op s d a b f [])) := by
  have htouch : p.touches (namedBy d a b) = false := by
    rw [Bool.eq_false_iff]
    intro ht
    obtain ⟨x, hx, hn⟩ := touches_namedBy.mp ht
    exact hfree x hx hn
  rw [issue_owed ho hw, judge_owed ho hop, judgeBody_open ho hop (hazards_owed_none ho hop.cls htouch), if_neg (by simp)]
  rfl

/-- Inside the window, with HAZMODE 1, the first destination that the instruction names traps. -/
theorem issue_hazard (hw : p.whole = false) (hleft : p.left ≠ 0) (hprecise : (focused s).sys.precise = true) {pre post : List DestVal}
    {x : DestVal} (hdests : p.dests = pre ++ x :: post) (hpre : ∀ y, y ∈ pre → ¬Named d a b y) (hx : Named d a b x) :
    issue op s = .next (trapped s eHazard (hazardVal x.ref)) := by
  have htouch : p.touches (namedBy d a b) = true := touches_namedBy.mpr ⟨x, by simp [hdests], hx⟩
  have hreg : hazardReg [p] (namedBy d a b) = hazardVal x.ref := by
    have hfind : p.dests.find? (fun d' => (namedBy d a b).contains d'.ref) = some x := by
      rw [hdests, List.find?_append, List.find?_eq_none.mpr, Option.none_or, List.find?_cons_of_pos]
      · exact List.contains_iff_mem.mpr (mem_namedBy.mpr hx)
      · intro y hy hc
        exact hpre y hy (mem_namedBy.mp (List.contains_iff_mem.mp hc))
    unfold hazardReg
    rw [List.flatMap_singleton, hfind]
  rw [issue_owed ho hw, judge_owed ho hop, judgeBody_open ho hop (hazards_owed_inside ho hop.cls htouch hw hleft),
    if_pos (by simp [hprecise]), hreg]
  rfl

/-- Inside the window, with HAZMODE 0, the instruction executes. -/
theorem issue_inside (hw : p.whole = false) (hleft : p.left ≠ 0) (hprecise : (focused s).sys.precise = false)
    (hnamed : ∃ x, x ∈ p.dests ∧ Named d a b x) : issue op s = .next (withFocus s (settledCore op s d a b f [p])) := by
  rw [issue_owed ho hw, judge_owed ho hop,
    judgeBody_open ho hop (hazards_owed_inside ho hop.cls (touches_namedBy.mpr hnamed) hw hleft), if_neg (by simp [hprecise])]
  rfl

end

/-! ## What the instruction leaves -/

section
variable {s : State} {op : Op} {p : Machine.Pending} {d a b : Reg} {f : Word → Word → Word}

/-- A core whose window has one instruction fewer to come. -/
def shorter (c : Core) (p : Machine.Pending) : Core := { c with pending := [{ p with left := p.left - 1 }] }

theorem writeX_pending_comm (c : Core) (n : Nat) (v : Word) (ps : List Machine.Pending) :
    writeX { c with pending := ps } .main n v = { writeX c .main n v with pending := ps } := by
  unfold writeX
  dsimp only
  split <;> rfl

theorem seenCore_nil : seenCore op s [] = focused s := by
  rw [seenCore, seenBy, seenNew_nil, applyDests_nil]

/-- The core of an effect as it is apart from the effect's results: what it has seen new given back but for what it writes, and the
results that it replaces given up (R137). -/
def settledSeen (op : Op) (env : Env) (inside : List Machine.Pending) (old : List DestVal) (c : Core) : Core :=
  let lost := giveWay env.free inside op.writes
  let c := applyDests .main c (old.filter fun d => !op.writes.contains d.ref)
  countIssue { c with pending := c.pending.map fun p =>
    if inside.contains p then
      { p with dests := p.dests.filter fun d => !(op.writes.filter fun r => !lost.contains r).contains d.ref }
    else p } .main

/-- What an effect writes of its results (R137). -/
def keptDests (op : Op) (env : Env) (inside : List Machine.Pending) (dests : List DestVal) : List DestVal :=
  dests.filter fun d => !(giveWay env.free inside op.writes).contains d.ref

theorem settle_short_inside {env : Env} (hx : env.ctx = .main) (hcls : op.cls = .s) (inside : List Machine.Pending)
    (old dests : List DestVal) (c : Core) : settle op env inside old { core := c, dests := dests } =
      advance (going (applyDests .main (settledSeen op env inside old c) (keptDests op env inside dests))) .main env.a := by
  simp only [settle, hcls, hx, if_true, settledSeen, keptDests, going, addFlags_zero, BitVec.ofNat_eq_ofNat]
  rfl

theorem settle_long_inside {env : Env} (hx : env.ctx = .main) (hcls : op.cls = .l) (inside : List Machine.Pending)
    (old dests : List DestVal) (c : Core) : settle op env inside old { core := c, dests := dests } =
      advance (going { settledSeen op env inside old c with pending := (settledSeen op env inside old c).pending ++
        [⟨.main, env.a, keptDests op env inside dests, op.h.la.toNat, op.h.la == 0, false, 0, 0, 0, 0, none⟩] }) .main env.a := by
  simp only [settle, hcls, hx, if_true, settledSeen, keptDests, going]
  rfl

/-- Beside a result that the instruction does not name, its window alone has moved on. -/
theorem settledSeen_unnamed (ho : Owed s op.h p) (env : Env) : settledSeen op env [] [] (focused s) = shorter (focused s) p := by
  have hshort : countIssue (focused s) .main = shorter (focused s) p := by
    simp [countIssue, shorter, ho.pending, ho.main]
  rw [← hshort]
  simp [settledSeen]

theorem keptDests_unnamed (env : Env) (dests : List DestVal) : keptDests op env [] dests = dests := by simp [keptDests]

/-- The registers that give way are those written that the results inside their window name. -/
theorem giveWay_one (free : Nat → Bool) (p : Machine.Pending) (r : RegRef) :
    giveWay free [p] [r] = [] ∨ (giveWay free [p] [r] = [r] ∧ p.touches [r] = true) := by
  unfold giveWay
  by_cases ht : p.touches [r] = true
  · by_cases hfree : free 64 = true
    · right
      simp [ht, hfree]
    · left
      simp [ht, hfree]
  · left
    simp [ht]

theorem settledSeen_pending (ho : Owed s op.h p) (hop : Binary op d a b f) (env : Env) (old new : List DestVal) :
    (settledSeen op env [p] old (applyDests .main (focused s) new)).pending = [{ p with
      left := p.left - 1
      dests := p.dests.filter fun x => !([.x d.toNat].filter fun r => !(giveWay env.free [p] [.x d.toNat]).contains r).contains x.ref }] := by
  unfold settledSeen countIssue
  dsimp only
  rw [applyDests_pending, applyDests_pending, ho.pending, hop.writes]
  simp [ho.main, xs]

/-- What the reads see new is of the results inside the window, and of the registers read. -/
theorem mem_seenNew {free : Nat → Bool} {p : Machine.Pending} {reads : List RegRef} {y : DestVal} (hy : y ∈ seenNew free [p] reads) :
    y ∈ p.dests ∧ y.ref ∈ reads := by
  unfold seenNew at hy
  rw [List.flatMap_singleton] at hy
  obtain ⟨z, hz, rfl⟩ := List.mem_map.mp hy
  have hmem := List.fst_mem_of_mem_zipIdx (List.mem_filter.mp hz).1
  have hfilter := List.mem_filter.mp hmem
  exact ⟨hfilter.1, List.contains_iff_mem.mp hfilter.2⟩

/-- A register that is not written holds after the instruction what it held before, though the instruction has seen it new. -/
theorem readX_settledSeen (hop : Binary op d a b f) (env : Env) (inside : List Machine.Pending) (new : List DestVal) {r : Nat}
    (hr : r ≠ d.toNat) : readX (settledSeen op env inside (new.map (currentDest (focused s) .main)) (applyDests .main (focused s) new)) .main r =
      readX (focused s) .main r := by
  have hread : readX (applyDests .main (applyDests .main (focused s) new)
      ((new.map (currentDest (focused s) .main)).filter fun d => !op.writes.contains d.ref)) .main r = readX (focused s) .main r := by
    rcases Nat.eq_zero_or_pos r with rfl | hpos
    · rw [readX_zero, readX_zero]
    refine readX_applyDests _ _ (Nat.ne_of_gt hpos) ?_ ?_
    · intro y hy href
      obtain ⟨z, -, rfl⟩ := List.mem_map.mp (List.mem_filter.mp hy).1
      cases z
      case x n v =>
        have hn : n = r := RegRef.x.inj href
        rw [← hn]
        rfl
      all_goals exact absurd href (by simp [currentDest, DestVal.ref])
    · by_cases hseen : ∃ y, y ∈ new ∧ y.ref = .x r
      · obtain ⟨y, hy, href⟩ := hseen
        have hsame : (currentDest (focused s) .main y).ref = y.ref := by cases y <;> rfl
        refine .inl ⟨currentDest (focused s) .main y, List.mem_filter.mpr ⟨List.mem_map_of_mem hy, ?_⟩, hsame.trans href⟩
        rw [hsame, href, hop.writes]
        simp [xs, hr]
      · right
        exact readX_applyDests_ne _ _ fun y hy href => hseen ⟨y, hy, href⟩
  exact hread

/-- A register is seen as it stands, or as it will stand once the result is written. -/
theorem readX_seen {p : Machine.Pending} (hmain : p.ctx = .main) {new : List DestVal} (hnew : ∀ y, y ∈ new → y ∈ p.dests)
    (hnodup : (p.dests.map DestVal.ref).Nodup) (c : Core) (r : Nat) : readX (applyDests .main c new) .main r = readX c .main r ∨
      readX (applyDests .main c new) .main r = readX (writeback { c with pending := [] } p) .main r := by
  rcases Nat.eq_zero_or_pos r with rfl | hpos
  · exact .inl (by rw [readX_zero, readX_zero])
  have hr : r ≠ 0 := Nat.ne_of_gt hpos
  by_cases hseen : ∃ y, y ∈ new ∧ y.ref = .x r
  · right
    obtain ⟨y, hy, href⟩ := hseen
    have honly : ∀ z, z ∈ p.dests → z.ref = .x r → z = y := fun z hz hzr =>
      List.inj_on_of_nodup_map hnodup hz (hnew y hy) (hzr.trans href.symm)
    have hval : ∃ v, y = .x r v := by
      cases y
      case x n v =>
        have hn : n = r := RegRef.x.inj href
        exact ⟨v, by rw [hn]⟩
      all_goals exact absurd href (by simp [DestVal.ref])
    obtain ⟨v, rfl⟩ := hval
    have hfresh : readX (applyDests p.ctx { c with pending := [] } p.dests) .main r = v := by
      rw [hmain]
      exact readX_applyDests _ _ hr (fun z hz hzr => honly z hz hzr) (.inl ⟨_, hnew _ hy, rfl⟩)
    have hnow : readX (applyDests .main c new) .main r = v :=
      readX_applyDests c new hr (fun z hz hzr => honly z (hnew z hz) hzr) (.inl ⟨_, hy, rfl⟩)
    exact hnow.trans hfresh.symm
  · left
    exact readX_applyDests_ne _ _ fun y hy href => hseen ⟨y, hy, href⟩

end

/-! ## AND and MUL beside one result -/

section
variable {s : State} {h : Hdr} {p : Machine.Pending} (ho : Owed s h p) (d a b : Reg)
include ho

theorem and_unnamed (hw : p.whole = false) (hfree : ∀ x, x ∈ p.dests → ¬Named d a b x) :
    exec (.and h d a b) s = .next (did s (writeX (shorter (focused s) p) .main d.toNat (xr s a &&& xr s b))) := by
  have hop := binary_and h d a b
  refine (issue_unnamed (op := wordOp (.and h d a b) h d a b (· &&& ·)) ho hop hw hfree).trans ?_
  unfold settledCore
  rw [seenCore_nil, settle_short_inside (op := wordOp (.and h d a b) h d a b (· &&& ·)) rfl rfl, seenBy, seenNew_nil, List.map_nil,
    settledSeen_unnamed (op := wordOp (.and h d a b) h d a b (· &&& ·)) ho, keptDests_unnamed, did, past, writeX_pc]
  rfl

theorem mul_unnamed (hw : p.whole = false) (hfree : ∀ x, x ∈ p.dests → ¬Named d a b x) :
    exec (.mul h .i64 d a b) s = .next (did s { shorter (focused s) p with pending := (shorter (focused s) p).pending ++
      (owing h (focused s) false [.x d.toNat (xr s a * xr s b)] 0 {} none).pending }) := by
  have hop := binary_mul h d a b
  refine (issue_unnamed (op := intOp (.mul h .i64 d a b) h .l .i64 d a b (· * ·)) ho hop hw hfree).trans ?_
  unfold settledCore
  rw [seenCore_nil, settle_long_inside (op := intOp (.mul h .i64 d a b) h .l .i64 d a b (· * ·)) rfl rfl, seenBy, seenNew_nil,
    List.map_nil, settledSeen_unnamed (op := intOp (.mul h .i64 d a b) h .l .i64 d a b (· * ·)) ho, keptDests_unnamed]
  rfl

/-- The effect of AND on what it sees. -/
def andDests (s : State) (h : Hdr) (d a b : Reg) (p : Machine.Pending) : List DestVal :=
  [.x d.toNat (readX (seenCore (wordOp (.and h d a b) h d a b (· &&& ·)) s [p]) .main a.toNat &&&
    readX (seenCore (wordOp (.and h d a b) h d a b (· &&& ·)) s [p]) .main b.toNat)]

/-- The core after AND, apart from its PC, its loop counters and its wait. -/
def andSettled (s : State) (h : Hdr) (d a b : Reg) (p : Machine.Pending) : Core :=
  let op := wordOp (.and h d a b) h d a b (· &&& ·)
  applyDests .main (settledSeen op (focusEnv s op.word) [p] ((seenBy op s [p]).map (currentDest (focused s) .main)) (seenCore op s [p]))
    (keptDests op (focusEnv s op.word) [p] (andDests s h d a b p))

omit ho in
theorem advance_going_rest (c : Core) (x : BitVec 16) : (∀ r, readX (advance (going c) .main x) .main r = readX c .main r) ∧
    (advance (going c) .main x).pending = c.pending := by
  obtain ⟨lc, pc, hadv⟩ := advance_shape (going c) x
  rw [hadv]
  exact ⟨fun _ => rfl, rfl⟩

theorem exec_and_inside (hw : p.whole = false) (hleft : p.left ≠ 0) (hprecise : (focused s).sys.precise = false)
    (hnamed : ∃ x, x ∈ p.dests ∧ Named d a b x) :
    exec (.and h d a b) s = .next (withFocus s (advance (going (andSettled s h d a b p)) .main (focused s).pc)) := by
  have hop := binary_and h d a b
  refine (issue_inside (op := wordOp (.and h d a b) h d a b (· &&& ·)) ho hop hw hleft hprecise hnamed).trans ?_
  unfold settledCore
  rw [settle_short_inside (op := wordOp (.and h d a b) h d a b (· &&& ·)) rfl rfl]
  rfl

omit ho in
theorem readX_andSettled_ne {r : Nat} (hr : r ≠ d.toNat) : readX (andSettled s h d a b p) .main r = readX (focused s) .main r := by
  refine (readX_applyDests_ne _ _ fun y hy href => ?_).trans (readX_settledSeen (binary_and h d a b) _ _ _ hr)
  have hy' := (List.mem_filter.mp hy).1
  rw [andDests, List.mem_singleton] at hy'
  subst hy'
  exact hr (RegRef.x.inj href).symm

theorem andSettled_pending : (andSettled s h d a b p).pending = [{ p with
    left := p.left - 1
    dests := p.dests.filter fun x => !([.x d.toNat].filter fun r =>
      !(giveWay (focusEnv s (encode (.and h d a b))).free [p] [.x d.toNat]).contains r).contains x.ref }] :=
  (applyDests_pending _ _).trans (settledSeen_pending (op := wordOp (.and h d a b) h d a b (· &&& ·)) ho (binary_and h d a b) _ _ _)

/-- AND's write stands, and replaces the result pending on its register. -/
theorem andSettled_writes (hkeep : giveWay (focusEnv s (encode (.and h d a b))).free [p] [.x d.toNat] = []) :
    (d ≠ 0 → readX (andSettled s h d a b p) .main d.toNat =
      (readX (seenCore (wordOp (.and h d a b) h d a b (· &&& ·)) s [p]) .main a.toNat &&&
        readX (seenCore (wordOp (.and h d a b) h d a b (· &&& ·)) s [p]) .main b.toNat)) ∧
    (andSettled s h d a b p).pending =
      [{ p with left := p.left - 1, dests := p.dests.filter fun x => decide (x.ref ≠ .x d.toNat) }] := by
  constructor
  · intro hd
    have hkept : keptDests (wordOp (.and h d a b) h d a b (· &&& ·)) (focusEnv s (encode (.and h d a b))) [p] (andDests s h d a b p) =
        andDests s h d a b p := by
      show (andDests s h d a b p).filter
        (fun x => !(giveWay (focusEnv s (encode (.and h d a b))).free [p] [.x d.toNat]).contains x.ref) = _
      rw [hkeep]
      exact List.filter_eq_self.mpr fun _ _ => rfl
    refine (congrArg (fun ds => readX (applyDests .main _ ds) .main d.toNat) hkept).trans ?_
    refine readX_writeX_self _ _ fun h0 => hd (BitVec.eq_of_toNat_eq h0)
  · rw [andSettled_pending ho, hkeep]
    simp

/-- AND's write gives way to the result pending on its register. -/
theorem andSettled_gives (hlost : giveWay (focusEnv s (encode (.and h d a b))).free [p] [.x d.toNat] = [.x d.toNat]) :
    (andSettled s h d a b p).pending = [{ p with left := p.left - 1 }] := by
  rw [andSettled_pending ho, hlost]
  simp

/-- AND inside the window of a result that it names, with HAZMODE 0. -/
theorem and_inside (hw : p.whole = false) (hleft : p.left ≠ 0) (hprecise : (focused s).sys.precise = false)
    (hnamed : ∃ x, x ∈ p.dests ∧ Named d a b x) (hnodup : (p.dests.map DestVal.ref).Nodup) : ∃ va vb : Word,
      (va = xr s a ∨ va = readX (writeback { focused s with pending := [] } p) .main a.toNat) ∧
      (vb = xr s b ∨ vb = readX (writeback { focused s with pending := [] } p) .main b.toNat) ∧ (a = b → va = vb) ∧
      goesOn (exec (.and h d a b) s) fun t => let u := focused t
        (∀ r, r ≠ d.toNat → readX u .main r = readX (focused s) .main r) ∧
        (((d ≠ 0 → readX u .main d.toNat = va &&& vb) ∧ u.pending =
            [{ p with left := p.left - 1, dests := p.dests.filter fun x => decide (x.ref ≠ .x d.toNat) }]) ∨
          (RegRef.x d.toNat ∈ p.dests.map DestVal.ref ∧ u.pending = [{ p with left := p.left - 1 }])) := by
  have hseen : ∀ r, readX (seenCore (wordOp (.and h d a b) h d a b (· &&& ·)) s [p]) .main r = readX (focused s) .main r ∨
      readX (seenCore (wordOp (.and h d a b) h d a b (· &&& ·)) s [p]) .main r =
        readX (writeback { focused s with pending := [] } p) .main r := fun r =>
    readX_seen ho.main (fun y hy => (mem_seenNew hy).1) hnodup (focused s) r
  refine ⟨_, _, hseen a.toNat, hseen b.toNat, fun hab => by rw [hab], _, exec_and_inside ho d a b hw hleft hprecise hnamed, ?_⟩
  obtain ⟨hreads, hpending⟩ := advance_going_rest (andSettled s h d a b p) (focused s).pc
  rw [focused_withFocus]
  refine ⟨fun r hr => (hreads r).trans (readX_andSettled_ne d a b hr), ?_⟩
  rw [hpending, hreads]
  rcases giveWay_one (focusEnv s (encode (.and h d a b))).free p (.x d.toNat) with hkeep | ⟨hlost, htouch⟩
  · exact .inl (andSettled_writes ho d a b hkeep)
  · obtain ⟨x, hx, href⟩ := List.any_eq_true.mp htouch
    refine .inr ⟨List.mem_map.mpr ⟨x, hx, ?_⟩, andSettled_gives ho d a b hlost⟩
    simpa using href

end

end Sys2Proof.Proofs

/-! Events of a core, and the obligation about lookahead and them (R90, R100, R103, R128, R135, R136, R137, R328, R409). -/

namespace Sys2Proof.Proofs
open Sys2Proof Sys2Proof.Machine Sys2Proof.Laws

/-! ## Results written, stalls released, breakpoints -/

section
variable {s : State} {row col : Nat} (hgrid : inGrid (keyOf row col) = true)
include hgrid

theorem exec_resultWriteback {p : Machine.Pending} {ps : List Machine.Pending} (hp : (coreAt s (keyOf row col)).pending = p :: ps)
    (hlate : p.late = none) : exec (.resultWriteback row col) s = .next (setCore s (keyOf row col)
      (writeback { noteResult (coreAt s (keyOf row col)) p with pending := ps } p)) := by
  have holdest : writeOldest (noteResult (coreAt s (keyOf row col)) p) (fun _ => true) =
      some (writeback { noteResult (coreAt s (keyOf row col)) p with pending := ps } p) := by
    have hland : landCounts (noteResult (coreAt s (keyOf row col)) p) 0 = noteResult (coreAt s (keyOf row col)) p := rfl
    have hpending : (noteResult (coreAt s (keyOf row col)) p).pending = p :: ps := hp
    unfold writeOldest
    rw [hpending]
    simp only [List.findIdx?_cons, hlate, Option.isNone_none, Bool.and_self, if_true]
    dsimp only [List.getElem?_cons_zero, Option.map_some]
    rw [hland, hpending]
    rfl
  show execResultWriteback row col s = _
  unfold execResultWriteback modCore
  dsimp only
  rw [if_neg (by simp [hgrid]), hp, List.find?_cons_of_pos (by simp [hlate])]
  dsimp only
  rw [holdest]
  rfl

variable (hs : s.dev.stopped = false)
include hs

theorem onCore_running (f : Core → Core) : onCore s row col f = setCore s (keyOf row col) (f (coreAt s (keyOf row col))) :=
  if_neg (by simp [hs, hgrid])

/-- What the release of a stall makes of a core. -/
def stallReleased (c : Core) : Core :=
  if c.draining || c.frozen || c.gang.isSome then c
  else
    match c.wait with
    | .instr => if waitOver c (fetchAt c .main) then { c with wait := releasedWait (fetchAt c .main) } else c
    | .barrier sc id =>
      if c.arrivals.getLsbD (barBit sc id) then c else { advance (countIssue c .main) .main c.pc with wait := .run }
    | _ => c

theorem exec_stallRelease : exec (.stallRelease row col) s =
    .next (setCore s (keyOf row col) (stallReleased (coreAt s (keyOf row col)))) :=
  congrArg Host.Outcome.next (onCore_running hgrid hs _)

end

section
variable {c : Core}

theorem stallReleased_held (h : c.draining = true ∨ c.frozen = true ∨ c.gang.isSome = true) : stallReleased c = c :=
  if_pos (by rcases h with h | h | h <;> simp [h])

variable (hdraining : c.draining = false) (hfrozen : c.frozen = false) (hgang : c.gang = none)
include hdraining hfrozen hgang

theorem stallReleased_instr (hw : c.wait = .instr) : stallReleased c =
    if waitOver c (fetchAt c .main) then { c with wait := releasedWait (fetchAt c .main) } else c := by
  unfold stallReleased
  rw [if_neg (by simp [hdraining, hfrozen, hgang]), hw]

theorem stallReleased_barrier {sc : Scope} {id : BitVec 3} (hw : c.wait = .barrier sc id) : stallReleased c =
    if c.arrivals.getLsbD (barBit sc id) = true then c
    else { advance (countIssue c .main) .main c.pc with wait := .run } := by
  unfold stallReleased
  rw [if_neg (by simp [hdraining, hfrozen, hgang]), hw]

end

theorem exec_breakpointMatch {s : State} {row col : Nat} {x : Ctx} {b : Boundary} (hgrid : inGrid (keyOf row col) = true)
    (hmay : coreMayIssue s (coreAt s (keyOf row col)) = true) (hb : breakpointCtx s (coreAt s (keyOf row col)) = some (x, b)) :
    exec (.breakpointMatch row col) s = .next (applyBoundary s (keyOf row col) x b) := by
  show execBreakpointMatch row col s = _
  unfold execBreakpointMatch
  dsimp only
  rw [if_neg (by simp [hgrid, hmay]), hb]

/-! ## Barriers -/

/-- The keys of a region that lies within the grid's columns are those of different cores. -/
theorem regionKeys_nodup {l : Launch} (hcols : l.orgCol + l.cols ≤ 384) : (regionKeys l).Nodup := by
  have hinj : ∀ r c r' c', c < l.cols → c' < l.cols → keyOf (l.orgRow + r) (l.orgCol + c) = keyOf (l.orgRow + r') (l.orgCol + c') →
      r = r' ∧ c = c' := by
    intro r c r' c' hc hc' h
    simp only [keyOf] at h
    omega
  unfold regionKeys
  refine List.nodup_flatMap.mpr ⟨fun r _ => ?_, ?_⟩
  · exact List.Nodup.map_on (fun c hc c' hc' h => (hinj r c r c' (List.mem_range.mp hc) (List.mem_range.mp hc') h).2) List.nodup_range
  · refine List.nodup_range.imp_of_mem fun {r r'} _ _ hne => ?_
    intro k hk hk'
    obtain ⟨c, hc, rfl⟩ := List.mem_map.mp hk
    obtain ⟨c', hc', h⟩ := List.mem_map.mp hk'
    exact hne (hinj r' c' r c (List.mem_range.mp hc') (List.mem_range.mp hc) h).1.symm

theorem foldl_cores {α : Type} {f : State → α → State} (hf : ∀ s a, (f s a).cores = s.cores) (l : List α) (s : State) :
    (l.foldl f s).cores = s.cores := by
  induction l generalizing s with
  | nil => rfl
  | cons a l ih => exact (ih _).trans (hf s a)

theorem podRelease_cores (s : State) (id : BitVec 3) : (podRelease s id).cores = s.cores := by
  unfold podRelease
  exact (foldl_cores (f := podTell true id) (fun _ _ => rfl) _ _).trans (foldl_cores (f := podTake false id) (fun _ _ => rfl) _ _)

/-- The tree of a pod's barriers changes no core. -/
theorem podStep_cores (s : State) (id : BitVec 3) : (podStep s id).1.cores = s.cores := by
  unfold podStep
  dsimp only
  split
  · rfl
  · split
    · split
      · exact podRelease_cores s id
      · rfl
    · split
      · split
        · exact podRelease_cores _ id
        · rfl
      · split <;> rfl

/-- The state and the verdict of the step that a barrier's release takes. -/
def barrierStep (s : State) (sc : Scope) (id : BitVec 3) : State × Bool := if sc = .pod then podStep s id else (s, true)

section
variable {s : State} {sc : Scope} {n : BitVec 3} {row col : Nat} {l : Launch} (hs : s.dev.stopped = false)
  (hl : launchOf s row col = some l) (hholds : holdsBarrier (some l) sc n = true)
  (harrived : ∀ k, k ∈ participants l sc (keyOf row col) → hasArrived sc n (coreAt s k) = true)
include hs hl hholds harrived

theorem exec_barrierRelease : exec (.barrierRelease sc n row col) s = .next (if (barrierStep s sc n).2 then
      (participants l sc (keyOf row col)).foldl (fun s k => modCore s k (releaseBit sc n)) (barrierStep s sc n).1
    else (barrierStep s sc n).1) := by
  have hall : ((participants l sc (keyOf row col)).all fun k => hasArrived sc n (coreAt s k)) = true :=
    List.all_eq_true.mpr harrived
  show execBarrierRelease sc n row col s = _
  unfold execBarrierRelease
  rw [hs, hl]
  exact if_pos (by simp only [hholds, hall, Bool.and_self])

theorem exec_barrierRelease_waits (hpod : sc = .pod) (hstep : (podStep s n).2 = false) :
    exec (.barrierRelease sc n row col) s = .next (podStep s n).1 := by
  have hb : barrierStep s sc n = podStep s n := if_pos hpod
  rw [exec_barrierRelease hs hl hholds harrived, hb, if_neg (by simp [hstep])]

/-- A barrier that releases clears its bit in every participant, and changes no other core. -/
theorem exec_barrierRelease_releases (hcols : l.orgCol + l.cols ≤ 384) (hgo : ¬(sc = .pod ∧ (podStep s n).2 = false)) :
    goesOn (exec (.barrierRelease sc n row col) s) fun t => ∀ k,
      (k ∈ participants l sc (keyOf row col) → coreAt t k = releaseBit sc n (coreAt s k)) ∧
      (k ∉ participants l sc (keyOf row col) → coreAt t k = coreAt s k) := by
  have hreleased : (barrierStep s sc n).2 = true := by
    unfold barrierStep
    split
    · next hp => simpa using fun h => hgo ⟨hp, h⟩
    · rfl
  have hcores : (barrierStep s sc n).1.cores = s.cores := by
    unfold barrierStep
    split
    · exact podStep_cores s n
    · rfl
  have hnodup : (participants l sc (keyOf row col)).Nodup := (regionKeys_nodup hcols).filter _
  obtain ⟨hin, hout⟩ := coreAt_foldl_step (key := id) (step := fun s k => modCore s k (releaseBit sc n)) (f := fun _ => releaseBit sc n)
    (P := fun _ => True) (participants l sc (keyOf row col)) (fun s k _ _ j => coreAt_modCore s k _ j) (by simpa using hnodup)
    (barrierStep s sc n).1 fun _ _ => trivial
  have hsame : ∀ k, coreAt (barrierStep s sc n).1 k = coreAt s k := fun k => congrArg (fun m => fget m k ({} : Core)) hcores
  refine ⟨_, (exec_barrierRelease hs hl hholds harrived).trans (congrArg _ (if_pos hreleased)), fun k => ⟨fun hk => ?_, fun hk => ?_⟩⟩
  · exact (hin k hk).trans (congrArg _ (hsame k))
  · exact (hout k (by simpa using hk)).trans (hsame k)

end

/-! ## Waking, and drain markers -/

section
variable {s : State} {row col : Nat} (hgrid : inGrid (keyOf row col) = true) (hs : s.dev.stopped = false)
  {a b : Nat} (hsleep : (coreAt s (keyOf row col)).sleep = .gated a b)
include hgrid hs hsleep

theorem exec_sleepWake : exec (.sleepWake row col) s = .next (setCore s (keyOf row col)
    (if wakes (coreAt s (keyOf row col)) then { coreAt s (keyOf row col) with sleep := .awake } else coreAt s (keyOf row col))) := by
  have hgated : isGated (coreAt s (keyOf row col)) = true := by simp [isGated, hsleep]
  refine congrArg Host.Outcome.next ((onCore_running hgrid hs _).trans ?_)
  dsimp only
  rw [hgated, Bool.true_and]
  rfl

theorem exec_sleepTimeout : exec (.sleepTimeout row col) s = .next (setCore s (keyOf row col)
    (if b ≠ 0 ∧ a + b ≤ s.cycle then { coreAt s (keyOf row col) with sleep := .awake } else coreAt s (keyOf row col))) := by
  refine congrArg Host.Outcome.next ((onCore_running hgrid hs _).trans ?_)
  dsimp only
  rw [hsleep]
  rfl

end

theorem SameButSent.markers {c d : Core} (h : SameButSent c d) : d.markers = c.markers := by
  obtain ⟨_, _, _, _, _, _, rfl⟩ := h
  rfl

theorem tryFreeze_rest (s : State) (l : Launch) (k : Nat) : (coreAt (tryFreeze s l k) k).markers = (coreAt s k).markers ∧
    (coreAt (tryFreeze s l k) k).sleep = (coreAt s k).sleep := by
  unfold tryFreeze
  dsimp only
  split
  · rw [coreAt_setCore_self]
    exact ⟨rfl, rfl⟩
  · exact ⟨rfl, rfl⟩

/-- The state once a marker has reached its core. -/
def markerTaken (s : State) (key k cls : Nat) (m : Nat × Nat) : State :=
  modCore (leaveOut s k 4 cls) key fun c => wakeCore { c with markers := c.markers ++ [m] }

theorem markerTaken_core (s : State) (key k cls : Nat) (m : Nat × Nat) :
    (coreAt (markerTaken s key k cls m) key).markers = (coreAt s key).markers ++ [m] ∧
      (coreAt (markerTaken s key k cls m) key).sleep = .awake := by
  rw [markerTaken, coreAt_modCore, if_pos rfl]
  exact ⟨congrArg (· ++ [m]) (leaveOut_sameButSent s k cls key 4).markers, rfl⟩

theorem exec_drainMarker {s : State} {row col k cls : Nat} {f : Flit} (hs : s.dev.stopped = false) (hk : routerOf s.dev row col = some k)
    (hf : markerClass s k = some (cls, f)) : goesOn (exec (.drainMarker row col) s) fun t =>
      (coreAt t (keyOf row col)).markers = (coreAt s (keyOf row col)).markers ++ [(flitField f 0 1, flitField f 1 1)] ∧
        (coreAt t (keyOf row col)).sleep = .awake := by
  obtain ⟨hmarkers, hsleep⟩ := markerTaken_core s (keyOf row col) k cls (flitField f 0 1, flitField f 1 1)
  show goesOn (execDrainMarker row col s) _
  unfold execDrainMarker
  rw [hs, hk]
  dsimp only
  rw [hf]
  dsimp only
  split
  · next l _ =>
    obtain ⟨hm, hw⟩ := tryFreeze_rest (markerTaken s (keyOf row col) k cls (flitField f 0 1, flitField f 1 1)) l (keyOf row col)
    exact ⟨_, rfl, hm.trans hmarkers, hw.trans hsleep⟩
  · exact ⟨_, rfl, hmarkers, hsleep⟩

/-! ## The obligation -/

/-- Settles O58. -/
theorem coreEvents : Obligations.CoreEvents := by
  refine ⟨fun h d a b s p ho => ⟨fun hw => ?_, fun hw hfree => ?_, fun hw hnamed => ⟨fun hleft => ?_, ?_, ?_⟩⟩,
    fun s row col hgrid => ⟨fun p ps hp hlate => ?_, fun hs => ⟨?_, ?_, ?_, ?_, ?_, ?_⟩⟩⟩
  · exact ⟨issue_owed_whole (op := wordOp (.and h d a b) h d a b (· &&& ·)) ho hw,
      issue_owed_whole (op := intOp (.mul h .i64 d a b) h .l .i64 d a b (· * ·)) ho hw⟩
  · exact ⟨and_unnamed ho d a b hw hfree, mul_unnamed ho d a b hw hfree⟩
  · exact ⟨issue_due (op := wordOp (.and h d a b) h d a b (· &&& ·)) ho (binary_and h d a b) hw hnamed hleft,
      issue_due (op := intOp (.mul h .i64 d a b) h .l .i64 d a b (· * ·)) ho (binary_mul h d a b) hw hnamed hleft⟩
  · intro hleft hprecise pre post x hdests hpre hx
    exact ⟨issue_hazard (op := wordOp (.and h d a b) h d a b (· &&& ·)) ho (binary_and h d a b) hw hleft hprecise hdests hpre hx,
      issue_hazard (op := intOp (.mul h .i64 d a b) h .l .i64 d a b (· * ·)) ho (binary_mul h d a b) hw hleft hprecise hdests hpre hx⟩
  · exact fun hleft hprecise hnodup => and_inside ho d a b hw hleft hprecise hnamed hnodup
  · exact exec_resultWriteback hgrid hp hlate
  · exact fun hheld => (exec_stallRelease hgrid hs).trans (by rw [stallReleased_held hheld])
  · intro hd hf hg
    have hexec := exec_stallRelease hgrid hs
    refine ⟨fun hw hover => hexec.trans ?_, fun hw hover => hexec.trans ?_, fun sc id hw => hexec.trans ?_⟩
    · rw [stallReleased_instr hd hf hg hw, if_pos hover]
    · rw [stallReleased_instr hd hf hg hw, if_neg (by simp [hover])]
    · rw [stallReleased_barrier hd hf hg hw]
  · exact fun x b hmay hb => exec_breakpointMatch hgrid hmay hb
  · intro sc id l hl hholds harrived hcols
    split
    · next hpod => exact exec_barrierRelease_waits hs hl hholds harrived hpod.1 hpod.2
    · next hgo => exact exec_barrierRelease_releases hs hl hholds harrived hcols hgo
  · intro a b hsleep
    have hwake := exec_sleepWake hgrid hs hsleep
    have htime := exec_sleepTimeout hgrid hs hsleep
    exact ⟨fun hw => hwake.trans (by rw [if_pos hw]), fun hw => hwake.trans (by rw [if_neg (by simp [hw])]),
      fun hb ht => htime.trans (by rw [if_pos ⟨hb, ht⟩]), fun hb => htime.trans (by rw [if_neg (by omega)])⟩
  · exact fun k cls f hk hf => exec_drainMarker hs hk hf

end Sys2Proof.Proofs

/-! A larder context that starts anew with a fault found and not taken (R27, R242). -/

namespace Sys2Proof.Proofs
open Sys2Proof Sys2Proof.Machine Sys2Proof.Laws

section
variable {s : State} {n : Nat} {f : Flit} {rest : List Flit} {l : Launch}

/-- An operation of a core of the launch is taken from the larder and performed. -/
theorem takeLctl_performed (hs : s.dev.stopped = false) (hl : launchBound s n = some l) (hf : fget (larderAt s n).rx 29 [] = f :: rest)
    (hin : inRegion l (flitSrow f) (flitScol f) = true) (body : State → Launch → Flit → State) : takeLctl s n (flitField f 0 1) body =
      .next (body (setLarder s n { larderAt s n with rx := fset (larderAt s n).rx 29 rest }) l f) := by
  have hbound : launchBound (setLarder s n { larderAt s n with rx := fset (larderAt s n).rx 29 rest }) n = some l := by
    rw [← hl, launchBound, larderAt_setLarder_self]
    rfl
  unfold takeLctl
  dsimp only
  rw [hs, hf]
  refine (if_neg (fun hne => hne rfl)).trans ?_
  rw [hbound]
  exact congrArg Host.Outcome.next (if_pos hin)

end

/-- A context that starts a list keeps a fault found of what it has under way. -/
theorem startCtx_found {s : State} {n c : Nat} {f : Flit} (hc : flitField f 1 1 = c) (hlt : c < 15)
    (hst : (lctxAt (larderAt s n) c).st = .stopped) (hva : (BitVec.ofNat 48 (flitField f 8 6)).toNat % 16 = 0) :
    (lctxAt (larderAt (startCtx s n f false) n) c).found = (lctxAt (larderAt s n) c).found := by
  unfold startCtx
  dsimp only
  rw [hc, hst, if_neg (by simp; omega), if_neg (by rw [hva]; simp), putLctx, modLctx, larderAt_setLarder_self]
  refine (congrArg LCtx.found (fget_fset_self _ _ _ _)).trans ?_
  simp [settleRing, startedCtx, ringEmpty]

/-- A context that has been stopped with a fault of what it has under way found, and not yet taken. -/
def faultedStop : LCtx := { st := .stopped, found := some (.poison, 0) }

/-- START.list of context 0 at address 0, from the core at the grid's origin. -/
def startListFlit : Flit := { payload := 0, side := 0 }

theorem startListFlit_field (k n : Nat) : flitField startListFlit k n = 0 := by
  simp only [flitField, startListFlit, BitVec.ofNat_eq_ofNat, BitVec.toNat_ofNat, Nat.zero_mod, Nat.zero_shiftRight]

/-- A state in which it stands at a larder that serves the core's launch. -/
def restartState : State :=
  { larders := [(0, { launch := some 1, rx := [(29, [startListFlit])], ctx := [(0, faultedStop)] })]
    unrid := { launches := [placedLaunch] } }

/-- The state once the operation is taken from the larder. -/
def restartTaken : State := setLarder restartState 0 { larderAt restartState 0 with rx := fset (larderAt restartState 0).rx 29 [] }

theorem restartState_starts : exec (.startList 0) restartState = .next (startCtx restartTaken 0 startListFlit false) := by
  have htaken := takeLctl_performed (s := restartState) (n := 0) (f := startListFlit) (rest := []) (l := placedLaunch) rfl rfl rfl (by decide)
    fun s _ f => startCtx s 0 f false
  rw [startListFlit_field] at htaken
  exact htaken

/-- Refutes O59: a stopped context may have a fault found of what it has under way, which its start keeps (R27), while the statement
gives the context that starts none. -/
theorem not_larderControlEvents : ¬ Obligations.LarderControlEvents := by
  unfold Obligations.LarderControlEvents
  intro h
  obtain ⟨hstart, -⟩ := (h.1 restartState 0 startListFlit [] placedLaunch rfl rfl).1 rfl (by decide)
  obtain ⟨hlist, -⟩ := hstart (by rw [startListFlit_field]; decide) (.inr (.inl (by rw [startListFlit_field]; rfl)))
    (by rw [startListFlit_field]; decide)
  have hclaim := Host.Outcome.next.inj (restartState_starts.symm.trans (hlist (startListFlit_field 0 1)))
  have hfound : (lctxAt (larderAt (startCtx restartTaken 0 startListFlit false) 0) 0).found = some (.poison, 0) :=
    startCtx_found (startListFlit_field 1 1) (by decide) rfl (by rw [startListFlit_field]; decide)
  rw [hclaim, putLctx, modLctx, larderAt_setLarder_self, startListFlit_field] at hfound
  have hnone := (congrArg LCtx.found (fget_fset_self _ _ _ _)).symm.trans hfound
  exact absurd hnone (by decide)

end Sys2Proof.Proofs

/-! Transfers of a larder: data commands, sectors, waits and faults, and the obligation about them (R27, R240, R247 to R256). -/

namespace Sys2Proof.Proofs
open Sys2Proof Sys2Proof.Machine Sys2Proof.Laws

/-! ## Contexts of a larder -/

section
variable (s : State) (n c : Nat) (x : LCtx)

theorem lctxAt_putLctx : lctxAt (larderAt (putLctx s n c x) n) c = x := by
  rw [putLctx, modLctx, larderAt_setLarder_self]
  exact fget_fset_self _ _ _ _

theorem putLctx_launch : (larderAt (putLctx s n c x) n).launch = (larderAt s n).launch := by
  rw [putLctx, modLctx, larderAt_setLarder_self]
  rfl

theorem sendMessage_launch (cls kind key : Nat) (ps : List (BitVec 1024)) :
    (larderAt (sendMessage s n cls kind key ps) n).launch = (larderAt s n).launch := by
  rw [sendMessage, sendLarder, larderAt_setLarder_self]

end

section
variable {s : State} {n c : Nat} {l : Launch}

theorem onLctx_active (hs : s.dev.stopped = false) (hl : launchBound s n = some l) (body : Launch → LCtx → State) :
    onLctx s n c body = .next (body l (lctxAt (larderAt s n) c)) := by
  unfold onLctx activeCtx
  rw [if_neg (by simp [hs]), hl]
  rfl

/-! ## Data commands begin -/

/-- A command of the kind asked for is executed on the context that has fetched it. -/
theorem onCommand_executes {x : LCtx} {m : LCmd} (he : Executes s n c l x m) {kind : LCmd → Bool} (hk : kind m = true)
    (body : Launch → LCtx → LCmd → State) : onCommand s n c kind body = .next (body l x m) := by
  obtain ⟨y, w, v, hs, hl, hc, hst, hfound, hcmd, hring, hfetch, hm, hcls, rfl⟩ := he
  unfold onCommand
  rw [onLctx_active hs hl, if_neg (by simp [hst, hfound, hcmd, hring]; omega), hfetch]
  dsimp only
  rw [hm]
  dsimp only
  rw [hcls, hk]
  rfl

/-- The walk of a data command begun. -/
def walkBegun (s : State) (n c : Nat) (x : LCtx) (m : LCmd) : State :=
  let y := if x.whole = true then freshCmd x else x
  putLctx s n c { y with step := sectorOf y m, whole := false }

/-- A command whose target set leaves the region. -/
def rangeFault (s : State) (n c : Nat) (x : LCtx) : State := putLctx s n c { findFault x .range x.cp.toNat with cmd := none }

theorem startData_eq {x : LCtx} {m : LCmd} (hg : gLimits x m = true) (one : Bool) :
    ((targets l x one).isSome = true → startData s n c l x m one = walkBegun s n c x m) ∧
      (targets l x one = none → startData s n c l x m one = rangeFault s n c x) := by
  have hlimits : ¬(!gLimits x m) = true := by simp [hg]
  exact ⟨fun ht => (if_neg hlimits).trans (if_neg (by rw [Option.isNone_iff_eq_none]; exact Option.isSome_iff_ne_none.mp ht)),
    fun ht => (if_neg hlimits).trans (if_pos (by rw [ht]; rfl))⟩

/-- A data command within its limits begins its walk, or is a RANGE fault. -/
theorem begins {x : LCtx} {m : LCmd} (he : Executes s n c l x m) (hg : gLimits x m = true) {i : Instr} {kind : LCmd → Bool} {one : Bool}
    (hi : exec i s = onCommand s n c kind fun l x m => startData s n c l x m one) (hk : kind m = true) :
    ((targets l x one).isSome = true → exec i s = .next (walkBegun s n c x m)) ∧
      (targets l x one = none → exec i s = .next (rangeFault s n c x)) := by
  have hexec : exec i s = .next (startData s n c l x m one) := hi.trans (onCommand_executes he hk _)
  obtain ⟨hin, hout⟩ := startData_eq (s := s) (n := n) (c := c) (l := l) hg one
  exact ⟨fun ht => hexec.trans (congrArg _ (hin ht)), fun ht => hexec.trans (congrArg _ (hout ht))⟩

/-! ## Sectors -/

theorem streamSector_single (x : LCtx) (p pstr pb npl pp j : Nat) :
    streamSector x false p pstr pb npl pp j = (truncZ ((gOf x 4).toNat + stepOffset x false j) 48, p) := by
  have hone : stepSectors false npl = 1 := rfl
  unfold streamSector
  rw [hone]
  simp [Nat.mod_one]

theorem issuePush_ok {x : LCtx} {m : LCmd} {va pa p cls : Nat} (hpa : lookup s l va = .ok pa) (ts : List Nat) :
    issuePush s l x m va p cls ts = issued x m
      { what := .push p, va := BitVec.ofNat 48 va, pas := [pa], data := none, cls := cls,
        cores := [ts.getD (dealtTo m x.step ts.length) 0], waits := [], mine := true } 1 := by
  unfold issuePush
  rw [hpa]

variable (hs : s.dev.stopped = false) (hl : launchBound s n = some l)
include hs hl

theorem exec_larderSectorIssue {m : LCmd} (hc : c < 15) (hst : (lctxAt (larderAt s n) c).st = .run)
    (hfound : (lctxAt (larderAt s n) c).found = none) (hroom : outstanding (lctxAt (larderAt s n) c) < 64)
    (hm : currentCmd (lctxAt (larderAt s n) c) = some m) (hstep : (lctxAt (larderAt s n) c).step < cmdTotal (lctxAt (larderAt s n) c) m) :
    exec (.larderSectorIssue n c) s = .next (issueSector s n c l (lctxAt (larderAt s n) c) m) := by
  show execLarderSectorIssue n c s = _
  unfold execLarderSectorIssue
  rw [onLctx_active hs hl, if_neg (by simp [hst, hfound]; omega), if_neg (by omega), hm]
  exact congrArg Host.Outcome.next (if_pos hstep)

omit hs hl in
theorem issueSector_stream {x : LCtx} {ts : List Nat} {pa p cls serial dc pstr pb npl pp : Nat}
    (ht : targets l x false = some ts) (hpa : lookup s l (truncZ ((gOf x 4).toNat + stepOffset x false x.step) 48) = .ok pa) :
    issueSector s n c l x (.stream false false p cls serial dc pstr pb npl pp) =
      putLctx s n c (issued x (.stream false false p cls serial dc pstr pb npl pp)
        { what := .push p, va := BitVec.ofNat 48 (truncZ ((gOf x 4).toNat + stepOffset x false x.step) 48), pas := [pa], data := none,
          cls := cls, cores := [ts.getD (dealtTo (.stream false false p cls serial dc pstr pb npl pp) x.step ts.length) 0], waits := [],
          mine := true } 1) := by
  unfold issueSector
  dsimp only
  rw [ht, streamSector_single]
  exact congrArg (putLctx s n c) (issuePush_ok hpa ts)

/-- A sector read goes to its one core as a PUSH of 32 bytes. -/
theorem exec_atticReadResponse {pre post : List LRead} {r : LRead} {p key pa : Nat} (hc : c < 15) (hrun : l.st = .running)
    (hfirst : firstToSend (lctxAt (larderAt s n) c).reads = some (pre, r, post)) (hwhat : r.what = .push p) (hcores : r.cores = [key])
    (hdata : r.data = none) (hpas : r.pas = [pa]) (hsound : poisoned s pa = false) (hroom : larderFree s n r.cls = true) :
    exec (.atticReadResponse n c) s = .next (putLctx (sendMessage s n r.cls 15 key
      [payloadOf [(4, 0), (5, p), (6, srcId n c), (8, 32)], bitsOfBytes 1024 (s.attic.readBytes pa 32)]) n c
      { lctxAt (larderAt s n) c with
        reads := pre ++ { r with data := some (s.attic.readBytes pa 32), cores := [], waits := r.waits ++ [key] } :: post }) := by
  have hbytes : r.data.getD (r.pas.flatMap fun pa => s.attic.readBytes pa 32) = s.attic.readBytes pa 32 := by
    rw [hdata, hpas, List.flatMap_singleton]
    rfl
  have hpayloads : transferPayloads n c (s.attic.readBytes pa 32) p =
      [payloadOf [(4, 0), (5, p), (6, srcId n c), (8, 32)], bitsOfBytes 1024 (s.attic.readBytes pa 32)] := by
    rw [transferPayloads, length_readBytes]
  have hsend : sendTransfer s n c r (s.attic.readBytes pa 32) key = sendMessage s n r.cls 15 key
      [payloadOf [(4, 0), (5, p), (6, srcId n c), (8, 32)], bitsOfBytes 1024 (s.attic.readBytes pa 32)] := by
    unfold sendTransfer
    rw [hwhat, ← hpayloads]
  have hmark : ∀ x : LCtx, tryMark (putLctx (sendMessage s n r.cls 15 key
      [payloadOf [(4, 0), (5, p), (6, srcId n c), (8, 32)], bitsOfBytes 1024 (s.attic.readBytes pa 32)]) n c x) n =
      putLctx (sendMessage s n r.cls 15 key
        [payloadOf [(4, 0), (5, p), (6, srcId n c), (8, 32)], bitsOfBytes 1024 (s.attic.readBytes pa 32)]) n c x := by
    intro x
    have hbound : launchBound (putLctx (sendMessage s n r.cls 15 key
        [payloadOf [(4, 0), (5, p), (6, srcId n c), (8, 32)], bitsOfBytes 1024 (s.attic.readBytes pa 32)]) n c x) n = some l := by
      rw [← hl, launchBound, putLctx_launch, sendMessage_launch]
      rfl
    unfold tryMark
    rw [hbound]
    exact if_neg fun h => by simp [hrun] at h
  show execAtticReadResponse n c s = _
  unfold execAtticReadResponse
  rw [if_neg (by omega), onLctx_active hs hl, hfirst]
  dsimp only
  rw [hcores]
  refine congrArg Host.Outcome.next ((if_neg (by simp [hpas, hsound])).trans ((if_neg (by simp [hroom])).trans ?_))
  rw [hbytes, hsend]
  exact hmark _

/-- A sector of WBACK from SRAM is written. -/
theorem exec_atticWriteAccept {r : LRead} {rs : List LRead} {key pa : Nat} {bs : List Byte} (hc : c < 15)
    (hreads : (lctxAt (larderAt s n) c).reads = r :: rs) (hwhat : r.what = .wback none) (hdata : r.data = some bs) (hpas : r.pas = [pa])
    (hwaits : r.waits = [key]) : exec (.atticWriteAccept n c) s = .next (putLctx (atticWrite s pa bs) n c
      { lctxAt (larderAt s n) c with
        reads := rs
        elem := if r.mine then (lctxAt (larderAt s n) c).elem + 1 else (lctxAt (larderAt s n) c).elem }) := by
  have herase : (r :: rs).erase r = rs := List.erase_cons_head _ _
  show execAtticWriteAccept n c s = _
  unfold execAtticWriteAccept
  rw [if_neg (by omega), onLctx_active hs hl, hreads, List.find?_cons_of_pos (by rw [hwhat]; rfl)]
  dsimp only
  rw [hdata, hpas, hwaits, hwhat, herase]

/-! ## Waits -/

theorem exec_larderWaitResume_cmd {m : LCmd} (hst : (lctxAt (larderAt s n) c).st = .wait)
    (hm : currentCmd (lctxAt (larderAt s n) c) = some m) : exec (.larderWaitResume n c) s =
      .next (if waitMet s l (lctxAt (larderAt s n) c) m then putLctx s n c (endWait (lctxAt (larderAt s n) c) m) else s) := by
  show execLarderWaitResume n c s = _
  unfold execLarderWaitResume
  rw [onLctx_active hs hl, if_neg (by simp [hst]), hm]

theorem exec_larderWaitResume_ring (hst : (lctxAt (larderAt s n) c).st = .wait) (hm : currentCmd (lctxAt (larderAt s n) c) = none)
    (hring : ringEmpty (lctxAt (larderAt s n) c) = false) : exec (.larderWaitResume n c) s =
      .next (putLctx s n c { lctxAt (larderAt s n) c with st := .run }) := by
  show execLarderWaitResume n c s = _
  unfold execLarderWaitResume
  rw [onLctx_active hs hl, if_neg (by simp [hst]), hm]
  exact congrArg Host.Outcome.next (if_neg (by simp [hring]))

/-! ## Faults -/

omit hs hl in
theorem hostWrite_larders (s : State) (p : HostPort) (a : Nat) (bs : List Byte) : (hostWrite s p a bs).larders = s.larders := by
  unfold hostWrite modPort
  split
  · exact setPort_larders ..
  · rfl

omit hs hl in
theorem writeIf_larders (P : Prop) [Decidable P] (s : State) (p : HostPort) (a : Nat) (bs : List Byte) :
    (if P then hostWrite s p a bs else s).larders = s.larders := by
  split
  · exact hostWrite_larders ..
  · rfl

omit hs hl in
theorem raiseEvent_larders (s : State) (k : Nat) : (raiseEvent s k).larders = s.larders := by
  obtain ⟨m0, h0, m1, h1, h⟩ := raiseEvent_eq s k
  rw [h]

omit hs hl in
/-- A notice leaves the larders, and raises LFAULT at both ports. -/
theorem writeNotice_rest (s : State) (n c : Nat) : (writeNotice s n c).larders = s.larders ∧
    (writeNotice s n c).port0.event.getLsbD 3 = true ∧ (writeNotice s n c).port1.event.getLsbD 3 = true := by
  refine ⟨?_, raiseEvent_event _ 3 .p0 (by decide), raiseEvent_event _ 3 .p1 (by decide)⟩
  unfold writeNotice
  dsimp only
  rw [raiseEvent_larders]
  exact (writeIf_larders _ _ _ _ _).trans (writeIf_larders _ _ _ _ _)

/-- The state once a command context has taken its fault. -/
def faultTaken (s : State) (n c : Nat) (l : Launch) (x : LCtx) (k : LKind) (va : BitVec 48) : State :=
  if k = .xlate then writeNotice (putLctx s n c (faultedCtx s l x k va)) n c
  else modLaunch (writeNotice (putLctx s n c (faultedCtx s l x k va)) n c) l.num fun l => { l with dataFault := true }

theorem exec_larderFaultEnter {k : LKind} {va : BitVec 48} (hc : c < 15) (hfound : (lctxAt (larderAt s n) c).found = some (k, va))
    (hreads : (lctxAt (larderAt s n) c).reads = []) :
    exec (.larderFaultEnter n c) s = .next (faultTaken s n c l (lctxAt (larderAt s n) c) k va) := by
  show execLarderFaultEnter n c s = _
  unfold execLarderFaultEnter
  rw [onLctx_active hs hl, hfound]
  exact congrArg Host.Outcome.next ((if_neg (by simp [hreads])).trans (if_pos (by omega)))

omit hs hl in
theorem faultTaken_rest (s : State) (n c : Nat) (l : Launch) (x : LCtx) (k : LKind) (va : BitVec 48) :
    lctxAt (larderAt (faultTaken s n c l x k va) n) c = faultedCtx s l x k va ∧
      (faultTaken s n c l x k va).port0.event.getLsbD 3 = true ∧ (faultTaken s n c l x k va).port1.event.getLsbD 3 = true := by
  obtain ⟨hlarders, h0, h1⟩ := writeNotice_rest (putLctx s n c (faultedCtx s l x k va)) n c
  have hctx : lctxAt (larderAt (writeNotice (putLctx s n c (faultedCtx s l x k va)) n c) n) c = faultedCtx s l x k va :=
    (congrArg (fun m => lctxAt (fget m n ({} : Larder)) c) hlarders).trans (lctxAt_putLctx s n c _)
  unfold faultTaken
  split
  · exact ⟨hctx, h0, h1⟩
  · exact ⟨hctx, h0, h1⟩

omit hs hl in
/-- FVA of a fault that was found at its sector. -/
theorem faultedCtx_fva (s : State) (l : Launch) (x : LCtx) {k : LKind} (va : BitVec 48) (hpoison : k ≠ .poison) (hrange : k ≠ .range) :
    (faultedCtx s l x k va).fva = va := if_neg (by simp [hpoison, hrange])

end

/-! ## The obligation -/

/-- Settles O60. -/
theorem larderTransfers : Obligations.LarderTransfers := by
  refine fun s n c l => ⟨fun x m he hg => ⟨?_, ?_, ?_, ?_⟩, fun hs hl => ⟨?_, ?_, ?_, ?_, ?_, ?_⟩⟩
  · rintro h k p cls serial dc pstr pb npl pp rfl
    exact begins he hg (i := .stream n c) rfl rfl
  · rintro p cls dc count len rfl
    exact begins he hg (i := .gather n c) rfl rfl
  · rintro sram p cls len rfl
    exact begins he hg (i := .wback n c) rfl rfl
  · rintro p cls len rfl
    exact begins he hg (i := .bcast n c) rfl rfl
  · rintro m ts pa hc hst hfound hroom hm hstep p cls serial dc pstr pb npl pp rfl ht va hpa
    exact (exec_larderSectorIssue hs hl hc hst hfound hroom hm hstep).trans (congrArg _ (issueSector_stream ht hpa))
  · exact fun pre post r p key pa hc hrun hfirst hwhat hcores hdata hpas hsound hroom =>
      exec_atticReadResponse hs hl hc hrun hfirst hwhat hcores hdata hpas hsound hroom
  · exact fun r rs key pa bs hc hreads hwhat hdata hpas hwaits => exec_atticWriteAccept hs hl hc hreads hwhat hdata hpas hwaits
  · intro hst m hm
    have hexec := exec_larderWaitResume_cmd hs hl hst hm
    exact ⟨fun hmet => hexec.trans (congrArg _ (if_pos hmet)), fun hmet => hexec.trans (congrArg _ (if_neg (by simp [hmet])))⟩
  · exact fun hst hm hring => exec_larderWaitResume_ring hs hl hst hm hring
  · intro k va hc hfound hreads
    obtain ⟨hctx, h0, h1⟩ := faultTaken_rest s n c l (lctxAt (larderAt s n) c) k va
    refine ⟨_, exec_larderFaultEnter hs hl hc hfound hreads, ?_⟩
    dsimp only
    rw [hctx]
    exact ⟨rfl, rfl, faultedCtx_fva s l _ va, rfl, h0, h1⟩

end Sys2Proof.Proofs
